-- ==== Sys2Proof/Word.lean ====
section
/-! DEFINITION. The word types of the model and their plainest arithmetic (00_scope R10 to R13). -/

namespace Sys2Proof

/-- A byte (R13). -/
abbrev Byte := BitVec 8
/-- A doubleword (R13): the width of an x register. -/
abbrev Word := BitVec 64
/-- An instruction word (R13, R51). -/
abbrev Word32 := BitVec 32
/-- A five-bit register field of an instruction (R52). -/
abbrev Reg := BitVec 5

/-- Number of compute-core positions (R4, R25): position `k` of die `d` has index `18 * d + k`. -/
def numPos : Nat := 144
/-- Number of cores of the model: the positions, then the 16 hub supervisor cores `144 + 8 * h + k`. -/
def numCores : Nat := 160

end Sys2Proof
end

