-- ==== Sys2Proof/Config.lean ====
section
/-! DEFINITION. Constants of the part, and the values the manual leaves open as constants without a body. -/

namespace Sys2Proof.Config

/-- Free 64-bit value number `n` (R18 X values, R145; log entry 4). -/
opaque freeWord : Nat → Word
/-- Free byte number `n` (R9, R186, R198; log entry 4). -/
opaque freeByte : Nat → Byte
/-- Free truth value number `n`: a choice between two outcomes the manual leaves open (R45; log entry 4). -/
opaque freeBool : Nat → Bool
/-- Free count of idle steps of wait number `n` on work outside the step domain (R33, R80; log entry 6). -/
opaque freeSteps : Nat → Nat
/-- Pick `i` of the order of addition of sum number `n`, which is open (R143, R145; log entry 5). -/
opaque freeOrder (n i : Nat) : Nat
/-- The estimate functions of R156: fixed functions of the operand (log entry 5). -/
opaque rcpEstimate : BitVec 32 → BitVec 32
opaque rsqrtEstimate : BitVec 32 → BitVec 32
opaque exp2Estimate : BitVec 32 → BitVec 32
/-- Address of the first element of a Carousel access whose base, length, stride register and index give it none (R85, R166;
log entry 33). -/
opaque carAddress : Word → Word → Word → Word → Word
/-- SHA-512 (named, not described, by R421 R428 R496): 64 bytes (log entry 7). -/
opaque sha512 : List Byte → List Byte
/-- Ed25519 signing with a seed as private key (RFC 8032, R498): 64 bytes (log entry 7). -/
opaque ed25519Sign : List Byte → List Byte → List Byte
/-- Ed25519 verification: public key, message, signature (R496, R497; log entry 7). -/
opaque ed25519Verify : List Byte → List Byte → List Byte → Bool
/-- The Ed25519 public key of a seed (R498; log entry 7). -/
opaque ed25519Public : List Byte → List Byte
/-- Vendor public key 0 or 1 of the boot ROM (R496; log entry 7). -/
opaque vendorKey : Nat → List Byte
/-- The 32-byte seed that helper data reconstruct from a response of the PUF array, by a code-offset construction with a BCH code (R498; log
entry 7). -/
opaque pufSeed : List Byte → List Byte → List Byte
/-- The part number HBX-Z48-A1 (R2). -/
def partNumber : List Byte := [0x48, 0x42, 0x58, 0x2D, 0x5A, 0x34, 0x38, 0x2D, 0x41, 0x31]
/-- Boot ROM image of the hubs (R502 block 1; log entry 7). -/
opaque romImage : List Byte

/-- Word address of the monitor's handler of descriptor `n` (R98, R101; log entry 20). -/
opaque monitorEntry : Nat → BitVec 40

/-- Whether request `a` has got to the home that it shares with request `b` by the time `b` is served there: the way takes a variable
time (R33, R294, R444; log entry 35). -/
opaque arrivedFirst : Nat → Nat → Bool

/-- How a log entry packs the two ends of a link, given as die codes (R514; log entry 21). -/
opaque linkEnds : Nat → Nat → Word
/-- How a log entry names the unit test in row `n` of R461's table (R514; log entry 21). -/
opaque unitTest : Nat → Word

/-- How a CE entry names a word of tile register `t` or of its scale plane, which has no physical address (R177, R514; log entry 36). -/
opaque tilePlace : Nat → Word

/-- DMTF value type of measurement block `i`, and whether it counts in a summary of type 0x01 (R502; log entry 26). -/
opaque measType : Nat → BitVec 7
opaque tcbBlock : Nat → Bool
/-- Version entries an MCTP endpoint reports (R503; log entry 26). -/
opaque mctpVersions : List Byte
/-- Bytes of a telemetry record, from its values in the order R516 names them (it gives no offsets; log entry 25). -/
opaque telemetryBytes : List Nat → List Byte
/-- How a THROTTLE entry names a cause that is no rail: PWRGOOD falling (R514, R525; log entry 25). -/
opaque pwrgoodName : Word
/-- Points of a die router and of a stack base, mV: each holds its own (R36; log entry 22). -/
opaque routerPoint : Nat
opaque stackPoint : Nat
/-- Spare bonds of a bonding field, 4 % of its bonds, whose number is not given (R27, R461; log entry 24). -/
opaque spareBonds : Nat
/-- Offset in the log block at which TPERIOD is written and read, for which the map gives none (R515, R516; log entry 25). -/
opaque tperiodAt : Nat

/-- Array drain distance, steps (R227, FEAT2.DRAIN). -/
def drain : Nat := 134
/-- Bytes the bonding field of a store slice moves per step (R27, R219). -/
def fieldBytes : Nat := 4096
/-- Longest pass, steps (R213, FEAT2.PASS_MAX). -/
def passMax : Nat := 2048
/-- Mode-change shadow, steps (R64, FEAT2.SHADOW). -/
def shadow : Nat := 3
/-- Stream tags per core (R290). -/
def tags : Nat := 1024
/-- Bytes of one placement page (R351). -/
def pageBytes : Nat := 0x10000
/-- Bytes of one core-store slice (R27). -/
def sliceBytes : Nat := 0x4000000

end Sys2Proof.Config
end

