-- ==== Sys2Proof/Syntax.lean ====
section
/-! DEFINITION. The commands of the block: one constructor per row of the table of operations and events. -/

namespace Sys2Proof

/-- Whether each of the two delay slots after a control transfer is a wide form (R51, R65, R69):
the block fetches nothing, so the sender of the command says what follows. -/
structure SlotLens where
  w1 : Bool
  w2 : Bool
deriving DecidableEq, Repr

/-- The words that follow a REP (R87, R88): `w1` is the second word where `w0` begins a wide form, and of no account elsewhere. -/
structure RepNext where
  w0 : Word32
  w1 : Word32
deriving DecidableEq, Repr

/-- What an ERET may resume (R113, R114): the words at EPC + 4, and whether the first delay slot was a wide form. -/
structure RetNext where
  next      : RepNext
  firstWide : Bool
deriving DecidableEq, Repr

/-- What the code of a word that a core reads finds (R69, R74, R169, R177, R450, R451, R531): no error, one symbol (or bit) in error,
which is corrected, or an error it cannot correct. -/
inductive WordErr
  | clean
  | fixed (sym : Nat)
  | bad
deriving DecidableEq, Repr

/-- What the coded units that an access meets at its home hold in error, each named by an address in it; and for a TST the word of its
tile (R177, R446, R451). A unit not named is clean. -/
structure HomeErrs where
  units : List (Nat × WordErr)
  tile  : WordErr
deriving DecidableEq, Repr
/-- No error anywhere. -/
def HomeErrs.none : HomeErrs := ⟨[], .clean⟩
/-- A piece of a stream, by its number, and the errors that it meets (R289, R446). -/
structure PieceOp where
  no   : Nat
  errs : HomeErrs
deriving DecidableEq, Repr
/-- A line of a stack, and the symbols in which a read of it differs from what it stores (R445, R455). -/
structure LineRead where
  line : Nat
  err  : List (Nat × Byte)
deriving DecidableEq, Repr
/-- The scrub burst of a core's slice: what its words hold in error, by their numbers, and how many words are done when a wake event
interrupts it (R454). -/
structure BurstOp where
  core : Nat
  errs : List (Nat × WordErr)
  cut  : Option Nat
deriving DecidableEq, Repr

/-- A call or return besides its fields: its delay slots, and what its word of the return stack holds (R69). -/
structure StackStep where
  lens : SlotLens
  err  : WordErr
deriving DecidableEq, Repr

/-- The core whose pending read finds `err` (R169, R177). -/
structure ReadErr where
  core : Nat
  err  : WordErr
deriving DecidableEq, Repr

/-- The core whose pending local load or, with `merge`, whose store's merging at that word finds `err` (R74, R451). -/
structure LocalErr where
  core  : Nat
  err   : WordErr
  merge : Option Nat
deriving DecidableEq, Repr

/-- The register fields of the Y format (R52, R91). -/
structure CsrRegs where
  rd  : Reg
  rs1 : Reg
deriving DecidableEq, Repr

/-- The register that holds a descriptor's address, and what the reading of the descriptor finds (R267, R284). -/
structure DescReg where
  reg : Reg
  err : WordErr
deriving DecidableEq, Repr

/-- A page of a partition; `ue` is the offset of an uncorrectable error that its copying met (R364). -/
structure PageCopy where
  vpage : Nat
  ue    : Option Nat
deriving DecidableEq, Repr

/-- CSRW, CSRS, CSRC (R91, op 1 to 3). -/
inductive CsrOp | write | set | clear
deriving DecidableEq, Repr

/-- Synchronous causes that no other row raises, delivered by EXCEPTION_ENTRY (R53, R51, R531, R74). -/
inductive SyncEvent
  /-- The word, or pair of words, at the PC has no meaning (R53). -/
  | illegal (w0 : Word32) (w1 : Option Word32)
  /-- The fetch address is not a multiple of 4 (R51, R67). -/
  | fetchMisaligned
  /-- The fetch of the instruction at the PC, a wide form or not, with what the code of its words finds (R531). -/
  | fetch (wide : Bool) (e0 e1 : WordErr)
  /-- A delayed fault that is due (R74, R124). -/
  | delayed
deriving DecidableEq, Repr

/-- Fields of TLD and TST (R191). -/
structure TileXfer where
  tile : BitVec 4
  mfmt : BitVec 4
  tr   : Bool
  cvt  : Bool
  sr   : Bool
  ovf  : Bool
  raw  : Bool
  car  : Bool
  set  : BitVec 3
  rs1  : Reg
  rs2  : Reg
  rs3  : Reg
  cc   : BitVec 4
deriving DecidableEq, Repr

/-- Fields of APASS (R205). -/
structure PassOp where
  dst   : BitVec 4
  sta   : BitVec 4
  mov   : BitVec 4
  feed  : Bool
  accum : Bool
  load  : BitVec 2
  rs1   : Reg
  rs2   : Reg
  rs3   : Reg
  cc    : BitVec 4
  ffmt  : BitVec 4
  frowsm1 : BitVec 7
deriving DecidableEq, Repr

/-- Fields of ADIST (R241). -/
structure DistOp where
  dst   : BitVec 4
  sta   : BitVec 4
  mov   : BitVec 4
  feed  : Bool
  accum : Bool
  load  : BitVec 2
  rs1   : Reg
  rs2   : Reg
  rs3   : Reg
  rs4   : Reg
  cc    : BitVec 4
  op    : BitVec 2
  u     : Bool
  sel   : BitVec 3
deriving DecidableEq, Repr

/-- Fields of TPASS (R260); `err` is what the reading of its descriptor finds. -/
structure TrapOp where
  dx    : BitVec 4
  wt    : BitVec 4
  dy    : BitVec 4
  xt    : BitVec 4
  load  : BitVec 2
  dvt   : BitVec 4
  accum : Bool
  gacc  : Bool
  upd   : Bool
  nh    : Bool
  mask  : Bool
  rs1   : Reg
  cc    : BitVec 4
  err   : WordErr
deriving DecidableEq, Repr

/-- A placement request record (R359). `zeroOk`: the bytes and bits marked zero are zero. -/
structure PlaceRec where
  op      : BitVec 8
  status  : BitVec 8
  life    : BitVec 8
  pattern : BitVec 8
  flags   : BitVec 16
  member  : BitVec 16
  size    : Word
  vaddr   : Word
  aff     : Word
  count   : BitVec 32
  mincount : BitVec 32
  group   : BitVec 32
  part    : BitVec 16
  grant   : BitVec 16
  rights  : BitVec 8
  bars    : BitVec 8
  lwl     : BitVec 32
  gbase   : Word
  zeroOk  : Bool
deriving DecidableEq, Repr

/-- MGMT_SETUP (R377). -/
structure SetupMsg where
  magicOk : Bool
  zeroOk  : Bool
  sqbase  : Word
  cqbase  : Word
  hcb     : Word
  dcb     : Word
  e       : BitVec 32
  c       : BitVec 32
deriving DecidableEq, Repr

/-- What fires a monitor (R380): a store by another agent, carrying the new 64 bytes of the line;
the home takes the copy back; the port goes DOWN; the page migrates. -/
inductive LineEvent
  | written (bytes : List Byte)
  | takenBack
deriving DecidableEq, Repr

/-- A submission record of a task channel as Ringmaster reads it (R387).
`zeroOk`: the bytes and bits marked zero are zero. -/
structure TaskRec where
  lap   : BitVec 16
  op    : BitVec 8
  flags : BitVec 8
  tag   : Word
  entry : Word
  arg   : Word
  deadline : Word
  count : BitVec 32
  mincount : BitVec 32
  aff   : Word
  lwl   : BitVec 32
  bars  : BitVec 8
  out0  : Word
  olen0 : BitVec 32
  out1  : Word
  olen1 : BitVec 32
  zeroOk : Bool
deriving DecidableEq, Repr

/-- The header of a management record (R387, R534): its OP, its LAP, its TAG, and whether every byte
and bit not listed for its operation is zero. A record with an unassigned OP may come as any of the commands. -/
structure MgmtHdr where
  op     : BitVec 8
  lap    : BitVec 16
  tag    : Word
  zeroOk : Bool
deriving DecidableEq, Repr

/-- Parameters of PART_CREATE and PART_CHANGE (R534). -/
structure PartParams where
  cls   : BitVec 8
  part  : BitVec 8
  mask  : BitVec 16
  coresMin : BitVec 32
  coresMax : BitVec 32
  lwlDef : BitVec 32
  qStore : Word
  qSram  : Word
  qDram  : Word
  sentry : Word
  sdesc  : Word
deriving DecidableEq, Repr

/-- Parameters of CHAN_OPEN (R534). -/
structure ChanParams where
  part   : BitVec 8
  sqbase : Word
  cqbase : Word
  hcb    : Word
  dcb    : Word
  e      : BitVec 32
  c      : BitVec 32
  credMin : BitVec 32
  credMax : BitVec 32
deriving DecidableEq, Repr

/-- The links of R22, each by its place in the table. -/
inductive LinkId
  | row (n : Nat)        -- 0..5
  | column (n : Nat)     -- 0..3
  | stack (n : Nat)      -- 0..7
  | bypass (n : Nat)     -- 0..7
  | hub (n : Nat)        -- 0..3: HD0-CD0, HD0-CD4, HD1-CD3, HD1-CD7
  | bridge
  | tightrope (n : Nat)  -- 0..15: die + 8 * hub
deriving DecidableEq, Repr

/-- Triggers of throttling with what they name (R481): die codes are 0-7 CD, 8-9 HD, 16-23 BS. -/
inductive ThrottleWhy
  | power
  | thermal (die : Nat)
  | vrfault (rail : Nat)
deriving DecidableEq, Repr

/-- What is measured when a throttle's trigger or its release is judged (R481, R528): the package's 1 ms average and its highest 10 µs
average in that 1 ms, W; a die's own temperature, °C; a regulator's alert. -/
inductive ThrottleSense
  | power (avg peak : Nat)
  | thermal (die temp : Nat)
  | vrfault (rail : Nat)
deriving DecidableEq, Repr
/-- The throttle that a measurement is about. -/
def ThrottleSense.why : ThrottleSense → ThrottleWhy
  | .power _ _ => .power
  | .thermal d _ => .thermal d
  | .vrfault n => .vrfault n
/-- A die with the temperature that its own sensors read, °C (R528). -/
structure DieTemp where
  die  : Nat
  temp : Nat
deriving DecidableEq, Repr

/-- The supply rails (R522). -/
inductive Rail | vcore (n : Nat) | vstk | vhub | vphy | vio
deriving DecidableEq, Repr

/-- A die by its code (R514): 0-7 CD, 8-9 HD, 16-23 BS. -/
abbrev DieId := Nat

/-- What a voltage move belongs to (R480): a core's own regulator or a die's rail. -/
inductive MoveUnit | core (c : Nat) | rail (n : Nat)
deriving DecidableEq, Repr

/-- Whose write a stack controller serves (R448): counted work, or another agent's bytes from an offset in the line. -/
inductive LineSrc | work (id : Nat) | bytes (off : Nat) (data : List Byte)
deriving DecidableEq, Repr

/-- An MCTP endpoint (R503): a hub's I3C target or a Tsufy port. -/
inductive Endpoint | i3c (hub : Nat) | port (p : Nat)
deriving DecidableEq, Repr

/-- An SPDM request (R501): version, request code, the two parameters and the rest of the message. -/
structure SpdmReq where
  version : Byte
  code    : Byte
  param1  : Byte
  param2  : Byte
  body    : List Byte
  early   : Bool      -- it arrives while its endpoint still serves another (R503)
deriving DecidableEq, Repr

/-- What a hub's SPI NOR device holds (R494, R495): its SFDP space, and the contents of each area from its start; what a list does not
reach is erased. -/
structure Flash where
  sfdp   : List Byte
  board  : List Byte     -- board record
  helper : List Byte     -- PUF helper data
  certs  : List Byte     -- certificate chains of both hubs
  hint0  : List Byte
  hint1  : List Byte
  fwA    : List Byte
  fwB    : List Byte
deriving DecidableEq, Repr
def Flash.erased : Flash := ⟨[], [], [], [], [], [], [], []⟩

/-- What step 1 of the boot flow meets on one hub (R494, R498, R504): what the board has put into the flash while the device was held in
reset or in recovery, or the device it has fitted, none where the flash stands as it was; the start-up states of the PUF array, one for each
time it is switched on; the 64 bits that the root of trust draws. -/
structure BootInput where
  flash  : Option Flash
  puf    : List (List Byte)
  random : Word
deriving DecidableEq, Repr

/-- Elements that a spare can stand in for (R461). -/
inductive RepairKind | peRow | sliceRow | bond | lane | stackRow | dramRow | dramCols | tsv | tsufy
deriving DecidableEq, Repr
/-- One failed element: `unit` is a core, a stack, a port (its receiving direction from 4 on) or a link in the order of R22; `bank` a group of
PE rows, a bank of DRAM or stack SRAM, or a group of 128 TSV lanes; `elem` the row, column group, bond or lane. -/
structure Repair where
  kind : RepairKind
  unit : Nat
  bank : Nat
  elem : Nat
deriving DecidableEq, Repr

/-- The start-up measurement of a domain (R465, R471): the VOFS and XTAPS that it ends with, and the slack of each chain at the floor, the
nominal and the 0.90 V setting with no base tap. -/
structure StartMargin where
  vofs   : Nat
  xtaps  : Nat
  slacks : List (List Int)
deriving DecidableEq, Repr

/-- The result of boot step 2 (R461 to R463, R465, R493). With an accepted hint, `elems` and the failed units are what the full tests of the
units that failed their short patterns found. -/
structure SelfTest where
  failedPos   : List Nat                 -- core positions whose logic fails
  failedDies  : List Nat                 -- die routers that fail
  failedHubs  : List Nat
  failedStacks : List Nat                -- stacks whose base die fails
  failedLinks : List LinkId              -- links that fail beside their lanes
  elems       : List Repair              -- failed elements
  notKept     : List Repair              -- repairs of the hint whose patterns fail
  margins     : List StartMargin         -- of domains 0-161
  bridgeOk    : Bool
  fabricOk    : Bool                     -- HD0 answers through the interposer fabric
deriving DecidableEq, Repr

/-- The end of the first training of the ports (R376, R461): the ports whose far end trains, and the lanes whose test fails: port, transmitting
or not, lane. -/
structure LaneTest where
  trained : BitVec 4
  failed  : List (Nat × Bool × Nat)
deriving DecidableEq, Repr
/-- The end of a port's training: whether its far end trains, and the lanes whose test fails. -/
structure PortTest where
  ok     : Bool
  failed : List (Bool × Nat)
deriving DecidableEq, Repr

/-- The commands of the Edepex Z48: the rows of opcode_table.json (95_what_each_step_holds). -/
inductive Instr
  /-- ADD (R56): Integer add of two registers modulo 2^64, setting AFLAGS.OV on signed overflow -/
  | add (c : Nat) (rd rs1 rs2 : Reg)
  /-- SUB (R56): Integer subtract of two registers modulo 2^64, setting AFLAGS.OV on signed overflow -/
  | sub (c : Nat) (rd rs1 rs2 : Reg)
  /-- AND (R56): Bitwise AND of two registers -/
  | and (c : Nat) (rd rs1 rs2 : Reg)
  /-- OR (R56): Bitwise OR of two registers -/
  | or (c : Nat) (rd rs1 rs2 : Reg)
  /-- XOR (R56): Bitwise XOR of two registers -/
  | xor (c : Nat) (rd rs1 rs2 : Reg)
  /-- SLL (R56): Logical left shift of rs1 by rs2[5:0] -/
  | sll (c : Nat) (rd rs1 rs2 : Reg)
  /-- SRL (R56): Logical right shift of rs1 by rs2[5:0] -/
  | srl (c : Nat) (rd rs1 rs2 : Reg)
  /-- SRA (R56): Arithmetic right shift of rs1 by rs2[5:0] -/
  | sra (c : Nat) (rd rs1 rs2 : Reg)
  /-- SLT (R56): Writes 1 if rs1 is less than rs2 as signed values, else 0 -/
  | slt (c : Nat) (rd rs1 rs2 : Reg)
  /-- SLTU (R56): Writes 1 if rs1 is less than rs2 as unsigned values, else 0 -/
  | sltu (c : Nat) (rd rs1 rs2 : Reg)
  /-- MIN (R56): Signed minimum of two registers -/
  | min (c : Nat) (rd rs1 rs2 : Reg)
  /-- MAX (R56): Signed maximum of two registers -/
  | max (c : Nat) (rd rs1 rs2 : Reg)
  /-- MINU (R56): Unsigned minimum of two registers -/
  | minu (c : Nat) (rd rs1 rs2 : Reg)
  /-- MAXU (R56): Unsigned maximum of two registers -/
  | maxu (c : Nat) (rd rs1 rs2 : Reg)
  /-- MUL (R56): Low 64 bits of the product of two registers, landing at distance 3 -/
  | mul (c : Nat) (rd rs1 rs2 : Reg)
  /-- MULH (R56): High 64 bits of the signed 128-bit product -/
  | mulh (c : Nat) (rd rs1 rs2 : Reg)
  /-- MULHU (R56): High 64 bits of the unsigned 128-bit product -/
  | mulhu (c : Nat) (rd rs1 rs2 : Reg)
  /-- DIV (R57): Signed quotient rounded toward zero, with the fixed results and flags of R57 for zero and overflow cases -/
  | div (c : Nat) (rd rs1 rs2 : Reg)
  /-- DIVU (R57): Unsigned quotient, returning all ones and setting DZ on division by zero -/
  | divu (c : Nat) (rd rs1 rs2 : Reg)
  /-- REM (R57): Signed remainder with the sign of the dividend, with the fixed results of R57 -/
  | rem (c : Nat) (rd rs1 rs2 : Reg)
  /-- REMU (R57): Unsigned remainder, returning the dividend and setting DZ on division by zero -/
  | remu (c : Nat) (rd rs1 rs2 : Reg)
  /-- ADDI (R56): Adds a sign-extended 16-bit immediate to a register -/
  | addi (c : Nat) (rd rs1 : Reg) (imm : BitVec 16)
  /-- ANDI (R56): ANDs a zero-extended immediate into a register -/
  | andi (c : Nat) (rd rs1 : Reg) (imm : BitVec 16)
  /-- ORI (R56): ORs a zero-extended immediate into a register -/
  | ori (c : Nat) (rd rs1 : Reg) (imm : BitVec 16)
  /-- XORI (R56): XORs a zero-extended immediate into a register -/
  | xori (c : Nat) (rd rs1 : Reg) (imm : BitVec 16)
  /-- SLTI (R56): Signed compare of a register against a sign-extended immediate -/
  | slti (c : Nat) (rd rs1 : Reg) (imm : BitVec 16)
  /-- SHI (R56): Shifts a register by an immediate amount, with the kind selected by imm16[7:6] -/
  | shi (c : Nat) (rd rs1 : Reg) (imm : BitVec 16)
  /-- LUI (R56): Sets rd to the sign-extended immediate shifted left by 16 -/
  | lui (c : Nat) (rd rs1 : Reg) (imm : BitVec 16)
  /-- ORI_16 (R56): ORs a zero-extended immediate shifted left by 16 into a register -/
  | ori16 (c : Nat) (rd rs1 : Reg) (imm : BitVec 16)
  /-- ORI_32 (R56): ORs a zero-extended immediate shifted left by 32 into a register -/
  | ori32 (c : Nat) (rd rs1 : Reg) (imm : BitVec 16)
  /-- ORI_48 (R56): ORs a zero-extended immediate shifted left by 48 into a register -/
  | ori48 (c : Nat) (rd rs1 : Reg) (imm : BitVec 16)
  /-- LB (R71): Sign-extending byte load from the local window, landing at distance 6 -/
  | lb (c : Nat) (rd rs1 : Reg) (imm : BitVec 16)
  /-- LBU (R71): Zero-extending byte load from the local window -/
  | lbu (c : Nat) (rd rs1 : Reg) (imm : BitVec 16)
  /-- LH (R71): Sign-extending halfword load from the local window -/
  | lh (c : Nat) (rd rs1 : Reg) (imm : BitVec 16)
  /-- LHU (R71): Zero-extending halfword load from the local window -/
  | lhu (c : Nat) (rd rs1 : Reg) (imm : BitVec 16)
  /-- LW (R71): Sign-extending word load from the local window -/
  | lw (c : Nat) (rd rs1 : Reg) (imm : BitVec 16)
  /-- LWU (R71): Zero-extending word load from the local window -/
  | lwu (c : Nat) (rd rs1 : Reg) (imm : BitVec 16)
  /-- LD (R71): Doubleword load from the local window -/
  | ld (c : Nat) (rd rs1 : Reg) (imm : BitVec 16)
  /-- LDF (R71): Doubleword load from the local window into an f register -/
  | ldf (c : Nat) (rd rs1 : Reg) (imm : BitVec 16)
  /-- LWF (R71): Word load from the local window into an f register -/
  | lwf (c : Nat) (rd rs1 : Reg) (imm : BitVec 16)
  /-- SB (R72): Byte store into the local window -/
  | sb (c : Nat) (rs2 rs1 : Reg) (imm : BitVec 16)
  /-- SH (R72): Halfword store into the local window -/
  | sh (c : Nat) (rs2 rs1 : Reg) (imm : BitVec 16)
  /-- SW (R72): Word store into the local window -/
  | sw (c : Nat) (rs2 rs1 : Reg) (imm : BitVec 16)
  /-- SD (R72): Doubleword store into the local window -/
  | sd (c : Nat) (rs2 rs1 : Reg) (imm : BitVec 16)
  /-- STF (R72): Doubleword store from an f register into the local window -/
  | stf (c : Nat) (rs2 rs1 : Reg) (imm : BitVec 16)
  /-- SWF (R72): Word store from an f register into the local window -/
  | swf (c : Nat) (rs2 rs1 : Reg) (imm : BitVec 16)
  /-- LD_C (R85): Carousel load through a modulo or bit-reversed set, advancing the index register -/
  | ldC (c : Nat) (rd xi : Reg) (set : BitVec 3) (size : BitVec 3) (sx : Bool)
  /-- ST_C (R85): Carousel store through a modulo or bit-reversed set, advancing the index register -/
  | stC (c : Nat) (rs2 xi : Reg) (set : BitVec 3) (size : BitVec 3) (sx : Bool)
  /-- BEQ (R65): Branches when two registers are equal, with two delay slots -/
  | beq (c : Nat) (rs1 rs2 : Reg) (off : BitVec 16) (sl : SlotLens)
  /-- BNE (R65): Branches when two registers differ, with two delay slots -/
  | bne (c : Nat) (rs1 rs2 : Reg) (off : BitVec 16) (sl : SlotLens)
  /-- BLT (R65): Branches on a signed less-than, with two delay slots -/
  | blt (c : Nat) (rs1 rs2 : Reg) (off : BitVec 16) (sl : SlotLens)
  /-- BGE (R65): Branches on a signed greater-or-equal, with two delay slots -/
  | bge (c : Nat) (rs1 rs2 : Reg) (off : BitVec 16) (sl : SlotLens)
  /-- BLTU (R65): Branches on an unsigned less-than, with two delay slots -/
  | bltu (c : Nat) (rs1 rs2 : Reg) (off : BitVec 16) (sl : SlotLens)
  /-- BGEU (R65): Branches on an unsigned greater-or-equal, with two delay slots -/
  | bgeu (c : Nat) (rs1 rs2 : Reg) (off : BitVec 16) (sl : SlotLens)
  /-- J (R65): Jumps PC-relative by a 26-bit word offset, with two delay slots -/
  | j (c : Nat) (off : BitVec 26) (sl : SlotLens)
  /-- JR (R65): Jumps to the address in rs1, with two delay slots -/
  | jr (c : Nat) (rs1 : Reg) (sl : SlotLens)
  /-- CALL (R69): Pushes the return address on the level's return stack and jumps PC-relative -/
  | call (c : Nat) (off : BitVec 26) (sl : StackStep)
  /-- CALLR (R69): Pushes the return address on the return stack and jumps to x[rs1] -/
  | callr (c : Nat) (rs1 : Reg) (sl : StackStep)
  /-- RET (R69): Pops the return stack and jumps to the popped address -/
  | ret (c : Nat) (sl : StackStep)
  /-- FADD (R59): FP32 add, rounded to nearest even -/
  | fadd (c : Nat) (rd rs1 rs2 : Reg)
  /-- FSUB (R59): FP32 subtract, rounded to nearest even -/
  | fsub (c : Nat) (rd rs1 rs2 : Reg)
  /-- FMUL (R59): FP32 multiply, rounded to nearest even -/
  | fmul (c : Nat) (rd rs1 rs2 : Reg)
  /-- FDIV (R59): FP32 divide, rounded to nearest even -/
  | fdiv (c : Nat) (rd rs1 rs2 : Reg)
  /-- FSQRT (R59): FP32 square root -/
  | fsqrt (c : Nat) (rd rs1 : Reg)
  /-- FMIN (R59): FP32 minimum, following the NaN rules of R139 -/
  | fmin (c : Nat) (rd rs1 rs2 : Reg)
  /-- FMAX (R59): FP32 maximum, following the NaN rules of R139 -/
  | fmax (c : Nat) (rd rs1 rs2 : Reg)
  /-- FABS (R59): Clears the sign bit and copies every other bit, setting no flag -/
  | fabs (c : Nat) (rd rs1 : Reg)
  /-- FNEG (R59): Inverts the sign bit and copies every other bit, setting no flag -/
  | fneg (c : Nat) (rd rs1 : Reg)
  /-- FEQ (R59): Writes 1 to x[rd] if two FP32 values compare equal -/
  | feq (c : Nat) (rd rs1 rs2 : Reg)
  /-- FLT (R59): Writes 1 to x[rd] if the first FP32 value is less than the second -/
  | flt (c : Nat) (rd rs1 rs2 : Reg)
  /-- FLE (R59): Writes 1 to x[rd] if the first FP32 value is less than or equal to the second -/
  | fle (c : Nat) (rd rs1 rs2 : Reg)
  /-- FCVT_S_L (R59): Converts a signed 64-bit integer to FP32 -/
  | fcvtSL (c : Nat) (rd rs1 : Reg)
  /-- FCVT_L_S (R59): Converts FP32 to a saturated signed 64-bit integer -/
  | fcvtLS (c : Nat) (rd rs1 : Reg)
  /-- FMV_X_F (R59): Copies the raw 64 bits of an f register to an x register -/
  | fmvXF (c : Nat) (rd rs1 : Reg)
  /-- FMV_F_X (R59): Copies the raw 64 bits of an x register to an f register -/
  | fmvFX (c : Nat) (rd rs1 : Reg)
  /-- FMA (R59): Fused multiply-add fs1*fs2+fs3 with a single rounding -/
  | fma (c : Nat) (fd fs1 fs2 fs3 : Reg)
  /-- FMS (R59): Fused multiply-subtract fs1*fs2-fs3 with a single rounding -/
  | fms (c : Nat) (fd fs1 fs2 fs3 : Reg)
  /-- FNMA (R59): Fused -(fs1*fs2)+fs3 with a single rounding -/
  | fnma (c : Nat) (fd fs1 fs2 fs3 : Reg)
  /-- FNMS (R59): Fused -(fs1*fs2)-fs3 with a single rounding -/
  | fnms (c : Nat) (fd fs1 fs2 fs3 : Reg)
  /-- FLD (R75): Far load from any partition address, counted on a completion counter -/
  | fld (c : Nat) (rd rs1 : Reg) (cc : BitVec 4) (size : BitVec 3) (fp sx : Bool)
  /-- FST (R75): Far store to any partition address, counted on a completion counter -/
  | fst (c : Nat) (rs2 rs1 : Reg) (cc : BitVec 4) (size : BitVec 3) (fp sx : Bool)
  /-- RESULT_LANDS (R60): A fixed-latency result becomes visible at its stated distance after issue -/
  | resultLands (c : Nat)
  /-- LOCAL_LOAD_UE (R74): An uncorrectable local load raises a delayed BUS_ERROR at the first issue at or after s+6 -/
  | localLoadUe (e : LocalErr)
  /-- FAR_ACCESS_COMPLETE (R82): Counted far work completes or fails in flight and lowers its counter, recording any failure in CCERR -/
  | farAccessComplete (id : Nat) (err : HomeErrs)
  /-- WAITC (R80): Waits until a completion counter's outstanding count is at most n, with a timeout -/
  | waitc (c : Nat) (rd rs1 : Reg) (cc : BitVec 4) (l test : Bool) (n : BitVec 10)
  /-- WAIT_TIMEOUT (R336): A wait's timeout expires against the time base, raising WAIT_TIMEOUT and logging the object and peer -/
  | waitTimeout (c : Nat)
  /-- REP (R87): Issues the next instruction a given number of times, one per step -/
  | rep (c : Nat) (rs : Reg) (imm : BitVec 16) (nx : RepNext)
  /-- REP_U (R90): Repeats the next instruction with asynchronous interrupts held until the last repetition -/
  | repU (c : Nat) (rs : Reg) (imm : BitVec 16) (nx : RepNext)
  /-- CSR_WRITE (R91): A CSRW, CSRS or CSRC to a system register without behaviour of its own, effective after the shadow of 3 steps -/
  | csrWrite (c : Nat) (op : BitVec 4) (num : BitVec 12) (rs : CsrRegs)
  /-- DTW_STORE (R101): A write of DTW.WR stores DTD0-DTD3 into descriptor DTIDX, or is refused at S -/
  | dtwStore (c : Nat) (op : CsrOp) (rs1 : Reg)
  /-- DTW_LOAD (R101): A write of DTW.RD loads descriptor DTIDX into DTD0-DTD3 -/
  | dtwLoad (c : Nat) (op : CsrOp) (rs1 : Reg)
  /-- STATUS_BANK_DISCARD (R108): An M write of 1 to another bank's busy bit frees that bank and discards its entry -/
  | statusBankDiscard (c : Nat) (op : CsrOp) (rs1 : Reg)
  /-- MCTL_WRITE (R123): Writes MCTL, with clearing MAINT also clearing TRAPDZ and TRAPOV -/
  | mctlWrite (c : Nat) (op : CsrOp) (rs1 : Reg)
  /-- EXCEPTION_ENTRY (R103): A synchronous cause is delivered: pending writes land, a shadow bank is taken and the handler issues at t+8 -/
  | exceptionEntry (c : Nat) (ev : SyncEvent)
  /-- ASYNC_INTERRUPT_TAKEN (R111): The lowest pending enabled asynchronous cause is taken before the next instruction issues -/
  | asyncInterruptTaken (c : Nat)
  /-- GATE (R119): Checks a gate descriptor and its arguments and enters the gate's handler with the arguments copied -/
  | gate (c : Nat) (n : BitVec 8)
  /-- ERET (R120): Returns from the current bank's entry within its return ceiling, resuming delay slots or repeats -/
  | eret (c : Nat) (nx : RetNext)
  /-- VADD (R154): Lane-wise integer add modulo 2^w -/
  | vadd (c : Nat) (vd vs1 vs2 : Reg) (ty : BitVec 4)
  /-- VSUB (R154): Lane-wise integer subtract modulo 2^w -/
  | vsub (c : Nat) (vd vs1 vs2 : Reg) (ty : BitVec 4)
  /-- VMUL (R154): Lane-wise low product of integer lanes -/
  | vmul (c : Nat) (vd vs1 vs2 : Reg) (ty : BitVec 4)
  /-- VMULH (R154): Lane-wise high signed product -/
  | vmulh (c : Nat) (vd vs1 vs2 : Reg) (ty : BitVec 4)
  /-- VMULHU (R154): Lane-wise high unsigned product -/
  | vmulhu (c : Nat) (vd vs1 vs2 : Reg) (ty : BitVec 4)
  /-- VMIN (R154): Lane-wise signed minimum -/
  | vmin (c : Nat) (vd vs1 vs2 : Reg) (ty : BitVec 4)
  /-- VMAX (R154): Lane-wise signed maximum -/
  | vmax (c : Nat) (vd vs1 vs2 : Reg) (ty : BitVec 4)
  /-- VMINU (R154): Lane-wise unsigned minimum -/
  | vminu (c : Nat) (vd vs1 vs2 : Reg) (ty : BitVec 4)
  /-- VMAXU (R154): Lane-wise unsigned maximum -/
  | vmaxu (c : Nat) (vd vs1 vs2 : Reg) (ty : BitVec 4)
  /-- VAND (R154): Lane-wise bitwise AND -/
  | vand (c : Nat) (vd vs1 vs2 : Reg) (ty : BitVec 4)
  /-- VOR (R154): Lane-wise bitwise OR -/
  | vor (c : Nat) (vd vs1 vs2 : Reg) (ty : BitVec 4)
  /-- VXOR (R154): Lane-wise bitwise XOR -/
  | vxor (c : Nat) (vd vs1 vs2 : Reg) (ty : BitVec 4)
  /-- VANDN (R154): Lane-wise vs1 AND NOT vs2 -/
  | vandn (c : Nat) (vd vs1 vs2 : Reg) (ty : BitVec 4)
  /-- VSLL (R154): Lane-wise logical left shift -/
  | vsll (c : Nat) (vd vs1 vs2 : Reg) (ty : BitVec 4)
  /-- VSRL (R154): Lane-wise logical right shift -/
  | vsrl (c : Nat) (vd vs1 vs2 : Reg) (ty : BitVec 4)
  /-- VSRA (R154): Lane-wise arithmetic right shift -/
  | vsra (c : Nat) (vd vs1 vs2 : Reg) (ty : BitVec 4)
  /-- VSEQ (R154): Lane-wise equality compare giving all ones or zero -/
  | vseq (c : Nat) (vd vs1 vs2 : Reg) (ty : BitVec 4)
  /-- VSLT (R154): Lane-wise signed less-than compare -/
  | vslt (c : Nat) (vd vs1 vs2 : Reg) (ty : BitVec 4)
  /-- VSLTU (R154): Lane-wise unsigned less-than compare -/
  | vsltu (c : Nat) (vd vs1 vs2 : Reg) (ty : BitVec 4)
  /-- VMAC (R154): Lane-wise integer multiply-accumulate into vd -/
  | vmac (c : Nat) (vd vs1 vs2 : Reg) (ty : BitVec 4)
  /-- VFADD (R154): Lane-wise floating-point add -/
  | vfadd (c : Nat) (vd vs1 vs2 : Reg) (ty : BitVec 4)
  /-- VFSUB (R154): Lane-wise floating-point subtract -/
  | vfsub (c : Nat) (vd vs1 vs2 : Reg) (ty : BitVec 4)
  /-- VFMUL (R154): Lane-wise floating-point multiply -/
  | vfmul (c : Nat) (vd vs1 vs2 : Reg) (ty : BitVec 4)
  /-- VFMA (R154): Lane-wise fused multiply-add into vd -/
  | vfma (c : Nat) (vd vs1 vs2 : Reg) (ty : BitVec 4)
  /-- VFNMA (R154): Lane-wise fused negated multiply-add into vd -/
  | vfnma (c : Nat) (vd vs1 vs2 : Reg) (ty : BitVec 4)
  /-- VFMIN (R154): Lane-wise floating-point minimum -/
  | vfmin (c : Nat) (vd vs1 vs2 : Reg) (ty : BitVec 4)
  /-- VFMAX (R154): Lane-wise floating-point maximum -/
  | vfmax (c : Nat) (vd vs1 vs2 : Reg) (ty : BitVec 4)
  /-- VFABS (R154): Lane-wise sign clear with bits copied -/
  | vfabs (c : Nat) (vd vs1 vs2 : Reg) (ty : BitVec 4)
  /-- VFNEG (R154): Lane-wise sign inversion with bits copied -/
  | vfneg (c : Nat) (vd vs1 vs2 : Reg) (ty : BitVec 4)
  /-- VFEQ (R154): Lane-wise floating-point equality compare -/
  | vfeq (c : Nat) (vd vs1 vs2 : Reg) (ty : BitVec 4)
  /-- VFLT (R154): Lane-wise floating-point less-than compare -/
  | vflt (c : Nat) (vd vs1 vs2 : Reg) (ty : BitVec 4)
  /-- VFLE (R154): Lane-wise floating-point less-or-equal compare -/
  | vfle (c : Nat) (vd vs1 vs2 : Reg) (ty : BitVec 4)
  /-- VFRCPE (R156): Lane-wise reciprocal estimate -/
  | vfrcpe (c : Nat) (vd vs1 vs2 : Reg) (ty : BitVec 4)
  /-- VFRSQE (R156): Lane-wise reciprocal square-root estimate -/
  | vfrsqe (c : Nat) (vd vs1 vs2 : Reg) (ty : BitVec 4)
  /-- VFEXP2E (R156): Lane-wise power-of-two estimate -/
  | vfexp2e (c : Nat) (vd vs1 vs2 : Reg) (ty : BitVec 4)
  /-- VWMUL (R157): Widening signed or floating-point multiply of one half of the sources -/
  | vwmul (c : Nat) (vd vs1 vs2 : Reg) (ty : BitVec 4) (h : Bool)
  /-- VWMULU (R157): Widening unsigned multiply of one half of the sources -/
  | vwmulu (c : Nat) (vd vs1 vs2 : Reg) (ty : BitVec 4) (h : Bool)
  /-- VWMAC (R157): Widening signed or floating-point multiply-accumulate -/
  | vwmac (c : Nat) (vd vs1 vs2 : Reg) (ty : BitVec 4) (h : Bool)
  /-- VWMACU (R157): Widening unsigned multiply-accumulate -/
  | vwmacu (c : Nat) (vd vs1 vs2 : Reg) (ty : BitVec 4) (h : Bool)
  /-- VDOT4 (R158): INT8 dot-4 into INT32 lanes -/
  | vdot4 (c : Nat) (vd vs1 vs2 : Reg) (ty : BitVec 4) (h : Bool)
  /-- VDOT8 (R158): INT4 dot-8 into INT32 lanes -/
  | vdot8 (c : Nat) (vd vs1 vs2 : Reg) (ty : BitVec 4) (h : Bool)
  /-- VDOT2 (R158): FP8 dot-2 into FP32 lanes with one rounding -/
  | vdot2 (c : Nat) (vd vs1 vs2 : Reg) (ty : BitVec 4) (h : Bool)
  /-- VCVT (R159): Converts vector lanes between permitted formats, widening or narrowing one part -/
  | vcvt (c : Nat) (vd vs1 : Reg) (tgt : BitVec 4) (ovf : Bool) (ty : BitVec 4) (h : Bool) (part : BitVec 3)
  /-- VPK4 (R160): Packs 128 FP32 lanes into four E2M1 blocks with scales -/
  | vpk4 (c : Nat) (vd vs1 vs2 : Reg) (ty : BitVec 4) (h : Bool)
  /-- VUNPK4 (R160): Unpacks four E2M1 blocks into 128 FP32 lanes -/
  | vunpk4 (c : Nat) (vd vs1 vs2 : Reg) (ty : BitVec 4) (h : Bool)
  /-- VSLIDE_D (R161): Slides lanes down by k with zero fill -/
  | vslideD (c : Nat) (vd vs1 vs2 : Reg) (ty : BitVec 4) (h : Bool)
  /-- VSLIDE_U (R161): Slides lanes up by k with zero fill -/
  | vslideU (c : Nat) (vd vs1 vs2 : Reg) (ty : BitVec 4) (h : Bool)
  /-- VPERM (R161): Permutes lanes by the indices in vs2 -/
  | vperm (c : Nat) (vd vs1 vs2 : Reg) (ty : BitVec 4) (h : Bool)
  /-- VANY (R162): Writes 1 if any lane is nonzero -/
  | vany (c : Nat) (vd vs1 vs2 : Reg) (ty : BitVec 4) (h : Bool)
  /-- VALL (R162): Writes 1 if every lane is nonzero -/
  | vall (c : Nat) (vd vs1 vs2 : Reg) (ty : BitVec 4) (h : Bool)
  /-- VMAXS (R163): Reduces the lanes to their maximum in a fixed tree -/
  | vmaxs (c : Nat) (vd vs1 vs2 : Reg) (ty : BitVec 4) (h : Bool)
  /-- VMAXI (R163): Returns the lowest lane index equal to the lane maximum -/
  | vmaxi (c : Nat) (vd vs1 vs2 : Reg) (ty : BitVec 4) (h : Bool)
  /-- VSUMS (R163): Reduces the lanes to their sum in a fixed tree -/
  | vsums (c : Nat) (vd vs1 vs2 : Reg) (ty : BitVec 4) (h : Bool)
  /-- VLD (R164): Unit-stride local vector load -/
  | vld (c : Nat) (v rs1 f2 : Reg) (set : BitVec 3) (ew : BitVec 2)
  /-- VLDS (R164): Strided local vector load, broadcasting with stride 0 -/
  | vlds (c : Nat) (v rs1 f2 : Reg) (set : BitVec 3) (ew : BitVec 2)
  /-- VLD_C (R164): Carousel local vector load -/
  | vldC (c : Nat) (v rs1 f2 : Reg) (set : BitVec 3) (ew : BitVec 2)
  /-- VGATHER (R164): Indexed local vector load -/
  | vgather (c : Nat) (v rs1 f2 : Reg) (set : BitVec 3) (ew : BitVec 2)
  /-- VST (R167): Unit-stride local vector store -/
  | vst (c : Nat) (v rs1 f2 : Reg) (set : BitVec 3) (ew : BitVec 2)
  /-- VSTS (R167): Strided local vector store -/
  | vsts (c : Nat) (v rs1 f2 : Reg) (set : BitVec 3) (ew : BitVec 2)
  /-- VST_C (R167): Carousel local vector store -/
  | vstC (c : Nat) (v rs1 f2 : Reg) (set : BitVec 3) (ew : BitVec 2)
  /-- VSCATTER (R167): Indexed local vector store -/
  | vscatter (c : Nat) (v rs1 f2 : Reg) (set : BitVec 3) (ew : BitVec 2)
  /-- LOCAL_VLOAD_UE (R169): An uncorrectable local vector load raises a delayed BUS_ERROR at the first issue at or after s+10 -/
  | localVloadUe (e : ReadErr)
  /-- VFLD (R170): Counted far vector load from the partition space -/
  | vfld (c : Nat) (v rs1 rs2 : Reg) (cc : BitVec 4) (ew : BitVec 2) (mode : Bool)
  /-- VFST (R170): Counted far vector store to the partition space -/
  | vfst (c : Nat) (v rs1 rs2 : Reg) (cc : BitVec 4) (ew : BitVec 2) (mode : Bool)
  /-- TCFG (R180): Sets a tile register's shape, or faults with TCFG_HAZARD if the tile is in flight -/
  | tcfg (c : Nat) (t : BitVec 4) (fmt : BitVec 4) (colsm1 : BitVec 11) (rowsm1 : BitVec 7)
  /-- TMOV (R188): Copies or converts one tile into another on the file channel -/
  | tmov (c : Nat) (dst src : BitVec 4) (cvt ovf : Bool) (cc : BitVec 4)
  /-- TZERO (R188): Writes zero into every configured element of a tile -/
  | tzero (c : Nat) (dst : BitVec 4) (cc : BitVec 4)
  /-- TGET (R189): Reads two row slots of a vt buffer into a v register -/
  | tget (c : Nat) (v : Reg) (t : BitVec 4) (rs : Reg) (imm : BitVec 6)
  /-- TPUT (R189): Writes a v register into two row slots of a vt buffer -/
  | tput (c : Nat) (v : Reg) (t : BitVec 4) (rs : Reg) (imm : BitVec 6)
  /-- TGET_UE (R177): An uncorrectable error found by TGET raises a delayed BUS_ERROR as for a local vector load -/
  | tgetUe (e : ReadErr)
  /-- TLD (R194): Tile load from memory, with optional transpose, conversion, Carousel or raw form -/
  | tld (c : Nat) (x : TileXfer)
  /-- TST (R194): Tile store to memory, with optional transpose, conversion, stochastic rounding or raw form -/
  | tst (c : Nat) (x : TileXfer)
  /-- TILE_MOVER_COMPLETE (R184): A tile mover transfer, TMOV or TZERO finishes its rows and lowers its counter -/
  | tileMoverComplete (id : Nat) (err : WordErr)
  /-- APASS (R207): Issues a ganged or tent array pass, captured at issue and counted -/
  | apass (c : Nat) (x : PassOp)
  /-- PASS_START (R212): An issued array pass starts its stationary load or stream at its start step -/
  | passStart (c : Nat)
  /-- PASS_COMMIT (R212): A pass's accumulator banks switch at its commit step and its counter falls -/
  | passCommit (c : Nat)
  /-- PARITY_MISMATCH (R222): An array parity mismatch restarts the pass and those behind it, or fails them -/
  | parityMismatch (c : Nat) (idx : Nat) (row : BitVec 7)
  /-- PASS_ABANDON (R221): An operand error abandons a pass, leaving committed banks unchanged and failing passes behind it -/
  | passAbandon (c : Nat) (idx : Nat) (addr : Word)
  /-- AQUIET (R224): Waits for the array to hold no pass, with a timeout -/
  | aquiet (c : Nat) (rs1 : Reg)
  /-- AELEM (R239): Element-wise add, multiply, max or min of tiles on the array -/
  | aelem (c : Nat) (dst srca srcb : BitVec 4) (op : BitVec 2) (brow : Bool) (cc : BitVec 4)
  /-- ADIST (R247): Distance pass on INT8 or binary codes with optional row or top-8 selection -/
  | adist (c : Nat) (x : DistOp)
  /-- TPASS (R255): Trapeze pass forming dX and dW in one stream, with optional fused update -/
  | tpass (c : Nat) (x : TrapOp)
  /-- SLICE_EMISSION (R258): The committed staging bank is emitted into vt buffers as FP32 slices from step c' -/
  | sliceEmission (c : Nat) (parity : Bool)
  /-- UPDT (R272): Applies the built-in update to slices already in vt buffers -/
  | updt (c : Nat) (vt : BitVec 4) (ns nh mask : Bool) (d : DescReg) (cc : BitVec 4)
  /-- UPDATE_ITEM_END (R269): The update path finishes an item's rows and the item's counter falls -/
  | updateItemEnd (c : Nat) (ue : Option (Nat × Nat × Nat))
  /-- SOPEN (R284): Opens a stream from a descriptor into a slot -/
  | sopen (c : Nat) (slot : BitVec 4) (d : DescReg) (cc : BitVec 4)
  /-- SJOIN (R298): Prepares a slot as a multicast receiver -/
  | sjoin (c : Nat) (slot : BitVec 4) (cc : BitVec 4)
  /-- SACQ (R285): Acquires the next segment of a stream slot, waiting if none is available -/
  | sacq (c : Nat) (slot : BitVec 4) (rd rs1 : Reg) (l : Bool)
  /-- SREL (R286): Releases the oldest held segment of a slot -/
  | srel (c : Nat) (slot : BitVec 4)
  /-- STREAM_CANCEL (R304): Cancels a stream, draining and discarding what is in flight -/
  | streamCancel (c : Nat) (slot : BitVec 4)
  /-- MCAST_DROP (R302): Removes a member from a multicast sender's live receivers -/
  | mcastDrop (c : Nat) (slot : BitVec 4) (rs : Reg)
  /-- STREAM_REQUEST (R290): Juggler issues up to two piece requests per step in deadline order as tags and ring space allow -/
  | streamRequest (c : Nat)
  /-- PIECE_RESPONSE (R289): A piece's data or acknowledgement returns and its tag goes back to the pool -/
  | pieceResponse (c : Nat) (slot : BitVec 4) (piece : PieceOp)
  /-- PIECE_FAIL (R308): A piece or index entry fails in flight and the stream ends in failure -/
  | pieceFail (c : Nat) (slot : BitVec 4) (piece : Nat)
  /-- STREAM_END (R307): A stream's last condition is met, its counter falls and its slot is freed -/
  | streamEnd (c : Nat) (slot : BitVec 4)
  /-- MULTICAST_BIND (R298): A sender's receiver entry binds to a joined slot, or drops it with BIND_FAIL -/
  | multicastBind (c : Nat) (slot : BitVec 4) (j : BitVec 3)
  /-- SEM_ADD (R320): Atomically adds to a semaphore doubleword at its home, counted -/
  | semAdd (c : Nat) (rd rs1 rs2 : Reg) (f : BitVec 5)
  /-- SEM_ADD_REL (R320): Semaphore add that reaches the home only after its release takes effect -/
  | semAddRel (c : Nat) (rd rs1 rs2 : Reg) (f : BitVec 5)
  /-- SEM_TAKE (R321): Waits in FIFO order at the home until the semaphore holds n, then subtracts -/
  | semTake (c : Nat) (rd rs1 rs2 : Reg) (f : BitVec 5) (l test : Bool)
  /-- SEM_OP_AT_HOME (R319): A semaphore operation reaches its home and is applied atomically -/
  | semOpAtHome (id : Nat) (err : HomeErrs)
  /-- SIG (R324): Sends a plain signal with a 48-bit payload to a group member -/
  | sig (c : Nat) (rs1 rs2 : Reg) (f : BitVec 5)
  /-- SIG_REL (R325): Sends a signal after its release takes effect -/
  | sigRel (c : Nat) (rs1 rs2 : Reg) (f : BitVec 5)
  /-- SIGNAL_QUEUED (R327): A signal reaches its target's queue and sets IPEND bit 2 -/
  | signalQueued (id : Nat)
  /-- SIGW (R328): Waits for and dequeues the oldest signal -/
  | sigw (c : Nat) (rd rs2 : Reg) (l test : Bool)
  /-- RELEASE_TAKES_EFFECT (R315): A release takes effect once every covered write has completed -/
  | releaseTakesEffect (id : Nat)
  /-- BAR_ARR (R331): Arrives at a Tightrope channel as a release -/
  | barArr (c : Nat) (ch : BitVec 5)
  /-- BAR_WAIT (R333): Waits for the core's arrival at a channel to complete -/
  | barWait (c : Nat) (rd rs2 : Reg) (ch : BitVec 5) (l test : Bool)
  /-- BAR (R333): Arrives at a channel and waits for its completion -/
  | bar (c : Nat) (rd rs2 : Reg) (ch : BitVec 5) (l : Bool)
  /-- BARRIER_COMPLETE (R332): A channel completes when every member has arrived, advancing the generation and returning waiters -/
  | barrierComplete (ch : BitVec 5)
  /-- BARMASK_WRITE (R334): An M write changes channel membership, withdrawing arrivals and ending waits of removed members -/
  | barmaskWrite (c : Nat) (op : CsrOp) (rs1 : Reg)
  /-- LONG_WAIT_LOWER (R338): A long wait passes LWMIN and the power manager lowers the core to retention or its floor -/
  | longWaitLower (c : Nat)
  /-- CORE_RESUME (R41): A core at retention resumes issue at its floor within 3 us of its wake event -/
  | coreResume (c : Nat)
  /-- RING_STOP (R40): A falling core's voltage passes below its floor and its issue ring stops -/
  | ringStop (c : Nat)
  /-- RING_START (R40): A rising core reaches its floor and its issue ring starts -/
  | ringStart (c : Nat)
  /-- ALLOC (R368): Maps and places a new allocation in one tier -/
  | alloc (c : Nat)
  /-- FREE (R363): Unmaps an allocation in every partition that attached it -/
  | free (c : Nat)
  /-- HINT (R360): Replaces the LIFE, PATTERN and RIGHTS of an allocation -/
  | hint (c : Nat)
  /-- GROUP (R354): Forms a core group with windows and Tightrope channels -/
  | group (c : Nat)
  /-- UNGROUP (R360): Marks a group to take no further task and releases its idle members -/
  | ungroup (c : Nat)
  /-- SHARE (R365): Offers a shareable allocation to another partition under a grant -/
  | share (c : Nat)
  /-- ATTACH (R365): Maps an allocation offered under a grant -/
  | attach (c : Nat)
  /-- DETACH (R360): Unmaps an attached allocation in the calling partition -/
  | detach (c : Nat)
  /-- PLACE_QUERY (R372): Counted query of a page's residency, allocation start or length -/
  | placeQuery (c : Nat) (rd rs1 : Reg) (cc : BitVec 4) (op : BitVec 4)
  /-- PAGE_MIGRATION (R370): Ringmaster begins a background copy of a page to a faster or slower tier -/
  | pageMigration (part : Nat) (vpage : Nat) (faster : Bool)
  /-- MIGRATION_SWITCH (R371): A migrated page switches from its old home to its new home at one instant -/
  | migrationSwitch (part : Nat) (page : PageCopy)
  /-- PORT_TRAINING_DONE (R376): A port's training ends, leading to ANNOUNCED or back to DOWN -/
  | portTrainingDone (p : Nat) (r : PortTest)
  /-- PORT_DOWN (R375): A port goes DOWN on replay failure, stall, lane loss or host link reset, holding its channels -/
  | portDown (p : Nat) (cause : BitVec 2)
  /-- PORT_RETRAIN (R376): A DOWN port's 10 ms interval expires and a training attempt begins -/
  | portRetrain (p : Nat)
  /-- MGMT_SETUP (R377): A host's management setup message is checked and answered, making the port ACTIVE -/
  | mgmtSetup (p : Nat) (m : SetupMsg)
  /-- WATCH_ARM (R379): Arms a monitor on a line and returns its doubleword as of arming -/
  | watchArm (c : Nat) (rd rs1 : Reg) (m : BitVec 6) (cc : BitVec 4)
  /-- WATCH_DIS (R380): Disarms a monitor -/
  | watchDis (c : Nat) (m : BitVec 6)
  /-- WATCH_WAIT (R381): Waits until some monitor has fired -/
  | watchWait (c : Nat) (rd rs1 : Reg)
  /-- WATCH_FIRE (R380): A watched line is written or lost, setting WFIRED and IPEND bit 3 -/
  | watchFire (c : Nat) (m : BitVec 6) (w : LineEvent)
  /-- TASK_RECORD (R391): Ringmaster takes a TASK record: checks, slot, staging, sequence number and ACCEPT journal entry -/
  | taskRecord (ch : Nat) (r : TaskRec)
  /-- ABORT_RECORD (R404): Ringmaster takes an ABORT record and appends an abort for the named task -/
  | abortRecord (ch : Nat) (r : TaskRec)
  /-- NOP_RECORD (R387): Ringmaster takes a NOP record -/
  | nopRecord (ch : Nat) (r : TaskRec)
  /-- PART_CREATE (R534): Creates a partition owned by the carrying port -/
  | partCreate (p : Nat) (h : MgmtHdr) (a : PartParams)
  /-- PART_CHANGE (R534): Changes the masked attributes of a partition -/
  | partChange (p : Nat) (h : MgmtHdr) (a : PartParams)
  /-- PART_REMOVE (R389): Removes a partition that holds no slot or channel -/
  | partRemove (p : Nat) (h : MgmtHdr) (part : BitVec 8)
  /-- CHAN_OPEN (R389): Opens the lowest free task channel with its rings and slot limits -/
  | chanOpen (p : Nat) (h : MgmtHdr) (a : ChanParams)
  /-- CHAN_CLOSE (R389): Closes a channel, replying after its last final record -/
  | chanClose (p : Nat) (h : MgmtHdr) (ch : BitVec 16)
  /-- CHAN_CREDIT (R389): Changes a channel's slot limits -/
  | chanCredit (p : Nat) (h : MgmtHdr) (ch : BitVec 16) (credMin credMax : BitVec 32)
  /-- HOST_REG (R389): Maps a range of host memory into a partition -/
  | hostReg (p : Nat) (h : MgmtHdr) (part rights : BitVec 8) (haddr length vaddr : Word)
  /-- HOST_UNREG (R389): Unmaps a registered host range -/
  | hostUnreg (p : Nat) (h : MgmtHdr) (part : BitVec 8) (vaddr : Word)
  /-- PLACE (R390): A host placement request for a partition, answered with MGMT_REPLY and MGMT_DATA -/
  | place (p : Nat) (h : MgmtHdr) (part : BitVec 8) (r : PlaceRec)
  /-- DISABLE (R405): Disables a core, engine or partition, draining work until the timeout -/
  | disable (p : Nat) (h : MgmtHdr) (kind : BitVec 8) (index : BitVec 16) (timeout : Word)
  /-- ENABLE (R389): Returns a disabled target to service -/
  | enable (p : Nat) (h : MgmtHdr) (kind : BitVec 8) (index : BitVec 16)
  /-- LOG_READ (R515): Copies the newest trouble-log entries to a host buffer -/
  | logRead (p : Nat) (h : MgmtHdr) (addr length : Word)
  /-- JOURNAL_ENTRY_DURABLE (R393): A journal entry reaches every mirror in service and its consequences proceed -/
  | journalEntryDurable (j : Nat)
  /-- TASK_START (R395): An accepted task starts on a group of cores with its initial state -/
  | taskStart (seq : Nat)
  /-- TASK_END (R397): Member 0 ends its task through gate 0xF1 and the other members are drained -/
  | taskEnd (c : Nat)
  /-- TASK_FAIL (R397): Member 0 ends its task as failed through gate 0xF2 -/
  | taskFail (c : Nat)
  /-- COMMIT_APPEND (R399): After the members drain, Ringmaster appends the task's COMMIT entry -/
  | commitAppend (seq : Nat)
  /-- DISABLE_TIMEOUT (R405): A disable's timeout expires and remaining work is fenced and tasks returned to QUEUED -/
  | disableTimeout (d : Nat)
  /-- NET_CREATE (R423): Creates a net from a descriptor and reserves its replica space -/
  | netCreate (c : Nat)
  /-- NET_ATTACH (R433): Binds a net to the group in rendezvous and returns the continuation point -/
  | netAttach (c : Nat)
  /-- NET_STEP (R424): Marks a step boundary in rendezvous and captures when due -/
  | netStep (c : Nat)
  /-- NET_QUERY (R423): Returns a net's step, generation and capture state -/
  | netQuery (c : Nat)
  /-- NET_DROP (R423): Frees a net's replica space -/
  | netDrop (c : Nat)
  /-- NET_RENDEZVOUS_TIMEOUT (R423): A group fails to gather within WTO_DEF and every waiting member returns BUSY -/
  | netRendezvousTimeout (net : Nat)
  /-- CHUNK_READ_DONE (R427): The engine finishes reading a held chunk, ending its write hold -/
  | chunkReadDone (net chunk : Nat)
  /-- GENERATION_COMPLETE (R428): All replicas and manifests of a generation are written and COMPLETE is journalled -/
  | generationComplete (net : Nat)
  /-- NET_RESTORE (R431): A net is restored from a verified generation after a failure -/
  | netRestore (net : Nat) (bad : List (Nat × Nat × Nat))
  /-- CORE_HARD_FAULT (R436): A core leaves service on a hard fault and its group is recovered on a stand-in -/
  | coreHardFault (c : Nat)
  /-- PLANNED_RETIREMENT (R469): A core whose margins or spare rows are exhausted is retired before it fails -/
  | plannedRetirement (c : Nat)
  /-- STACK_LOSS (R435): A stack leaves service, poisoning its pages and re-homing journal and replicas -/
  | stackLoss (n : Nat)
  /-- RE_REPLICATION (R437): Chunks left with one replica are copied to another stack -/
  | reReplication (net slot chunk : Nat) (stack : Nat)
  /-- LINK_DOWN (R24): A link with no spare lanes left leaves service and routes are re-drawn -/
  | linkDown (l : LinkId)
  /-- LANE_STEERED (R467): A failed or error-prone lane is replaced by a spare lane -/
  | laneSteered (l : LinkId) (lane : Nat)
  /-- HUB_HEARTBEAT (R438): The hubs exchange a heartbeat every 20 us -/
  | hubHeartbeat (hub : Nat)
  /-- HUB_TAKEOVER (R438): A follower without heartbeat for 100 us declares the lead lost and takes over -/
  | hubTakeover (hub : Nat)
  /-- STACK_LINE_READ (R446): The stack controller reads a line with outcomes clean, correctable, poisoned or uncorrectable -/
  | stackLineRead (n : Nat) (sram : Bool) (line : Nat) (err : List (Nat × Byte)) (id : Option Nat)
  /-- STACK_LINE_WRITE (R448): The stack controller writes a full line or read-modify-writes a partial one -/
  | stackLineWrite (n : Nat) (sram : Bool) (line : Nat) (err : List (Nat × Byte)) (src : LineSrc)
  /-- REFRESH_DUE (R452): A bank's refresh interval expires and it refreshes 8 rows -/
  | refreshDue (n die ch bank : Nat)
  /-- REFRESH_RATE_CHANGE (R452): A DRAM die crosses its temperature thresholds and changes refresh rate -/
  | refreshRateChange (n die : Nat) (temp : Nat)
  /-- SCRUB_READ (R453): The stack scrubber reads the next line of a bank in an idle or forced slot -/
  | scrubRead (n : Nat) (sram : Bool) (bank : Nat) (err : List (Nat × Byte))
  /-- CORRECTING_WRITEBACK (R455): A corrected line is written back in an idle or, after 1 ms, forced slot -/
  | correctingWriteback (n : Nat) (sram : Bool) (line : LineRead)
  /-- ROW_COPY_FORCE (R456): A row copy unfinished after 1 s begins taking forced slots -/
  | rowCopyForce (n : Nat)
  /-- ROW_SWITCH (R456): The last line of a row copy is written and the row switches to its spare -/
  | rowSwitch (n : Nat) (errs : List (Nat × WordErr))
  /-- CORE_STORE_SCRUB (R454): A slice scrubs a word in its maintenance slot -/
  | coreStoreScrub (c : Nat) (err : List (Nat × Byte))
  /-- SCRUB_BURST (R454): A retained core's slice is raised to its floor and scrubbed whole -/
  | scrubBurst (b : BurstOp)
  /-- STACK_CALIBRATION (R457): A stack base calibrates one idle channel, or forcibly after 60 s -/
  | stackCalibration (n ch : Nat) (forced : Bool)
  /-- CANARY_MEASUREMENT (R471): A domain's canary chains are measured to find its timing slack -/
  | canaryMeasurement (d : Nat) (slacks : List Nat) (tapOk : Bool)
  /-- CALIBRATION_BORROW (R472): A core is borrowed for at most 2 us at a wait or pass boundary for delay calibration -/
  | calibrationBorrow (c : Nat)
  /-- CALIB_FORCE (R472): After 60 s without a borrow point, calibration is forced, raising CALIB on a core with no pass -/
  | calibForce (c : Nat)
  /-- CALIB_PENDING_TIMEOUT (R472): CALIB pending for a further 1 s is served between two instructions without entry -/
  | calibPendingTimeout (c : Nat)
  /-- PE_ROW_TEST (R468): A PE row with repeated parity mismatches is tested and bypassed with the group's spare -/
  | peRowTest (c : Nat) (row : BitVec 7) (pass : Bool)
  /-- REPAIR_HINT_WRITE (R466): Ringmaster writes a new signed repair hint to flash after start-up or a repair change -/
  | repairHintWrite
  /-- POWER_PLAN (R477): Every 10 us the lead power manager sets every core's voltage within PLIMIT -/
  | powerPlan (noncore : Nat) (avg peak : Nat)
  /-- BOOST_GRANT_LAPSE (R479): A boost grant not renewed within 1 ms lapses and the core returns to nominal -/
  | boostGrantLapse (c : Nat)
  /-- THROTTLE (R481): A power, thermal or regulator trigger throttles cores -/
  | throttle (r : ThrottleSense)
  /-- THROTTLE_RELEASE (R481): A throttle's release condition holds and it ends -/
  | throttleRelease (r : ThrottleSense)
  /-- PLIMIT_WRITE (R487): A write of PLIMIT sets the package limit or sets BADLIM when out of range -/
  | plimitWrite (hub : Nat) (v : Word)
  /-- TCMP_WRITE (R507): Arms or disarms the time-base compare, firing at once if VALUE is past -/
  | tcmpWrite (c : Nat) (op : CsrOp) (rs1 : Reg)
  /-- TIMER_COMPARE_FIRE (R507): The time base reaches TCMP.VALUE, setting TIMER pending and clearing EN -/
  | timerCompareFire (c : Nat)
  /-- TELEMETRY_SAMPLE (R516): Every TPERIOD the lead hub writes a telemetry record per in-service core -/
  | telemetrySample (temps : List Nat) (lost : List Nat)
  /-- TELEMETRY_READ_TIMEOUT (R516): A unit read not done within 5 us drops the record and counts it -/
  | telemetryReadTimeout (c : Nat)
  /-- PWRGOOD_RISE (R489): PWRGOOD goes high once the early rails and reference are stable -/
  | pwrgoodRise 
  /-- RESET_RELEASE (R490): RESET_N goes high, time bases start from 0 and boot step 1 begins -/
  | resetRelease (b0 b1 : BootInput)
  /-- RESET_ASSERT (R491): RESET_N falls, stopping all work and leading to a cold start -/
  | resetAssert 
  /-- SELF_TEST_AND_REPAIR (R461): Boot step 2 tests every die, builds the repair map, commands rails on and elects the lead -/
  | selfTestAndRepair (r : SelfTest)
  /-- HUB_ELECTION_TIMEOUT (R493): HD1 reaching HD0 on neither path within 2 s leads alone -/
  | hubElectionTimeout 
  /-- BOOT_STACK_TRAINING (R492): Boot step 3 trains stacks, calibrates links, zeroes memory, draws routes and clears MAINT -/
  | bootStackTraining (failed : List Nat)
  /-- BOOT_PORT_TRAINING (R492): Boot step 4 trains the Tsufy lanes of each port -/
  | bootPortTraining (r : LaneTest)
  /-- GET_VERSION (R501): SPDM request answered with version 1.2, resetting connection state -/
  | getVersion (e : Endpoint) (r : SpdmReq)
  /-- GET_CAPABILITIES (R501): SPDM request answered with the responder's capabilities -/
  | getCapabilities (e : Endpoint) (r : SpdmReq)
  /-- NEGOTIATE_ALGORITHMS (R501): SPDM request answered with Ed25519 and SHA-512 -/
  | negotiateAlgorithms (e : Endpoint) (r : SpdmReq)
  /-- GET_DIGESTS (R501): SPDM request answered with the hub's chain digest -/
  | getDigests (e : Endpoint) (r : SpdmReq)
  /-- GET_CERTIFICATE (R501): SPDM request answered with part of the hub's certificate chain -/
  | getCertificate (e : Endpoint) (r : SpdmReq)
  /-- CHALLENGE (R501): SPDM request answered with a signed CHALLENGE_AUTH -/
  | challenge (e : Endpoint) (r : SpdmReq)
  /-- GET_MEASUREMENTS (R502): SPDM request answered with measurement blocks, signed when asked -/
  | getMeasurements (e : Endpoint) (r : SpdmReq)
  /-- SPDM_UNSUPPORTED_REQUEST (R501): Any other SPDM request code is answered with ERROR UnsupportedRequest -/
  | spdmUnsupportedRequest (e : Endpoint) (r : SpdmReq)
  /-- SET_ENDPOINT_ID (R503): MCTP control message setting the endpoint ID -/
  | setEndpointId (e : Endpoint) (eid : BitVec 8)
  /-- GET_ENDPOINT_ID (R503): MCTP control message returning the endpoint ID -/
  | getEndpointId (e : Endpoint)
  /-- GET_MCTP_VERSION_SUPPORT (R503): MCTP control message returning supported versions -/
  | getMctpVersionSupport (e : Endpoint)
  /-- GET_MESSAGE_TYPE_SUPPORT (R503): MCTP control message returning supported message types -/
  | getMessageTypeSupport (e : Endpoint)
  /-- PWRGOOD_FALL (R525): PWRGOOD falls with RESET_N high and is treated as a reset -/
  | pwrgoodFall 
  /-- RAIL_OUT_OF_RANGE (R525): A rail stays out of range for its limit, resetting or taking units out of service -/
  | railOutOfRange (r : Rail)
  /-- RAIL_CHECK_TIMEOUT (R524): A commanded rail not in range within 5 ms is treated as a VRFAULT -/
  | railCheckTimeout (r : Rail)
  /-- REFCLK_LOSS (R526): A hub's reference absent or far off for 10 us takes the hub out of service -/
  | refclkLoss (hub : Nat)
  /-- THERMAL_TRIP (R529): A die reaches its trip temperature, stopping work and driving THERMTRIP_N low -/
  | thermalTrip (d : DieTemp)
  /-- BYPASS (R527): Boundary-scan BYPASS instruction -/
  | bypass 
  /-- SAMPLE_PRELOAD (R527): Boundary-scan SAMPLE/PRELOAD instruction -/
  | samplePreload 
  /-- EXTEST (R527): Boundary-scan EXTEST, effective only while RESET_N is low -/
  | extest 
  /-- HIGHZ (R527): Boundary-scan HIGHZ, effective only while RESET_N is low -/
  | highz 
  /-- CLAMP (R527): Boundary-scan CLAMP, effective only while RESET_N is low -/
  | clamp 
  /-- VOLTAGE_MOVE_END (R480): A core's or a VCORE rail's commanded voltage move ends, letting the raises that waited on lowerings begin and letting the rail settle or fall -/
  | voltageMoveEnd (m : MoveUnit)
  /-- FAR_ACCESS_AT_SLICE (R73): A far read, write or tile transfer from another core or Juggler reaches a core-store slice or hub SRAM, is ordered by the slice arbiter against local accesses and applied -/
  | farAccessAtSlice (id : Nat) (err : HomeErrs)
deriving DecidableEq, Repr

end Sys2Proof
end

