-- ==== Sys2Proof/Decode.lean ====
section
/-! DEFINITION. Commands spelled by words: opcode_table.json gives no row any bits, so no word spells a command (log entry 2). -/

namespace Sys2Proof

/-- The command that a word spells: none. -/
def decodeTableWord (_nbits _w : Nat) : Option Instr := none

end Sys2Proof
end

