-- ==== Sys2Proof/Machine/State.lean ====
section
/-! DEFINITION. The state of the part as plain data: every register, queue, table, mode and pin the manual gives it,
the outcomes a step may stop with, and the state after reset. -/

namespace Sys2Proof.Machine

/-- Why the machine stops with a fault. -/
inductive Fault
  /-- A command gives a physical address in a range that holds nothing (R345). Raised by the stack
  line commands and the register-block commands. Safe: the hardware has no such place. -/
  | noSuchPlace (addr : Nat)
deriving DecidableEq, Repr

/-- Why a command is refused. -/
inductive Refusal
  /-- The instruction has no meaning yet. Raised by the dispatcher only. Safe. -/
  | notModelled (mnemonic : String)
  /-- The command names a core, port, hub, stack or other unit that the part does not have.
  Raised by any command with such an operand. Safe: no such command can be sent. -/
  | noSuchUnit
  /-- A hub supervisor core issues an instruction of the tile files, the array, the update path or
  Juggler, which it lacks (01, Hub dies); the manual gives no effect. Raised by those rows. Safe. -/
  | unitAbsent
deriving DecidableEq, Repr

/-- A sparse store in canonical form: rising addresses, no zero byte listed; an unlisted byte reads 0. -/
abbrev Mem := List Host.Cell

/-- Privilege levels (R95). -/
inductive Priv | t | s | m
deriving DecidableEq, Repr

/-- Register banks (R108). -/
inductive Bank | main | b1 | b2
deriving DecidableEq, Repr

/-- An exact number, an infinity or a NaN (R125, R126): `fin neg m e` is `±m * 2^e`. -/
inductive FV
  | fin (neg : Bool) (m : Nat) (e : Int)
  | inf (neg : Bool)
  | nan (signalling : Bool)
deriving DecidableEq, Repr

/-- A failure record of counted work (R82). -/
structure FailRec where
  pc     : Word
  addr   : Word
  reason : Byte
deriving DecidableEq, Repr

/-- STATUS (R108). -/
structure Status where
  priv : Priv
  bank : Bank
  b1   : Bool
  b2   : Bool
  resc : Bool
  ie   : Bool
deriving DecidableEq, Repr

/-- ESTAT (R109). -/
structure Estat where
  hpriv : BitVec 2
  ceil  : BitVec 2
  ppriv : BitVec 2
  pbank : BitVec 2
  pie   : Bool
  gate  : Bool
  ds    : BitVec 2
  repip : Bool
  repu  : Bool
  barw  : Bool
deriving DecidableEq, Repr

/-- The save registers of one shadow bank (R107). -/
structure SaveSet where
  epc    : Word
  estat  : Estat
  ecause : Word
  edata0 : Word
  edata1 : Word
  ebtgt  : Word
  erepc  : BitVec 16
deriving DecidableEq, Repr

/-- The rescue record and monitor scratch (R107, R115). -/
structure RescueRegs where
  mrpc     : Word
  mrstat   : Word
  mrcause  : Word
  mredata0 : Word
  mredata1 : Word
  scratch  : Vector Word 4
deriving DecidableEq, Repr

/-- Trap state of a core (R107, R123). -/
structure TrapRegs where
  status : Status
  ien    : BitVec 8
  ipend  : BitVec 8
  maint  : Bool
  trapdz : Bool
  trapov : Bool
  dtidx  : BitVec 8
  dtd    : Vector Word 4
  save1  : SaveSet
  save2  : SaveSet
  rescue : RescueRegs
deriving DecidableEq, Repr

/-- The x registers, one file for each bank; entry 0 of each is never read (R49, R103). -/
structure XRegs where
  main : Vector Word 32
  b1   : Vector Word 32
  b2   : Vector Word 32
deriving DecidableEq, Repr

/-- A repeat in progress (R87): repetitions not yet issued, REP.U, the REP's address,
whether the repeated instruction is a wide form, and its words: nothing else issues while it lasts. -/
structure RepState where
  left : Nat
  u    : Bool
  pc   : Word
  wide : Bool
  next : RepNext
deriving DecidableEq, Repr

/-- Control flow of a core: `pc` is the next instruction to issue; `slots` delay slots remain before
`btgt` (R65, R113); `jump` is the address of a JR or CALLR whose target is still to be fetched (R67). -/
structure Flow where
  pc    : Word
  slots : Nat
  btgt  : Word
  jump  : Option Word
  hold  : Bool          -- no asynchronous interrupt before the next issue (R111)
  rep   : Option RepState
  repc  : BitVec 16
  barw  : Bool          -- the next BAR issues as BAR.WAIT (R333)
deriving DecidableEq, Repr

/-- One return-stack register set (R68). -/
structure RSet where
  rsp : BitVec 16
  rsb : BitVec 16
  rsl : BitVec 16
deriving DecidableEq, Repr

/-- A synchronous cause with its data (R97, R110). -/
structure Trap where
  cause  : Byte
  reason : Byte := 0
  index  : BitVec 16 := 0
  edata0 : Word := 0
  edata1 : Word := 0
  epc    : Option Word := none   -- the saved PC when it is not the instruction itself (R67)
deriving DecidableEq, Repr

/-- A fixed-latency result in flight (R60, R62). -/
inductive PendW
  | x (b : Bank) (r : Reg) (v : Word)
  | f (r : Reg) (v : Word)
  | v (r : Reg) (val : BitVec 4096)
  | aflags (ov dz : Bool)
  | fflags (f : BitVec 6)
  | evc (i : Nat)                                        -- an event that counts in that step (R509)
  | rsp (p : Priv) (v : BitVec 16)
  | csr (p : Priv) (op : CsrOp) (num : Nat) (v : Word)   -- `num` by its explicit name (R68, R107)
  | dtw (wr rd : Bool) (p : Priv) (idx : BitVec 8) (d : Vector Word 4)
deriving DecidableEq, Repr

/-- Which local read a result comes from (R74, R169, R177). -/
inductive LoadKind | scalar | vector | tget (t : BitVec 4)
deriving DecidableEq, Repr

/-- A pending write with its landing step; a load also carries its address and PC. -/
structure Pend where
  land : Nat
  what : PendW
  load : Option (LoadKind × Word × Word)
deriving DecidableEq, Repr

/-- A delayed fault of the instruction issued at step `iss`: due at the first issue at or after step `due` (R74, R124). -/
structure Delayed where
  iss  : Nat
  due  : Nat
  kind : Option LoadKind
  trap : Trap
deriving DecidableEq, Repr

/-- The words of the slice that the latest local store merged with, and its step and address: a record of the model, for R451 (log
entry 35). -/
structure Merged where
  step  : Nat
  pc    : Word
  words : List Nat
deriving DecidableEq, Repr

/-- Issue timing of a core (R32, R34, R150, R151). -/
structure Timing where
  step    : Nat            -- STEPS (R508), unbounded here and read modulo 2^64
  pend    : List Pend
  delayed : List Delayed
  dpFree  : Nat            -- first step at which the vector datapath is free
  portFree : Nat           -- first step at which the vector memory port is free
  merged  : Merged
deriving DecidableEq, Repr

/-- Completion counters (R78, R82). -/
structure Counters where
  cc    : Vector Nat 16
  ccerr : BitVec 16
  recs  : Vector FailRec 16
deriving DecidableEq, Repr

/-- Carousel sets (R84). -/
structure Carousel where
  cb : Vector Word 8
  cl : Vector Word 8
  cs : Vector Word 8
deriving DecidableEq, Repr

/-- Event counters and the time compare (R506). -/
structure Events where
  evc    : Vector (BitVec 48) 64   -- 0-47 of the core; 48-63 live in the partition
  ovf    : Word
  ien    : Word
  tcmpEn : Bool
  tcmp   : BitVec 63
deriving DecidableEq, Repr

/-- What a blocking wait waits for (R80, R285, R314, R381, R224). -/
inductive WaitKind
  | counter (cc : Nat) (n : Nat)
  | sem (id : Nat) (addr : Word)
  | signal
  | barrier (ch : BitVec 5)
  | stream (slot : Nat)
  | array
  | watch
  | netGate (net : Nat)
deriving DecidableEq, Repr

/-- A wait in progress (R80, R81, R338). -/
structure Wait where
  kind     : WaitKind
  rd       : Reg
  start    : Nat        -- time base at issue
  deadline : Nat        -- time base at which it expires
  long     : Bool
  bar      : Bool       -- issued as BAR, so an interrupt sets BARW (R333)
  lowered  : Bool       -- a long wait that has lowered the core (R338)
  data     : Word       -- the instruction words
  wide     : Bool
deriving DecidableEq, Repr

/-- A signal (R324): payload, sender's member number, group. -/
structure SigEntry where
  payload : BitVec 48
  sender  : BitVec 12
  group   : Nat
deriving DecidableEq, Repr

/-- Synchronisation registers (R342). -/
structure Sync where
  barmask : BitVec 32
  barpend : BitVec 32
  barfail : BitVec 32
  wires   : BitVec 32
  barerr  : List (BitVec 5 × FailRec)
  gens    : Vector Word 32            -- generations as the core knows them
  barsel  : BitVec 5
  lwmin   : BitVec 32
  sigq    : List SigEntry
deriving DecidableEq, Repr

/-- WATCH monitors (R382); the armed ones stand in `State.armed`. -/
structure Monitors where
  fired : Word
  heldFire : Bool                     -- a firing held back by TRESV.HIDE (R416)
deriving DecidableEq, Repr

/-- Task identity of a core (R357, R382). -/
structure Ident where
  part    : BitVec 6
  cls     : Bool
  group   : BitVec 32
  count   : BitVec 12
  member  : BitVec 12
  gbase   : BitVec 38
  taskseq : Word
  hide    : Bool
  resv    : Bool
  lwb     : Word
  lwl     : Word
  wtoDef  : Word
  lwp     : List Nat     -- the slice page that holds each page of the window; one not listed lies at its own number (log entry 19)
deriving DecidableEq, Repr

/-- A tile shape (R175, R179): `cols` and `rows` are the counts themselves. -/
structure TShape where
  cfg  : Bool
  fmt  : BitVec 4
  cols : Nat
  rows : Nat
deriving DecidableEq, Repr

/-- The storage of one tile register (R172, R173): the row slots (of an accumulator, those of the committed bank), for mt
the scale plane, for an accumulator the working bank. -/
structure Tile where
  shape : TShape
  data  : Mem
  scale : Mem
  work  : Mem
deriving DecidableEq, Repr

/-- The form in which the array holds its stationary operand, or last left the PEs (R210, R234, R235, R256). -/
inductive PeForm
  | ganged (m : Nat)
  | tent8 | tent4
  | elem
  | distInt | distBin
  | trapeze (m : Nat)
deriving DecidableEq, Repr

/-- How a pass makes its stationary load once demotions are applied (R210, R211). -/
inductive LoadMode | stall | parade | keep | none
deriving DecidableEq, Repr

/-- An update descriptor as captured (R266). -/
structure UpdDesc where
  form   : Nat
  cfmt   : BitVec 4
  ovf    : Bool
  skipnf : Bool
  pitch  : Nat
  cpitch : Nat
  waddr  : Word
  m1addr : Word
  m2addr : Word
  caddr  : Word
  lr : BitVec 32
  b1 : BitVec 32
  b2 : BitVec 32
  eps : BitVec 32
  wd : BitVec 32
  gscale : BitVec 32
  bc1 : BitVec 32
  bc2 : BitVec 32
deriving DecidableEq, Repr

/-- The three mask registers (R263). -/
structure Masks where
  row0 : Word
  row1 : Word
  blk  : Word
deriving DecidableEq, Repr

/-- One slice of a weight gradient (R254, R272): vt tile, rows, columns, first tile column. -/
structure Slice where
  tile : Nat
  rows : Nat
  cols : Nat
  col0 : Nat
deriving DecidableEq, Repr

/-- What a pass computes, on captured operands (R182, R207, R216, R239, R247, R255). -/
inductive PassData
  /-- Sums of products `x * s` with products grouped `grp` at a time (R142). -/
  | mm (tent : Bool) (grp : Nat) (x s : List (List FV)) (tt : Nat)
  | elem (op : BitVec 2) (brow : Bool) (a b : List (List FV))
  | dist (sel : BitVec 3) (d : List (List Int)) (id0 : Nat)
  | trap (grp : Nat) (dy wt xt : List (List FV)) (n0 : Nat) (mask : Bool) (msk : Masks) (gacc : Bool)
      (slices : List Slice) (upd : Option UpdDesc)
deriving DecidableEq, Repr

/-- An array pass in flight (R207, R212). -/
structure Pass where
  id     : Nat          -- place in issue order among all counted work
  pc     : Word
  cc     : Nat
  form   : PeForm
  load   : LoadMode
  start  : Nat          -- step a of R212
  str    : Nat          -- S, and the feed-wait steps so far (R220)
  tail   : Nat          -- X (R236)
  sta    : Nat
  srcs   : List Nat     -- tiles it names as operands
  dst    : List Nat     -- accumulator tiles
  accum  : Bool
  staOld : Bool         -- a KEEP hit whose STA has been written since its issue, so that no load can re-make it (R211, R222)
  restarted : Bool
  ue     : Option (Nat × Word)  -- an unreadable feed row: the stream steps before its own, its address (R221)
  dem    : Nat          -- bytes its feed demands per stream step, 0 without a feed (R219)
  cred   : Nat          -- feed bytes that have arrived ahead of their stream step
  waits  : Nat          -- feed-wait steps so far (R220)
  data   : PassData
deriving DecidableEq, Repr

/-- An item on the update path (R259, R269): a TPASS from its commit, or an UPDT. `emitFrom`: the step its
emission may begin (R258), none once emitted or for UPDT. -/
structure UpdItem where
  id     : Nat
  pc     : Word
  cc     : Nat
  slices : List Slice
  emitFrom : Option Nat
  grad   : List (List (BitVec 32))  -- committed staging bank (R257)
  gacc   : Bool
  mask   : Bool
  msk    : Masks
  desc   : Option UpdDesc
  endAt  : Option Nat               -- step at which the counter falls, once known
  isUpdt : Bool
  names  : List Nat                 -- the other tiles its instruction names, in flight until the counter falls (R181)
  next   : Nat                      -- the first step at which its next row pair may be done (R269)
  done   : Nat                      -- row pairs done (R269, R510)
  bad    : Option (Nat × Nat × Nat) -- an uncorrectable element that a command reports: slice, row, its address or vt tile (R274)
deriving DecidableEq, Repr

/-- Array, masks and update path of a core (R229, R263, R276, R230, R136). -/
structure ArrayState where
  queue   : List Pass
  svalid  : Bool
  held    : Option PeForm
  stag    : Nat
  heldNh  : Bool
  peForm  : Option PeForm     -- form in which the preceding pass leaves the PEs
  afterAbandon : Bool
  lambda  : Option Nat        -- step at which the most recent stationary load began
  lastE   : Option Nat        -- last stream step (plus tail) of the pass issued before
  tent    : Bool
  trowsm1 : BitVec 5
  masks   : Masks
  upd     : List UpdItem
  skip    : Bool
  lastEmitEnd : Nat           -- last step of the latest emission (R257)
  bypass  : Vector (Option (BitVec 5)) 4
  srkey   : Word
  srctr   : Word
  srSet   : Bool              -- SRKEY has been written (R136)
  updFree : Nat               -- first step at which the update path is free (R269)
  settled : Nat               -- step up to which stream steps have been counted (R510)
  portUse : List (Nat × Nat)  -- bytes that the vector memory port takes of the bonding field, by step (R219)
deriving DecidableEq, Repr

/-- State of a stream slot (R310). -/
inductive SlotSt | free | read | write | sender | joined | receive | draining
deriving DecidableEq, Repr

/-- A stream descriptor as captured (R281). -/
structure SDesc where
  write  : Bool
  mode   : Bool
  nseg   : Nat
  gated  : Bool
  gch    : BitVec 5
  mem    : Word
  pitch  : Word
  rowb   : Nat
  segrows : Nat
  nrows  : Nat
  rbase  : Word
  idx    : Word
  dline  : Nat
  rcv    : List (BitVec 4 × BitVec 12)   -- (slot, member) of each receiver
deriving DecidableEq, Repr

/-- A receiver as a multicast sender tracks it (R298, R302). -/
structure Rcv where
  slot   : BitVec 4
  member : BitVec 12
  bound  : Bool
  live   : Bool
deriving DecidableEq, Repr

/-- A piece in flight (R289). -/
structure Piece where
  id   : Nat       -- its place in the order in which the core's accesses issue (R77, R294)
  due  : Nat       -- twelve times its deadline D, fixed as the request leaves (R293)
  no   : Nat
  row  : Nat
  off  : Nat       -- byte offset in the row
  len  : Nat
  addr : Word
  tag  : Bool      -- holds a tag
  data : List Byte -- write-back data, read from the ring at the request (R286)
deriving DecidableEq, Repr

/-- Progress of one slot (R279, R285, R307). -/
structure SlotProg where
  reqRow  : Nat            -- next row to request
  reqOff  : Nat
  reqAddr : Option Word    -- where that row starts, once its first piece has been requested (R280)
  pieces  : List Piece
  got     : List (Nat × Nat)  -- bytes arrived or acknowledged of rows not yet whole
  doneRows : Nat           -- rows wholly arrived or written (SPOS)
  doneSet : List Nat       -- of those, the rows at or after the first incomplete segment
  acq     : Nat            -- next segment to acquire
  rel     : Nat            -- segments released
  disc    : BitVec 48
deriving DecidableEq, Repr

/-- A stream slot (R278). -/
structure Slot where
  id     : Nat
  st     : SlotSt
  cc     : Nat
  pc     : Word
  desc   : Option SDesc
  prog   : SlotProg
  gated  : Bool
  err    : Option FailRec      -- the failure the counter will report
  ended  : Bool                -- no further segment will come
  cancelled : Bool
  t0     : Nat
  ivals  : List Nat            -- last intervals between satisfied SACQs, newest first
  sender : Option (Nat × Nat)  -- receiver: sender core and slot
  rcvs   : List Rcv            -- sender
  cutSeg : Option Nat          -- first segment that will not come
  drain  : List Nat            -- a receiver that was dropped: pieces then on their way to it (R302)
  priv   : Priv                -- level, partition and identity of the task that opened it
  part   : Nat
  idn    : Ident
deriving DecidableEq, Repr

/-- Service state of a core position (R25, R28, R405). -/
inductive CoreSvc | inService | spare | retired | failed
deriving DecidableEq, Repr

/-- Power and service of a core (R36, R40, R479, R486). -/
structure CorePower where
  svc     : CoreSvc
  stopped : Bool          -- stopped issue (R116)
  volt    : Nat           -- mV in force
  vset    : Nat           -- mV set
  target  : Nat           -- mV being moved to
  ring    : Bool          -- the issue ring beats
  boostTill : Option Nat  -- end of the boost grant (R479)
  hotSince : Option Nat   -- time since which it is above 0.85 V (R479)
  noHotTill : Nat
  thr     : Nat           -- plans by which throttling holds it below its share
  pstate  : BitVec 3
  disabled : Bool         -- the core, or its array, Juggler, update path (R405)
  disArray : Bool
  disJug  : Bool
  disUpd  : Bool
  scrubPos : Nat          -- next word of its slice to scrub (R454)
  lastCal : Nat           -- time of the last calibration (R472)
  calForced : Option Nat  -- a forced calibration pending as CALIB since (R472)
  calHold : Option (Nat × Nat)  -- a forced borrow: the last pass issued before it, its idle steps (R472)
  burst   : Option Nat    -- end of its slice's last scrub burst, where no wake event cut it (R454, R471)
  share   : Nat           -- mV of its last planned setting before a long wait lowered it (R483)
deriving DecidableEq, Repr

/-- One core (R48). -/
structure Core where
  x    : XRegs
  v    : Vector (BitVec 4096) 32
  flow : Flow
  rsT  : RSet
  rsS  : RSet
  rsM  : RSet
  ov   : Bool
  dz   : Bool
  ff   : BitVec 6
  tr   : TrapRegs
  tm   : Timing
  cnt  : Counters
  car  : Carousel
  ev   : Events
  wait : Option Wait
  syn  : Sync
  mon  : Monitors
  idn  : Ident
  tiles : Vector Tile 16
  arr  : ArrayState
  slots : Vector Slot 16
  ssel : BitVec 4
  pw   : CorePower
deriving DecidableEq, Repr

/-- Kinds of variable-latency work (R33). -/
inductive WorkKind
  | fld (b : Bank) (rd : Reg) (fp sx : Bool)
  | fst
  | vfld (v : Reg) (bcast : Bool) (ew : BitVec 2)
  | vfst
  | tld (x : TileXfer) (sh : TShape)
  | tst (x : TileXfer) (sh : TShape) (ctr : Word) (key : Option Word)
  | tmov (dst src : BitVec 4) (cvt ovf : Bool) (dsh ssh : TShape)
  | tzero (dst : BitVec 4) (dsh : TShape)
  | semAdd (b : Bank) (rd : Reg) (addend : Word)
  | semTake (b : Bank) (rd : Reg) (n : Nat) (test : Bool)
  | sig (target : BitVec 12) (payload : BitVec 48)
  | arm (b : Bank) (rd : Reg) (m : BitVec 6)
  | query (b : Bank) (rd : Reg) (op : BitVec 4)
  | barArr (ch : BitVec 5)
deriving DecidableEq, Repr

/-- How far a piece of work has come. -/
inductive Stage
  | held                          -- a release not yet in effect (R315)
  | untagged                      -- waits in the engine for its tags (R290)
  | going
  | applied (data : List Byte)    -- done at its home; `data` is what a read obtained
  | failed (r : FailRec)          -- failed; its counter has still to fall
deriving DecidableEq, Repr

/-- Work outside the step domain, or on the tile mover. `runs`: address, bytes to read; `puts`: address, bytes to write. -/
structure Work where
  id    : Nat
  core  : Nat
  cc    : Nat
  pc    : Word
  kind  : WorkKind
  addr  : Word
  runs  : List (Word × Nat)
  puts  : List (Word × List Byte)
  priv  : Priv
  part  : Nat
  group : Nat
  sender : BitVec 12
  time  : Nat          -- deadline D (R293)
  tags  : Nat
  stage : Stage
  covers : List Nat    -- a release: writes still to complete
  coverSegs : List (Nat × Nat)  -- a release: (stream, segments released) of write streams
  relFail : Option FailRec
  seen  : List (Nat × Option Byte)  -- coded units read for it before it is applied, each with its failure (R446, R448)
deriving DecidableEq, Repr

/-- A take parked at its home, in arrival order (R321). -/
structure Take where
  id   : Nat
  addr : Nat
  n    : Nat
deriving DecidableEq, Repr

/-- A mapped page (R351): its home, rights RT WT RS WS in bits 0 to 3, allocation, dirty bits (R426). -/
structure Page where
  part   : Nat
  vpage  : Nat
  home   : Nat            -- physical address of the page
  rights : BitVec 4
  alloc  : Nat
  moves  : Nat
  moving : Option Nat     -- the new home of a migration in progress
  dirtyA : Bool
  dirtyB : Bool
  lost   : Bool           -- poisoned as a whole: its contents were lost, and it is not freed nor restored since (R364)
deriving DecidableEq, Repr

/-- An allocation or a registered host range (R352, R360). -/
structure Alloc where
  id     : Nat
  part   : Nat
  vaddr  : Nat
  pages  : Nat
  host   : Bool
  staging : Bool
  pinned : Bool
  share  : Bool
  life   : Nat
  pattern : Nat
  rights : BitVec 4
  grants : List (Nat × Nat × BitVec 4)   -- (grant, partition, rights) not yet used
  att    : List (Nat × Nat × Nat)        -- (grant, partition, vaddr) attached
  tier   : Nat                           -- tier charged: 0 store, 1 SRAM, 2 DRAM, 3 host
  copy2  : List (Option Nat)             -- staging: home of each page's second copy, none where it is lost (R395)
deriving DecidableEq, Repr

/-- A partition (R348, R511). -/
structure Part where
  num   : Nat
  owner : Nat
  score : Bool
  coresMin : Nat
  coresMax : Nat
  qStore : Nat
  qSram : Nat
  qDram : Nat
  lwlDef : Nat
  sentry : Word
  sdesc : List (Nat × Vector Word 4)     -- descriptors of the S context
  evc   : Vector (BitVec 48) 16          -- EVC48 to EVC63
  samp  : Vector Nat 4                   -- far accesses since the last count of EVC50 to EVC53 (R511)
  disabled : Bool
  disTimeout : Nat
deriving DecidableEq, Repr

/-- A core group (R354 to R356). -/
structure Group where
  num  : Nat
  part : Nat
  gbase : Nat
  lwl  : Nat
  members : List Nat         -- core of each member number
  released : List Nat        -- members already released (R360)
  bars : BitVec 32
  ungrouped : Bool
  task : Option Nat
  byTask : Bool
  wins : List (List Nat)     -- slice pages of each member's window (R347, R361)
  pend : List (Nat × Nat)    -- cores that left service, each with the stand-in that is to take its number (R436 step 4)
  await : List Nat           -- nets to be restored before stand-ins take their numbers (R436 step 5)
deriving DecidableEq, Repr

/-- States of a task (R403). -/
inductive TaskSt | accepted | queued | running | ending | committed | published | aborted
deriving DecidableEq, Repr

/-- A task (R391 to R403). -/
structure Task where
  seq  : Nat
  ch   : Nat
  ridx : Nat              -- submission entry index
  trec : TaskRec
  st   : TaskSt
  group : Option Nat
  staging : Option Nat    -- allocation id
  out0 : Nat              -- staging addresses
  out1 : Nat
  arrival : Nat
  start : Nat
  result : Word
  failed : Option (BitVec 8)   -- FAILED with this REASON
  endTime : Nat           -- when member 0 ended it (R397)
  cores : Nat
  replayed : Bool
  abortReq : Bool
  finalIdx : Option Nat   -- completion index of its final record
  saved : List (Nat × Core × Mem)  -- pre-empted training cores it displaced, with what was saved: the core, its protected lines (R413)
deriving DecidableEq, Repr

/-- Journal entries (R393, R402, R424, R428). -/
inductive JWhat
  | accept (seq : Nat) | start (seq : Nat) | ending (seq : Nat) | commit (seq : Nat)
  | published (seq : Nat) | abort (seq ch ridx : Nat) (tag : Word)
  | disable (id port ridx kind index : Nat) (was : Bool)                       -- `was`: the target's flag before it
  | netStep (net : Nat) (last : Nat) (stepped : Bool) (posrec : List Byte)     -- what the net held before it
  | complete (net : Nat) (gen : Nat)
deriving DecidableEq, Repr

structure JEntry where
  no   : Nat
  what : JWhat
  time : Nat               -- when it was appended
  durable : Bool
deriving DecidableEq, Repr

/-- A completion record (R388) or MGMT_DATA entry (R390). -/
structure CompRec where
  kind : BitVec 8
  reason : BitVec 8
  channel : BitVec 16
  flags : BitVec 16
  seq : Word
  tag : Word
  time : Word
  start : Word
  result : Word
  ridx : BitVec 32
  cores : BitVec 32
  data : Option (List Byte)     -- MGMT_DATA: bytes 8-63
deriving DecidableEq, Repr

/-- A ring pair (R385, R386): the task channels, and the management channel of each port. -/
structure Ring where
  sqbase : Nat
  cqbase : Nat
  hcb : Nat
  dcb : Nat
  e : Nat
  c : Nat
  taken : Nat            -- submission records taken
  posted : Nat           -- completion records written
  waiting : List CompRec -- records held while the port is not ACTIVE (R409)
deriving DecidableEq, Repr

/-- A task channel (R383). -/
structure Chan where
  num  : Nat
  part : Nat
  port : Nat
  ring : Ring
  credMin : Nat
  credMax : Nat
  finished : List (Word × Nat × Bool)   -- (tag, seq, aborted) of the last 1,024 finished tasks
  closing : Option (MgmtHdr × Nat)      -- the record to answer, with its entry
deriving DecidableEq, Repr

/-- Port states (R376). -/
inductive PortSt | off | training | announced | active | down
deriving DecidableEq, Repr

/-- Messages a port has sent in virtual channel 3 (R377, R504). -/
inductive Vc3
  | announce (bytes : List Byte)
  | setupReply (status : BitVec 8) (bootid : Word)
deriving DecidableEq, Repr

structure Port where
  st    : PortSt
  since : Nat
  wasActive : Bool
  ring  : Option Ring      -- management rings; positions survive DOWN
  sent  : List Vc3
  lanes : List (Bool × Nat)    -- lanes whose place a spare has taken: transmitting or not, lane (R373)
deriving DecidableEq, Repr

/-- A disable in progress (R405). -/
structure DisableOp where
  id : Nat
  port : Nat
  hdr : MgmtHdr
  ridx : Nat
  kind : Nat
  index : Nat
  due : Nat
deriving DecidableEq, Repr

/-- A random stream of a net (R420, R421). -/
structure NetStream where
  kind : Bool
  member : Nat
  dps : Nat
  key0 : Word
  cbase : Word
  vaddr : Nat
deriving DecidableEq, Repr

/-- A generation (R428, R429): per chunk its bytes, its digest and the stacks of its two replicas
(a replica that is gone or bad is none). -/
structure Gen where
  no : Nat
  step : Nat
  time : Nat
  posrec : List Byte
  streams : List (Word × Word)
  chunks : List Mem
  digests : List (List Byte)
  manifest : List Byte     -- R429; a copy in each replica
  reps : List (Option Nat × Option Nat)
deriving DecidableEq, Repr

/-- A generation being written (R425, R427). -/
structure Capture where
  slotB : Bool
  gen : Gen
  todo : List Nat          -- chunks under hold
  copied : List Nat
  engines : List Nat       -- hubs whose engines share it (R428)
deriving DecidableEq, Repr

/-- A member waiting in a rendezvous (R423). -/
structure NetCall where
  core : Nat
  attach : Bool
  step : Nat
  addr : Word
  since : Nat
deriving DecidableEq, Repr

/-- A net (R418). -/
structure Net where
  num : Nat
  part : Nat
  regions : List (Nat × Nat)
  streams : List NetStream
  interval : Nat
  lastStep : Nat
  stepped : Bool
  posrec : List Byte
  genA : Option Gen
  genB : Option Gen
  nextGen : Nat
  cap : Option Capture
  deferred : Bool
  bound : Option Nat       -- group
  calls : List NetCall
  restored : Option Nat    -- generation restored since the last binding
  restKeys : List (Nat × Word × Word)  -- kind-0 members: key and counter to set at NET_ATTACH
  lost : Bool
  dirtyNeed : Bool         -- an affecting failure awaits a restore (R435)
  waiting : Option Nat     -- the task that stays QUEUED until then (R434)
deriving DecidableEq, Repr

/-- Row copy in progress (R456). -/
structure RowCopy where
  bank : Nat
  row : Nat
  spare : Nat
  begun : Nat
  forced : Bool
deriving DecidableEq, Repr

/-- One Baistell stack (R452 to R459). -/
structure Stack where
  insvc  : Bool
  temps  : Vector Nat 12
  hot    : BitVec 12
  errrec : Bool × Bool × BitVec 3 × BitVec 48   -- VALID, SRAM, SOURCE, OFFSET
  ce     : BitVec 48
  ceOvf  : Bool
  ue     : BitVec 48
  ueOvf  : Bool
  spares : List (Nat × Nat)            -- (bank, spare rows used) where any is used
  marks  : List (Nat × Nat × Nat × Nat)      -- (bank, row, symbol, time) of corrected errors
  copy   : Option RowCopy
  copyQ  : List (Nat × Nat)            -- (bank, row) to be spared once the copy buffer is free
  rows   : List (Nat × Nat)            -- (bank, row) now in a spare
  wbs    : List (Bool × Nat)           -- lines awaiting a correcting write-back
  logged : List (Bool × Nat × Nat × Nat)   -- line, time of its last CE entry, corrections since
  calib  : List (Nat × Nat)            -- channels borrowed for calibration, each with its last time
  refreshed : List (Nat × Nat)         -- (bank, refreshes done) where any
  scrub  : List (Bool × Nat × Nat × Nat) -- (SRAM, bank, next line, start of the pass) where a line was scrubbed
  upAt   : Nat                         -- time at which the stack came into service
deriving DecidableEq, Repr

/-- A margin-table entry (R488): STATE 0 in service, 1 spare, 2 retired, 3 failed. -/
structure Margin where
  st : BitVec 2
  hist : List (Nat × Nat)  -- (time, SLACK) of the measurements of the last hour
  slack : Nat
  xtaps : Nat
  vofs : Nat
  taps : Nat               -- base taps that start-up chose (R471)
  calTime : Nat
  worst : Nat
  replan : Bool            -- re-planning goes on until SLACK is 6 (R473)
deriving DecidableEq, Repr

/-- The power manager (R487). -/
structure PowerMgr where
  plimit : Nat
  avg : Nat
  peak : Nat
  badlim : Bool
  noncore : Nat
  plent : Nat
  thr : BitVec 48
  thrOvf : Bool
  active : List ThrottleWhy
  rails : Vector Nat 8          -- VCORE_CDn setting, mV; 0 off
  railTo : Vector Nat 8
  pmbus : List (Nat × Bool)     -- regulators commanded over PMBus, by address, each with its last command (R489, R523)
  rotor : Nat                   -- table index at which single 5 mV raises begin (R478)
  rotorNext : Nat               -- table index after the last single raise
  level : Nat                   -- the equal raises of the last plan
deriving DecidableEq, Repr

/-- What the ROM takes from a flash device's SFDP tables (R494): bytes, address mode, erase sizes, whether it reads 1-1-4. -/
structure FlashGeom where
  bytes : Nat
  addrMode : Nat
  erases : List Nat
  quad : Bool
deriving DecidableEq, Repr

/-- One hub (R29, R492 to R505). -/
structure Hub where
  insvc : Bool
  step  : Nat               -- BOOTSTAT.STEP
  err   : Nat
  hint  : Nat
  key   : Option (List Byte) -- the seed of its identity, in its root of trust (R498, R499)
  slotB : Bool
  recov : Bool
  svn   : Word
  image : List Byte         -- firmware header and body measured
  hintBytes : Option (List Byte)
  plimit : Nat
  seqNext : Word            -- SEQ and STARTS of the next hint
  startsNext : Nat
  slotNext : Bool           -- the slot the next hint goes to
  flash : Flash             -- its SPI NOR device (R494, R495)
  geom  : Option FlashGeom  -- what the ROM took from the device's SFDP tables
  refOk : Bool              -- its reference carries 100 MHz (R526)
  meas5 : Option (Word × Word)
  meas6 : Option (List Byte) -- the other hub's image at the end of step 2
  lastBeat : Nat
  rnd : Word                -- the 64 bits its root of trust drew at step 1 (R504)
deriving DecidableEq, Repr

/-- Connection state of an SPDM endpoint (R501, R503). -/
structure Ep where
  eid : BitVec 8
  phase : Nat                -- 0 none, 1 VERSION, 2 CAPABILITIES, 3 ALGORITHMS
  vca : List Byte            -- GET_VERSION to ALGORITHMS
  certLog : List Byte        -- digests and certificates since the last CHALLENGE_AUTH
  measLog : List Byte        -- measurements since the last signed ones
  reply : List Byte          -- the last answer
  since : Option Nat         -- arrival of the last SPDM request
deriving DecidableEq, Repr

/-- A trouble-log entry (R513). -/
structure LogEntry where
  seq : Nat
  time : Nat
  bootid : Word
  code : Nat
  sev : Nat
  part : Nat
  unit : Nat
  d0 : Word
  d1 : Word
  d2 : Word
  d3 : Word
deriving DecidableEq, Repr

/-- A telemetry record (R516): TIME, core, STEPS, EVC0 to EVC29, PSTAT, die temperature, PDRAW. -/
structure TelRec where
  time : Nat
  core : Nat
  steps : Nat
  evc : List Nat
  pstat : Nat
  temp : Nat
  pdraw : Nat
deriving DecidableEq, Repr

/-- Trouble log and telemetry (R512, R516). -/
structure LogState where
  ring : List LogEntry       -- newest first
  next : Nat
  lost : Nat
  start : Nat                -- SEQ at the start's reset release
  tperiod : Nat
  telNext : Nat
  telCount : Nat             -- records written
  telRing : List TelRec      -- newest first, at most 65,535
  telPend : List Nat         -- cores whose read of the last sample is not done
  telrd : Nat
  teldrop : BitVec 48
  teldropOvf : Bool
deriving DecidableEq, Repr

/-- Boundary-scan instruction (R527). -/
inductive Tap | bypass | sample | extest | highz | clamp
deriving DecidableEq, Repr

/-- Pins and rails in range (R489, R521, R527, R529). -/
structure Pins where
  resetN : Bool              -- the level of RESET_N
  up     : Bool              -- a start has begun and nothing has stopped all work since (R490, R491)
  pwrgood : Bool
  thermtripN : Bool
  tap : Tap
  cells : List Bool          -- the boundary-scan cells, in the order of the chain (R527)
  rails : Bool               -- VIO, VHUB and VPHY in range
deriving DecidableEq, Repr

/-- Host-facing state: channels, tasks, journal (chapter 13). -/
structure HostSide where
  ports : List Port
  chans : List Chan
  tasks : List Task
  nextSeq : Nat
  journal : List JEntry
  nextJ : Nat
  disables : List DisableOp
  nextDis : Nat
  fires : List (Nat × Nat)   -- (line, time) of a supervisor core's monitor that fired for the write of a header (R412)
  mirrors : List Nat         -- mirrors in service: 0, 1 hubs; 16 + n stacks (R393)
  rotor : Nat
  refwd : Bool
  returning : List (Nat × Core × Mem)  -- displaced tasks that resume once their core stands in monitor code (R413, R416)
deriving DecidableEq, Repr

/-- Placement state (chapter 12). -/
structure Placement where
  parts : List Part
  pages : List Page
  allocs : List Alloc
  groups : List Group
  nextAlloc : Nat
  nextGroup : Nat
  nextGrant : Nat
  tenants : List (Nat × Nat) -- slice pages, by physical page number, each with the partition whose tasks last could write it (R396)
deriving DecidableEq, Repr

/-- Package-level units. -/
structure Package where
  hubs : List Hub
  lead : Nat
  stks : List Stack
  linksDown : List LinkId
  steered : List (LinkId × Nat)    -- lanes whose place a spare has taken (R22, R467)
  repairs : List Repair            -- spares in use beside those of lanes and PE rows (R461)
  routers : BitVec 8         -- die routers in service
  mtab : List Margin
  power : PowerMgr
  pins : Pins
  bootid : Word
  chg : BitVec 16            -- FEAT3.CHG
  eps : List Ep              -- endpoints: I3C of HD0, HD1, then ports 0-3
  retireWait : List Nat      -- cores whose planned retirement waits for the end of another recovery (R469)
  peFaults : List (Nat × Nat × Nat × Nat)  -- (core, PE row, time, pass) of parity mismatches (R468)
deriving DecidableEq, Repr

/-- The state of the part, with the queue of commands that wait, first in, first out. -/
structure State where
  cores : Vector Core 160     -- 18 d + k for c<d>.<k>; 144 + 8 h + k for supervisor core k of hub h
  time  : Nat                -- the lead hub's time base, ns (R43)
  mem   : Mem                -- every byte of the 48-bit physical map (R345)
  poison : List Nat          -- base addresses of poisoned words and lines (R447, R450)
  works : List Work
  takes : List Take
  nextId : Nat
  gens  : Vector Word 32     -- Tightrope generation numbers (R330)
  armed : List (Nat × Nat × Nat)  -- armed WATCH monitors: core, monitor, physical line address (R379)
  place : Placement
  host  : HostSide
  nets  : List Net
  pkg   : Package
  log   : LogState
  fresh : Nat                -- the model's own: free values used so far
  pending : List Instr
deriving DecidableEq, Repr

/-! ### Reset values -/

def Estat.zero : Estat := ⟨0, 0, 0, 0, false, false, 0, false, false, false⟩
/-- ESTAT of bank 1 at reset (R109, R122). -/
def Estat.reset1 : Estat := ⟨2, 2, 2, 0, false, false, 0, false, false, false⟩
def SaveSet.reset (e : Estat) : SaveSet := ⟨0, e, 0, 0, 0, 0, 0⟩
def RescueRegs.reset : RescueRegs := ⟨0, 0, 0, 0, 0, Vector.replicate 4 0⟩
/-- STATUS at reset: M, bank 1, B1BUSY (R108). -/
def Status.reset : Status := ⟨.m, .b1, true, false, false, false⟩
def TrapRegs.reset : TrapRegs :=
  ⟨.reset, 0, 0, true, false, false, 0, Vector.replicate 4 0, .reset .reset1, .reset .zero, .reset⟩
def XRegs.reset : XRegs := ⟨Vector.replicate 32 0, Vector.replicate 32 0, Vector.replicate 32 0⟩
def Flow.reset : Flow := ⟨0, 0, 0, none, false, none, 0, false⟩
def RSet.reset : RSet := ⟨0, 0, 0⟩
def Timing.reset : Timing := ⟨0, [], [], 0, 0, ⟨0, 0, []⟩⟩
def FailRec.zero : FailRec := ⟨0, 0, 0⟩
def Counters.reset : Counters := ⟨Vector.replicate 16 0, 0, Vector.replicate 16 .zero⟩
def Carousel.reset : Carousel := ⟨Vector.replicate 8 0, Vector.replicate 8 0, Vector.replicate 8 0⟩
def Events.reset : Events := ⟨Vector.replicate 64 0, 0, 0, false, 0⟩
/-- LWMIN resets to 10,000 (R342). -/
def Sync.reset : Sync := ⟨0, 0, 0, 0, [], Vector.replicate 32 0, 0, 10000, []⟩
def Monitors.reset : Monitors := ⟨0, false⟩
/-- WTO_DEF resets to 1,000,000 (R91). -/
def Ident.reset : Ident := ⟨0, false, 0, 0, 0, 0, 0, false, false, 0, 0, 1000000, []⟩
def TShape.reset : TShape := ⟨false, 0, 1, 1⟩
def Tile.reset : Tile := ⟨.reset, [], [], []⟩
/-- Every element enabled (R263). -/
def Masks.reset : Masks := ⟨BitVec.allOnes 64, BitVec.allOnes 64, BitVec.allOnes 64⟩
/-- ACFG: ganged, 32 token rows (R229). -/
def ArrayState.reset : ArrayState :=
  ⟨[], false, none, 0, false, none, false, none, none, false, 31, .reset, [], false, 0, Vector.replicate 4 none, 0, 0, false, 0, 0, []⟩
def SlotProg.reset : SlotProg := ⟨0, 0, none, [], [], 0, [], 0, 0, 0⟩
def Slot.reset : Slot :=
  ⟨0, .free, 0, 0, none, .reset, false, none, false, false, 0, [], none, [], none, [], .t, 0, .reset⟩
def CorePower.reset : CorePower :=
  ⟨.spare, false, 0, 0, 0, false, none, none, 0, 0, 0, false, false, false, false, 0, 0, none, none, none, 0⟩
/-- A core as it comes out of reset (R96, R122). -/
def Core.reset : Core :=
  ⟨.reset, Vector.replicate 32 0, .reset, .reset, .reset, .reset, false, false, 0, .reset, .reset, .reset, .reset,
   .reset, none, .reset, .reset, .reset, Vector.replicate 16 .reset, .reset, Vector.replicate 16 .reset, 0, .reset⟩
/-- A stack before it is trained. STKSTAT.TEMP and HOT have Reset S and no number (R459): die temperatures stand at 0 and every die at the
slower rate until its sensor first reports (log entry 35, DESIGN CHOICE). -/
def Stack.reset : Stack :=
  ⟨false, Vector.replicate 12 0, 0, (false, false, 0, 0), 0, false, 0, false, [], [], none, [], [], [], [], [], [], [], 0⟩
def Margin.reset : Margin := ⟨0, [], 0, 0, 0, 0, 0, 0, false⟩
def PowerMgr.reset : PowerMgr :=
  ⟨3200, 0, 0, false, 0, 0, 0, false, [], Vector.replicate 8 0, Vector.replicate 8 0, [], 0, 0, 0⟩
def Hub.reset : Hub :=
  ⟨false, 0, 0, 0, none, false, false, 0, [], none, 0, 0, 0, false, .erased, none, true, none, none, 0, 0⟩
def Ep.reset : Ep := ⟨0, 0, [], [], [], [], none⟩
def Port.reset : Port := ⟨.off, 0, false, none, [], []⟩
/-- Telemetry samples every 1 ms at reset (R516). -/
def LogState.reset : LogState := ⟨[], 0, 0, 0, 1000000, 0, 0, [], [], 0, 0, false⟩
/-- RESET_N low, the early rails and the reference not yet up, boundary scan in BYPASS (R489, R527). -/
def Pins.reset : Pins := ⟨false, false, false, true, .bypass, [], false⟩
/-- FEAT3.CHG has no start-up value in R92: it starts at 0 (log entry 34, DESIGN CHOICE). -/
def Package.reset : Package :=
  ⟨List.replicate 2 .reset, 0, List.replicate 8 .reset, [], [], [], 0xFF, List.replicate 162 .reset, .reset, .reset,
   0, 0, List.replicate 6 .reset, [], []⟩
def HostSide.reset : HostSide := ⟨List.replicate 4 .reset, [], [], 1, [], 0, [], 0, [], [], 0, false, []⟩
def Placement.reset : Placement := ⟨[], [], [], [], 1, 1, 1, []⟩

/-- The part as RESET_N holds it before the first start: no rail, no boot step, nothing in service, memory empty (R489, R491). -/
def State.reset : State :=
  { cores := Vector.replicate 160 .reset, time := 0, mem := [], poison := [], works := [], takes := [], nextId := 0,
    gens := Vector.replicate 32 0, armed := [], place := .reset, host := .reset, nets := [], pkg := .reset, log := .reset,
    fresh := 0, pending := [] }

end Sys2Proof.Machine
end

