-- ==== Sys2Proof/Machine/Bits.lean ====
section
/-! DEFINITION. Bytes, bit fields and the sparse store that memory and tiles are held in. -/

namespace Sys2Proof.Machine

/-- Bits `hi:lo` of a natural number (R10). -/
def bits (v hi lo : Nat) : Nat := (v >>> lo) % 2 ^ (hi + 1 - lo)
/-- Bit `i` of a natural number. -/
def bitOf (v i : Nat) : Bool := v.testBit i
/-- `b` as a number. -/
def b2n (b : Bool) : Nat := if b then 1 else 0
/-- `v` sign-extended from `n` bits. -/
def sextInt (n v : Nat) : Int := (BitVec.ofNat n v).toInt
/-- `x` rounded up to a multiple of `m`. -/
def roundUp (x m : Nat) : Nat := (x + m - 1) / m * m
/-- `base + i * step` as a wrapping address. -/
def Word.plus (a : Word) (n : Nat) : Word := a + BitVec.ofNat 64 n
/-- An integer as a wrapping doubleword. -/
def wordOfInt (i : Int) : Word := BitVec.ofInt 64 i

/-- The number whose little-endian bytes are `bs` (R10). -/
def leNat : List Byte → Nat
  | [] => 0
  | b :: bs => b.toNat + 256 * leNat bs
/-- The `n` little-endian bytes of `v` (R10). -/
def leBytes : Nat → Nat → List Byte
  | 0, _ => []
  | n + 1, v => BitVec.ofNat 8 v :: leBytes n (v / 256)
/-- Bytes `lo` to `lo + n - 1` of `bs`, as a number. -/
def field (bs : List Byte) (lo n : Nat) : Nat := leNat ((bs.drop lo).take n)
/-- `bs` with the bytes from `lo` replaced by `new`. -/
def splice (bs : List Byte) (lo : Nat) (new : List Byte) : List Byte :=
  bs.take lo ++ new ++ bs.drop (lo + new.length)

/-- Lanes of `w` bits of a register of `n` lanes, lowest first (R128, R147). -/
def lanesOf (w n v : Nat) : List Nat := (List.range n).map fun i => (v >>> (w * i)) % 2 ^ w
/-- The register whose `w`-bit lanes are `ls`, lowest first. -/
def ofLanes (w : Nat) : List Nat → Nat
  | [] => 0
  | l :: ls => l % 2 ^ w + 2 ^ w * ofLanes w ls

/-! ### The sparse store -/

/-- Canonical form: addresses strictly rising, no zero byte listed. -/
abbrev Memory.wf (m : Mem) : Prop := m.Pairwise (fun p q => p.1 < q.1) ∧ ∀ p ∈ m, p.2 ≠ 0

/-- The byte at address `a`; an unlisted byte reads 0 (log entry 8). -/
def Mem.get (m : Mem) (a : Nat) : Byte :=
  match m.find? (fun p => p.1 == a) with
  | some p => p.2
  | none => 0
/-- The `n` bytes from address `a`. -/
def Mem.bytes (m : Mem) (a n : Nat) : List Byte := (List.range n).map fun i => m.get (a + i)
/-- The nonzero cells of `bs` laid out from `a`. -/
def Mem.cells (a : Nat) : List Byte → Mem
  | [] => []
  | b :: bs => if b = 0 then cells (a + 1) bs else (a, b) :: cells (a + 1) bs
/-- The store with `bs` written from address `a`. -/
def Mem.put (m : Mem) (a : Nat) (bs : List Byte) : Mem :=
  m.filter (fun p => p.1 < a) ++ Mem.cells a bs ++ m.filter (fun p => a + bs.length ≤ p.1)
/-- The store with the `n` bytes from `a` cleared to zero. -/
def Mem.zero (m : Mem) (a n : Nat) : Mem :=
  m.filter (fun p => p.1 < a) ++ m.filter (fun p => a + n ≤ p.1)
/-- The cells of `[a, a + n)` moved to start at 0. -/
def Mem.window (m : Mem) (a n : Nat) : Mem :=
  (m.filter fun p => a ≤ p.1 ∧ p.1 < a + n).map fun p => (p.1 - a, p.2)
/-- The cells of `src` (addresses below `n`) replacing `[a, a + n)`. -/
def Mem.putWindow (m : Mem) (a n : Nat) (src : Mem) : Mem :=
  m.filter (fun p => p.1 < a) ++ ((src.filter fun p => p.1 < n).map fun p => (p.1 + a, p.2)) ++
    m.filter (fun p => a + n ≤ p.1)
/-- A little-endian number of `n` bytes at `a`. -/
def Mem.nat (m : Mem) (a n : Nat) : Nat := leNat (m.bytes a n)

/-- `l` with element `i` replaced through `f`. -/
def modNth {α : Type} (l : List α) (i : Nat) (f : α → α) : List α :=
  match l[i]? with
  | some x => l.set i (f x)
  | none => l
/-- A vector with element `i` replaced; nothing where there is no element `i`. -/
def vset {α : Type} {n : Nat} (v : Vector α n) (i : Nat) (x : α) : Vector α n := v.setIfInBounds i x
/-- Element `i` of a vector, `d` where there is none. -/
def vget {α : Type} {n : Nat} (v : Vector α n) (i : Nat) (d : α) : α := if h : i < n then v[i] else d
/-- The value of `k` in an association list of pairs. -/
def assoc {β : Type} (l : List (Nat × β)) (k : Nat) : Option β := (l.find? fun p => p.1 == k).map (·.2)
/-- `l` with `k` mapped to `v`, appended where it was not mapped. -/
def assocSet {β : Type} (l : List (Nat × β)) (k : Nat) (v : β) : List (Nat × β) :=
  if l.any (fun p => p.1 == k) then l.map fun p => if p.1 == k then (k, v) else p else l ++ [(k, v)]
/-- The least element of `l`, if any. -/
def minOf : List Nat → Option Nat
  | [] => none
  | x :: xs => some (xs.foldl Nat.min x)
/-- The least element by a key, the first of equals. -/
def argMin {α : Type} (key : α → Nat) : List α → Option α
  | [] => none
  | x :: xs => some (xs.foldl (fun b y => if key y < key b then y else b) x)
/-- Bits set in `v`, as positions below `n`, rising. -/
def setBits (n v : Nat) : List Nat := (List.range n).filter v.testBit
/-- The lowest `n` numbers below `lim` that are not in `used`. -/
def lowestFree (lim n : Nat) (used : List Nat) : List Nat :=
  ((List.range lim).filter fun i => !used.contains i).take n

end Sys2Proof.Machine
end

