-- ==== Sys2Proof/Machine/Encode.lean ====
section
/-! DEFINITION. The instruction words of each format: the cause data of ILLEGAL_OP, TILE_SHAPE and ARRAY_CFG (R52, R110). -/

namespace Sys2Proof.Machine

/-- The word, or for a wide form the two words, of an instruction (R51). -/
structure Enc where
  w0 : Word32
  w1 : Option Word32
deriving DecidableEq, Repr

def Enc.wide (e : Enc) : Bool := e.w1.isSome
/-- First word in bits 31:0, second in bits 63:32 (R110). -/
def Enc.data (e : Enc) : Word :=
  BitVec.ofNat 64 (e.w0.toNat + 2 ^ 32 * (match e.w1 with | some w => w.toNat | none => 0))

def one (v : Nat) : Enc := ⟨BitVec.ofNat 32 v, none⟩
/-- Major opcode in bits 31:26. -/
def maj (op v : Nat) : Enc := one (op * 2 ^ 26 + v)

/-- Three fields of bits 25:21, 20:16 and 15:11. -/
def f3 (a b c : Nat) : Nat := a * 2 ^ 21 + b * 2 ^ 16 + c * 2 ^ 11

def encR (op func : Nat) (rd rs1 rs2 : Reg) : Enc := maj op (f3 rd.toNat rs1.toNat rs2.toNat + func)
def encI (op : Nat) (rd rs1 : Reg) (imm : BitVec 16) : Enc :=
  maj op (f3 rd.toNat rs1.toNat 0 + imm.toNat)
def encJ (op : Nat) (off : BitVec 26) : Enc := maj op off.toNat
def encR4 (func : Nat) (fd fs1 fs2 fs3 : Reg) : Enc :=
  maj 0x2D (f3 fd.toNat fs1.toNat fs2.toNat + fs3.toNat * 2 ^ 6 + func)
/-- Format C; `dir` 1 for a store. -/
def encC (r xi : Reg) (set size : BitVec 3) (dir : Nat) (sx : Bool) : Enc :=
  maj 0x1D (f3 r.toNat xi.toNat 0 + set.toNat * 2 ^ 13 + size.toNat * 2 ^ 10 + dir * 2 ^ 9 + b2n sx * 2 ^ 8)
def encF (r rs1 : Reg) (cc : BitVec 4) (size : BitVec 3) (dir : Nat) (fp sx : Bool) : Enc :=
  maj 0x30 (f3 r.toNat rs1.toNat 0 + cc.toNat * 2 ^ 12 + size.toNat * 2 ^ 9 + dir * 2 ^ 8 +
    b2n fp * 2 ^ 7 + b2n sx * 2 ^ 6)
def encW (rd rs1 : Reg) (cc : BitVec 4) (l test : Bool) (n : BitVec 10) : Enc :=
  maj 0x31 (f3 rd.toNat rs1.toNat 0 + cc.toNat * 2 ^ 12 + b2n l * 2 ^ 11 + b2n test * 2 ^ 10 + n.toNat)
def encP (rs : Reg) (u : Bool) (imm : BitVec 16) : Enc :=
  maj 0x32 (f3 rs.toNat 0 0 + b2n u * 2 ^ 20 + imm.toNat)
def encY (rd rs1 : Reg) (op : Nat) (num : BitVec 12) : Enc :=
  maj 0x33 (f3 rd.toNat rs1.toNat 0 + op * 2 ^ 12 + num.toNat)
/-- Synchronisation format (R312). -/
def encSync (op : Nat) (rd rs1 rs2 : Reg) (l test : Bool) (f : Nat) : Enc :=
  maj 0x34 (f3 rd.toNat rs1.toNat rs2.toNat + op * 2 ^ 7 + b2n l * 2 ^ 6 + b2n test * 2 ^ 5 + f)
/-- GATE and ERET (R117). -/
def encGate (op n : Nat) : Enc := maj 0x35 (op * 2 ^ 12 + n)
def encQuery (rd rs1 : Reg) (cc op : BitVec 4) : Enc :=
  maj 0x36 (f3 rd.toNat rs1.toNat 0 + cc.toNat * 2 ^ 12 + op.toNat * 2 ^ 8)
/-- VA (opcode 0x38) and VW (0x39) (R153). -/
def encVA (vd vs1 vs2 : Reg) (ty : BitVec 4) (func : Nat) : Enc :=
  maj 0x38 (f3 vd.toNat vs1.toNat vs2.toNat + ty.toNat * 2 ^ 7 + func)
def encVW (vd vs1 vs2 : Reg) (ty : BitVec 4) (h : Bool) (func : Nat) : Enc :=
  maj 0x39 (f3 vd.toNat vs1.toNat vs2.toNat + ty.toNat * 2 ^ 7 + b2n h * 2 ^ 6 + func)
def encVM (v rs1 f2 : Reg) (mode : Nat) (set : BitVec 3) (ew : BitVec 2) (dir : Nat) : Enc :=
  maj 0x3A (f3 v.toNat rs1.toNat f2.toNat + mode * 2 ^ 9 + set.toNat * 2 ^ 6 + ew.toNat * 2 ^ 4 + dir * 2 ^ 3)
def encVF (v rs1 rs2 : Reg) (cc : BitVec 4) (ew : BitVec 2) (dir : Nat) (mode : Bool) : Enc :=
  maj 0x3B (f3 v.toNat rs1.toNat rs2.toNat + cc.toNat * 2 ^ 7 + ew.toNat * 2 ^ 5 + dir * 2 ^ 4 + b2n mode * 2 ^ 3)

/-- A wide form: class, bits 17:0 of the first word, the second word (R55). -/
def encWide (cls lo w1 : Nat) : Enc :=
  ⟨BitVec.ofNat 32 (0x3F * 2 ^ 26 + cls * 2 ^ 18 + lo), some (BitVec.ofNat 32 w1)⟩

/-- TLD class 0x04 and TST class 0x05 (R191). -/
def encXfer (cls : Nat) (x : TileXfer) : Enc :=
  encWide cls (x.tile.toNat * 2 ^ 14 + x.mfmt.toNat * 2 ^ 10 + b2n x.tr * 2 ^ 9 + b2n x.cvt * 2 ^ 8 +
      b2n x.sr * 2 ^ 7 + b2n x.ovf * 2 ^ 6 + b2n x.raw * 2 ^ 5 + b2n x.car * 2 ^ 4 + x.set.toNat)
    (x.rs1.toNat * 2 ^ 27 + x.rs2.toNat * 2 ^ 22 + x.rs3.toNat * 2 ^ 17 + x.cc.toNat * 2 ^ 13)
/-- APASS (R205). -/
def encPass (x : PassOp) : Enc :=
  encWide 0x20 (x.dst.toNat * 2 ^ 14 + x.sta.toNat * 2 ^ 10 + x.mov.toNat * 2 ^ 6 + b2n x.feed * 2 ^ 5 +
      b2n x.accum * 2 ^ 4 + x.load.toNat * 2 ^ 2)
    (x.rs1.toNat * 2 ^ 27 + x.rs2.toNat * 2 ^ 22 + x.rs3.toNat * 2 ^ 17 + x.cc.toNat * 2 ^ 13 +
      x.ffmt.toNat * 2 ^ 9 + x.frowsm1.toNat * 2 ^ 2)

/-- ADIST (R241). -/
def encDist (x : DistOp) : Enc :=
  encWide 0x41 (x.dst.toNat * 2 ^ 14 + x.sta.toNat * 2 ^ 10 + x.mov.toNat * 2 ^ 6 + b2n x.feed * 2 ^ 5 +
      b2n x.accum * 2 ^ 4 + x.load.toNat * 2 ^ 2)
    (x.rs1.toNat * 2 ^ 27 + x.rs2.toNat * 2 ^ 22 + x.rs3.toNat * 2 ^ 17 + x.rs4.toNat * 2 ^ 12 +
      x.cc.toNat * 2 ^ 8 + x.op.toNat * 2 ^ 6 + b2n x.u * 2 ^ 5 + x.sel.toNat * 2 ^ 2)
/-- TPASS (R260). -/
def encTrap (x : TrapOp) : Enc :=
  encWide 0x50 (x.dx.toNat * 2 ^ 14 + x.wt.toNat * 2 ^ 10 + x.dy.toNat * 2 ^ 6 + x.xt.toNat * 2 ^ 2 + x.load.toNat)
    (x.dvt.toNat * 2 ^ 28 + b2n x.accum * 2 ^ 27 + b2n x.gacc * 2 ^ 26 + b2n x.upd * 2 ^ 25 + b2n x.nh * 2 ^ 24 +
      b2n x.mask * 2 ^ 23 + x.rs1.toNat * 2 ^ 18 + x.cc.toNat * 2 ^ 14)
/-- AELEM (R237). -/
def encElem (dst srca srcb : BitVec 4) (op : BitVec 2) (brow : Bool) (cc : BitVec 4) : Enc :=
  encWide 0x40 (dst.toNat * 2 ^ 14 + srca.toNat * 2 ^ 10 + srcb.toNat * 2 ^ 6 + op.toNat * 2 ^ 4 + b2n brow * 2 ^ 3)
    cc.toNat
/-- UPDT (R272). -/
def encUpdt (vt : BitVec 4) (ns nh mask : Bool) (rs1 : Reg) (cc : BitVec 4) : Enc :=
  encWide 0x51 (vt.toNat * 2 ^ 14 + b2n ns * 2 ^ 13 + b2n nh * 2 ^ 12 + b2n mask * 2 ^ 11)
    (rs1.toNat * 2 ^ 27 + cc.toNat * 2 ^ 23)
/-- TCFG (R178). -/
def encTcfg (t fmt : BitVec 4) (colsm1 : BitVec 11) (rowsm1 : BitVec 7) : Enc :=
  encWide 0 (t.toNat * 2 ^ 14 + fmt.toNat * 2 ^ 10) (colsm1.toNat * 2 ^ 7 + rowsm1.toNat)
/-- TMOV and TZERO (R187). -/
def encTmov (dst src : BitVec 4) (cvt ovf zero : Bool) (cc : BitVec 4) : Enc :=
  encWide 1 (dst.toNat * 2 ^ 14 + src.toNat * 2 ^ 10 + b2n cvt * 2 ^ 9 + b2n ovf * 2 ^ 8 + b2n zero * 2 ^ 7) cc.toNat
/-- TGET and TPUT (R189). -/
def encTget (dir : Nat) (v : Reg) (t : BitVec 4) (rs : Reg) (imm : BitVec 6) : Enc :=
  encWide 2 (dir * 2 ^ 17 + v.toNat * 2 ^ 12 + t.toNat * 2 ^ 8 + rs.toNat * 2 ^ 3) imm.toNat
/-- The stream forms, classes 0x60 to 0x65 (R283). -/
def encStream (cls : Nat) (slot : BitVec 4) (ra rb : Reg) (l : Bool) (w1 : Nat) : Enc :=
  encWide cls (slot.toNat * 2 ^ 14 + ra.toNat * 2 ^ 9 + rb.toNat * 2 ^ 4 + b2n l * 2 ^ 3) w1
/-- WATCH (R378). -/
def encWatch (op : Nat) (rd rs1 : Reg) (cc : BitVec 4) (m : BitVec 6) : Enc :=
  maj 0x37 (f3 rd.toNat rs1.toNat 0 + cc.toNat * 2 ^ 12 + op * 2 ^ 9 + m.toNat * 2 ^ 3)

/-! ### Which words have a meaning (R53 to R55) -/

/-- Whether bits `hi:lo` of a word are zero. -/
def clear (w hi lo : Nat) : Bool := bits w hi lo == 0

/-- Wide forms (R55): the class is assigned, and the RSVD bits of its layout are zero (R178, R187, R189, R191, R205, R224,
R237, R241, R260, R272, R283), and TZERO names no source, CVT or OVF (R187). `w` is the first word, `w1` the second. -/
def wideAssigned (w w1 : Nat) : Bool :=
  match bits w 25 18 with
  | 0x00 => clear w 9 0 && clear w1 31 18
  | 0x01 => clear w 6 0 && clear w1 31 4 && (!bitOf w 7 || clear w 13 8)
  | 0x02 => clear w 2 0 && clear w1 31 6
  | 0x04 => clear w 3 3 && clear w1 12 0
  | 0x05 => clear w 3 3 && clear w1 12 0
  | 0x20 => clear w 1 0 && clear w1 1 0
  | 0x21 => clear w 12 0 && clear w1 31 0
  | 0x40 => clear w 2 0 && clear w1 31 4
  | 0x41 => clear w 1 0 && clear w1 1 0
  | 0x50 => clear w1 13 0
  | 0x51 => clear w 10 0 && clear w1 22 0
  | 0x60 => clear w 8 0 && clear w1 31 4
  | 0x61 => clear w 13 0 && clear w1 31 4
  | 0x62 => clear w 2 0 && clear w1 31 0
  | 0x63 => clear w 13 0 && clear w1 31 0
  | 0x64 => clear w 13 0 && clear w1 31 0
  | 0x65 => clear w 8 0 && clear w1 31 0
  | _ => false

/-- Synchronisation instructions (R312): an assigned op whose unused fields are zero. -/
def syncAssigned (w : Nat) : Bool :=
  let rd := clear w 25 21
  let rs1 := clear w 20 16
  let rs2 := clear w 15 11
  let lt := clear w 6 5
  match bits w 10 7 with
  | 0 => lt && clear w 4 4
  | 1 => lt && clear w 4 4
  | 2 => true
  | 3 => rd && lt && clear w 4 4
  | 4 => rd && lt && clear w 4 4
  | 5 => rs1 && clear w 4 0
  | 6 => rd && rs1 && rs2 && lt
  | 7 => rs1
  | 8 => rs1 && clear w 5 5
  | _ => false

/-- One-word instructions (R52, R54): the opcode, func and op are assigned, and every RSVD bit, and every register field
that the instruction's description says it does not use, is zero (R53, R56, R59, R65, R91, R117, R153, R154, R157 to R162, R372, R378). -/
def wordAssigned (w : Nat) : Bool :=
  let f := bits w 10 0
  let rd := clear w 25 21
  let rs1 := clear w 20 16
  let rs2 := clear w 15 11
  let op := bits w 31 26
  if op = 0x01 then decide (f ≤ 0xD) || [0x10, 0x11, 0x12, 0x18, 0x19, 0x1A, 0x1B].contains f
  else if 0x02 ≤ op ∧ op ≤ 0x0B then true
  else if op = 0x1D then clear w 7 0
  else if 0x10 ≤ op ∧ op ≤ 0x1F then true
  else if 0x20 ≤ op ∧ op ≤ 0x27 then true
  else if op = 0x28 then if f = 2 then rd && rs1 && rs2 else decide (f < 2) && rd && rs2
  else if op = 0x2C then
    if [4, 7, 8].contains f then rs2
    else decide (f ≤ 8) || [0x10, 0x11, 0x12, 0x18, 0x19, 0x1C, 0x1D].contains f
  else if op = 0x2D then decide (bits w 5 0 ≤ 3)
  else if op = 0x30 then clear w 5 0
  else if op = 0x31 then true
  else if op = 0x32 then clear w 19 16
  else if op = 0x33 then clear w 15 12 || (decide (bits w 15 12 ≤ 3) && rd)
  else if op = 0x34 then syncAssigned w
  else if op = 0x35 then clear w 25 16 && clear w 11 8 &&
    ((clear w 15 12 && decide (0x80 ≤ bits w 7 0)) || (bits w 15 12 == 1 && clear w 7 0))
  else if op = 0x36 then clear w 7 0 && decide (bits w 11 8 ≤ 2)
  else if op = 0x37 then clear w 2 0 &&
    (clear w 11 9 || (bits w 11 9 == 1 && clear w 15 12) || (bits w 11 9 == 2 && clear w 15 12 && clear w 8 3))
  else if op = 0x38 then
    let g := bits w 6 0
    decide (g ≤ 0x13) || decide (0x20 ≤ g ∧ g ≤ 0x2E)
  else if op = 0x39 then
    let g := bits w 5 0
    decide (g ≤ 6) || decide (0x10 ≤ g ∧ g ≤ 0x19) || decide (0x20 ≤ g ∧ g ≤ 0x22) || decide (0x28 ≤ g ∧ g ≤ 0x2C)
  else if op = 0x3A then clear w 2 0
  else if op = 0x3B then clear w 2 0
  else false

/-- Whether the words begin an instruction of the form they claim: two words exactly where the first has bits 31:26 of 0x3F (R51). -/
def Enc.formed (e : Enc) : Bool := (bits e.w0.toNat 31 26 == 0x3F) == e.wide
/-- Whether words name an instruction at all: an assigned encoding with every RSVD bit and unused field zero (R53). -/
def Enc.assigned (e : Enc) : Bool :=
  match e.w1 with
  | some w => wideAssigned e.w0.toNat w.toNat
  | none => wordAssigned e.w0.toNat

/-! ### What may follow a REP (R88, R152, R190, R283, R313, R372, R378) -/

def repWide (nx : RepNext) : Bool := bits nx.w0.toNat 31 26 == 0x3F
def repEnc (nx : RepNext) : Enc := ⟨nx.w0, if repWide nx then some nx.w1 else none⟩
/-- Whether the instruction may follow REP or REP.U: no control transfer, REP, GATE, ERET, WAITC, WATCH or write of a system
register (R88), no instruction of the tile chapter (R190), Juggler (R283) or synchronisation (R313), no PLACE.QUERY (R372), and of the
vector instructions only a unit-stride local load or store (R152). -/
def repAllowed (nx : RepNext) : Bool :=
  let w := nx.w0.toNat
  let op := bits w 31 26
  if 0x20 ≤ op ∧ op ≤ 0x28 then false
  else if op = 0x31 ∨ op = 0x32 ∨ op = 0x34 ∨ op = 0x35 ∨ op = 0x36 ∨ op = 0x37 then false
  else if op = 0x33 then !decide (1 ≤ bits w 15 12 ∧ bits w 15 12 ≤ 3)
  else if op = 0x38 ∨ op = 0x39 ∨ op = 0x3B then false
  else if op = 0x3A then clear w 10 9
  else if op = 0x3F then !([0x00, 0x01, 0x02, 0x04, 0x05, 0x60, 0x61, 0x62, 0x63, 0x64, 0x65].contains (bits w 25 18))
  else true

end Sys2Proof.Machine
end

