-- ==== Sys2Proof/Machine/Float.lean ====
section
/-! DEFINITION. Number formats, rounding, arithmetic and conversions (04_number_formats). -/

namespace Sys2Proof.Machine

/-- FFLAGS bits (R140). -/
abbrev FF := BitVec 6
def ffNX : FF := 1
def ffUF : FF := 2
def ffOF : FF := 4
def ffDZ : FF := 8
def ffNV : FF := 16
def ffSAT : FF := 32

/-- What overflow and the top exponent mean in a format (R126, R137). -/
inductive TopKind | ieee | e4m3 | e2m1
deriving DecidableEq, Repr

/-- A floating-point format (R125): exponent and mantissa widths, bias, top encodings,
largest finite value `maxM * 2^maxE`. -/
structure Fmt where
  ew   : Nat
  mw   : Nat
  bias : Int
  top  : TopKind
  maxM : Nat
  maxE : Int
deriving DecidableEq, Repr

def fp32 : Fmt := ⟨8, 23, 127, .ieee, 2 ^ 24 - 1, 104⟩
def bf16 : Fmt := ⟨8, 7, 127, .ieee, 2 ^ 8 - 1, 120⟩
def fp16 : Fmt := ⟨5, 10, 15, .ieee, 2 ^ 11 - 1, 5⟩
def e5m2 : Fmt := ⟨5, 2, 15, .ieee, 7, 13⟩
def e4m3 : Fmt := ⟨4, 3, 7, .e4m3, 7, 6⟩
def e2m1 : Fmt := ⟨2, 1, 1, .e2m1, 3, 1⟩

def Fmt.width (f : Fmt) : Nat := 1 + f.ew + f.mw
/-- Exponent of the least significant bit of a subnormal. -/
def Fmt.lsb (f : Fmt) : Int := 1 - f.bias - f.mw
/-- The largest finite encoding, without its sign. -/
def Fmt.maxCode (f : Fmt) : Nat :=
  match f.top with
  | .ieee => (2 ^ f.ew - 1) * 2 ^ f.mw - 1
  | .e4m3 => 0x7E
  | .e2m1 => 7
/-- The canonical NaN (R138). -/
def Fmt.nanCode (f : Fmt) : Nat :=
  match f.top with
  | .ieee => (2 ^ f.ew - 1) * 2 ^ f.mw + 2 ^ (f.mw - 1)
  | .e4m3 => 0x7F
  | .e2m1 => 0
/-- Infinity, without its sign. -/
def Fmt.infCode (f : Fmt) : Nat := (2 ^ f.ew - 1) * 2 ^ f.mw
def Fmt.signed (f : Fmt) (neg : Bool) (code : Nat) : Nat := code + b2n neg * 2 ^ (f.ew + f.mw)

/-- The value of an encoding (R125, R126). -/
def Fmt.decode (f : Fmt) (v : Nat) : FV :=
  let neg := bitOf v (f.ew + f.mw)
  let e := bits v (f.ew + f.mw - 1) f.mw
  let m := v % 2 ^ f.mw
  let num : FV := if e = 0 then .fin neg m f.lsb else .fin neg (m + 2 ^ f.mw) (f.lsb + e - 1)
  match f.top with
  | .ieee =>
    if e = 2 ^ f.ew - 1 then
      if m = 0 then .inf neg else .nan (!bitOf m (f.mw - 1))
    else num
  | .e4m3 => if e = 15 ∧ m = 7 then .nan false else num
  | .e2m1 => num

/-- Number of bits of `m`. -/
def bitLen (m : Nat) : Nat := if m = 0 then 0 else Nat.log2 m + 1

/-- The rounding rules (R133): nearest even, or stochastic with 16 random bits (R135). -/
inductive Rnd | rne | sr (r : Nat)
deriving DecidableEq, Repr

/-- Whether the magnitude `q + rem / 2^d`, `rem` not 0, rounds up (R134, R135). -/
def Rnd.up (r : Rnd) (neg : Bool) (q rem d : Nat) : Bool :=
  match r with
  | .rne => decide (2 * rem > 2 ^ d) || (decide (2 * rem = 2 ^ d) && q % 2 == 1)
  | .sr k =>
    if neg then !decide (65536 * (2 ^ d - rem) / 2 ^ d > k) else decide (65536 * rem / 2 ^ d > k)

/-- `m * 2^e` rounded to a multiple of `2^le`: the multiple and whether it is inexact. -/
def roundTo (r : Rnd) (neg : Bool) (m : Nat) (e le : Int) : Nat × Bool :=
  if le ≤ e then (m * 2 ^ (e - le).toNat, false) else
    let d := (le - e).toNat
    let q := m / 2 ^ d
    let rem := m % 2 ^ d
    if rem = 0 then (q, false) else (if r.up neg q rem d then q + 1 else q, true)

/-- Whether `a * 2^x < b * 2^y`. -/
def magLt (a : Nat) (x : Int) (b : Nat) (y : Int) : Bool :=
  if x ≤ y then a < b * 2 ^ (y - x).toNat else a * 2 ^ (x - y).toNat < b

/-- Outcome of an overflow (R137). -/
inductive Ovf | toInf | saturate
deriving DecidableEq, Repr

/-- `±m * 2^e` in format `f`: the encoding and the flags it sets (R134, R137, R139). -/
def Fmt.round (f : Fmt) (r : Rnd) (o : Ovf) (neg : Bool) (m : Nat) (e : Int) : Nat × FF :=
  if m = 0 then (f.signed neg 0, 0) else
    let top := e + (bitLen m : Int) - ((f.mw : Int) + 1)
    let le := max top f.lsb
    let (q, nx) := roundTo r neg m e le
    let nxf : FF := if nx then ffNX else 0
    if magLt f.maxM f.maxE q le then
      match o with
      | .toInf => (f.signed neg f.infCode, ffOF ||| ffNX)
      | .saturate => (f.signed neg f.maxCode, ffSAT ||| ffOF ||| ffNX)
    else
      let (q', le') := if q = 2 ^ (f.mw + 1) then (2 ^ f.mw, le + 1) else (q, le)
      let code := if q' < 2 ^ f.mw then q' else
        q' - 2 ^ f.mw + (le' + f.mw + f.bias).toNat * 2 ^ f.mw
      let (qu, _) := roundTo r neg m e top
      let tiny := magLt qu top 1 (1 - f.bias)
      (f.signed neg code, nxf ||| (if tiny && nx then ffUF else 0))

/-- A value in an arithmetic format (R137, R138): FP32, BF16 and FP16 overflow to infinity. -/
def Fmt.encode (f : Fmt) (v : FV) : Nat × FF :=
  match v with
  | .fin n m e => f.round .rne .toInf n m e
  | .inf n => (f.signed n f.infCode, 0)
  | .nan s => (f.nanCode, if s then ffNV else 0)

/-- A conversion to `f` (R137): E4M3, and E5M2 with OVF = 0, saturate. -/
def Fmt.convert (f : Fmt) (r : Rnd) (ovf : Bool) (v : FV) : Nat × FF :=
  let sat := match f.top with
    | .e4m3 => true
    | _ => f == e5m2 && !ovf
  match v with
  | .fin n m e => f.round r (if sat then .saturate else .toInf) n m e
  | .inf n => if sat then (f.signed n f.maxCode, ffSAT) else (f.signed n f.infCode, 0)
  | .nan s => (f.nanCode, if s then ffNV else 0)

/-! ### Exact arithmetic on values (R139) -/

def FV.isNan : FV → Bool
  | .nan _ => true
  | _ => false
def FV.isSig : FV → Bool
  | .nan s => s
  | _ => false
def FV.isZero : FV → Bool
  | .fin _ m _ => m == 0
  | _ => false
def FV.neg : FV → FV
  | .fin n m e => .fin (!n) m e
  | .inf n => .inf (!n)
  | .nan s => .nan s
def FV.zero : FV := .fin false 0 0
def FV.ofInt (i : Int) : FV := .fin (decide (i < 0)) i.natAbs 0
/-- NV for signalling operands (R139). -/
def sigFlag (a b : FV) : FF := if a.isSig || b.isSig then ffNV else 0

/-- A signed multiple of `2^e`. -/
def signedAt (n : Bool) (m : Nat) (e le : Int) : Int :=
  let v : Int := (m * 2 ^ (e - le).toNat : Nat)
  if n then -v else v

/-- Exact sum of two values; a zero sum of unlike signs is +0 (R139). -/
def FV.add (a b : FV) : FV × FF :=
  match a, b with
  | .nan _, _ => (.nan false, sigFlag a b)
  | _, .nan _ => (.nan false, sigFlag a b)
  | .inf x, .inf y => if x == y then (.inf x, 0) else (.nan false, ffNV)
  | .inf x, _ => (.inf x, 0)
  | _, .inf y => (.inf y, 0)
  | .fin n m e, .fin n' m' e' =>
    let le := min e e'
    let v := signedAt n m e le + signedAt n' m' e' le
    if v = 0 then (.fin (n && n') 0 0, 0) else (.fin (decide (v < 0)) v.natAbs le, 0)

/-- Exact product (R139). -/
def FV.mul (a b : FV) : FV × FF :=
  match a, b with
  | .nan _, _ => (.nan false, sigFlag a b)
  | _, .nan _ => (.nan false, sigFlag a b)
  | .inf x, .inf y => (.inf (x != y), 0)
  | .inf x, .fin n m _ => if m = 0 then (.nan false, ffNV) else (.inf (x != n), 0)
  | .fin n m _, .inf y => if m = 0 then (.nan false, ffNV) else (.inf (n != y), 0)
  | .fin n m e, .fin n' m' e' => (.fin (n != n') (m * m') (e + e'), 0)

/-- `a * b + c` exactly (R59, R139): a 0 × ∞ product is invalid whatever the addend (log entry 9). -/
def FV.fma (a b c : FV) : FV × FF :=
  let (p, f) := a.mul b
  let f := f ||| (if c.isSig then ffNV else 0)
  if p.isNan then (.nan false, f) else
    let (r, g) := p.add c
    (r, f ||| g)

/-- Quotient with a sticky lowest bit, exact enough for every format of at most 24 bits (R139). -/
def FV.div (a b : FV) : FV × FF :=
  match a, b with
  | .nan _, _ => (.nan false, sigFlag a b)
  | _, .nan _ => (.nan false, sigFlag a b)
  | .inf _, .inf _ => (.nan false, ffNV)
  | .inf x, .fin n _ _ => (.inf (x != n), 0)
  | .fin n _ _, .inf y => (.fin (n != y) 0 0, 0)
  | .fin n m e, .fin n' m' e' =>
    if m' = 0 then
      if m = 0 then (.nan false, ffNV) else (.inf (n != n'), ffDZ)
    else
      let k := 64 + bitLen m'
      let q := m * 2 ^ k / m'
      let st := b2n (decide (m * 2 ^ k % m' ≠ 0))
      (.fin (n != n') (2 * q + st) (e - e' - k - 1), 0)

/-- Integer square root by bits. -/
def isqrtAux : Nat → Nat → Nat → Nat
  | 0, _, r => r
  | i + 1, n, r =>
    let r' := r + 2 ^ i
    isqrtAux i n (if r' * r' ≤ n then r' else r)
def isqrt (n : Nat) : Nat := isqrtAux (bitLen n / 2 + 1) n 0

/-- Square root with a sticky lowest bit (R139). -/
def FV.sqrt (a : FV) : FV × FF :=
  match a with
  | .nan s => (.nan false, if s then ffNV else 0)
  | .inf n => if n then (.nan false, ffNV) else (.inf false, 0)
  | .fin n m e =>
    if m = 0 then (.fin n 0 0, 0) else if n then (.nan false, ffNV) else
      let (m, e) := if e % 2 = 0 then (m, e) else (2 * m, e - 1)
      let m := m * 2 ^ 64
      let q := isqrt m
      let st := b2n (decide (q * q ≠ m))
      (.fin false (2 * q + st) (e / 2 - 32 - 1), 0)

/-- Order of two values that are not NaN, zeros equal: negative, zero or positive. -/
def FV.cmp (a b : FV) : Int :=
  match a, b with
  | .inf x, .inf y => if x == y then 0 else if x then -1 else 1
  | .inf x, _ => if x then -1 else 1
  | _, .inf y => if y then 1 else -1
  | .fin n m e, .fin n' m' e' => signedAt n m e (min e e') - signedAt n' m' e' (min e e')
  | _, _ => 0

def FV.signBit : FV → Bool
  | .fin n _ _ => n
  | .inf n => n
  | .nan _ => false

/-- Minimum or maximum (R139): the other operand for a NaN, −0 below +0. -/
def FV.minmax (isMax : Bool) (a b : FV) : FV × FF :=
  let f := sigFlag a b
  match a, b with
  | .nan _, .nan _ => (.nan false, f)
  | .nan _, _ => (b, f)
  | _, .nan _ => (a, f)
  | _, _ =>
    let c := FV.cmp a b
    let aLess := decide (c < 0) || (decide (c = 0) && a.signBit && !b.signBit)
    (if aLess != isMax then a else b, 0)

/-- The relations of R59 and R154: 0 equal, 1 less, 2 less or equal (R139). -/
def FV.rel (op : Nat) (a b : FV) : Bool × FF :=
  if a.isNan || b.isNan then (false, if op = 0 then sigFlag a b else ffNV) else
    let c := FV.cmp a b
    (if op = 0 then decide (c = 0) else if op = 1 then decide (c < 0) else decide (c ≤ 0), 0)

/-- Conversion to a signed integer of `n` bits (R137, R59). -/
def FV.toInt (r : Rnd) (n : Nat) (v : FV) : Int × FF :=
  let lo : Int := -(2 ^ (n - 1) : Nat)
  let hi : Int := (2 ^ (n - 1) : Nat) - 1
  match v with
  | .nan _ => (0, ffNV)
  | .inf s => (if s then lo else hi, ffSAT ||| ffNV)
  | .fin s m e =>
    let (q, nx) := roundTo r s m e 0
    let i : Int := if s then -(q : Int) else q
    if i < lo then (lo, ffSAT ||| ffNV)
    else if i > hi then (hi, ffSAT ||| ffNV)
    else (i, if nx then ffNX else 0)

/-- Conversion to a binary code bit (R137). The table gives a NaN only the result 0; a signalling one sets NV, as R137 and R139 say of
every operation (DEDUCED, log entry 5). -/
def FV.toBin (v : FV) : Bool × FF :=
  match v with
  | .nan s => (false, if s then ffNV else 0)
  | .inf s => (!s, 0)
  | .fin s m _ => (!s && decide (m ≠ 0), 0)

/-! ### FP32 on encodings -/

def f32 (b : BitVec 32) : FV := fp32.decode b.toNat
def toF32 (v : FV) : BitVec 32 × FF := let (c, f) := fp32.encode v; (BitVec.ofNat 32 c, f)
/-- One rounding after an exact operation. -/
def roundOp (r : FV × FF) : BitVec 32 × FF := let (c, f) := toF32 r.1; (c, r.2 ||| f)

/-! ### E2M1 blocks (R130 to R132) -/

/-- The scale factor of an E8M0 code, none for NaN (R126). -/
def scaleExp (s : Byte) : Option Int := if s = 0xFF then none else some ((s.toNat : Int) - 127)
/-- Element of a block with its scale (R131). -/
def decodeE2m1 (scale : Byte) (code : Nat) : FV :=
  match scaleExp scale with
  | none => .nan false
  | some x => match e2m1.decode code with
    | .fin n m e => .fin n m (e + x)
    | v => v

/-- floor(log2 (m * 2^e)) of a nonzero magnitude. -/
def floorLog (m : Nat) (e : Int) : Int := e + (Nat.log2 m : Int)

/-- The larger of two finite magnitudes. -/
def maxMag (a b : Nat × Int) : Nat × Int := if magLt a.1 a.2 b.1 b.2 then b else a

/-- Packing one block (R132): scale, element codes, flags. `rnd i` is the rounding of element `i`. -/
def packE2m1 (rnd : Nat → Rnd) (vs : List FV) : Byte × List Nat × FF :=
  if vs.any (fun v => match v with | .fin _ _ _ => false | _ => true) then
    (0xFF, vs.map fun _ => 0, ffNV)
  else
    let amax := vs.foldl (fun a v => match v with | .fin _ m e => maxMag a (m, e) | _ => a) (0, 0)
    let se : Int := if amax.1 = 0 then 0 else min (max (floorLog amax.1 amax.2 - 2) (-127)) 127
    let one (i : Nat) (v : FV) : Nat × FF :=
      match v with
      | .fin n m e =>
        if magLt 6 0 m (e - se) then (e2m1.signed n 7, ffNX) else
          let (c, f) := e2m1.round (rnd i) .saturate n m (e - se)
          (c, if f &&& ffNX = 0 then 0 else ffNX)
      | _ => (0, 0)
    let rs := vs.mapIdx one
    (BitVec.ofInt 8 (se + 127), rs.map (·.1), rs.foldl (fun a r => a ||| r.2) 0)

/-! ### Sums (R142 to R145) -/

/-- Exact sum of a list of values. -/
def sumFV (vs : List FV) : FV × FF :=
  vs.foldl (fun (a : FV × FF) v => let (r, f) := a.1.add v; (r, a.2 ||| f)) (.fin true 0 0, 0)

/-- A term held in FP32 (R142): rounded to the subnormal grid where it falls below it, with
whether that was inexact. -/
def gridTerm (v : FV) : FV × Bool :=
  match v with
  | .fin n m e =>
    let (q, nx) := roundTo .rne n m e (-149)
    if e < -149 then (.fin n q (-149), nx) else (v, false)
  | v => (v, false)

/-- A nonzero magnitude with its trailing zero bits moved into the exponent. -/
def reduced (m : Nat) (e : Int) : Nat × Int :=
  let z := Nat.log2 (Nat.gcd m (2 ^ bitLen m))
  (m / 2 ^ z, e + z)
/-- Whether every order of FP32 addition gives the exact sum (R142): all terms are finite and whole multiples of one unit, and no sum
of some of them passes 2^24 units or leaves the range of FP32. -/
def exactAnyOrder (ts : List FV) : Bool :=
  let parts := ts.filterMap fun v => match v with
    | .fin n m e => if m = 0 then none else some (n, reduced m e)
    | _ => none
  let le := parts.foldl (fun (a : Int) p => min a p.2.2) 127
  let side (neg : Bool) : Nat := ((parts.filter (·.1 == neg)).map fun p => p.2.1 * 2 ^ (p.2.2 - le).toNat).sum
  decide (-149 ≤ le) && ts.all (fun v => match v with | .fin _ _ _ => true | _ => false) &&
  [false, true].all fun neg => decide (side neg ≤ 2 ^ 24 ∧ side neg * 2 ^ (le + 149).toNat ≤ (2 ^ 24 - 1) * 2 ^ 253)

/-- One addition of an array (R134, R142): exact, then rounded to FP32. -/
def addF32 (a b : FV) : FV × FF := let (r, f) := roundOp (a.add b); (f32 r, f)
/-- A sum whose order is open (R145): two of the terms left are added and their sum takes their place, until one is left; free value
`k` picks them (log entry 5). -/
def sumOrder (k : Nat) : Nat → List FV → FF → FV × FF
  | fuel + 1, a :: b :: ts, f =>
    let all := a :: b :: ts
    let i := Config.freeOrder k (2 * fuel) % all.length
    let rest := all.eraseIdx i
    let j := Config.freeOrder k (2 * fuel + 1) % rest.length
    let (r, g) := addF32 (all.getD i .zero) (rest.getD j .zero)
    sumOrder k fuel (r :: rest.eraseIdx j) (f ||| g)
  | _, ts, f => (ts.headD .zero, f)

/-- A sum of terms into FP32 (R142, R143, R145): every addition rounds to nearest even, in an order that is open, so that the result
meets the bound of R143 in any of them. Where no order can tell the result is the exact sum rounded once: a single addition, no
more than one nonzero term, or two that FP32 holds, or no sum on the way that can round. Sums on the way that overflow to both
infinities leave the result an infinity, whose sign is open (R143). -/
def freeSumOf (k : Nat) (ts : List FV) : BitVec 32 × FF :=
  let nz := ts.filter fun t => !t.isZero
  if ts.length ≤ 2 ∨ nz.length ≤ 1 ∨ (nz.length ≤ 2 ∧ nz.all (fun v => (toF32 v).2 == 0)) ∨ exactAnyOrder ts then
    roundOp (sumFV ts)
  else
    let (r, f) := sumOrder k ts.length ts 0
    let has (neg : Bool) : Bool := ts.any fun v => match v with | .inf n => n == neg | _ => false
    if r.isNan && !ts.any FV.isNan && !(has false && has true) then ((toF32 (.inf (Config.freeBool k))).1, f &&& ~~~ffNV)
    else ((toF32 r).1, f)

end Sys2Proof.Machine
end

