-- ==== Sys2Proof/Machine/Regs.lean ====
section
/-! DEFINITION. Reading and updating the cores of the part: registers, counters, events, identity, services. -/

namespace Sys2Proof.Machine

/-- What a command answers. -/
abbrev Out := Host.Outcome State Fault Refusal
/-- The next state of a command taken in state `s0`: the queue is not the command's to change. -/
def done (s0 s1 : State) : Out := .next { s1 with pending := s0.pending }

/-! ### Cores -/

def State.core (s : State) (c : Nat) : Core := vget s.cores c .reset
def State.setCore (s : State) (c : Nat) (k : Core) : State := { s with cores := vset s.cores c k }
def State.upd (s : State) (c : Nat) (f : Core → Core) : State := s.setCore c (f (s.core c))

/-- What was saved of the training task pre-empted on a core (R413). -/
def State.savedCore (s : State) (c : Nat) : Option Core :=
  ((s.host.tasks.flatMap (·.saved) ++ s.host.returning).find? fun q => q.1 == c).map (·.2.1)
/-- All that is saved of displaced tasks, changed. -/
def State.mapSaved (s : State) (f : Nat × Core × Mem → Nat × Core × Mem) : State :=
  { s with host := { s.host with
      tasks := s.host.tasks.map fun t => { t with saved := t.saved.map f }, returning := s.host.returning.map f } }
def State.updSaved (s : State) (c : Nat) (f : Core → Core) : State :=
  s.mapSaved fun q => if q.1 = c then (q.1, f q.2.1, q.2.2) else q
/-- Whether work of group `g` on core `c` belongs to the task pre-empted there. -/
def State.preempted (s : State) (c g : Nat) : Bool :=
  (s.core c).idn.group.toNat != g && (match s.savedCore c with | some k => k.idn.group.toNat == g | none => false)
/-- The registers and tiles that work of group `g` on core `c` delivers to (R413). -/
def State.owner (s : State) (c g : Nat) : Core :=
  if s.preempted c g then (s.savedCore c).getD (s.core c) else s.core c
def State.updOwner (s : State) (c g : Nat) (f : Core → Core) : State :=
  if s.preempted c g then s.updSaved c f else s.upd c f

/-- Indices of hub supervisor cores (R96). -/
def isHub (c : Nat) : Bool := 144 ≤ c
/-- The compute die of a core, or the hub of a supervisor core. -/
def dieOf (c : Nat) : Nat := if isHub c then (c - 144) / 8 else c / 18
def allCores : List Nat := List.range 144
/-- The partition space that a core's addresses are translated in: none for a supervisor core, which reaches the physical
map direct (R345, R379). -/
def State.spaceOf (s : State) (c : Nat) : Nat := if isHub c then 64 else (s.core c).idn.part.toNat

/-- Take a free value (log entry 4). -/
def State.draw (s : State) : State := { s with fresh := s.fresh + 1 }
/-- The time base has reached `t`: it counts in steps of 10 ns, and never falls (R43). -/
def State.tickTo (s : State) (t : Nat) : State := { s with time := max s.time ((t + 9) / 10 * 10) }

/-! ### Registers -/

def Bank.num : Bank → Nat
  | .main => 0
  | .b1 => 1
  | .b2 => 2
def Bank.dec : Nat → Bank
  | 1 => .b1
  | 2 => .b2
  | _ => .main
def Priv.num : Priv → Nat
  | .t => 0
  | .s => 1
  | .m => 2
def Priv.dec : Nat → Priv
  | 0 => .t
  | 1 => .s
  | _ => .m

def XRegs.file (xs : XRegs) : Bank → Vector Word 32
  | .main => xs.main
  | .b1 => xs.b1
  | .b2 => xs.b2
/-- x0 reads as zero (R49). -/
def XRegs.get (xs : XRegs) (b : Bank) (r : Reg) : Word := if r = 0 then 0 else vget (xs.file b) r.toNat 0
/-- A write to x0 is discarded (R49). -/
def XRegs.set (xs : XRegs) (b : Bank) (r : Reg) (v : Word) : XRegs :=
  if r = 0 then xs else
    match b with
    | .main => { xs with main := vset xs.main r.toNat v }
    | .b1 => { xs with b1 := vset xs.b1 r.toNat v }
    | .b2 => { xs with b2 := vset xs.b2 r.toNat v }

def Core.bank (k : Core) : Bank := k.tr.status.bank
def Core.level (k : Core) : Priv := k.tr.status.priv
/-- x[r] of the current bank. -/
def Core.rx (k : Core) (r : Reg) : Word := k.x.get k.bank r
/-- v[r]. -/
def Core.rv (k : Core) (r : Reg) : BitVec 4096 := vget k.v r.toNat 0
/-- f[r], the low 64 bits of v[r] (R50). -/
def Core.rf (k : Core) (r : Reg) : Word := (k.rv r).setWidth 64
/-- Write f[r], keeping bits 4095:64 of v[r] (R50). -/
def Core.setF (k : Core) (r : Reg) (v : Word) : Core :=
  { k with v := vset k.v r.toNat (((k.rv r) &&& BitVec.ofNat 4096 (2 ^ 4096 - 2 ^ 64)) ||| v.setWidth 4096) }
def Core.setV (k : Core) (r : Reg) (v : BitVec 4096) : Core := { k with v := vset k.v r.toNat v }
def Core.setX (k : Core) (b : Bank) (r : Reg) (v : Word) : Core := { k with x := k.x.set b r v }

def Core.rs (k : Core) : Priv → RSet
  | .t => k.rsT
  | .s => k.rsS
  | .m => k.rsM
def Core.setRs (k : Core) (p : Priv) (r : RSet) : Core :=
  match p with
  | .t => { k with rsT := r }
  | .s => { k with rsS := r }
  | .m => { k with rsM := r }

def TrapRegs.save (t : TrapRegs) (b : Bank) : SaveSet :=
  match b with
  | .b2 => t.save2
  | _ => t.save1
def TrapRegs.setSave (t : TrapRegs) (b : Bank) (v : SaveSet) : TrapRegs :=
  match b with
  | .b2 => { t with save2 := v }
  | _ => { t with save1 := v }
def Status.busy (s : Status) : Bank → Bool
  | .b1 => s.b1
  | .b2 => s.b2
  | .main => false
def Status.setBusy (s : Status) (b : Bank) (v : Bool) : Status :=
  match b with
  | .b1 => { s with b1 := v }
  | .b2 => { s with b2 := v }
  | .main => s

/-- STATUS as read (R108). -/
def Status.word (s : Status) : Nat :=
  s.priv.num * 2 ^ 14 + s.bank.num * 2 ^ 12 + b2n s.b2 * 2 ^ 11 + b2n s.b1 * 2 ^ 10 + b2n s.resc * 2 ^ 8 + b2n s.ie
/-- ESTAT as read (R109). -/
def Estat.word (e : Estat) : Nat :=
  e.hpriv.toNat * 2 ^ 14 + e.ceil.toNat * 2 ^ 12 + e.ppriv.toNat * 2 ^ 10 + e.pbank.toNat * 2 ^ 8 + b2n e.pie * 2 ^ 7 +
    b2n e.gate * 2 ^ 6 + e.ds.toNat * 2 ^ 4 + b2n e.repip * 2 ^ 3 + b2n e.repu * 2 ^ 2 + b2n e.barw * 2

/-- Set an IPEND bit (R111). -/
def Core.raise (k : Core) (i : Nat) : Core :=
  { k with tr := { k.tr with ipend := k.tr.ipend ||| BitVec.ofNat 8 (2 ^ i) } }

/-! ### Event counters (R509, R510) -/

/-- Add `n` to event counter `i` of the core: a wrap sets EVCOVF, and IPEND bit 4 where EVCIEN asks. -/
def Core.count (k : Core) (i n : Nat) : Core :=
  if 30 ≤ i then k else
    let v := (vget k.ev.evc i 0).toNat + n
    let k' := { k with ev := { k.ev with evc := vset k.ev.evc i (BitVec.ofNat 48 v) } }
    if v < 2 ^ 48 then k' else
      let k'' := { k' with ev := { k'.ev with ovf := k'.ev.ovf ||| BitVec.ofNat 64 (2 ^ i) } }
      if bitOf k.ev.ien.toNat i then k''.raise 4 else k''

def State.part (s : State) (p : Nat) : Option Part := s.place.parts.find? fun q => q.num == p
def State.updPart (s : State) (p : Nat) (f : Part → Part) : State :=
  { s with place := { s.place with parts := s.place.parts.map fun q => if q.num == p then f q else q } }

/-- Add `n` to partition counter EVC`i`, `i` from 48: a wrap flags every core that serves the partition (R511). -/
def State.countPart (s : State) (p i n : Nat) : State :=
  match s.part p with
  | none => s
  | some q =>
    let v := (vget q.evc (i - 48) 0).toNat + n
    let s' := s.updPart p fun q => { q with evc := vset q.evc (i - 48) (BitVec.ofNat 48 v) }
    if v < 2 ^ 48 then s' else
      { s' with cores := s'.cores.map fun k =>
          if k.idn.part.toNat == p && k.idn.count != 0 then
            let k' := { k with ev := { k.ev with ovf := k.ev.ovf ||| BitVec.ofNat 64 (2 ^ i) } }
            if bitOf k.ev.ien.toNat i then k'.raise 4 else k'
          else k }

/-- Steps under a boost grant (R479, R510). -/
def Core.boosted (k : Core) (n : Nat) : Core := if k.pw.boostTill.isSome then k.count 27 n else k
/-- `n` idle steps (R34): the ring beats and nothing issues. -/
def Core.idle (k : Core) (n : Nat) : Core :=
  (({ k with tm := { k.tm with step := k.tm.step + n } }).count 1 n).boosted n
/-- Idle up to step `t`, where it lies ahead. -/
def Core.idleTo (k : Core) (t : Nat) : Core := if k.tm.step < t then k.idle (t - k.tm.step) else k
/-- The beat in which an instruction issues (R34, R509). -/
def Core.beat (k : Core) : Core :=
  (({ k with tm := { k.tm with step := k.tm.step + 1 } }).count 0 1).boosted 1

/-! ### Completion counters (R78, R82) -/

def Core.outst (k : Core) (n : Nat) : Nat := vget k.cnt.cc n 0
def Core.bump (k : Core) (n : Nat) : Core :=
  { k with cnt := { k.cnt with cc := vset k.cnt.cc n (k.outst n + 1) } }
/-- Counted work ends: the count falls; a failure sets CCERR and keeps the first record (R82). -/
def Core.lower (k : Core) (n : Nat) (err : Option FailRec) : Core :=
  let c := { k.cnt with cc := vset k.cnt.cc n (k.outst n - 1) }
  match err with
  | none => { k with cnt := c }
  | some r =>
    if bitOf c.ccerr.toNat n then { k with cnt := c } else
      { k with cnt := { c with ccerr := c.ccerr ||| BitVec.ofNat 16 (2 ^ n), recs := vset c.recs n r } }

/-- OR into FFLAGS (R140). -/
def Core.orFF (k : Core) (f : FF) : Core := { k with ff := k.ff ||| f }

/-! ### Pending writes (R60 to R63): kept in landing order, equal landings in issue order -/


/-- What comes after a register write of the same step: flags that are set (R17), events that are counted (R509). -/
def PendW.isEvent : PendW → Bool
  | .aflags _ _ => true
  | .fflags _ => true
  | .evc _ => true
  | _ => false
def PendW.isCsr : PendW → Bool
  | .csr _ _ _ _ => true
  | _ => false
/-- A flag that is set in the step in which a write clears it reads 1 (R17), and an event is added to a count that is written in its
step (R509): the write lands before them. -/
def insertPend (p : Pend) : List Pend → List Pend
  | [] => [p]
  | q :: qs =>
    if q.land < p.land || (q.land == p.land && !(p.what.isCsr && q.what.isEvent)) then q :: insertPend p qs else p :: q :: qs
def Core.addPend (k : Core) (p : Pend) : Core := { k with tm := { k.tm with pend := insertPend p k.tm.pend } }
/-- A write with distance `d` from the instruction that issues now. -/
def Core.land (k : Core) (d : Nat) (w : PendW) : Core := k.addPend ⟨k.tm.step + d, w, none⟩
def Core.landX (k : Core) (d : Nat) (r : Reg) (v : Word) : Core := k.land d (.x k.bank r v)
def insertDelayed (d : Delayed) : List Delayed → List Delayed
  | [] => [d]
  | e :: es => if e.iss ≤ d.iss then e :: insertDelayed d es else d :: e :: es
/-- A delayed fault, kept in issue order (R106). -/
def Core.delay (k : Core) (d : Delayed) : Core := { k with tm := { k.tm with delayed := insertDelayed d k.tm.delayed } }

/-! ### Service (R25, R36, R405) -/

def Core.inSvc (k : Core) : Bool := k.pw.svc == .inService
/-- The core can issue an instruction: in service, its ring beats, it is neither stopped nor waiting. -/
def Core.canIssue (k : Core) : Bool := k.inSvc && k.pw.ring && !k.pw.stopped && k.wait.isNone
def State.hub (s : State) (h : Nat) : Hub := s.pkg.hubs.getD h .reset
def State.updHub (s : State) (h : Nat) (f : Hub → Hub) : State :=
  { s with pkg := { s.pkg with hubs := modNth s.pkg.hubs h f } }
def State.stack (s : State) (n : Nat) : Stack := s.pkg.stks.getD n .reset
def State.updStack (s : State) (n : Nat) (f : Stack → Stack) : State :=
  { s with pkg := { s.pkg with stks := modNth s.pkg.stks n f } }
def State.port (s : State) (p : Nat) : Port := s.host.ports.getD p .reset
def State.updPort (s : State) (p : Nat) (f : Port → Port) : State :=
  { s with host := { s.host with ports := modNth s.host.ports p f } }
def State.margin (s : State) (i : Nat) : Margin := s.pkg.mtab.getD i .reset
def State.inSvcCores (s : State) : List Nat := allCores.filter fun c => (s.core c).inSvc
def State.spares (s : State) : List Nat := allCores.filter fun c => (s.core c).pw.svc == .spare

/-! ### Feature registers (R93) -/

/-- FEAT3, with the fields that self-repair changes. -/
def State.feat3 (s : State) : Nat :=
  s.pkg.chg.toNat * 2 ^ 48 + 64 * 2 ^ 32 + 2 * 2 ^ 24 + 144 * 2 ^ 16 + s.spares.length * 2 ^ 8 + s.inSvcCores.length
/-- FEAT6: stacks, hubs and ports in service (R93, R376). -/
def State.feat6 (s : State) : Nat :=
  let st := ((List.range 8).map fun n => b2n (s.stack n).insvc * 2 ^ n).sum
  let hb := ((List.range 2).map fun h => b2n (s.hub h).insvc * 2 ^ h).sum
  let pt := ((List.range 4).map fun p => b2n ((s.port p).st == .announced || (s.port p).st == .active) * 2 ^ p).sum
  256 * 2 ^ 32 + 48 * 2 ^ 16 + st * 2 ^ 8 + hb * 2 ^ 4 + pt
def State.feat (s : State) : Nat → Nat
  | 0 => 0xFFC
  | 1 => 128 * 2 ^ 32 + 128 * 2 ^ 16 + 0x3FF
  | 2 => 128 * 2 ^ 48 + 32 * 2 ^ 40 + Config.shadow * 2 ^ 32 + Config.passMax * 2 ^ 16 + Config.drain
  | 3 => s.feat3
  | 4 => 65535 * 2 ^ 32 + 8 * 2 ^ 24 + 1024 * 2 ^ 8 + 16
  | 5 => 32 * 2 ^ 36 + 8192 * 2 ^ 20 + 256 * 2 ^ 8 + 64
  | 6 => s.feat6
  | _ => 4096 * 2 ^ 44 + 65535 * 2 ^ 28 + 8 * 2 ^ 24 + 1024 * 2 ^ 13 + 4096
/-- One change of the device's state in service (R92). -/
def State.chg (s : State) : State := { s with pkg := { s.pkg with chg := s.pkg.chg + 1 } }

/-! ### Trouble log (R512, R513) -/

/-- UNIT of a log entry (R513). -/
def unitOf (kind i : Nat) : Nat := kind * 2 ^ 12 + i
/-- Append an entry (R512): a full ring loses its oldest. -/
def State.logAdd (s : State) (code sev part unit : Nat) (d0 d1 d2 d3 : Nat) : State :=
  let w (n : Nat) : Word := BitVec.ofNat 64 n
  let e : LogEntry := ⟨s.log.next, s.time, s.pkg.bootid, code, sev, part, unit, w d0, w d1, w d2, w d3⟩
  let full := 131072 ≤ s.log.ring.length
  { s with log := { s.log with
      ring := e :: (if full then s.log.ring.take 131071 else s.log.ring),
      next := s.log.next + 1, lost := s.log.lost + b2n full } }
/-- The partition of a core for a log entry, 0xFF when it serves none. -/
def Core.logPart (k : Core) : Nat := if k.idn.count = 0 then 0xFF else k.idn.part.toNat

end Sys2Proof.Machine
end

