-- ==== Sys2Proof/Machine/Csr.lean ====
section
/-! DEFINITION. The system registers: who may use each number, what a read returns, what a write does when it takes effect (R91). -/

namespace Sys2Proof.Machine

/-- Access at one level (R16, R91). -/
inductive Acc | none | ro | rw | wo
deriving DecidableEq, Repr

/-- Access at T, S and M of each register number; an unassigned number has none (R91, R107, R136, R179,
R229, R263, R310, R342, R357, R382, R486, R506). -/
def csrAcc3 (n : Nat) : Acc × Acc × Acc :=
  let ro3 := (Acc.ro, Acc.ro, Acc.ro)
  let rw3 := (Acc.rw, Acc.rw, Acc.rw)
  let roS := (Acc.ro, Acc.rw, Acc.rw)
  let roM := (Acc.ro, Acc.ro, Acc.rw)
  let sm := (Acc.none, Acc.rw, Acc.rw)
  let mo := (Acc.none, Acc.none, Acc.rw)
  let no := (Acc.none, Acc.none, Acc.none)
  let mro := (Acc.none, Acc.none, Acc.ro)
  if n ≤ 7 then ro3
  else if n = 0x10 ∨ n = 0x11 then rw3
  else if 0x20 ≤ n ∧ n ≤ 0x22 then roS
  else if 0x24 ≤ n ∧ n ≤ 0x26 then sm
  else if (0x28 ≤ n ∧ n ≤ 0x2A) ∨ (0x2C ≤ n ∧ n ≤ 0x2E) then mo
  else if n = 0x30 then roS
  else if n = 0x38 ∨ n = 0x39 then roM
  else if n = 0x3C then roS
  else if 0x40 ≤ n ∧ n ≤ 0x57 then rw3
  else if 0x60 ≤ n ∧ n ≤ 0x6F then ro3
  else if n = 0x70 then rw3
  else if n = 0x100 then roS
  else if n = 0x101 then sm
  else if n = 0x102 then (.none, .ro, .ro)
  else if n = 0x103 then (.none, .ro, .rw)
  else if 0x108 ≤ n ∧ n ≤ 0x10C then sm
  else if n = 0x10D then (.none, .wo, .wo)
  else if (0x110 ≤ n ∧ n ≤ 0x116) ∨ (0x118 ≤ n ∧ n ≤ 0x11E) ∨ (0x120 ≤ n ∧ n ≤ 0x126) then sm
  else if 0x128 ≤ n ∧ n ≤ 0x12C then mro
  else if 0x130 ≤ n ∧ n ≤ 0x133 then mo
  else if n = 0x200 ∨ n = 0x202 then ro3
  else if n = 0x201 ∨ n = 0x204 then sm
  else if n = 0x203 then roS
  else if 0x210 ≤ n ∧ n ≤ 0x24F then roS
  else if 0x300 ≤ n ∧ n ≤ 0x30F then ro3
  else if n = 0x320 then rw3
  else if n = 0x321 then ro3
  else if n = 0x322 then mro
  else if 0x340 ≤ n ∧ n ≤ 0x343 then rw3
  else if n = 0x3F0 ∨ n = 0x3F1 then rw3
  else if n = 0x400 then rw3
  else if 0x401 ≤ n ∧ n ≤ 0x404 then ro3
  else if n = 0x420 then roM
  else if n = 0x421 ∨ n = 0x423 then ro3
  else if n = 0x422 ∨ n = 0x424 then rw3
  else if n = 0x425 then roS
  else if n = 0x4FF then ro3
  else if 0x500 ≤ n ∧ n ≤ 0x503 then roM
  else if n = 0x510 then ro3
  else if n = 0x511 then rw3
  else if n = 0x512 then roM
  else if n = 0x513 then mo
  else if n = 0x520 then ro3
  else if n = 0x521 then mro
  else no

def csrAcc (n : Nat) (p : Priv) : Acc :=
  match p, csrAcc3 n with
  | .t, (a, _, _) => a
  | .s, (_, a, _) => a
  | .m, (_, _, a) => a

/-- The number that a name of the current level or bank stands for (R68, R107). -/
def csrExplicit (n : Nat) (p : Priv) (b : Bank) : Nat :=
  if 0x20 ≤ n ∧ n ≤ 0x22 then n + 4 + 4 * p.num
  else if 0x110 ≤ n ∧ n ≤ 0x116 then n + 8 * b.num
  else n

/-- Whether an access is legal at level `p` (R91, R107). -/
def csrLegal (k : Core) (n : Nat) (p : Priv) : Bool :=
  csrAcc n p != .none &&
  !(decide (0x110 ≤ n ∧ n ≤ 0x116) && k.bank == .main) &&
  !(p == .s && decide (0x118 ≤ n ∧ n ≤ 0x11E) && k.tr.save1.estat.hpriv == 2) &&
  !(p == .s && decide (0x120 ≤ n ∧ n ≤ 0x126) && k.tr.save2.estat.hpriv == 2)

/-! ### Views of engine state -/

/-- Tile numbers that a piece of mover work names (R181). -/
def WorkKind.tiles : WorkKind → List Nat
  | .tld x _ => [x.tile.toNat]
  | .tst x _ _ _ => [x.tile.toNat]
  | .tmov d s _ _ _ _ => [d.toNat, s.toNat]
  | .tzero d _ => [d.toNat]
  | _ => []
/-- Mover work in flight on a tile. -/
def State.moverOn (s : State) (c t : Nat) : Bool :=
  s.works.any fun w => w.core == c && !s.preempted c w.group && w.kind.tiles.contains t
def PassData.sliceTiles : PassData → List Nat
  | .trap _ _ _ _ _ _ _ _ sl _ => sl.map (·.tile)
  | _ => []
/-- Array and update-path work in flight on a tile. -/
def Core.arrayOn (k : Core) (t : Nat) : Bool :=
  k.arr.queue.any (fun p => p.srcs.contains t || p.dst.contains t || p.data.sliceTiles.contains t) ||
  k.arr.upd.any fun u => u.slices.any (fun sl => sl.tile == t) || u.names.contains t
def State.inflight (s : State) (c t : Nat) : Bool := s.moverOn c t || (s.core c).arrayOn t

/-- TSHAPE layout of a shape (R179). -/
def TShape.word (t : TShape) : Nat :=
  t.fmt.toNat * 2 ^ 24 + b2n t.cfg * 2 ^ 23 + (t.cols - 1) * 2 ^ 7 + (t.rows - 1)

/-- SFORM code (R229). -/
def PeForm.code : PeForm → Nat
  | .ganged 1 => 0
  | .ganged 2 => 1
  | .ganged _ => 2
  | .tent8 => 3
  | .tent4 => 4
  | _ => 7

def Pass.loadSteps (p : Pass) : Nat := if p.load == .stall then 128 else 0
/-- PHASE of the oldest pass at a step (R229). -/
def Pass.phase (p : Pass) (t : Nat) : Nat :=
  if t < p.start + p.loadSteps then 1 else if t < p.start + p.loadSteps + p.str then 2 else
    if t < p.start then 1 else 3
/-- ASTAT (R229). -/
def Core.astat (k : Core) : Nat :=
  let a := k.arr
  a.queue.length * 2 ^ 13 + (match a.queue with | p :: _ => p.phase k.tm.step | [] => 0) * 2 ^ 11 +
    b2n (a.queue.any (·.restarted)) * 2 ^ 10 + b2n a.svalid * 2 ^ 9 +
    (match a.held with | some f => f.code | none => 0) * 2 ^ 6 + a.stag
/-- AREPAIR (R230). -/
def Core.arepair (k : Core) : Nat :=
  ((List.range 4).map fun g =>
    match vget k.arr.bypass g none with
    | some o => (128 + o.toNat) * 2 ^ (8 * g)
    | none => 32 * 2 ^ (8 * g)).sum

/-- Segments of a stream (R279). -/
def SDesc.segs (d : SDesc) : Nat := (d.nrows + d.segrows - 1) / d.segrows
/-- Segments whose rows have all arrived or been written, from the first on (R279). -/
def Slot.full (sl : Slot) : Nat :=
  match sl.desc with
  | none => 0
  | some d =>
    let base := sl.prog.doneRows - sl.prog.doneSet.length
    if base ≥ d.nrows then d.segs else base / d.segrows
def Slot.held (sl : Slot) : Nat := sl.prog.acq - sl.prog.rel
/-- Whether every row of segment `k` has arrived or been written. -/
def Slot.whole (sl : Slot) (d : SDesc) (k : Nat) : Bool :=
  decide (k < sl.full) ||
  (List.range (min d.segrows (d.nrows - k * d.segrows))).all fun i => sl.prog.doneSet.contains (k * d.segrows + i)
/-- Of segments `lo` to `hi - 1`, those that are whole; a segment past the first that is not may be whole too (R288). -/
def Slot.wholes (sl : Slot) (d : SDesc) (lo hi : Nat) : Nat :=
  (min hi sl.full - lo) + ((List.range (hi - max lo sl.full)).filter fun i => sl.whole d (max lo sl.full + i)).length
/-- Free ring positions of a write stream: those never handed out, and those whose segment is written whole (R285, R293, R310). -/
def Slot.freePos (sl : Slot) (d : SDesc) : Nat := d.nseg - (sl.prog.acq - sl.full) + sl.wholes d sl.full sl.prog.acq
/-- READY (R310): full segments not acquired, or free ring positions. -/
def Slot.ready (sl : Slot) : Nat :=
  match sl.st, sl.desc with
  | .write, some d => sl.freePos d
  | .read, some d => sl.wholes d sl.prog.acq (min d.segs (sl.prog.rel + d.nseg))
  | .receive, some d => sl.wholes d sl.prog.acq (min d.segs (sl.prog.rel + d.nseg))
  | _, _ => 0
/-- Segments that can still be handed out. -/
def Slot.limit (sl : Slot) : Nat :=
  match sl.cutSeg, sl.desc with
  | some n, _ => n
  | none, some d => d.segs
  | none, none => 1      -- joined, not yet bound
/-- avail of R285. -/
def Slot.avail (sl : Slot) : Bool :=
  match sl.st, sl.desc with
  | .read, some _ => decide (sl.prog.acq < sl.limit ∧ sl.prog.acq < sl.full)
  | .receive, some _ => decide (sl.prog.acq < sl.limit ∧ sl.prog.acq < sl.full)
  | .write, some d => decide (sl.prog.acq < sl.limit ∧ sl.prog.acq < sl.full + d.nseg)
  | .draining, some _ => decide (sl.prog.acq < sl.limit ∧ sl.prog.acq < sl.full)
  | _, _ => false
/-- ended of R285. -/
def Slot.isEnded (sl : Slot) : Bool := sl.ended || decide (sl.limit ≤ sl.prog.acq)

def SlotSt.code : SlotSt → Nat
  | .free => 0
  | .read => 1
  | .write => 2
  | .sender => 3
  | .joined => 4
  | .receive => 5
  | .draining => 6

/-- The core that is member `m` of group `g` (R354). -/
def State.memberCore (s : State) (g m : Nat) : Option Nat :=
  (s.place.groups.find? fun q => q.num == g).bind fun q => q.members[m]?

/-- The core and the stream id of a sender's receiver, where it is bound. -/
def State.rcvSlot (s : State) (sl : Slot) (r : Rcv) : Option (Nat × Nat) :=
  if !r.bound then none else
    (s.memberCore sl.idn.group.toNat r.member.toNat).map fun t => (t, (vget (s.core t).slots r.slot.toNat .reset).id)
/-- Release position of a receiver: segments released; 0 while it has not joined or bound (R300). -/
def State.rcvPos (s : State) (g : Nat) (r : Rcv) : Nat :=
  match s.memberCore g r.member.toNat with
  | some t => if r.bound then (vget (s.core t).slots r.slot.toNat .reset).prog.rel else 0
  | none => 0
/-- The slowest live receiver of a sender: the oldest position, that of one not bound the first segment; among equals the lowest
member number (R300). -/
def State.slowest (s : State) (sl : Slot) : Option Rcv :=
  argMin (fun r => s.rcvPos sl.idn.group.toNat r * 4096 + r.member.toNat) (sl.rcvs.filter (·.live))

/-- Where a physical address lies (R345): 0 core store, 1 stack SRAM, 2 DRAM, 3 host, 4 hub; with its unit. -/
def homeOf (pa : Nat) : Option (Nat × Nat) :=
  if pa < 0x240000000 then some (0, pa / 0x4000000)
  else if 0x400000000 ≤ pa ∧ pa < 0x480000000 then some (1, (pa - 0x400000000) / 0x10000000)
  else if 0x800000000 ≤ pa ∧ pa < 0x900000000 then some (4, (pa - 0x800000000) / 0x80000000)
  else if 0x10000000000 ≤ pa ∧ pa < 0x16000000000 then some (2, (pa - 0x10000000000) / 0xC00000000)
  else if 0x400000000000 ≤ pa ∧ pa < 0x800000000000 then some (3, (pa - 0x400000000000) / 0x100000000000)
  else none

/-- The page of a partition that holds a virtual address (R351). -/
def State.page (s : State) (part : Nat) (va : Nat) : Option Page :=
  s.place.pages.find? fun q => q.part == part && q.vpage == va / 0x10000
/-- Slice offset of byte `o` of a window (R347): page by page, on the slice pages that Ringmaster chose (R361; log entry 19). -/
def pageMap (ps : List Nat) (o : Nat) : Nat := (ps[o / 0x10000]?).getD (o / 0x10000) * 0x10000 + o % 0x10000
/-- The physical address that a store aperture maps an address to (R356). -/
def State.aperture (s : State) (part va : Nat) : Option Nat :=
  s.place.groups.findSome? fun g =>
    if g.part == part && decide (g.gbase ≤ va) then
      let j := (va - g.gbase) / 0x4000000
      let o := (va - g.gbase) % 0x4000000
      match g.members[j]? with
      | some c => if o < g.lwl then some (c * 0x4000000 + pageMap ((g.wins[j]?).getD []) o) else none
      | none => none
    else none

/-- Stall cause of a home for R295: 1 stacks, 2 remote store or hub, 3 host. -/
def stallOfHome : Option (Nat × Nat) → Nat
  | some (1, _) => 1
  | some (2, _) => 1
  | some (3, _) => 3
  | _ => 2
/-- Where a partition address lies now, for R295. -/
def State.homeOfVa (s : State) (part va : Nat) : Option (Nat × Nat) :=
  match s.page part va with
  | some q => homeOf (q.home + va % 0x10000)
  | none => (s.aperture part va).bind homeOf

/-- The tags a piece of work holds at a time: of 1,024 it never has more (R290). -/
def Work.need (w : Work) : Nat := min w.tags Config.tags
/-- Tags a core holds (R289, R290), those counted on `cc8` to `cc15` only where `hid`. -/
def State.tags (s : State) (c : Nat) (hid : Bool) : Nat :=
  let k := s.core c
  ((s.works.filter fun w => w.core == c && w.stage != .untagged && (!hid || 8 ≤ w.cc)).map Work.need).sum +
    ((k.slots.toList.filter fun sl => !hid || 8 ≤ sl.cc).map fun sl => (sl.prog.pieces.filter (·.tag)).length).sum

/-- The slot whose engine moves a slot's data: the sender's for a receiver, with its core. -/
def State.source (s : State) (c : Nat) (sl : Slot) : Nat × Slot :=
  match sl.sender with
  | some (sc, ss) => (sc, vget (s.core sc).slots ss .reset)
  | none => (c, sl)
/-- Physical address of a core's slice (R345). -/
def sliceBase (c : Nat) : Nat :=
  if isHub c then 0x800000000 + dieOf c * 0x80000000 + ((c - 144) % 8) * 0x4000000 else c * 0x4000000
/-- Length of the local window: LWL, and never past the pages below the protected lines (R68, R71; log entry 32). -/
def Ident.winLen (i : Ident) : Nat := min i.lwl.toNat 0x3FE0000
/-- Slice offset of a window address. -/
def Ident.windowOfs (i : Ident) (a : Nat) : Nat := pageMap i.lwp (a - i.lwb.toNat)
def Core.slot (k : Core) (i : Nat) : Slot := vget k.slots i .reset
def State.slot (s : State) (c i : Nat) : Slot := (s.core c).slot i
/-- Ranges of memory a piece of work reads or writes. -/
def Work.ranges (w : Work) : List (Nat × Nat) :=
  (w.runs.map fun r => (r.1.toNat, r.2)) ++ (w.puts.map fun p => (p.1.toNat, p.2.length))
/-- Whether two ranges touch one 64-byte line. -/
def sameLine (a b : Nat × Nat) : Bool :=
  decide (a.1 / 64 ≤ (b.1 + b.2 - 1) / 64) && decide (b.1 / 64 ≤ (a.1 + a.2 - 1) / 64)

/-! ### Deadlines and tags of stream pieces (R289, R290, R293, R294) -/

/-- Twelve times the mean interval of a slot (R293). -/
def Slot.ival12 (sl : Slot) (d : SDesc) : Nat :=
  if sl.ivals.isEmpty then 12 * d.dline else sl.ivals.sum * (12 / sl.ivals.length)
/-- The issue time of a SACQ that waits on slot `i` of a core. -/
def Core.sacqSince (k : Core) (i : Nat) : Option Nat :=
  match k.wait with
  | some w => if w.kind == WaitKind.stream i then some w.start else none
  | none => none
/-- Twelve times the deadline of a read piece of segment `seg` for the consumer on slot `i` of core `t` (R293). -/
def readDue (s : State) (t i seg : Nat) (d : SDesc) : Nat :=
  let sl := s.slot t i
  match (s.core t).sacqSince i, decide (seg = sl.prog.acq) with
  | some w, true => 12 * w
  | _, _ => 12 * sl.t0 + (seg + 1 - sl.prog.acq) * sl.ival12 d
/-- Twelve times the deadline of the next piece of slot `i` (R293). -/
def State.due (s : State) (c i : Nat) : Nat :=
  let sl := s.slot c i
  match sl.desc with
  | none => 0
  | some d =>
    let seg := sl.prog.reqRow / d.segrows
    if d.write then
      match (s.core c).sacqSince i with
      | some w => 12 * w
      | none => 12 * sl.t0 + (sl.freePos d + 1) * sl.ival12 d
    else if sl.rcvs.isEmpty then readDue s c i seg d
    else
      ((sl.rcvs.filter (·.live)).filterMap fun r =>
        (s.memberCore sl.idn.group.toNat r.member.toNat).map fun t => readDue s t r.slot.toNat seg d)
      |> minOf |>.getD 0

/-- Work of a core that waits for tags. -/
def State.untagged (s : State) (c : Nat) : List Work := s.works.filter fun w => w.core == c && w.stage == Stage.untagged
/-- Whether a piece of deadline `due` that needs a tag must wait for one: all are held, or work that waits for tags goes first, with no
later deadline or on a line of the piece (R77, R290, R294). -/
def State.keptBack (s : State) (c due : Nat) (r : Nat × Nat) : Bool :=
  decide (Config.tags ≤ s.tags c false) || (s.untagged c).any fun w => decide (12 * w.time ≤ due) || w.ranges.any (sameLine r)

/-- Whether a stream is held for a receiver other than the one asking, `me`, or for one that has not joined, so that a row before `lim`
cannot be requested (R295). -/
def State.heldByPeer (s : State) (src : Nat × Slot) (d : SDesc) (me : Rcv → Bool) (lim : Nat) : Bool :=
  decide (src.2.prog.reqRow < min lim d.nrows) &&
  ((src.2.rcvs.any fun r => r.live && !r.bound) ||
   match s.slowest src.2 with
   | some r => decide (s.rcvPos src.2.idn.group.toNat r + d.nseg ≤ src.2.prog.reqRow / d.segrows) && !me r
   | none => false)
/-- Whether a slot's next piece awaits a tag: it is of a row that may be requested by now and that comes before row `lim`, lies
outside the core's own slice, and no tag is free for it (R289, R295). -/
def State.awaitsTag (s : State) (src : Nat × Slot) (d : SDesc) (lim : Nat) : Bool :=
  let sl := src.2
  let row := sl.prog.reqRow
  let seg := row / d.segrows
  let idx := s.mem.nat (sliceBase src.1 + sl.idn.windowOfs (d.idx.toNat + 4 * row)) 4
  let a := sl.prog.reqAddr.getD (d.mem + BitVec.ofNat 64 (if d.mode then idx else row) * d.pitch)
  let at_ := a.toNat + sl.prog.reqOff
  let i := (s.core src.1).slots.toList.findIdx fun q => q.st != SlotSt.free && q.id == sl.id
  decide (row < min lim d.nrows) && s.keptBack src.1 (s.due src.1 i) (at_, min (d.rowb - sl.prog.reqOff) (256 - at_ % 256)) &&
  (if d.write then decide (seg < sl.prog.rel) else !sl.rcvs.isEmpty || decide (seg < sl.prog.rel + d.nseg)) &&
  s.homeOfVa sl.part at_ != some (0, src.1)
/-- Cause of the stall of the segment a slot awaits, or of the whole stream: the first of the tests of R295 that holds. -/
def State.slotCause (s : State) (c : Nat) (sl : Slot) (stream : Bool) : Nat :=
  let src := s.source c sl
  if sl.gated || src.2.gated then 6
  else if sl.st == SlotSt.joined then 5
  else match src.2.desc with
    | none => 0
    | some d =>
      let me (r : Rcv) : Bool := sl.st == SlotSt.receive && s.rcvSlot src.2 r == some (c, sl.id)
      let lim := if stream then d.nrows else (sl.prog.acq + 1 - if d.write then d.nseg else 0) * d.segrows
      if s.heldByPeer src d me lim then 5
      else if s.awaitsTag src d lim then 4
      else match src.2.prog.pieces with
        | p :: _ => stallOfHome (s.homeOfVa src.2.part p.addr.toNat)
        | [] => stallOfHome (s.homeOfVa src.2.part d.mem.toNat)

/-- Whether a slot awaits a segment: the next one is not there yet and will come (R310; log entry 18). -/
def State.awaiting (s : State) (sl : Slot) : Bool :=
  match sl.st with
  | .free => false
  | .draining => false
  | .sender => match sl.desc with
    | some d => decide (sl.prog.reqRow < d.nrows) || !sl.prog.pieces.isEmpty ||
        (sl.rcvs.filter (·.live)).any fun r => decide (s.rcvPos sl.idn.group.toNat r < d.segs)
    | none => false
  | _ => !sl.avail && !sl.isEnded
/-- Whether a stream has failed or been dropped: a sender that only lost a receiver has not (R303, R310). -/
def Slot.hasFailed (sl : Slot) : Bool :=
  match sl.err with
  | some r => sl.rcvs.isEmpty || r.reason != 0x32
  | none => false
/-- SSTAT (R310). -/
def State.sstat (s : State) (c : Nat) (sl : Slot) : Nat :=
  let slow := if sl.st == .sender then s.slowest sl else none
  (match slow with | some r => 2 ^ 36 + r.member.toNat * 2 ^ 24 | none => 0) +
    (if s.awaiting sl then s.slotCause c sl (sl.st == .sender) else 0) * 2 ^ 20 + sl.held * 2 ^ 15 + sl.ready * 2 ^ 10 + b2n sl.gated * 2 ^ 9 +
    b2n sl.hasFailed * 2 ^ 8 + (sl.rcvs.filter (·.live)).length * 2 ^ 4 + sl.st.code

/-- The signals a level sees (R416). -/
def Core.sigSeen (k : Core) (p : Priv) : List SigEntry :=
  if k.idn.hide && p != .m then k.syn.sigq.filter fun e => e.group == k.idn.group.toNat else k.syn.sigq

/-- PSTAT (R486). -/
def State.pstat (s : State) (c : Nat) : Nat :=
  let m := s.margin (if isHub c then 152 + dieOf c else c)
  m.xtaps * 2 ^ 36 + m.vofs * 2 ^ 32 + (s.core c).pw.pstate.toNat * 2 ^ 24 + (s.core c).pw.vset * 2 ^ 12
/-- Seconds since a domain's last measurement, saturating (R486). -/
def State.calSec (s : State) (i : Nat) : Nat := min ((s.time - (s.margin i).calTime) / 1000000000) 65535
/-- SLACKMIN (R471): the smallest SLACK measured in the last hour, the last one where none was. -/
def State.slackMin (s : State) (i : Nat) : Nat :=
  let m := s.margin i
  (((m.hist.filter fun h => decide (s.time ≤ h.1 + 3600000000000)).map (·.2)) ++ [m.slack]).foldl min m.slack
def State.marginWord (s : State) (c : Nat) : Nat :=
  let i := if isHub c then 152 + dieOf c else c
  let m := s.margin i
  s.calSec i * 2 ^ 32 + s.slackMin i * 2 ^ 16 + m.slack * 2 ^ 8 + m.worst % 8

/-- Save-set register `i` of a bank (R107, R109, R110). -/
def SaveSet.reg (v : SaveSet) : Nat → Nat
  | 0 => v.epc.toNat
  | 1 => v.estat.word
  | 2 => v.ecause.toNat
  | 3 => v.edata0.toNat
  | 4 => v.edata1.toNat
  | 5 => v.ebtgt.toNat
  | _ => v.erepc.toNat
def RSet.reg (r : RSet) : Nat → Nat
  | 0 => r.rsp.toNat
  | 1 => r.rsb.toNat
  | _ => r.rsl.toNat

/-- The slot SSEL shows to a level: none where R310 or R416 hides it. -/
def Core.selSlot (k : Core) (p : Priv) : Option Slot :=
  if (p == .t && decide (14 ≤ k.ssel.toNat)) || (k.idn.hide && p != .m && decide (k.ssel.toNat < 8)) then none
  else some (vget k.slots k.ssel.toNat .reset)

/-- REPC as an instruction reads it (R87): a repetition that reads it has issued, so it sees those still to issue after itself. -/
def Flow.repcSeen (f : Flow) : BitVec 16 :=
  match f.rep with
  | some r => BitVec.ofNat 16 (r.left - 1)
  | none => f.repc
/-- The value of a register, by its explicit number, as a read at level `p` returns it (R16, R91). -/
def csrVal (s : State) (c : Nat) (p : Priv) (n : Nat) : Nat :=
  let k := s.core c
  let hid := k.idn.hide && p != .m
  if n ≤ 7 then s.feat n
  else if n = 0x10 then b2n k.ov * 2 + b2n k.dz
  else if n = 0x11 then k.ff.toNat
  else if 0x24 ≤ n ∧ n ≤ 0x26 then k.rsT.reg (n - 0x24)
  else if 0x28 ≤ n ∧ n ≤ 0x2A then k.rsS.reg (n - 0x28)
  else if 0x2C ≤ n ∧ n ≤ 0x2E then k.rsM.reg (n - 0x2C)
  else if n = 0x30 then k.flow.repcSeen.toNat
  else if n = 0x38 then k.idn.lwb.toNat
  else if n = 0x39 then k.idn.lwl.toNat
  else if n = 0x3C then k.idn.wtoDef.toNat
  else if 0x40 ≤ n ∧ n ≤ 0x47 then (vget k.car.cb (n - 0x40) 0).toNat
  else if 0x48 ≤ n ∧ n ≤ 0x4F then (vget k.car.cl (n - 0x48) 0).toNat
  else if 0x50 ≤ n ∧ n ≤ 0x57 then (vget k.car.cs (n - 0x50) 0).toNat
  else if 0x60 ≤ n ∧ n ≤ 0x6F then if hid ∧ n < 0x68 then 0 else k.outst (n - 0x60)
  else if n = 0x70 then if hid then k.cnt.ccerr.toNat / 256 * 256 else k.cnt.ccerr.toNat
  else if n = 0x100 then k.tr.status.word
  else if n = 0x101 then k.tr.ien.toNat
  else if n = 0x102 then k.tr.ipend.toNat
  else if n = 0x103 then b2n k.tr.trapov * 4 + b2n k.tr.trapdz * 2 + b2n k.tr.maint
  else if n = 0x108 then k.tr.dtidx.toNat
  else if 0x109 ≤ n ∧ n ≤ 0x10C then (vget k.tr.dtd (n - 0x109) 0).toNat
  else if 0x118 ≤ n ∧ n ≤ 0x11E then k.tr.save1.reg (n - 0x118)
  else if 0x120 ≤ n ∧ n ≤ 0x126 then k.tr.save2.reg (n - 0x120)
  else if n = 0x128 then k.tr.rescue.mrpc.toNat
  else if n = 0x129 then k.tr.rescue.mrstat.toNat
  else if n = 0x12A then k.tr.rescue.mrcause.toNat
  else if n = 0x12B then k.tr.rescue.mredata0.toNat
  else if n = 0x12C then k.tr.rescue.mredata1.toNat
  else if 0x130 ≤ n ∧ n ≤ 0x133 then (vget k.tr.rescue.scratch (n - 0x130) 0).toNat
  else if n = 0x200 then s.time
  else if n = 0x201 then b2n k.ev.tcmpEn * 2 ^ 63 + k.ev.tcmp.toNat
  else if n = 0x202 then k.tm.step
  else if n = 0x203 then k.ev.ovf.toNat
  else if n = 0x204 then k.ev.ien.toNat
  else if 0x210 ≤ n ∧ n ≤ 0x23F then (vget k.ev.evc (n - 0x210) 0).toNat
  else if 0x240 ≤ n ∧ n ≤ 0x24F then
    match s.part k.idn.part.toNat with
    | some q => (vget q.evc (n - 0x240) 0).toNat
    | none => 0
  else if 0x300 ≤ n ∧ n ≤ 0x30F then
    (vget k.tiles (n - 0x300) .reset).shape.word + b2n (s.inflight c (n - 0x300)) * 2 ^ 28
  else if n = 0x320 then k.arr.trowsm1.toNat * 2 ^ 8 + b2n k.arr.tent
  else if n = 0x321 then k.astat
  else if n = 0x322 then k.arepair
  else if n = 0x340 then k.arr.masks.row0.toNat
  else if n = 0x341 then k.arr.masks.row1.toNat
  else if n = 0x342 then k.arr.masks.blk.toNat
  else if n = 0x343 then min k.arr.upd.length 4 * 2 ^ 8 + b2n k.arr.skip
  else if n = 0x3F0 then k.arr.srkey.toNat
  else if n = 0x3F1 then k.arr.srctr.toNat
  else if n = 0x400 then k.ssel.toNat
  else if n = 0x401 then match k.selSlot p with | some sl => s.sstat c sl | none => 0
  else if n = 0x402 then match k.selSlot p with | some sl => sl.prog.doneRows % 2 ^ 40 | none => 0
  else if n = 0x403 then match k.selSlot p with | some sl => sl.prog.disc.toNat | none => 0
  else if n = 0x404 then s.tags c hid
  else if n = 0x420 then k.syn.barmask.toNat
  else if n = 0x421 then k.syn.barpend.toNat
  else if n = 0x422 then k.syn.barfail.toNat
  else if n = 0x423 then (vget k.syn.gens k.syn.barsel.toNat 0).toNat
  else if n = 0x424 then k.syn.barsel.toNat
  else if n = 0x425 then k.syn.lwmin.toNat
  else if n = 0x4FF then (k.sigSeen p).length
  else if n = 0x500 then b2n k.idn.cls * 256 + k.idn.part.toNat
  else if n = 0x501 then k.idn.group.toNat
  else if n = 0x502 then k.idn.count.toNat * 2 ^ 16 + k.idn.member.toNat
  else if n = 0x503 then k.idn.gbase.toNat * 2 ^ 26
  else if n = 0x510 then
    let w := ((s.armed.filter fun m => m.1 == c).map fun m => 2 ^ m.2.1).sum
    if hid then w / 16 * 16 else w
  else if n = 0x511 then if hid then k.mon.fired.toNat / 16 * 16 else k.mon.fired.toNat
  else if n = 0x512 then k.idn.taskseq.toNat
  else if n = 0x513 then b2n k.idn.hide * 2 + b2n k.idn.resv
  else if n = 0x520 then s.pstat c
  else if n = 0x521 then s.marginWord c
  else 0

/-- What CSRR returns at the current level: none where the access raises ILLEGAL_OP (R91). -/
def csrRead (s : State) (c : Nat) (n : BitVec 12) : Option Word :=
  let k := s.core c
  if csrLegal k n.toNat k.level then
    if csrAcc n.toNat k.level == .wo then some 0
    else some (BitVec.ofNat 64 (csrVal s c k.level (csrExplicit n.toNat k.level k.bank)))
  else none

/-! ### Writes, as they take effect -/

/-- New value of RW fields (R91). -/
def rwField (op : CsrOp) (old v : Word) : Word :=
  match op with
  | .write => v
  | .set => old ||| v
  | .clear => old &&& ~~~v
/-- New value of W1C fields (R91). -/
def w1cField (op : CsrOp) (old v : Word) : Word :=
  match op with
  | .clear => old
  | _ => old &&& ~~~v

def wbit (w : Word) (i : Nat) : Bool := w.getLsbD i
/-- Field `hi:lo` of a written value. -/
def wfield (w : Word) (hi lo : Nat) : Nat := bits w.toNat hi lo

/-- Address of descriptor `n` of a core's table (R98). -/
def descAddr (c n : Nat) : Nat := sliceBase c + 0x3FE0000 + 32 * n
/-- Doubleword `i` of descriptor `n`. -/
def State.descWord (s : State) (c n i : Nat) : Nat := s.mem.nat (descAddr c n + 8 * i) 8

def Estat.write (e : Estat) (op : CsrOp) (p : Priv) (v : Word) : Estat :=
  let w := rwField op (BitVec.ofNat 64 e.word) v
  { e with
    ppriv := BitVec.ofNat 2 (wfield w 11 10)
    pbank := if p == .s then e.pbank else BitVec.ofNat 2 (wfield w 9 8)
    pie := wbit w 7, ds := BitVec.ofNat 2 (wfield w 5 4), repip := wbit w 3, repu := wbit w 2, barw := wbit w 1 }

def SaveSet.write (sv : SaveSet) (i : Nat) (op : CsrOp) (p : Priv) (v : Word) : SaveSet :=
  match i with
  | 0 => { sv with epc := rwField op sv.epc v }
  | 1 => { sv with estat := sv.estat.write op p v }
  | 2 => sv
  | 3 => { sv with edata0 := rwField op sv.edata0 v }
  | 4 => { sv with edata1 := rwField op sv.edata1 v }
  | 5 => { sv with ebtgt := rwField op sv.ebtgt v }
  | _ => { sv with erepc := (rwField op (sv.erepc.setWidth 64) v).setWidth 16 }

/-- RSP, RSB and RSL hold bits 15:3 (R68). -/
def RSet.write (r : RSet) (i : Nat) (op : CsrOp) (v : Word) : RSet :=
  let f (old : BitVec 16) : BitVec 16 := (rwField op (old.setWidth 64) v).setWidth 16 &&& 0xFFF8
  match i with
  | 0 => { r with rsp := f r.rsp }
  | 1 => { r with rsb := f r.rsb }
  | _ => { r with rsl := f r.rsl }

/-- STATUS (R108): at S bits 11:8 are ignored, and so is the busy bit of the current bank. -/
def Status.write (st : Status) (op : CsrOp) (p : Priv) (v : Word) : Status :=
  let w := BitVec.ofNat 64 st.word
  let w1 := w1cField op w v
  let ok := p != .s
  { st with
    ie := wbit (rwField op w v) 0
    b2 := if ok && st.bank != .b2 then wbit w1 11 else st.b2
    b1 := if ok && st.bank != .b1 then wbit w1 10 else st.b1
    resc := if ok then wbit w1 8 else st.resc }

/-- MCTL (R123). -/
def TrapRegs.writeMctl (t : TrapRegs) (op : CsrOp) (v : Word) : TrapRegs :=
  let old : Word := BitVec.ofNat 64 (b2n t.trapov * 4 + b2n t.trapdz * 2 + b2n t.maint)
  let w := rwField op old v
  let m := wbit w 0
  { t with maint := m, trapdz := t.maint && m && wbit w 1, trapov := t.maint && m && wbit w 2 }

/-- TRESV (R416): clearing HIDE brings back the training task's firing and signals. -/
def Core.writeTresv (k : Core) (op : CsrOp) (v : Word) : Core :=
  let w := rwField op (BitVec.ofNat 64 (b2n k.idn.hide * 2 + b2n k.idn.resv)) v
  let k' := { k with idn := { k.idn with hide := wbit w 1, resv := wbit w 0 } }
  if k.idn.hide && !wbit w 1 then
    let k' := if k.mon.heldFire then (({ k' with mon := { k'.mon with heldFire := false } }).raise 3) else k'
    if k'.syn.sigq.isEmpty then k' else k'.raise 2
  else k'

/-- TCMP (R507): arming with a value already past fires at once. -/
def Core.writeTcmp (k : Core) (now : Nat) (op : CsrOp) (v : Word) : Core :=
  let w := rwField op (BitVec.ofNat 64 (b2n k.ev.tcmpEn * 2 ^ 63 + k.ev.tcmp.toNat)) v
  let k' := { k with ev := { k.ev with tcmpEn := wbit w 63, tcmp := w.setWidth 63 } }
  if wbit w 63 && decide ((w.setWidth 63).toNat ≤ now) then
    ({ k' with ev := { k'.ev with tcmpEn := false } }).raise 1
  else k'

/-- BARMASK (R334): a removed channel loses its arrival, its failure and its wire. -/
def Core.writeBarmask (k : Core) (op : CsrOp) (v : Word) : Core :=
  let w := (rwField op (k.syn.barmask.setWidth 64) v).setWidth 32
  let keep := w ||| ~~~k.syn.barmask
  { k with syn := { k.syn with
      barmask := w, barpend := k.syn.barpend &&& keep, barfail := k.syn.barfail &&& keep, wires := k.syn.wires &&& keep } }

/-- A write by CSRW, CSRS or CSRC issued at level `p`, by explicit register number, as it takes effect. -/
def csrLand (s : State) (c : Nat) (p : Priv) (op : CsrOp) (n : Nat) (v : Word) : State :=
  let k := s.core c
  let hid := k.idn.hide && p != .m
  let up (f : Core → Core) : State := s.upd c f
  if n = 0x10 then
    let w := w1cField op (BitVec.ofNat 64 (b2n k.ov * 2 + b2n k.dz)) v
    up fun k => { k with ov := wbit w 1, dz := wbit w 0 }
  else if n = 0x11 then up fun k => { k with ff := (w1cField op (k.ff.setWidth 64) v).setWidth 6 }
  else if 0x24 ≤ n ∧ n ≤ 0x26 then up fun k => { k with rsT := k.rsT.write (n - 0x24) op v }
  else if 0x28 ≤ n ∧ n ≤ 0x2A then up fun k => { k with rsS := k.rsS.write (n - 0x28) op v }
  else if 0x2C ≤ n ∧ n ≤ 0x2E then up fun k => { k with rsM := k.rsM.write (n - 0x2C) op v }
  else if n = 0x30 then
    up fun k => { k with flow := { k.flow with repc := (rwField op (k.flow.repc.setWidth 64) v).setWidth 16 } }
  else if n = 0x38 then up fun k => { k with idn := { k.idn with lwb := rwField op k.idn.lwb v } }
  else if n = 0x39 then up fun k => { k with idn := { k.idn with lwl := rwField op k.idn.lwl v } }
  else if n = 0x3C then up fun k => { k with idn := { k.idn with wtoDef := rwField op k.idn.wtoDef v } }
  else if 0x40 ≤ n ∧ n ≤ 0x47 then
    up fun k => { k with car := { k.car with cb := vset k.car.cb (n - 0x40) (rwField op (vget k.car.cb (n - 0x40) 0) v) } }
  else if 0x48 ≤ n ∧ n ≤ 0x4F then
    up fun k => { k with car := { k.car with
      cl := vset k.car.cl (n - 0x48) (rwField op (vget k.car.cl (n - 0x48) 0) v &&& 0x7FFFFFF) } }
  else if 0x50 ≤ n ∧ n ≤ 0x57 then
    up fun k => { k with car := { k.car with
      cs := vset k.car.cs (n - 0x50) (rwField op (vget k.car.cs (n - 0x50) 0) v &&& 0x80000000FFFFFFFF) } }
  else if n = 0x70 then
    let v1 := if p == .t then v &&& 0x3FFF else v
    let v2 := if hid then v1 &&& 0xFF00 else v1
    up fun k => { k with cnt := { k.cnt with ccerr := (w1cField op (k.cnt.ccerr.setWidth 64) v2).setWidth 16 } }
  else if n = 0x100 then up fun k => { k with tr := { k.tr with status := k.tr.status.write op p v } }
  else if n = 0x101 then
    let w := (rwField op (k.tr.ien.setWidth 64) v).setWidth 8
    let locked := ((List.range 8).map fun i =>
      if p == .s && bits (s.descWord c (0x20 + i) 2) 5 4 == 2 then 2 ^ i else 0).sum
    let lk : BitVec 8 := BitVec.ofNat 8 locked
    up fun k => { k with tr := { k.tr with ien := (k.tr.ien &&& lk) ||| (w &&& ~~~lk) } }
  else if n = 0x103 then up fun k => { k with tr := k.tr.writeMctl op v }
  else if n = 0x108 then up fun k => { k with tr := { k.tr with dtidx := (rwField op (k.tr.dtidx.setWidth 64) v).setWidth 8 } }
  else if 0x109 ≤ n ∧ n ≤ 0x10C then
    up fun k => { k with tr := { k.tr with
      dtd := vset k.tr.dtd (n - 0x109) (rwField op (vget k.tr.dtd (n - 0x109) 0) v) } }
  else if 0x118 ≤ n ∧ n ≤ 0x11E then up fun k => { k with tr := { k.tr with save1 := k.tr.save1.write (n - 0x118) op p v } }
  else if 0x120 ≤ n ∧ n ≤ 0x126 then up fun k => { k with tr := { k.tr with save2 := k.tr.save2.write (n - 0x120) op p v } }
  else if 0x130 ≤ n ∧ n ≤ 0x133 then
    up fun k => { k with tr := { k.tr with rescue := { k.tr.rescue with
      scratch := vset k.tr.rescue.scratch (n - 0x130) (rwField op (vget k.tr.rescue.scratch (n - 0x130) 0) v) } } }
  else if n = 0x201 then up fun k => k.writeTcmp s.time op v
  else if n = 0x203 then up fun k => { k with ev := { k.ev with ovf := w1cField op k.ev.ovf v } }
  else if n = 0x204 then up fun k => { k with ev := { k.ev with ien := rwField op k.ev.ien v } }
  else if 0x210 ≤ n ∧ n ≤ 0x22D then
    up fun k => { k with ev := { k.ev with
      evc := vset k.ev.evc (n - 0x210) ((rwField op ((vget k.ev.evc (n - 0x210) 0).setWidth 64) v).setWidth 48) } }
  else if 0x240 ≤ n ∧ n ≤ 0x24F then
    s.updPart k.idn.part.toNat fun q => { q with
      evc := vset q.evc (n - 0x240) ((rwField op ((vget q.evc (n - 0x240) 0).setWidth 64) v).setWidth 48) }
  else if n = 0x320 then
    let w := rwField op (BitVec.ofNat 64 (k.arr.trowsm1.toNat * 256 + b2n k.arr.tent)) v
    up fun k => { k with arr := { k.arr with tent := wbit w 0, trowsm1 := BitVec.ofNat 5 (wfield w 12 8) } }
  else if n = 0x340 then
    up fun k => { k with arr := { k.arr with masks := { k.arr.masks with row0 := rwField op k.arr.masks.row0 v } } }
  else if n = 0x341 then
    up fun k => { k with arr := { k.arr with masks := { k.arr.masks with row1 := rwField op k.arr.masks.row1 v } } }
  else if n = 0x342 then
    up fun k => { k with arr := { k.arr with masks := { k.arr.masks with blk := rwField op k.arr.masks.blk v } } }
  else if n = 0x343 then
    up fun k => { k with arr := { k.arr with skip := wbit (w1cField op (BitVec.ofNat 64 (b2n k.arr.skip)) v) 0 } }
  else if n = 0x3F0 then up fun k => { k with arr := { k.arr with srkey := rwField op k.arr.srkey v, srSet := true } }
  else if n = 0x3F1 then up fun k => { k with arr := { k.arr with srctr := rwField op k.arr.srctr v } }
  else if n = 0x400 then up fun k => { k with ssel := (rwField op (k.ssel.setWidth 64) v).setWidth 4 }
  else if n = 0x420 then
    let gone := k.syn.barmask &&& ~~~(rwField op (k.syn.barmask.setWidth 64) v).setWidth 32
    let s' := up fun k => k.writeBarmask op v
    { s' with works := s'.works.filter fun w =>
        match w.kind with
        | .barArr ch => !(w.core == c && gone.getLsbD ch.toNat)
        | _ => true }
  else if n = 0x422 then
    up fun k => { k with syn := { k.syn with barfail := (w1cField op (k.syn.barfail.setWidth 64) v).setWidth 32 } }
  else if n = 0x424 then
    up fun k => { k with syn := { k.syn with barsel := (rwField op (k.syn.barsel.setWidth 64) v).setWidth 5 } }
  else if n = 0x425 then
    up fun k => { k with syn := { k.syn with lwmin := (rwField op (k.syn.lwmin.setWidth 64) v).setWidth 32 } }
  else if n = 0x500 then
    let w := rwField op (BitVec.ofNat 64 (b2n k.idn.cls * 256 + k.idn.part.toNat)) v
    up fun k => { k with idn := { k.idn with cls := wbit w 8, part := BitVec.ofNat 6 (wfield w 5 0) } }
  else if n = 0x501 then
    up fun k => { k with idn := { k.idn with group := (rwField op (k.idn.group.setWidth 64) v).setWidth 32 } }
  else if n = 0x502 then
    let w := rwField op (BitVec.ofNat 64 (k.idn.count.toNat * 2 ^ 16 + k.idn.member.toNat)) v
    up fun k => { k with idn := { k.idn with
      count := BitVec.ofNat 12 (wfield w 27 16), member := BitVec.ofNat 12 (wfield w 11 0) } }
  else if n = 0x503 then
    let w := rwField op (BitVec.ofNat 64 (k.idn.gbase.toNat * 2 ^ 26)) v
    up fun k => { k with idn := { k.idn with gbase := BitVec.ofNat 38 (wfield w 63 26) } }
  else if n = 0x511 then
    let v1 := if p == .t then v &&& ~~~0xC0 else v
    let v2 := if hid then v1 &&& ~~~0xF else v1
    up fun k => { k with mon := { k.mon with fired := w1cField op k.mon.fired v2 } }
  else if n = 0x512 then up fun k => { k with idn := { k.idn with taskseq := rwField op k.idn.taskseq v } }
  else if n = 0x513 then up fun k => k.writeTresv op v
  else s

end Sys2Proof.Machine
end

