-- ==== Sys2Proof/Machine/Ops.lean ====
section
/-! DEFINITION. Memory and its poison, address translation, the landing of pending writes, and the entry of an exception. -/

namespace Sys2Proof.Machine

/-! ### Physical memory (R345, R447, R450) -/

/-- Bytes of the coded unit that holds an address: a 32-byte word of a slice or hub, a 64-byte line of a
stack; 0 for host memory, whose code is not the part's. -/
def ecUnit (pa : Nat) : Nat :=
  match homeOf pa with
  | some (1, _) => 64
  | some (2, _) => 64
  | some (3, _) => 0
  | _ => 32
/-- Whether a unit that overlaps `[pa, pa + n)` is poisoned. -/
def State.isPoisoned (s : State) (pa n : Nat) : Bool :=
  s.poison.any fun u => decide (u < pa + n ∧ pa < u + ecUnit u)
/-- Whether an address lies in a page that is poisoned as a whole: only its release or its restoration ends that (R364). -/
def State.lostAt (s : State) (pa : Nat) : Bool := s.place.pages.any fun q => q.lost && decide (q.home ≤ pa ∧ pa < q.home + 0x10000)
def State.clearPoison (s : State) (u : Nat) : State := { s with poison := s.poison.filter (· != u) }
def State.setPoison (s : State) (u : Nat) : State := if s.poison.contains u then s else { s with poison := u :: s.poison }

/-- A write to a page sets its dirty bits (R426). -/
def State.markDirty (s : State) (pa n : Nat) : State :=
  { s with place := { s.place with pages := s.place.pages.map fun q =>
      if q.home < pa + n ∧ pa < q.home + 0x10000 then { q with dirtyA := true, dirtyB := true } else q } }
/-- A monitor's bit in WFIRED and the WATCH interrupt, held back under TRESV.HIDE (R380, R416). -/
def Core.fire (k : Core) (m : Nat) : Core :=
  let k' := { k with mon := { k.mon with fired := k.mon.fired ||| BitVec.ofNat 64 (2 ^ m) } }
  if k.idn.hide && decide (m < 4) then { k' with mon := { k'.mon with heldFire := true } } else k'.raise 3
/-- Armed monitors fire: each is disarmed, its bit set (R380). -/
def State.fireAll (s : State) (ms : List (Nat × Nat × Nat)) : State :=
  ms.foldl (fun s m => ({ s with armed := s.armed.erase m }).upd m.1 fun k => k.fire m.2.1) s
/-- A supervisor core's monitor that fires for a write of the first doubleword of its line, a record's header, is timed (R412). -/
def State.timeFires (s : State) (pa n : Nat) (ms : List (Nat × Nat × Nat)) : State :=
  ms.foldl (fun s m =>
    if isHub m.1 && decide (m.2.2 < pa + n ∧ pa < m.2.2 + 8) then
      { s with host := { s.host with fires := assocSet s.host.fires m.2.2 s.time } }
    else s) s
/-- A write of `[pa, pa + n)` by an agent: core number `who`, or another agent for 160 and more. -/
def State.fireOn (s : State) (pa n who : Nat) : State :=
  match s.armed.filter fun m => m.1 != who && decide (m.2.2 < pa + n ∧ pa < m.2.2 + 64) with
  | [] => s
  | ms => (s.timeFires pa n ms).fireAll ms

/-- The bytes written to a physical range by an agent: the dirty bits are set and monitors fire. -/
def State.writePhys (s : State) (pa : Nat) (bs : List Byte) (who : Nat := 160) : State :=
  (({ s with mem := s.mem.put pa bs }).markDirty pa bs.length).fireOn pa bs.length who

/-- A range cut at multiples of `u`: pieces with their addresses. -/
def cutUnits (u : Nat) : Nat → Nat → List Byte → List (Nat × List Byte)
  | 0, _, _ => []
  | fuel + 1, a, bs =>
    if bs.isEmpty then [] else
      let n := u - a % u
      (a, bs.take n) :: cutUnits u fuel (a + n) (bs.drop n)

/-- A local store (R72, R451): the bytes are written; a unit written whole loses its poison, a unit
written in part keeps it. -/
def State.storeLocal (s : State) (pa : Nat) (bs : List Byte) (who : Nat := 160) : State :=
  (cutUnits 32 (bs.length + 1) pa bs).foldl
    (fun s p => if p.2.length = 32 then s.clearPoison p.1 else s) (s.writePhys pa bs who)

/-- A far write, unit by unit (R364, R448, R451): a unit written in part that is poisoned keeps none of the bytes, nor any of a page
that is poisoned as a whole, and the access fails with POISONED. -/
def State.storeFar (s : State) (pa : Nat) (bs : List Byte) (who : Nat := 160) : State × Option Byte :=
  let u := ecUnit pa
  if u = 0 then (s.writePhys pa bs who, none) else
    (cutUnits u (bs.length + 1) pa bs).foldl
      (fun (r : State × Option Byte) p =>
        if r.1.lostAt p.1 then (r.1, r.2.orElse fun _ => some 0x52)
        else if p.2.length = u then ((r.1.writePhys p.1 p.2 who).clearPoison p.1, r.2)
        else if r.1.isPoisoned p.1 p.2.length then (r.1, r.2.orElse fun _ => some 0x52)
        else (r.1.writePhys p.1 p.2 who, r.2)) (s, none)

/-- A far or local read: the bytes, or POISONED. -/
def State.readPhys (s : State) (pa n : Nat) : Except Byte (List Byte) :=
  if s.isPoisoned pa n || s.lostAt pa then .error 0x52 else .ok (s.mem.bytes pa n)

/-- Whether the home of a physical address is in service (R346, R353). -/
def State.homeUp (s : State) (pa : Nat) : Bool :=
  match homeOf pa with
  | some (0, c) => (s.core c).inSvc
  | some (1, n) => (s.stack n).insvc
  | some (2, n) => (s.stack n).insvc
  | some (3, p) => (s.port p).st == .active
  | some (_, h) => (s.hub h).insvc
  | none => false

/-- The protected lines of a slice (R68, R98): no load, store, far access or stream reaches them, and the rest of their two
pages is read by nothing. -/
def protectedPa (pa : Nat) : Bool :=
  match homeOf pa with
  | some (0, _) => decide (0x3FE0000 ≤ pa % 0x4000000)
  | some (4, _) => decide (pa % 0x80000000 < 8 * 0x4000000) && decide (0x3FE0000 ≤ pa % 0x4000000)
  | _ => false

/-- Permission of a page at a level (R351). -/
def Page.allows (q : Page) (p : Priv) (rd wr : Bool) : Bool :=
  match p with
  | .t => (!rd || q.rights.getLsbD 0) && (!wr || q.rights.getLsbD 1)
  | .s => (!rd || q.rights.getLsbD 2) && (!wr || q.rights.getLsbD 3)
  | .m => true

/-- Translation of a partition address at a level (R351, R353, R356): a page, then a store aperture,
then at M a physical address that holds something (log entry 10); UNMAPPED, NO_PERM or UNAVAILABLE, and POISONED for a page
that lost its home and found no other (R364; log entry 19). -/
def State.translate (s : State) (part : Nat) (p : Priv) (rd wr : Bool) (va : Nat) : Except Byte Nat :=
  let r : Except Byte Nat :=
    if 2 ^ 48 ≤ va then .error 0x50 else
      match s.page part va with
      | some q => if !q.allows p rd wr then .error 0x51 else if 2 ^ 48 ≤ q.home then .error 0x52 else .ok (q.home + va % 0x10000)
      | none =>
        match s.aperture part va with
        | some pa => .ok pa
        | none => if p == .m ∧ (homeOf va).isSome then .ok va else .error 0x50
  match r with
  | .error e => .error e
  | .ok pa => if protectedPa pa then .error 0x50 else if s.homeUp pa then .ok pa else .error 0x53

/-- Whether every byte of a range is mapped with the permissions at a level (R118). -/
def State.mapped (s : State) (part : Nat) (p : Priv) (wr : Bool) (base len : Nat) : Bool :=
  if len = 0 then true
  else if 2 ^ 64 < base + len then false
  else (List.range ((base + len - 1) / 0x10000 - base / 0x10000 + 1)).all fun i =>
    let lo := max base ((base / 0x10000 + i) * 0x10000)
    let hi := min (base + len) ((base / 0x10000 + i + 1) * 0x10000)
    match s.page part lo with
    | some q => q.allows p true wr
    | none => (s.aperture part lo).isSome && (s.aperture part (hi - 1)).isSome

/-- A range cut at page boundaries. -/
def cutPages : Nat → Nat → Nat → List (Nat × Nat)
  | 0, _, _ => []
  | fuel + 1, a, n =>
    if n = 0 then [] else
      let m := min n (0x10000 - a % 0x10000)
      (a, m) :: cutPages fuel (a + m) (n - m)
def pagesOf (a n : Nat) : List (Nat × Nat) := cutPages (n / 0x10000 + 2) a n

/-! ### The local window (R71) -/

def Ident.inWindow (i : Ident) (a n : Nat) : Bool := decide (i.lwb.toNat ≤ a ∧ a + n ≤ i.lwb.toNat + i.winLen)
def Core.inWindow (k : Core) (a : Nat) (n : Nat) : Bool := k.idn.inWindow a n
/-- The slice address of a window address. -/
def State.windowPa (s : State) (c : Nat) (a : Nat) : Nat := sliceBase c + (s.core c).idn.windowOfs a
/-- The physical ranges of `n` window bytes of an identity on core `c`, page by page. -/
def Ident.runs (i : Ident) (c a n : Nat) : List (Nat × Nat) :=
  (pagesOf (a - i.lwb.toNat) n).map fun q => (sliceBase c + pageMap i.lwp q.1, q.2)
/-- Bytes of a window range, and whether a word of it is poisoned. -/
def State.windowBytes (s : State) (c a n : Nat) : List Byte :=
  ((s.core c).idn.runs c a n).flatMap fun q => s.mem.bytes q.1 q.2
def State.windowBad (s : State) (c a n : Nat) : Bool := ((s.core c).idn.runs c a n).any fun q => s.isPoisoned q.1 q.2

/-! ### Landing (R60 to R64, R103) -/

/-- FLAGS as a descriptor holds it: its RSVD bits 63:20, 13:12, 7:6 and 3:1 ignore writes and read zero (R16, R99). -/
def flagsHeld (w : Word) : Word := w &&& 0xFCF31
/-- Store captured doublewords into descriptor `idx` (R99, R101). -/
def State.setDesc (s : State) (c : Nat) (idx : Nat) (d : Vector Word 4) : State :=
  s.storeLocal (descAddr c idx) ((d.set 2 (flagsHeld d[2])).toList.flatMap fun w => leBytes 8 w.toNat) c
/-- Load a descriptor into DTD0 to DTD3; at S, zeros where DELEG is 0 (R101). -/
def State.loadDesc (s : State) (c : Nat) (p : Priv) (idx : Nat) : State :=
  let z := p == .s && !bitOf (s.descWord c idx 2) 11
  s.upd c fun k => { k with tr := { k.tr with
    dtd := Vector.ofFn fun i => if z then 0 else BitVec.ofNat 64 (s.descWord c idx i.val) } }

/-- One pending write takes effect. -/
def landOne (c : Nat) (s : State) (p : Pend) : State :=
  match p.what with
  | .x b r v => s.upd c fun k => k.setX b r v
  | .f r v => s.upd c fun k => k.setF r v
  | .v r v => s.upd c fun k => k.setV r v
  | .aflags ov dz => s.upd c fun k => { k with ov := k.ov || ov, dz := k.dz || dz }
  | .fflags f => s.upd c fun k => k.orFF f
  | .evc i => s.upd c fun k => k.count i 1
  | .rsp pr v => s.upd c fun k => k.setRs pr { k.rs pr with rsp := v }
  | .csr pr op num v => csrLand s c pr op num v
  | .dtw wr rd pr idx d =>
    let s := if wr then s.setDesc c idx.toNat d else s
    if rd then s.loadDesc c pr idx.toNat else s

/-- Every pending write of a core due at or before step `t` lands, in landing order (R61 to R63). -/
def landUpTo (c t : Nat) (s : State) : State :=
  let k := s.core c
  let s' := s.upd c fun k => { k with tm := { k.tm with pend := k.tm.pend.dropWhile (fun p => p.land ≤ t) } }
  (k.tm.pend.takeWhile (fun p => p.land ≤ t)).foldl (landOne c) s'
/-- Landing step of the latest pending write, 0 with none (R103); that of a read found uncorrectable is its fault's. -/
def Core.lastLand (k : Core) : Nat := (k.tm.pend.map (·.land) ++ k.tm.delayed.map (·.due)).foldl max 0
/-- Every pending write lands (R103 step 1). -/
def landAll (c : Nat) (s : State) : State := landUpTo c (s.core c).lastLand s

/-! ### Descriptors (R99, R100) -/

/-- A descriptor as stored. -/
structure Desc where
  haddr : Nat
  hsp   : Nat
  flags : Nat
  extra : Nat     -- COOKIE or ARG0 to ARG7
deriving DecidableEq, Repr

def State.desc (s : State) (c n : Nat) : Desc :=
  ⟨s.descWord c n 0, s.descWord c n 1, s.descWord c n 2, s.descWord c n 3⟩
def Desc.argc (d : Desc) : Nat := bits d.flags 19 16
def Desc.minpriv (d : Desc) : Nat := bits d.flags 15 14
def Desc.tpriv (d : Desc) : Nat := bits d.flags 5 4
def Desc.arg (d : Desc) (i : Nat) : Nat := bits d.extra (8 * i + 7) (8 * i)
def Desc.bank (d : Desc) : Bank := Bank.dec (bits d.flags 9 8)

/-- The ARG bytes of a gate descriptor (R118). -/
def Desc.argsOk (d : Desc) : Bool :=
  (List.range 8).all fun i =>
    let a := d.arg i
    if d.argc ≤ i then a == 0 else
      !(bitOf a 7 && i + 1 == d.argc) && !(bitOf a 6 && !bitOf a 7)

/-- Validity of descriptor `n`, judged when it is used (R100). -/
def Desc.valid (d : Desc) (n : Nat) : Bool :=
  bitOf d.flags 0 && (bitOf d.flags 10 == decide (0x80 ≤ n)) && decide (d.haddr % 4 = 0) &&
  if n = 0x1F then d.argc == 0 && d.minpriv == 0
  else
    (d.tpriv == 1 || d.tpriv == 2) && (bits d.flags 9 8 == 1 || bits d.flags 9 8 == 2) && decide (d.hsp % 8 = 0) &&
    (n != 0x1E || d.tpriv == 2) &&
    (if 0x80 ≤ n then decide (d.argc ≤ 8) && decide (d.minpriv ≤ 2) && d.argsOk else d.argc == 0 && d.minpriv == 0)

/-! ### Entry (R102 to R106, R110, R115, R116) -/

/-- Where a cause is delivered (R102): held, rescue, or a bank through a descriptor; `esc` where it escalated. -/
inductive Route
  | hold
  | rescue (esc : Bool)
  | enter (n : Nat) (esc : Bool) (b : Bank)
deriving DecidableEq, Repr

def Bank.other : Bank → Bank
  | .b1 => .b2
  | _ => .b1

/-- The bank for descriptor `n` (R102). -/
def routeBank (s : State) (c n : Nat) (esc async : Bool) : Route :=
  let st := (s.core c).tr.status
  let b := (s.desc c n).bank
  let b := if st.busy b then b.other else b
  if st.busy b then (if async then .hold else .rescue esc) else .enter n esc b

/-- Delivery of cause `n` at the present level (R102). -/
def routeOf (s : State) (c n : Nat) (async : Bool) : Route :=
  let d := s.desc c n
  if !d.valid n then
    if n = 0x1E then .rescue false
    else if (s.desc c 0x1E).valid 0x1E then routeBank s c 0x1E true async else .rescue true
  else if d.tpriv < (s.core c).level.num then
    if async then .hold
    else if (s.desc c 0x1E).valid 0x1E then routeBank s c 0x1E true async else .rescue true
  else routeBank s c n false async

/-- ECAUSE (R110): an escalated cause is CAUSE 0x1E with the original cause and reason beside it. -/
def ecauseOf (t : Trap) (esc : Bool) : Word :=
  let i := t.index.toNat * 2 ^ 16
  BitVec.ofNat 64 (if esc then t.reason.toNat * 2 ^ 32 + i + t.cause.toNat * 2 ^ 8 + 0x1E
    else i + t.reason.toNat * 2 ^ 8 + t.cause.toNat)

/-- The first instruction not yet issued: the REP's address within a repeat (R89, R104). -/
def Flow.resume (f : Flow) : Word :=
  match f.rep with
  | some r => r.pc
  | none => f.pc
/-- ESTAT.DS: which delay slot EPC is (R109, R113). -/
def Flow.ds (f : Flow) : Nat := if f.slots = 0 then 0 else 3 - f.slots

/-- The flow of a handler that begins at `pc`; REPC keeps its value. -/
def Flow.handler (f : Flow) (pc : Word) : Flow := ⟨pc, 0, 0, none, false, none, f.repc, false⟩

/-- What one entry writes (R103, R104), all pending writes landed: bank `b`, descriptor `n`. -/
def enterBank (c n : Nat) (b : Bank) (t : Trap) (esc gate barw async : Bool) (h : Nat) (s : State) : State :=
  let d := s.desc c n
  s.upd c fun k =>
    let old := k.tr.save b
    let f := k.flow
    let e : Estat := {
      hpriv := BitVec.ofNat 2 d.tpriv, ceil := BitVec.ofNat 2 k.level.num, ppriv := BitVec.ofNat 2 k.level.num,
      pbank := BitVec.ofNat 2 k.bank.num, pie := k.tr.status.ie, gate := gate, ds := BitVec.ofNat 2 f.ds,
      repip := f.rep.isSome, repu := (f.rep.map (·.u)).getD false, barw := barw }
    let sv : SaveSet := {
      epc := t.epc.getD f.resume, estat := e, ecause := ecauseOf t esc, edata0 := t.edata0, edata1 := t.edata1,
      ebtgt := if f.slots = 0 then 0 else f.btgt,
      erepc := match f.rep with | some r => BitVec.ofNat 16 r.left | none => 0 }
    let zero : Vector Word 32 := Vector.replicate 32 0
    let x1 := if d.tpriv < old.estat.hpriv.toNat then
        (match b with
         | .b2 => { k.x with b2 := zero }
         | _ => { k.x with b1 := zero })
      else k.x
    let x2 := if d.hsp = 0 then x1 else x1.set b 2 (BitVec.ofNat 64 d.hsp)
    let x3 := if 0x80 ≤ n then
        (List.range d.argc).foldl (fun xs i => xs.set b (BitVec.ofNat 5 (10 + i)) (k.rx (BitVec.ofNat 5 (10 + i)))) x2
      else x2.set b 3 (BitVec.ofNat 64 d.extra)
    let k' := { k with
      x := x3
      tr := { (k.tr.setSave b sv) with
        status := { (k.tr.status.setBusy b true) with priv := Priv.dec d.tpriv, bank := b, ie := false } }
      flow := f.handler (BitVec.ofNat 64 d.haddr)
      wait := none
      arr := { k.arr with svalid := false } }
    (k'.count (if async then 25 else 24) 1).idleTo h

/-- The core stops issue and the lead hub records it (R116). -/
def stopCore (c : Nat) (s : State) : State :=
  let r := (s.core c).tr.rescue
  (s.upd c fun k => { k with pw := { k.pw with stopped := true }, wait := none }).logAdd 0x05 3 (s.core c).logPart
    (if isHub c then unitOf 2 (dieOf c) else unitOf 0 c) r.mrpc.toNat r.mrcause.toNat r.mredata0.toNat r.mredata1.toNat

/-- Rescue entry (R115): the rescue record, and the handler of descriptor 0x1F at M. -/
def enterRescue (c : Nat) (t : Trap) (esc async : Bool) (h : Nat) (s : State) : State :=
  let d := s.desc c 0x1F
  let s' := s.upd c fun k =>
    { k with tr := { k.tr with rescue := { k.tr.rescue with
        mrpc := t.epc.getD k.flow.resume, mrstat := BitVec.ofNat 64 k.tr.status.word, mrcause := ecauseOf t esc,
        mredata0 := t.edata0, mredata1 := t.edata1 } } }
  if d.valid 0x1F then
    s'.upd c fun k =>
      let k' := { k with
        tr := { k.tr with status := { k.tr.status with priv := .m, ie := false, resc := true } }
        flow := k.flow.handler (BitVec.ofNat 64 d.haddr)
        wait := none
        arr := { k.arr with svalid := false } }
      (k'.count (if async then 25 else 24) 1).idleTo h
  else stopCore c s'

/-- A synchronous cause with all pending writes landed: R116 while a rescue is in progress, else R102. -/
def enterSync (c : Nat) (t : Trap) (h : Nat) (s : State) : State :=
  if (s.core c).tr.status.resc then stopCore c s else
    match routeOf s c t.cause.toNat false with
    | .enter n esc b => enterBank c n b t esc (decide (0x80 ≤ t.cause.toNat) && !esc) false false h s
    | .rescue esc => enterRescue c t esc false h s
    | .hold => s

/-- The asynchronous cause that may be taken before the next instruction: the lowest pending one that is
enabled, targets the level or above, and finds a bank free (R111). -/
def readyInterrupt (s : State) (c : Nat) : Option Nat :=
  let k := s.core c
  let f := k.flow
  let held := decide (f.slots ≠ 0) || f.jump.isSome || f.hold || (match f.rep with | some r => r.u | none => false)
  if !k.tr.status.ie || held || (k.tr.status.b1 && k.tr.status.b2) then none else
    (List.range 8).find? fun i =>
      (k.tr.ipend &&& k.tr.ien).getLsbD i && decide (k.level.num ≤ (s.desc c (0x20 + i)).tpriv)

/-! ### Causes (R97) -/

def illegal (e : Enc) (reason : Byte) : Trap := { cause := 1, reason := reason, edata0 := e.data }
def misaligned (a pc : Word) (i : Nat) : Trap :=
  { cause := 2, index := BitVec.ofNat 16 i, edata0 := a, edata1 := pc }
def busError (a pc : Word) (reason : Byte) (i : Nat) : Trap :=
  { cause := 3, reason := reason, index := BitVec.ofNat 16 i, edata0 := a, edata1 := pc }
def carCfg (set : Nat) : Trap := { cause := 4, index := BitVec.ofNat 16 set }
/-- CAR_CFG of a vector access (R166, R171): no element of it passes, so INDEX is element 0, EDATA0 its address; the set number
stands in the one field left for it, REASON (log entry 33). -/
def carCfgV (set : Nat) (a pc : Word) : Trap := { cause := 4, reason := BitVec.ofNat 8 set, edata0 := a, edata1 := pc }
def ccLimit (n : Nat) : Trap := { cause := 5, index := BitVec.ofNat 16 n }

end Sys2Proof.Machine
end

