-- ==== Sys2Proof/Machine/Tiles.lean ====
section
/-! DEFINITION. Tile formats, rows and conversions; what TLD, TST, TMOV and TZERO compute (06_tile_files). -/

namespace Sys2Proof.Machine

/-! ### Formats and files (R172, R175) -/

/-- The files of R172. -/
inductive TFile | mt | acc | vt
deriving DecidableEq, Repr

def fileOf (t : Nat) : TFile := if t < 8 then .mt else if t < 12 then .acc else .vt
/-- Bytes of a row slot (R172). -/
def slotBytes (t : Nat) : Nat := if fileOf t = .acc then 512 else 256

/-- Element width in bits of a format code (R149, R175); 0 for a code no tile takes. -/
def fmtBits (f : Nat) : Nat :=
  match f with
  | 0 => 8
  | 2 => 32
  | 4 => 32
  | 5 => 16
  | 6 => 16
  | 7 => 8
  | 8 => 8
  | 9 => 4
  | 10 => 4
  | 11 => 1
  | _ => 0
/-- Largest column count of a format in a file, 0 where not allowed (R175). -/
def maxCols (fl : TFile) (f : Nat) : Nat :=
  match fl, f with
  | .mt, 0 => 256
  | .mt, 5 => 128
  | .mt, 6 => 128
  | .mt, 7 => 256
  | .mt, 8 => 256
  | .mt, 9 => 512
  | .mt, 10 => 512
  | .mt, 11 => 2048
  | .acc, 2 => 128
  | .acc, 4 => 128
  | .vt, 0 => 256
  | .vt, 2 => 64
  | .vt, 4 => 64
  | .vt, 5 => 128
  | .vt, 6 => 128
  | .vt, 7 => 256
  | .vt, 8 => 256
  | .vt, 9 => 512
  | _, _ => 0
/-- Column multiple of a format (R175). -/
def colMult (f : Nat) : Nat :=
  match f with
  | 9 => 2
  | 10 => 32
  | 11 => 8
  | _ => 1
/-- Memory element size in bytes, 1 below 8 bits (R194). -/
def elemBytes (f : Nat) : Nat := max 1 (fmtBits f / 8)

/-- The floating-point format of a code. -/
def fmtOf (f : Nat) : Fmt :=
  match f with
  | 5 => bf16
  | 6 => fp16
  | 7 => e4m3
  | 8 => e5m2
  | _ => fp32
/-- Value of an element of a format that carries no scale (R125, R128). -/
def elemFV (f v : Nat) : FV :=
  match f with
  | 0 => .ofInt (sextInt 8 v)
  | 2 => .ofInt (sextInt 32 v)
  | 9 => .ofInt (sextInt 4 v)
  | _ => (fmtOf f).decode v
/-- An integer in `n` bits. -/
def intCode (n : Nat) (i : Int) : Nat := (BitVec.ofInt n i).toNat
/-- Conversion of a value to an element that carries no scale (R137). -/
def convElem (tgt : Nat) (ovf : Bool) (rnd : Rnd) (v : FV) : Nat × FF :=
  match tgt with
  | 0 => let (i, f) := v.toInt rnd 8; (intCode 8 i, f)
  | 2 => let (i, f) := v.toInt rnd 32; (intCode 32 i, f)
  | 9 => let (i, f) := v.toInt rnd 4; (intCode 4 i, f)
  | 11 => let (b, f) := v.toBin; (b2n b, f)
  | t => (fmtOf t).convert rnd ovf v
/-- The pairs of R193. -/
def cvtPair (src tgt : Nat) : Bool :=
  src == tgt ||
  match src with
  | 4 => [5, 6, 7, 8, 10, 0, 9, 2, 11].contains tgt
  | 10 => [4, 5, 6, 7, 8].contains tgt
  | 0 => [4, 5, 6, 7, 8].contains tgt
  | 9 => [4, 5, 6, 7, 8].contains tgt
  | 2 => tgt == 4
  | 11 => false
  | _ => [4, 5, 6, 7, 8, 10, 0, 9, 11].contains tgt

/-! ### Rows -/

/-- A row of elements: their codes, and the scale bytes of its blocks when E2M1. -/
structure TRow where
  codes  : List Nat
  scales : List Byte
deriving DecidableEq, Repr

/-- A list cut into runs of `n`. -/
def chunks {α : Type} (n : Nat) : Nat → List α → List (List α)
  | 0, _ => []
  | k + 1, l => if l.isEmpty then [] else l.take n :: chunks n k (l.drop n)

/-- The values of a row in format `f` (R125 to R131). -/
def TRow.vals (f : Nat) (r : TRow) : List FV :=
  if f = 10 then
    ((chunks 32 r.codes.length r.codes).zip r.scales).flatMap fun p => p.1.map (decodeE2m1 p.2)
  else r.codes.map (elemFV f)

/-- Conversion of a row, with the flags of each element, of each block for an E2M1 target (R132, R137, R193); a format to
itself copies. -/
def TRow.convert (src tgt : Nat) (ovf : Bool) (rnd : Nat → Rnd) (r : TRow) : TRow × List FF :=
  if src = tgt then (r, []) else
    let vs := r.vals src
    if tgt = 10 then
      let bs := (chunks 32 vs.length vs).mapIdx fun k b => packE2m1 (fun i => rnd (32 * k + i)) b
      (⟨bs.flatMap (·.2.1), bs.map (·.1)⟩, bs.map (·.2.2))
    else
      let es := vs.mapIdx fun i v => convElem tgt ovf (rnd i) v
      (⟨es.map (·.1), []⟩, es.map (·.2))
/-- Several sets of flags together. -/
def orFF (fs : List FF) : FF := fs.foldl (fun a f => a ||| f) 0

/-- Elements of format `f` packed into bytes (R128, R129). -/
def packRow (f : Nat) (codes : List Nat) : List Byte :=
  leBytes (codes.length * fmtBits f / 8) (ofLanes (fmtBits f) codes)
/-- The first `n` elements of format `f` in a run of bytes. -/
def unpackRow (f n : Nat) (bs : List Byte) : List Nat := lanesOf (fmtBits f) n (leNat bs)

/-- Row `r` of a tile under a shape (R174). -/
def Tile.row (t : Nat) (tl : Tile) (sh : TShape) (r : Nat) : TRow :=
  let f := sh.fmt.toNat
  ⟨unpackRow f sh.cols (tl.data.bytes (slotBytes t * r) (sh.cols * fmtBits f / 8)),
   if f = 10 then tl.scale.bytes (16 * r) (sh.cols / 32) else []⟩
def Tile.rows (t : Nat) (tl : Tile) (sh : TShape) : List TRow :=
  (List.range sh.rows).map (tl.row t sh)
/-- A tile with row `r` written (R174). -/
def Tile.putRow (t : Nat) (sh : TShape) (tl : Tile) (r : Nat) (row : TRow) : Tile :=
  let f := sh.fmt.toNat
  { tl with
    data := tl.data.put (slotBytes t * r) (packRow f row.codes)
    scale := if f = 10 then tl.scale.put (16 * r) row.scales else tl.scale }
def Tile.putRows (t : Nat) (sh : TShape) (tl : Tile) (rows : List TRow) : Tile :=
  (rows.zipIdx).foldl (fun tl p => tl.putRow t sh p.2 p.1) tl
/-- Rows to columns: row `i` of the result holds element `i` of every row. -/
def transpose (n : Nat) (rows : List (List Nat)) : List (List Nat) :=
  (List.range n).map fun i => rows.map fun r => r.getD i 0

/-- Conversion of every row; `rnd` takes the tile coordinates. -/
def convRows (src tgt : Nat) (ovf : Bool) (rnd : Nat → Nat → Rnd) (rows : List TRow) : List TRow × FF :=
  let rs := rows.mapIdx fun r row => row.convert src tgt ovf (rnd r)
  (rs.map (·.1), orFF (rs.flatMap (·.2)))
def rneAt (_ _ : Nat) : Rnd := .rne

/-- The 16 random bits of R135 for one element. -/
def srRandom (key ctr : Word) (row col : Nat) : Nat :=
  let idx : Word := BitVec.ofNat 64 (row * 1024 ||| col)
  let h := key ^^^ (ctr * 0x9e3779b97f4a7c15) ^^^ (idx * 0xc2b2ae3d27d4eb4f)
  let h := (h ^^^ (h >>> 30)) * 0xbf58476d1ce4e5b9
  let h := (h ^^^ (h >>> 27)) * 0x94d049bb133111eb
  let h := h ^^^ (h >>> 31)
  bits h.toNat 63 48

/-! ### Transfers (R194 to R197) -/

/-- Bytes of a RAW block (R197). -/
def rawBytes (t : Nat) : Nat :=
  match fileOf t with
  | .mt => 34816
  | .acc => 65536
  | .vt => 32768
/-- Memory rows and columns of a transfer (R194). -/
def xferRows (x : TileXfer) (sh : TShape) : Nat := if x.tr then sh.cols else sh.rows
def xferCols (x : TileXfer) (sh : TShape) : Nat := if x.tr then sh.rows else sh.cols
def xferRowBytes (x : TileXfer) (sh : TShape) : Nat := xferCols x sh * fmtBits x.mfmt.toNat / 8

/-- The tile rows that TLD forms of `data`, before conversion: the memory rows in order, then the scales of E2M1 rows. -/
def tldRows (x : TileXfer) (sh : TShape) (data : List Byte) : List TRow :=
  let f := x.mfmt.toNat
  let mr := xferRows x sh
  let mc := xferCols x sh
  let rb := xferRowBytes x sh
  let sc := mc / 32
  let codes := (List.range mr).map fun i => unpackRow f mc ((data.drop (i * rb)).take rb)
  let codes := if x.tr then transpose mc codes else codes
  codes.mapIdx fun i cs => (⟨cs, if f = 10 then (data.drop (mr * rb + i * sc)).take sc else []⟩ : TRow)
/-- The storage of a RAW block (R197). -/
def rawTile (t : Nat) (data : List Byte) (tl : Tile) : Tile :=
  if fileOf t = .mt then { tl with data := Mem.cells 0 (data.take 32768), scale := Mem.cells 0 (data.drop 32768) }
  else { tl with data := Mem.cells 0 data }
/-- A tile after TLD has read `data`. -/
def tldTile (x : TileXfer) (sh : TShape) (data : List Byte) (tl : Tile) : Tile × FF :=
  let t := x.tile.toNat
  if x.raw then (rawTile t data tl, 0)
  else
    let (rows, fl) := convRows x.mfmt.toNat sh.fmt.toNat x.ovf rneAt (tldRows x sh data)
    (tl.putRows t sh rows, fl)

/-! ### A tile load that fails (R198, R141) -/

/-- Elements of a row that are written as one: a block where the tile is E2M1, else one element. -/
def unitLen (f : Nat) : Nat := if f = 10 then 32 else 1
/-- Row `old` with the units of `new` that `pick` says. -/
def mixRow (f : Nat) (pick : Nat → Bool) (old new : TRow) : TRow :=
  ⟨(old.codes.zip new.codes).mapIdx fun c p => if pick (c / unitLen f) then p.2 else p.1,
   (old.scales.zip new.scales).mapIdx fun b p => if pick b then p.2 else p.1⟩
/-- Whether the bits of element `j`, `w` bits wide, were read. -/
def readOk (w j : Nat) (bs : List (Option Byte)) : Bool :=
  (List.range ((j * w % 8 + w + 7) / 8)).all fun i => (bs.getD (j * w / 8 + i) none).isSome
/-- Whether memory element (`i`, `j`) of a transfer was read, with its scale; `parts` holds the bytes of each range. -/
def TileXfer.elemOk (x : TileXfer) (mr : Nat) (parts : List (List (Option Byte))) (i j : Nat) : Bool :=
  let f := x.mfmt.toNat
  readOk (fmtBits f) j (parts.getD i []) && (f != 10 || readOk 8 (j / 32) (parts.getD (mr + i) []))
/-- A tile whose TLD failed: each element it could read is old or new as free values say, every other is old; each keeps its
flags where it is new, and free ones of those that were converted (log entry 14). -/
def tldFailed (fresh : Nat) (x : TileXfer) (sh : TShape) (parts : List (List (Option Byte))) (old : Tile) : Tile × FF :=
  let t := x.tile.toNat
  let data := parts.flatMap fun bs => bs.map fun b => b.getD 0
  if x.raw then
    let w := if sh.cfg then max 1 (fmtBits sh.fmt.toNat / 8) else 1
    let was := if fileOf t = .mt then old.data.bytes 0 32768 ++ old.scale.bytes 0 2048 else old.data.bytes 0 (rawBytes t)
    let ok := parts.flatMap fun bs => bs.map (·.isSome)
    (rawTile t (((was.zip data).zip ok).mapIdx fun i p =>
      if p.2 && Config.freeBool (fresh + i / w) then p.1.2 else p.1.1) old, 0)
  else
    let f := sh.fmt.toNat
    let u := unitLen f
    let ok (r n : Nat) : Bool := (List.range u).all fun i =>
      let c := n * u + i
      if x.tr then TileXfer.elemOk x (xferRows x sh) parts c r else TileXfer.elemOk x (xferRows x sh) parts r c
    let pick (r n : Nat) : Bool := ok r n && Config.freeBool (fresh + 2048 * r + n)
    let rows := (tldRows x sh data).map fun row => row.convert x.mfmt.toNat f x.ovf fun _ => .rne
    let tl := (rows.zipIdx).foldl (fun tl p => tl.putRow t sh p.2 (mixRow f (pick p.2) (old.row t sh p.2) p.1.1)) old
    let fl := (rows.zipIdx).map fun p => p.1.2.mapIdx fun n b =>
      if pick p.2 n then b
      else if ok p.2 n then b &&& (Config.freeByte (fresh + 2048 * p.2 + n)).setWidth 6 else 0
    (tl, orFF (fl.flatMap id))

/-- What TST writes: the rows in increasing order, then the scales of E2M1 rows, one run of bytes each. A
stochastic store with no key written stores free bytes (R136). -/
def tstRows (x : TileXfer) (sh : TShape) (ctr : Word) (key : Option Word) (k : Nat) (tl : Tile) :
    List (List Byte) × FF :=
  let t := x.tile.toNat
  if x.raw then
    if fileOf t = .mt then ([tl.data.bytes 0 32768 ++ tl.scale.bytes 0 2048], 0)
    else ([tl.data.bytes 0 (rawBytes t)], 0)
  else
    let f := x.mfmt.toNat
    let rnd (r c : Nat) : Rnd := if x.sr then .sr (srRandom (key.getD 0) ctr r c) else .rne
    let (rows, fl) := convRows sh.fmt.toNat f x.ovf rnd (tl.rows t sh)
    let codes := if x.tr then transpose sh.cols (rows.map (·.codes)) else rows.map (·.codes)
    let out := codes.map (packRow f) ++ (if f = 10 then rows.map (·.scales) else [])
    if x.sr && key.isNone then
      (out.mapIdx fun i r => r.mapIdx fun j _ => Config.freeByte (k + 4096 * i + j), 0)
    else (out, fl)

/-- TMOV (R188): the destination tile and the flags. -/
def tmovTile (dst src : Nat) (ovf : Bool) (dsh ssh : TShape) (d sr : Tile) : Tile × FF :=
  let (rows, fl) := convRows ssh.fmt.toNat dsh.fmt.toNat ovf rneAt (sr.rows src ssh)
  (d.putRows dst dsh rows, fl)
/-- TZERO (R188). -/
def tzeroTile (dst : Nat) (sh : TShape) (d : Tile) : Tile :=
  d.putRows dst sh (List.replicate sh.rows
    ⟨List.replicate sh.cols 0, if sh.fmt = 10 then List.replicate (sh.cols / 32) 0x7F else []⟩)

/-- Segment `g` of a vector tile buffer: row slots `2g` and `2g + 1` (R189). -/
def tileSeg (tl : Tile) (g : Nat) : BitVec 4096 := BitVec.ofNat 4096 (tl.data.nat (512 * g) 512)
def Tile.setSeg (tl : Tile) (g : Nat) (v : BitVec 4096) : Tile :=
  { tl with data := tl.data.put (512 * g) (leBytes 512 v.toNat) }

def Core.tile (k : Core) (t : Nat) : Tile := vget k.tiles t .reset
def Core.setTile (k : Core) (t : Nat) (tl : Tile) : Core := { k with tiles := vset k.tiles t tl }
def Core.shape (k : Core) (t : Nat) : TShape := (k.tile t).shape

end Sys2Proof.Machine
end

