-- ==== Sys2Proof/Machine/ArrayOps.lean ====
section
/-! DEFINITION. Array passes from issue to commit, emission, and the update path (07, 08, 09). -/

namespace Sys2Proof.Machine

/-! ### Operands (R203, R204, R142) -/

/-- Products of one exact partial sum (R142). -/
def grpOf (f : Nat) : Nat :=
  match f with
  | 0 => 4
  | 7 => 4
  | 8 => 4
  | 9 => 8
  | 10 => 32
  | _ => 1
/-- Multiply-accumulate lanes `m` of a format (R203). -/
def lanesM (f : Nat) : Nat :=
  match f with
  | 5 => 1
  | 6 => 1
  | 9 => 4
  | 10 => 4
  | _ => 2
/-- The operand pairs of R204. -/
def pairOk (a b : Nat) : Bool :=
  ((a == 5 || a == 6) && (b == 5 || b == 6)) || ((a == 7 || a == 8) && (b == 7 || b == 8)) ||
  (a == b && (a == 0 || a == 9 || a == 10))
/-- Values of a tile under its shape. -/
def Core.tileVals (k : Core) (t : Nat) : List (List FV) :=
  ((k.tile t).rows t (k.shape t)).map (·.vals (k.shape t).fmt.toNat)
/-- The columns of a list of rows. -/
def colsOf (n : Nat) (rows : List (List FV)) : List (List FV) :=
  (List.range n).map fun j => rows.map fun r => r.getD j .zero

/-! ### Sums of products (R142, R143) -/

/-- One term of an FP32 sum: the exact sum of a group of products, an infinity where it leaves the range,
on the subnormal grid; its flags. -/
def groupTerm (ps : List (FV × FF)) : FV × FF :=
  let (v, f) := sumFV (ps.map (·.1))
  let f := ps.foldl (fun a p => a ||| p.2) f
  match v with
  | .fin n m e =>
    if magLt fp32.maxM fp32.maxE m e then (.inf n, f ||| ffOF ||| ffNX)
    else
      let (v', nx) := gridTerm v
      (v', if nx then f ||| ffUF ||| ffNX else f)
  | v => (v, f)

/-- One accumulator element: initial value, products of `xs` and `ss`, free values from number `k`. A NaN operand or product sets NV;
a quiet NaN that the committed bank already holds, the initial value of an ACCUM sum, sets none: R143 names only the first (DESIGN
CHOICE, log entry 5). -/
def mmElem (k grp : Nat) (c0 : FV) (xs ss : List FV) : Nat × FF :=
  let ts := (chunks grp xs.length (List.zipWith FV.mul xs ss)).map groupTerm
  let fl : FF := ts.foldl (fun a t => a ||| t.2) 0
  let nan : FF := if xs.any FV.isNan || ss.any FV.isNan then ffNV else 0
  let (r, f) := freeSumOf k (c0 :: ts.map (·.1))
  (r.toNat, f ||| fl ||| nan)

/-! ### Results of a pass -/

/-- What a commit writes: accumulator tiles with their rows of 32-bit codes, and flags. -/
structure PassOut where
  tiles : List (Nat × List (List Nat))
  flags : FF
deriving DecidableEq, Repr

/-- Committed 32-bit element of an accumulator tile. -/
def Core.accCode (k : Core) (t r c : Nat) : Nat := (k.tile t).data.nat (512 * r + 4 * c) 4
def Core.accFV (k : Core) (t r c : Nat) : FV := fp32.decode (k.accCode t r c)

/-- A matrix of results cut into the tiles from `dst` on, 128 columns each (R207, R246). -/
def cutTiles (dst n : Nat) (rows : List (List Nat)) : List (Nat × List (List Nat)) :=
  (List.range ((n + 127) / 128)).map fun j => (dst + j, rows.map fun r => (r.drop (128 * j)).take 128)

def orFlags (rows : List (List (Nat × FF))) : FF := rows.foldl (fun a r => r.foldl (fun a e => a ||| e.2) a) 0
def codesOf (rows : List (List (Nat × FF))) : List (List Nat) := rows.map fun r => r.map (·.1)

/-- A ganged pass (R207). -/
def gangedOut (k : Core) (fresh dst grp : Nat) (accum : Bool) (x s : List (List FV)) : PassOut :=
  let rows := x.mapIdx fun r xr => s.mapIdx fun n sc =>
    let c0 := if accum then k.accFV (dst + n / 128) r (n % 128) else .zero
    mmElem (fresh + r * s.length + n) grp c0 xr sc
  ⟨cutTiles dst s.length (codesOf rows), orFlags rows⟩

/-- A tent pass (R216): `s` holds the weight columns, `tt` token rows take part. -/
def tentOut (k : Core) (fresh dst grp : Nat) (accum : Bool) (x s : List (List FV)) (tt : Nat) : PassOut :=
  let rows := (List.range (s.length / 4)).map fun row => (List.range 128).map fun col =>
    let t := row % 32
    let n := 128 * (row / 32) + col
    if t < tt then
      let c0 := if accum then k.accFV dst row col else .zero
      mmElem (fresh + row * 128 + col) grp c0 (x.getD t []) (s.getD n [])
    else (if accum then k.accCode dst row col else 0, 0)
  ⟨[(dst, codesOf rows)], orFlags rows⟩

/-- AELEM (R239). -/
def elemOp (op : BitVec 2) (a b : FV) : Nat × FF :=
  let r := match op.toNat with
    | 0 => a.add b
    | 1 => a.mul b
    | 2 => FV.minmax true a b
    | _ => FV.minmax false a b
  let (c, f) := roundOp r
  (c.toNat, f)
def elemOut (dst : Nat) (op : BitVec 2) (a b : List (List FV)) : PassOut :=
  let rows := List.zipWith (fun ra rb => List.zipWith (elemOp op) ra rb) a b
  ⟨[(dst, codesOf rows)], orFlags rows⟩

/-- The best of a row of distances and the lowest query that attains it (R247). -/
def rowBest (isMax : Bool) (ds : List Int) : Int × Nat :=
  match ds with
  | [] => (0, 0)
  | d :: ds => ((ds.zipIdx 1).foldl (fun (b : Int × Nat) p =>
      if (if isMax then decide (b.1 < p.1) else decide (p.1 < b.1)) then p else b) (d, 0))
/-- Order of a top-8 list (R248). -/
def better (isMax : Bool) (a b : Int × Nat) : Bool :=
  if a.1 = b.1 then decide (a.2 < b.2) else if isMax then decide (b.1 < a.1) else decide (a.1 < b.1)
def insertBest (isMax : Bool) (x : Int × Nat) : List (Int × Nat) → List (Int × Nat)
  | [] => [x]
  | y :: ys => if better isMax x y then x :: y :: ys else y :: insertBest isMax x ys
/-- The first eight of the pool, insertions keeping the list at eight. -/
def top8 (isMax : Bool) (pool : List (Int × Nat)) : List (Int × Nat) :=
  pool.foldl (fun l x => (insertBest isMax x l).take 8) []

/-- ADIST (R247, R248): `d` has one row per candidate. -/
def distOut (k : Core) (dst : Nat) (accum : Bool) (sel : BitVec 3) (d : List (List Int)) (id0 : Nat) : PassOut :=
  let nn := match d with | r :: _ => r.length | [] => 0
  match sel.toNat with
  | 0 =>
    let rows := d.mapIdx fun r ds => ds.mapIdx fun n v =>
      intCode 32 ((if accum then (k.accCode (dst + n / 128) r (n % 128) : Int) else 0) + v)
    ⟨cutTiles dst nn rows, 0⟩
  | 1 => ⟨[(dst, d.map fun ds => let b := rowBest false ds; [intCode 32 b.1, b.2])], 0⟩
  | 2 => ⟨[(dst, d.map fun ds => let b := rowBest true ds; [intCode 32 b.1, b.2])], 0⟩
  | q =>
    let isMax := q == 4
    let cols := (List.range nn).map fun n =>
      let t := dst + n / 128
      let old := if accum then
          (List.range 8).map fun i => (sextInt 32 (k.accCode t (2 * i) (n % 128)), k.accCode t (2 * i + 1) (n % 128))
        else List.replicate 8 (if isMax then (-1 : Int) else 0x7FFFFFFF, 0xFFFFFFFF)
      let pool := old ++ d.mapIdx fun r ds => (ds.getD n 0, (id0 + r) % 2 ^ 32)
      (top8 isMax pool).flatMap fun e => [intCode 32 e.1, e.2]
    ⟨cutTiles dst nn ((List.range 16).map fun row => cols.map fun c => c.getD row 0), 0⟩

/-! ### Masks (R263 to R265) -/

def Masks.enabled (mk : Masks) (mask : Bool) (k n : Nat) : Bool :=
  !mask || ((if k < 64 then mk.row0.getLsbD k else mk.row1.getLsbD (k - 64)) && mk.blk.getLsbD (8 * (k / 16) + n / 16))
/-- Whether row `k` holds an enabled element in tile columns `n0` to `n0 + n - 1`. -/
def Masks.rowOn (mk : Masks) (mask : Bool) (k n0 n : Nat) : Bool :=
  (List.range n).any fun j => mk.enabled mask k (n0 + j)

/-- TPASS (R255): dX and the gradient rows of the staging buffer. -/
def trapOut (k : Core) (fresh dst grp : Nat) (accum : Bool) (dy wt xt : List (List FV)) (n0 : Nat)
    (mask : Bool) (mk : Masks) : PassOut × List (List (BitVec 32)) :=
  let kk := xt.length
  let nn := wt.length
  let wc := colsOf kk wt
  let dc := colsOf nn dy
  let rows := dy.mapIdx fun r dr => wc.mapIdx fun c col =>
    mmElem (fresh + r * kk + c) grp (if accum then k.accFV dst r c else .zero) dr col
  let base := fresh + dy.length * kk
  let gr := xt.mapIdx fun r xr => dc.mapIdx fun j col =>
    if mk.enabled mask r (n0 + j) then mmElem (base + r * nn + j) grp .zero xr col else (0, 0)
  (⟨[(dst, codesOf rows)], orFlags rows ||| orFlags gr⟩, gr.map fun r => r.map fun e => BitVec.ofNat 32 e.1)

/-- The result rows of a pass stand in the working bank, where nothing reads them before the commit (R173, R207): the bytes
outside the tile are free. -/
def Tile.writeRows (tl : Tile) (fresh : Nat) (rows : List (List Nat)) : Tile :=
  { tl with work := Mem.cells 0 ((List.range 128).flatMap fun r =>
      let bs := if r < tl.shape.rows then packRow 4 (rows.getD r []) else []
      bs ++ (List.range (512 - bs.length)).map fun i => Config.freeByte (fresh + 512 * r + bs.length + i)) }
/-- The bank switch (R173, R212). -/
def Tile.switch (tl : Tile) : Tile := { tl with data := tl.work, work := tl.data }
/-- An accumulator tile after a commit. -/
def Tile.commit (tl : Tile) (fresh : Nat) (rows : List (List Nat)) : Tile := (tl.writeRows fresh rows).switch

/-! ### Steps of a pass (R212) -/

def Pass.loadLen (p : Pass) : Nat := if p.load = .stall then 128 else 0
/-- First stream step. -/
def Pass.b (p : Pass) : Nat := p.start + p.loadLen
/-- Last stream step plus the selection tail (R236). -/
def Pass.e (p : Pass) : Nat := p.b + p.str - 1 + p.tail
/-- Length `L`. -/
def passLen (ld : LoadMode) (str tail : Nat) : Nat := (if ld = .stall then 128 else 0) + str + Config.drain + tail
def Pass.commitAt (p : Pass) : Nat := p.start + passLen p.load p.str p.tail
def Pass.loads (p : Pass) : Bool := p.load == .stall || p.load == .parade

/-- How a load request is made, with whether it was demoted or missed (R210, R211, R217, R256). -/
def loadOf (a : ArrayState) (req : Nat) (form : PeForm) (sta : Nat) (nh tent : Bool) : LoadMode × Bool × Bool :=
  match req with
  | 0 => (.stall, false, false)
  | 1 =>
    if tent || a.afterAbandon || (match a.peForm with | some f => f != form | none => false) then (.stall, true, false)
    else (.parade, false, false)
  | _ =>
    let trap := match form with | .trapeze _ => true | _ => false
    if a.svalid && a.stag == sta && a.held == some form && (!trap || a.heldNh == nh) then (.keep, false, false)
    else (.stall, false, true)

/-- Start step of a pass that may start at `s1` (R212). -/
def startOf (lastE lambda : Option Nat) (loads : Bool) (s1 : Nat) : Nat :=
  let a := match lastE with | some e => max s1 (e + 1) | none => s1
  match lambda with
  | some l => if loads then max a (l + 128) else a
  | none => a

/-- A load of the array's stationary operand recorded (R211, R234, R256). -/
def ArrayState.loaded (a : ArrayState) (p : Pass) (nh : Bool) : ArrayState :=
  let a := { a with lastE := some p.e, peForm := some p.form, afterAbandon := false }
  if p.loads then
    { a with svalid := true, stag := p.sta, held := some p.form, heldNh := nh, lambda := some p.start }
  else a

/-- The tiles a pass names for R181: a KEEP hit does not name its stationary tile (R211). -/
def keepSrcs (ld : LoadMode) (sta : Nat) (others : List Nat) : List Nat :=
  if ld = .keep then others else sta :: others

/-- Take the next number in issue order. -/
def State.takeId (s : State) : State := { s with nextId := s.nextId + 1 }

/-! ### Failed writes and the releases that cover them (R316, R320, R325, R331) -/

/-- A counter falls for work of group `g`: of the displaced task its own, cc0 to cc7 being kept in place (R413, R416). -/
def lowerCc (c g cc : Nat) (err : Option FailRec) (s : State) : State :=
  if cc < 8 then s.upd c fun k => k.lower cc err else s.updOwner c g fun k => k.lower cc err
/-- A release that a failed write fails never takes effect: its counter falls with PRIOR_FAIL, or the arrival is
abandoned; a failed SEM.ADD.REL is itself a failed write. -/
def failReleases : Nat → Nat → (Work → Bool) → FailRec → State → State
  | 0, _, _, _, s => s
  | fuel + 1, c, hit, r, s =>
    match s.works.find? fun w => w.core == c && w.stage == Stage.held && hit w with
    | none => s
    | some w =>
      let s := { s with works := s.works.filter fun v => v.id != w.id }
      match w.kind with
      | .barArr ch =>
        let s := s.updOwner c w.group fun k =>
          let b : BitVec 32 := BitVec.ofNat 32 (2 ^ ch.toNat)
          { k with syn := { k.syn with
              barpend := k.syn.barpend &&& ~~~b, barfail := k.syn.barfail ||| b
              barerr := (ch, r) :: k.syn.barerr.filter fun e => e.1 != ch } }
        failReleases fuel c hit r s
      | .semAdd _ _ _ =>
        let s := lowerCc c w.group w.cc (some ⟨w.pc, r.addr, 0x41⟩) s
        failReleases fuel c (fun v => hit v || v.covers.contains w.id) r s
      | _ => failReleases fuel c hit r (lowerCc c w.group w.cc (some ⟨w.pc, r.addr, 0x41⟩) s)

/-- Write number `id` of core `c` failed with record `r` (R316). -/
def failWrite (c id : Nat) (r : FailRec) (s : State) : State :=
  failReleases (s.works.length + 1) c (fun w => w.covers.contains id) r s

/-- UNIT of a core in the trouble log (R513). -/
def coreUnit (c : Nat) : Nat := if isHub c then unitOf 2 (dieOf c) else unitOf 0 c
/-- ERROR_NOTIFY to the S code of a partition: every core that serves it, a displaced task among its code (R364, R416, R435). -/
def State.notifyPart (s : State) (p : Nat) : State :=
  let serves (k : Core) : Bool := k.idn.part.toNat == p && k.idn.count != 0
  State.mapSaved { s with cores := s.cores.map fun k => if serves k then k.raise 5 else k } fun q =>
    if serves q.2.1 then (q.1, q.2.1.raise 5, q.2.2) else q
/-- The partitions that map a physical address. -/
def State.partsAt (s : State) (pa : Nat) : List Nat :=
  ((s.place.pages.filter fun q => decide (q.home ≤ pa ∧ pa < q.home + 0x10000)).map (·.part)).eraseDups
/-- Ringmaster is notified of a unit that core `c` met: the partitions that map it, else the core's own (R364, R446). -/
def notifyAt (c pa : Nat) (s : State) : State :=
  match s.partsAt pa with
  | [] => if (s.core c).idn.count = 0 then s else s.notifyPart (s.core c).idn.part.toNat
  | ps => ps.foldl State.notifyPart s
/-- An uncorrectable unit found by a core's own access is logged, and a new one notified (R69, R435, R446, R514 UE). `source`: 1 a
foreground read, 2 a partial write. -/
def noteUE (c : Nat) (pa : Nat) (reason : Nat) (pc : Word) (s : State) (source : Nat := 1) : State :=
  let s1 := s.logAdd 0x02 3 (s.core c).logPart (coreUnit c) pa reason source pc.toNat
  if reason ≠ 0x54 then s1 else notifyAt c pa s1
/-- A unit in error with which a local partial store merges is logged and notified, its poison tag set before or not (R451). -/
def notePartial (c : Nat) (pa : Nat) (reason : Nat) (pc : Word) (s : State) : State :=
  notifyAt c pa (s.logAdd 0x02 3 (s.core c).logPart (coreUnit c) pa reason 2 pc.toNat)

/-- A symbol of a word of a core's slice was in error and is corrected (R69, R74, R169, R451, R531): counted, and logged as CE
(log entry 36). Elsewhere the stack's own controller sees to it (R446). -/
def noteCE (c : Nat) (pa sym : Nat) (s : State) (source : Nat := 1) : State :=
  match homeOf pa with
  | some (0, d) => (s.upd d fun k => k.count 22 1).logAdd 0x01 1 (s.core c).logPart (coreUnit d) pa sym source 1
  | some (4, _) => (s.upd c fun k => k.count 22 1).logAdd 0x01 1 (s.core c).logPart (coreUnit c) pa sym source 1
  | _ => s

/-- A bit of a tile file or scale plane was in error and is corrected (R177): counted, and logged as CE; how the entry names
the place is open (log entry 36). -/
def noteTileCE (c t bit : Nat) (s : State) : State :=
  (s.upd c fun k => k.count 23 1).logAdd 0x01 1 (s.core c).logPart (coreUnit c) (Config.tilePlace t).toNat bit 1 1

/-- An item of the update path ends in failure (R274, R275): its counter falls with the record. -/
def failItem (c id : Nat) (pc : Word) (cc : Nat) (reason : Nat) (addr : Word) (s : State) : State :=
  let r : FailRec := ⟨pc, addr, BitVec.ofNat 8 reason⟩
  failWrite c id r (s.upd c fun k => k.lower cc (some r))
/-- A pass ends in failure (R222, R274): its counter falls with the record, it is counted and logged (R510, R514). -/
def failWork (c id : Nat) (pc : Word) (cc : Nat) (reason : Nat) (addr : Word) (s : State) : State :=
  let r : FailRec := ⟨pc, addr, BitVec.ofNat 8 reason⟩
  (failWrite c id r (s.upd c fun k => (k.count 14 1).lower cc (some r))).logAdd 0x03 3 (s.core c).logPart
    (coreUnit c) pc.toNat reason c 0

/-- Whether a disable of the core, or of the partition it serves, is in force (R405). -/
def State.fenced (s : State) (c : Nat) : Bool :=
  let k := s.core c
  k.pw.disabled || (k.idn.count != 0 && match s.part k.idn.part.toNat with | some p => p.disabled | none => false)
/-- Whether a new pass of a form is fenced at issue: the core's array disabled, or for a TPASS its update path (R226, R275). -/
def State.passFenced (s : State) (c : Nat) (form : PeForm) : Bool :=
  let w := (s.core c).pw
  s.fenced c || w.disArray || (w.disUpd && match form with | .trapeze _ => true | _ => false)

/-- Issue of a pass whose checks have passed (R210 to R215): `mkPass` is given the number, the start step and
the load. Under a disable it is abandoned at once (R226). -/
def issuePass (c : Nat) (req : Nat) (form : PeForm) (sta : Nat) (nh tent : Bool) (mkPass : Nat → Nat → LoadMode → Pass)
    (s : State) : State :=
  let k := s.core c
  let elem := form == .elem
  let (ld, dem, miss) := if elem then (LoadMode.none, false, false) else loadOf k.arr req form sta nh tent
  let a := startOf k.arr.lastE k.arr.lambda (ld == LoadMode.stall || ld == LoadMode.parade) (k.tm.step + 1)
  let p := mkPass s.nextId a ld
  if s.passFenced c form then
    failWork c p.id p.pc p.cc 0x23 0 ((s.takeId).upd c fun k =>
      { (k.bump p.cc) with arr := { k.arr with svalid := false, afterAbandon := true } })
  else
    (s.takeId).upd c fun k =>
      let k := (k.count 10 (b2n dem)).count 11 (b2n miss)
      { (k.bump p.cc) with arr := { (k.arr.loaded p nh) with queue := k.arr.queue ++ [p] } }

/-! ### Update path (R266 to R271) -/

/-- Slice rows that hold an enabled element (R269). -/
def Slice.rowsOn (sl : Slice) (mask : Bool) (mk : Masks) : List Nat :=
  (List.range sl.rows).filter fun r => mk.rowOn mask r sl.col0 sl.cols
/-- U of R269. -/
def updSteps (slices : List Slice) (mask : Bool) (mk : Masks) : Nat :=
  (slices.map fun sl => ((sl.rowsOn mask mk).length + 1) / 2).sum

/-- FP32 element of a vector tile buffer. -/
def Core.vtCode (k : Core) (t r c : Nat) : BitVec 32 := BitVec.ofNat 32 ((k.tile t).data.nat (256 * r + 4 * c) 4)

/-- Exact operation on FP32 encodings with one rounding, flags collected. -/
def fmulB (a b : BitVec 32) : BitVec 32 × FF := roundOp ((f32 a).mul (f32 b))
def faddB (a b : BitVec 32) : BitVec 32 × FF := roundOp ((f32 a).add (f32 b))
def fsubB (a b : BitVec 32) : BitVec 32 × FF := roundOp ((f32 a).add (f32 b).neg)
def fmaB (a b c : BitVec 32) : BitVec 32 × FF := roundOp ((f32 a).fma (f32 b) (f32 c))
def fdivB (a b : BitVec 32) : BitVec 32 × FF := roundOp ((f32 a).div (f32 b))
def fsqrtB (a : BitVec 32) : BitVec 32 × FF := roundOp (f32 a).sqrt
def fnegB (a : BitVec 32) : BitVec 32 := a ^^^ 0x80000000

/-- Whether a slice value makes SKIPNF skip (R270), with the flags of its scaling. -/
def skipValue (d : UpdDesc) (g : BitVec 32) : Bool × FF :=
  let (v, f) := fmulB d.gscale g
  ((match f32 v with | .fin _ _ _ => false | _ => true), f)

/-- The update of one element (R268): new w, m1, m2 and the flags. -/
def updElem (d : UpdDesc) (g0 w m1 m2 : BitVec 32) : BitVec 32 × BitVec 32 × BitVec 32 × FF :=
  let (g, f0) := fmulB d.gscale g0
  if d.form = 1 then
    let (t, f1) := fmaB d.wd w g
    let (v, f2) := fmaB d.b1 m1 t
    let (w', f3) := fmaB (fnegB d.lr) v w
    (w', v, m2, f0 ||| f1 ||| f2 ||| f3)
  else
    let (x, f1) := fsubB m1 g
    let (m1', f2) := fmaB d.b1 x g
    let (q, f3) := fmulB g g
    let (y, f4) := fsubB m2 q
    let (m2', f5) := fmaB d.b2 y q
    let (a, f6) := fmulB m2' d.bc2
    let (r, f7) := fsqrtB a
    let (den, f8) := faddB r d.eps
    let (b, f9) := fmulB m1' d.bc1
    let (q2, f10) := fdivB b den
    let (t, f11) := fmaB d.wd w q2
    let (w', f12) := fmaB (fnegB d.lr) t w
    (w', m1', m2', f0 ||| f1 ||| f2 ||| f3 ||| f4 ||| f5 ||| f6 ||| f7 ||| f8 ||| f9 ||| f10 ||| f11 ||| f12)

/-- Update of one slice row (R269): the new state, or the address of an unreadable element. -/
def updRow (c : Nat) (d : UpdDesc) (mask : Bool) (mk : Masks) (sl : Slice) (r : Nat) (s : State) : Except Word State :=
  let cols := (List.range sl.cols).filter fun j => mk.enabled mask r (sl.col0 + j)
  let at_ (base : Word) (j : Nat) : Word := Word.plus base (r * d.pitch + 4 * (sl.col0 + j))
  let pa (a : Word) : Nat := s.windowPa c a.toNat
  let bases := [d.waddr, d.m1addr] ++ (if d.form = 2 then [d.m2addr] else [])
  match cols.findSome? fun j => bases.findSome? fun b =>
      if s.isPoisoned (pa (at_ b j)) 4 then some (at_ b j) else none with
  | some a => .error a
  | none =>
    .ok <| cols.foldl (fun s j =>
      let rd (b : Word) : BitVec 32 := BitVec.ofNat 32 (s.mem.nat (pa (at_ b j)) 4)
      let (w, m1, m2, f) := updElem d ((s.core c).vtCode sl.tile r j) (rd d.waddr) (rd d.m1addr) (rd d.m2addr)
      let s := s.storeLocal (pa (at_ d.waddr j)) (leBytes 4 w.toNat) c
      let s := s.storeLocal (pa (at_ d.m1addr j)) (leBytes 4 m1.toNat) c
      let s := if d.form = 2 then s.storeLocal (pa (at_ d.m2addr j)) (leBytes 4 m2.toNat) c else s
      let cf := d.cfmt.toNat
      let (code, f2) := if cf = 0 then (0, (0 : FF)) else (fmtOf cf).convert .rne d.ovf (f32 w)
      let s := if cf = 0 then s else
        s.storeLocal (pa (Word.plus d.caddr (r * d.cpitch + (sl.col0 + j) * elemBytes cf))) (leBytes (elemBytes cf) code) c
      s.upd c fun k => k.orFF (f ||| f2)) s |>.upd c fun k => k.count 16 1

/-- Rows of an item in the pairs in which they are done: none spans two slices (R269). -/
def UpdItem.pairs (u : UpdItem) : List (List (Nat × Nat)) :=
  (u.slices.zipIdx).flatMap fun p =>
    let rows := (p.1.rowsOn u.mask u.msk).map fun r => (p.2, r)
    chunks 2 rows.length rows
/-- Rows one after another, until one cannot be done: the one that a command reports, or an unreadable element (R274). -/
def updRows (c : Nat) (d : UpdDesc) (u : UpdItem) : List (Nat × Nat) → State → Except Word State × State
  | [], s => (.ok s, s)
  | (j, r) :: rest, s =>
    match u.bad with
    | some (uj, ur, a) =>
      if uj = j ∧ ur = r then (.error (BitVec.ofNat 64 a), s) else
        match updRow c d u.mask u.msk (u.slices.getD j ⟨12, 0, 0, 0⟩) r s with
        | .error a => (.error a, s)
        | .ok s' => updRows c d u rest s'
    | none =>
      match updRow c d u.mask u.msk (u.slices.getD j ⟨12, 0, 0, 0⟩) r s with
      | .error a => (.error a, s)
      | .ok s' => updRows c d u rest s'

/-- The enabled elements of an item's slices: vt tile, row, column. -/
def enabledElems (slices : List Slice) (mask : Bool) (mk : Masks) : List (Nat × Nat × Nat) :=
  slices.flatMap fun sl => (List.range sl.rows).flatMap fun r => (List.range sl.cols).filterMap fun j =>
    if mk.enabled mask r (sl.col0 + j) then some (sl.tile, r, j) else none

/-- The SKIPNF check of an item (R270): whether to skip, and flags. -/
def skipCheck (k : Core) (d : UpdDesc) (slices : List Slice) (mask : Bool) (mk : Masks) : Bool × FF :=
  (enabledElems slices mask mk).foldl (fun (a : Bool × FF) e =>
    let (b, f) := skipValue d (k.vtCode e.1 e.2.1 e.2.2)
    (a.1 || b, a.2 ||| f)) (false, 0)

/-! ### Events of the array and the update path, each at its step -/

inductive AEvent
  | commit
  | port (bytes : Nat)
  | operandUe (id : Nat)
  | emit (id : Nat)
  | update (id : Nat)
deriving DecidableEq, Repr

/-- Row pairs of an item's update still to be done: none where SKIPNF skips it. -/
def UpdItem.left (u : UpdItem) : Nat := if u.desc.isNone then 0 else (updSteps u.slices u.mask u.msk) - u.done
/-- The step of an item's next row pair, once its end is known: of the steps that contention adds to those left, each takes its own
as early as it may, none more than one; with no pair left, the step at which the counter falls (R269; log entry 17). -/
def UpdItem.nextStep (u : UpdItem) : Option Nat :=
  u.endAt.map fun e => if u.left = 0 then e else if u.next + u.left < e then u.next + 1 else u.next
/-- Steps by which contention may still delay an item: one for each row pair that it has not delayed yet (R269). -/
def UpdItem.slack (u : UpdItem) : Nat := u.next + 2 * u.left - u.endAt.getD (u.next + 2 * u.left)
def UpdItem.tiles (u : UpdItem) : List Nat := u.slices.map (·.tile)
/-- Whether an earlier item on the path still reads one of a later item's buffers (R258). -/
def blockedEmit (us : List UpdItem) (u : UpdItem) : Bool :=
  us.any fun v => v.id < u.id && (v.desc.isSome || v.isUpdt) && v.tiles.any u.tiles.contains

/-- The pass whose feed is streamed at step `u`. -/
def ArrayState.feedAt (a : ArrayState) (u : Nat) : Option Pass :=
  a.queue.find? fun p => p.dem != 0 && decide (p.b ≤ u ∧ u < p.b + p.str)
/-- The events that give a result, each at its step. -/
def ArrayState.results (a : ArrayState) : List (Nat × AEvent) :=
  let commits := match a.queue with
    | p :: _ =>
      let held := (match p.form with | .trapeze _ => true | _ => false) && a.upd.any (·.emitFrom.isSome)
      if held then [] else [(p.commitAt, AEvent.commit)]
    | [] => []
  let emits := a.upd.filterMap fun u => match u.emitFrom with
    | some t => if blockedEmit a.upd u then none else some (t + 16, AEvent.emit u.id)
    | none => none
  let ends := a.upd.filterMap fun u => u.nextStep.map fun t => (t, AEvent.update u.id)
  let ues := a.queue.filterMap fun p => p.ue.map fun q => (p.b + q.1 + p.waits, AEvent.operandUe p.id)
  ends ++ emits ++ ues ++ commits
/-- The next event that gives a result, and its step. -/
def ArrayState.nextResult (a : ArrayState) : Option (Nat × AEvent) := argMin (·.1) a.results
/-- The next event and its step; a use of the vector memory port comes first where it falls in a fed stream (R219). -/
def ArrayState.nextEvent (a : ArrayState) : Option (Nat × AEvent) :=
  let ports := (a.portUse.find? fun u => (a.feedAt u.1).isSome).map fun u => (u.1, AEvent.port u.2)
  argMin (·.1) (ports.toList ++ a.results)

/-- The vector memory port takes `v` bytes of the bonding field at step `u`, before the feed (R219). A stream step
whose feed data has not all arrived waits, and the pass and those behind it are shifted by one step (R213, R220);
the flag says so. -/
def ArrayState.feedStep (u v : Nat) (a : ArrayState) : ArrayState × Bool :=
  let a := { a with portUse := a.portUse.filter fun q => decide (u < q.1) }
  match a.feedAt u with
  | none => (a, false)
  | some p =>
    let got := p.cred + min p.dem (Config.fieldBytes - v)
    if p.dem ≤ got then
      ({ a with queue := a.queue.map fun q => if q.id = p.id then { q with cred := got - p.dem } else q }, false)
    else
      let p' := { p with
        cred := got
        str := p.str + 1
        waits := p.waits + 1 }
      let later := a.queue.filter fun q => decide (p.id < q.id)
      ({ a with
        queue := a.queue.map fun q => if q.id = p.id then p' else if p.id < q.id then { q with start := q.start + 1 } else q
        lastE := a.lastE.map (· + 1)
        lambda := if later.any (·.loads) then a.lambda.map (· + 1) else a.lambda }, true)

/-- Stream steps of the passes in flight up to step `t`, counted once (R510). -/
def Core.countStream (k : Core) (t : Nat) : Core :=
  let n := (k.arr.queue.map fun p => min t (p.b + p.str) - max k.arr.settled p.b).sum
  let k' := k.count 8 n
  { k' with arr := { k'.arr with settled := max k'.arr.settled t } }

/-- Rows of AELEM sources in accumulator tiles that enter after a commit read the new bank (R239, R240). -/
def Core.refreshElem (k : Core) (tiles : List Nat) (t : Nat) (p : Pass) : Pass :=
  match p.data, p.srcs with
  | .elem op brow a b, [ta, tb] =>
    let fresh (src : Nat) (brow : Bool) (rows : List (List FV)) : List (List FV) :=
      if tiles.contains src then
        let new := k.tileVals src
        rows.mapIdx fun r old => if t ≤ p.start + r / 8 then new.getD (if brow then 0 else r) old else old
      else rows
    { p with data := .elem op brow (fresh ta false a) (fresh tb brow b) }
  | _, _ => p

/-- What a pass computes: its accumulator tiles and flags, and for a TPASS its gradient rows. -/
def passOut (k : Core) (fresh : Nat) (p : Pass) : PassOut × List (List (BitVec 32)) :=
  let dst := p.dst.headD 8
  match p.data with
  | .mm tent grp x w tt => (if tent then tentOut k fresh dst grp p.accum x w tt else gangedOut k fresh dst grp p.accum x w, [])
  | .elem op _ a b => (elemOut dst op a b, [])
  | .dist sel d id0 => (distOut k dst p.accum sel d id0, [])
  | .trap grp dy wt xt n0 mask mk _ _ _ => trapOut k fresh dst grp p.accum dy wt xt n0 mask mk

/-- The oldest pass commits (R212, R214): its banks switch, and its counter falls but for a TPASS (R259). All flags of the pass rise
here: R141 says only that they rise before the counter falls (DESIGN CHOICE, log entry 17). -/
def commitOldest (c : Nat) (s : State) : State :=
  let k := s.core c
  match k.arr.queue with
  | [] => s
  | p :: rest =>
    let (out, grad) := passOut k s.fresh p
    let k := out.tiles.foldl (fun k t => k.setTile t.1 ((k.tile t.1).commit (s.fresh + 65536 * t.1) t.2)) k
    let k := (k.orFF out.flags).count 12 1
    let rest := rest.map (k.refreshElem (out.tiles.map (·.1)) p.commitAt)
    let k := match p.data with
      | .trap _ _ _ _ _ mask mk gacc slices upd =>
        let u : UpdItem := ⟨p.id, p.pc, p.cc, slices, some p.commitAt, grad, gacc, mask, mk, upd, none, false, p.srcs ++ p.dst, 0, 0, none⟩
        { k with arr := { k.arr with queue := rest, upd := k.arr.upd ++ [u] } }
      | _ => { k with arr := { k.arr with queue := rest } }.lower p.cc none
    { s.setCore c k with fresh := s.fresh + 2 ^ 20 }

/-- Shift the first trapeze pass that would commit before step `t`, and every pass behind it (R213, R257). -/
def shiftTrap (t : Nat) (a : ArrayState) : ArrayState :=
  let pre := a.queue.takeWhile fun p => match p.form with | .trapeze _ => false | _ => true
  let post := a.queue.drop pre.length
  match post with
  | [] => a
  | p :: _ =>
    let d := t - p.commitAt
    if d = 0 then a else
      let lastLoad := (post.filter (·.loads)).getLast?
      { a with
        queue := pre ++ post.map fun q => { q with start := q.start + d }
        lastE := a.lastE.map (· + d)
        lambda := match lastLoad with
          | some q => if t ≤ q.start then a.lambda.map (· + d) else a.lambda
          | none => a.lambda }

/-- Whether another user of the bonding field has demand while the update path works: a tile transfer of the core's own slice,
Juggler's data, a multicast stream's that the core receives too, an array feed, or the vector memory port (R219, R269, R290). -/
def State.fieldBusy (s : State) (c : Nat) : Bool :=
  decide ((s.core c).tm.step < (s.core c).tm.portFree) ||
  ((s.core c).slots.toList.any fun sl => !(s.source c sl).2.prog.pieces.isEmpty) ||
  (s.works.any fun w => w.core == c && w.tags == 0 && match w.kind with | .tld _ _ => true | .tst _ _ _ _ => true | _ => false) ||
  decide (0 < s.tags c false) || (s.core c).arr.queue.any fun p => p.dem != 0
/-- Steps that contention adds to `n` row pairs, each at most one more: none where nothing else has demand, else free. -/
def State.pairDelay (s : State) (c n : Nat) : Nat := if s.fieldBusy c then Config.freeSteps s.fresh % (n + 1) else 0
/-- Another user of the bonding field comes to have demand: the item that the update path works on, and those behind it,
end up to a step later for each row pair that contention has not delayed yet (R269). -/
def contend (c : Nat) (s : State) : State :=
  let t := (s.core c).tm.step
  let open_ (u : UpdItem) : Bool := match u.endAt with | some e => decide (t < e) | none => false
  match (s.core c).arr.upd.find? open_ with
  | none => s
  | some u =>
    let d := Config.freeSteps s.fresh % (u.slack + 1)
    s.draw.upd c fun k => { k with arr := { k.arr with
      updFree := k.arr.updFree + d
      upd := k.arr.upd.map fun v =>
        if !open_ v then v else
          { v with endAt := v.endAt.map (· + d), next := if v.id = u.id then v.next else v.next + d } } }

/-- Emission of an item's slices ends at step `t` (R258, R259, R270). With a parity mismatch the item fails and
each enabled element is old or new (R274). -/
def emitItem (c t : Nat) (u : UpdItem) (parity : Bool) (s : State) : State :=
  let k := s.core c
  let step (r : Core × FF × Nat) (e : Nat × Nat × Nat × Nat) : Core × FF × Nat :=
    let (k, f, n) := r
    let (tile, row, col, j) := e
    let g := (u.grad.getD row []).getD j 0
    let old := k.vtCode tile row col
    let (v, fl) := if u.gacc then faddB old g else (g, (0 : FF))
    let keepOld := parity && Config.freeBool (s.fresh + n)
    let tl := k.tile tile
    if keepOld then (k, f, n + 1)
    else (k.setTile tile { tl with data := tl.data.put (256 * row + 4 * col) (leBytes 4 v.toNat) }, f ||| fl, n + 1)
  let elems := (u.slices.zipIdx).flatMap fun p =>
    (List.range p.1.rows).flatMap fun r => (List.range p.1.cols).filterMap fun col =>
      if u.msk.enabled u.mask r (p.1.col0 + col) then some (p.1.tile, r, col, 64 * p.2 + col) else none
  let (k, f, n) := elems.foldl step (k, 0, 0)
  let k := k.orFF f
  let k := { k with arr := { shiftTrap t k.arr with lastEmitEnd := t - 1 } }
  let s := if parity then { s.setCore c k with fresh := s.fresh + n } else s.setCore c k
  let drop (k : Core) : Core := { k with arr := { k.arr with upd := k.arr.upd.filter fun v => v.id != u.id } }
  if parity then
    failWork c u.id u.pc u.cc 0x24 (BitVec.ofNat 64 ((u.tiles).headD 12)) (s.upd c drop)
  else
    match u.desc with
    | none => s.upd c fun k => (drop k).lower u.cc none
    | some d =>
      let (bad, fl) := if d.skipnf then skipCheck k d u.slices u.mask u.msk else (false, 0)
      if bad then
        s.upd c fun k =>
          let k := ((drop k).orFF fl).count 17 1
          { k with arr := { k.arr with skip := true } }.lower u.cc none
      else
        let n := updSteps u.slices u.mask u.msk
        let d := s.pairDelay c n
        s.draw.upd c fun k =>
          let b := max t k.arr.updFree
          { k with arr := { k.arr with
              updFree := b + n + d
              upd := k.arr.upd.map fun v =>
                if v.id = u.id then { v with emitFrom := none, endAt := some (b + n + d), next := b } else v } }

/-- An update item does its next row pair at step `t`, or ends, its pairs all done (R269, R270, R274). -/
def stepItem (c t : Nat) (u : UpdItem) (s : State) : State :=
  let later (v : UpdItem) : UpdItem :=
    if v.tiles.any (fun x => u.tiles.contains x) then { v with emitFrom := v.emitFrom.map (max t) } else v
  let drop (k : Core) : Core :=
    { k with arr := { k.arr with upd := (k.arr.upd.filter fun v => v.id != u.id).map later } }
  match u.desc with
  | none => s.upd c fun k =>
      let k := (drop k).count 17 1
      { k with arr := { k.arr with skip := true } }.lower u.cc none
  | some d =>
    if u.left = 0 then s.upd c fun k => (drop k).lower u.cc none else
    match updRows c d u (u.pairs.getD u.done []) s with
    | (.ok s', _) => s'.upd c fun k => { k with arr := { k.arr with
        upd := k.arr.upd.map fun v => if v.id = u.id then { v with next := t + 1, done := v.done + 1 } else v } }
    | (.error a, s') =>
      -- an element, not a vt tile, is named: its unit is logged (R435, R514)
      let pa := s.windowPa c a.toNat
      let s1 := if a.toNat < 16 then s'
        else if s'.isPoisoned pa 4 then noteUE c pa 0x52 u.pc s'
        else noteUE c pa 0x54 u.pc (s'.setPoison (pa / 32 * 32))
      failItem c u.id u.pc u.cc 0x25 a (s1.upd c drop)

/-- Step at which the latest stationary load that `ps` has begun by `now` began. -/
def begunLoad (now : Nat) (ps : List Pass) : Option Nat :=
  ((ps.filter fun p => p.loads && decide (p.start ≤ now)).getLast?).map (·.start)
/-- An abandoned pass keeps the flags it has set: of those that its whole computation sets, free ones (R141, R221). -/
def keptFlags (c : Nat) (victims : List Pass) (s : State) : State :=
  let k := s.core c
  match victims.filter fun p => p.restarted || decide (p.b ≤ k.tm.step) with
  | [] => s
  | ps =>
    let f := orFF (ps.mapIdx fun i p => (passOut k s.fresh p).1.flags &&& (Config.freeByte (s.fresh + i)).setWidth 6)
    { s.upd c (fun k => k.orFF f) with fresh := s.fresh + 2 ^ 20 }
/-- The pass at place `i` of the queue and every pass behind it end in failure (R222): the first with `reason`, those that `also`
names with it, by default all for FENCED (R226), the others BEHIND. -/
def failFrom (c i : Nat) (reason : Nat) (addr : Word) (s : State) (also : Pass → Bool := fun _ => reason == 0x23) : State :=
  let k := s.core c
  let now := k.tm.step
  let victims := k.arr.queue.drop i
  let first := (victims.map (·.pc)).headD 0
  let keep := k.arr.queue.take i
  let s := keptFlags c victims s
  -- a forced borrow that was to follow one of them follows the last pass that is left (R472)
  let hold := match k.pw.calHold with
    | some (id, n) => some (if victims.any (·.id == id) then (keep.getLast?).map (·.id) |>.getD id else id, n)
    | none => none
  let s := s.upd c fun k =>
    { k with
      pw := { k.pw with calHold := hold }
      arr := { k.arr with
        queue := keep, svalid := false, afterAbandon := true
        lastE := match keep.getLast? with
          | some p => some (match hold with | some (id, n) => if p.id = id then p.commitAt + n - 1 else p.e | none => p.e)
          | none => k.arr.lastE.map (min now)
        lambda := k.arr.lambda.bind fun l =>
          if l ≤ now then some l
          else (((keep ++ victims.filter fun p => decide (p.start ≤ now)).filter (·.loads)).getLast?).map (·.start) } }
  (victims.zipIdx).foldl (fun s p =>
    if p.2 = 0 || also p.1 then failWork c p.1.id p.1.pc p.1.cc reason addr s
    else failWork c p.1.id p.1.pc p.1.cc 0x22 first s) s

/-- One event at its step. -/
def arrayEvent (c t : Nat) (e : AEvent) (s : State) : State :=
  let s := s.upd c fun k => k.countStream t
  match e with
  | .commit => commitOldest c s
  | .port v => s.upd c fun k =>
      let r := k.arr.feedStep t v
      { k with arr := r.1 }.count 9 (b2n r.2)
  | .operandUe id =>
    let q := (s.core c).arr.queue
    match q.find? fun p => p.id == id with
    | some p =>
      let a := (p.ue.map (·.2)).getD 0
      failFrom c (q.findIdx fun v => v.id == id) 0x20 a (noteUE c (s.windowPa c a.toNat) 0x52 p.pc s)
    | none => s
  | .emit id =>
    match (s.core c).arr.upd.find? fun u => u.id == id with
    | some u => emitItem c t u false s
    | none => s
  | .update id =>
    match (s.core c).arr.upd.find? fun u => u.id == id with
    | some u => stepItem c t u s
    | none => s

/-- Events that the update of an item may take, at most. -/
def UpdItem.steps (u : UpdItem) : Nat := updSteps u.slices u.mask u.msk
def Pass.steps (p : Pass) : Nat :=
  match p.data with
  | .trap _ _ _ _ _ mask msk _ slices _ => updSteps slices mask msk
  | _ => 0
/-- Every event of the array and the update path due at or before step `t`, in order of step. -/
def arrayUpTo (c t : Nat) : Nat → State → State
  | 0, s => s
  | fuel + 1, s =>
    match (s.core c).arr.nextEvent with
    | some (te, e) => if te ≤ t then arrayUpTo c t fuel (arrayEvent c te e s) else s
    | none => s
/-- The array as it stands at step `t`: the events up to step `u` have happened. -/
def settleTo (c u t : Nat) (s : State) : State :=
  let a := (s.core c).arr
  if a.queue.isEmpty && a.upd.isEmpty then s else
    (arrayUpTo c u (4 * (a.queue.length + a.upd.length) + (a.upd.map (·.steps)).sum + (a.queue.map (·.steps)).sum + a.portUse.length) s).upd c fun k => k.countStream t
/-- The array as it stands at the core's present step. -/
def settleArray (c : Nat) (s : State) : State := settleTo c (s.core c).tm.step (s.core c).tm.step s
/-- What the array does before step `t`. -/
def settleBefore (c t : Nat) (s : State) : State := settleTo c (t - 1) t s

/-! ### Failures in flight (R221, R222, R226) -/

/-- How many of the passes from a mismatch on can be rebuilt (R222): up to a KEEP hit that has begun or whose tile has been written
since its issue, or a pass that has begun and has had its one restart. -/
def rebuilt (now : Nat) (ps : List Pass) : Nat :=
  (ps.takeWhile fun p =>
    !((p.load == LoadMode.keep && (p.staOld || decide (p.start ≤ now))) || (p.restarted && decide (p.start ≤ now)))).length
/-- Passes re-made after step `now` (R222): stall loads, each started by R212, behind a forced borrow where it stands between
them (R472). Those that had begun are restarted, and counted. -/
def remake (k : Core) (now : Nat) : Option Nat → Option Nat → List Pass → List Pass × Option Nat × Option Nat × Nat
  | e, l, [] => ([], e, l, 0)
  | e, l, p :: ps =>
    let begun := decide (p.start ≤ now)
    let p' := if p.loads || p.load == LoadMode.keep then { p with load := .stall } else p
    let a := startOf e l p'.loads (now + 1)
    let p' := { p' with
      start := a
      restarted := p.restarted || begun
      str := p.str - p.waits
      cred := 0
      waits := 0 }
    let p' := if p.load == LoadMode.none then k.refreshElem p.srcs 0 p' else p'
    let next := match k.pw.calHold with | some (id, n) => if p.id = id then p'.commitAt + n - 1 else p'.e | none => p'.e
    let (ps', e', l', n) := remake k now (some next) (if p'.loads then some a else l) ps
    (p' :: ps', e', l', n + b2n begun)

/-- A parity mismatch on the pass at place `i` (R221, R222). SVALID stays only where a load among the restarts brings back
the operand that it stands for (log entry 17). -/
def parityOn (c i : Nat) (s : State) : State :=
  let k := s.core c
  match k.arr.queue[i]? with
  | none => s
  | some p =>
    if p.load == LoadMode.keep || p.restarted then failFrom c i 0x21 0 s else
      let pre := k.arr.queue.take i
      let rest := k.arr.queue.drop i
      let now := k.tm.step
      let good := rebuilt now rest
      -- the restarts begin at the step after the detection: the load that the mismatch ends holds the port no longer
      let (ps, e, l, n) := remake k now (some now) (begunLoad now pre) (rest.take good)
      let s := s.logAdd 0x03 3 k.logPart (coreUnit c) p.pc.toNat 0x21 c 0
      let s := s.upd c fun k =>
        let k := k.count 13 n
        { k with arr := { k.arr with
            queue := pre ++ ps ++ rest.drop good, lastE := e, lambda := l, svalid := k.arr.svalid && ps.any (·.loads) } }
      if good < rest.length then failFrom c (i + good) 0x21 0 s else s

end Sys2Proof.Machine
end

