-- ==== Sys2Proof/Machine/Lines.lean ====
section
/-! DEFINITION. Coded units: the lines of a stack, the words of a slice or of hub SRAM; what a read or a write of one brings about
(R364, R441, R446 to R451, R455, R456). -/

namespace Sys2Proof.Machine

/-- Base of a stack's SRAM or DRAM (R345). -/
def stackBase (t n : Nat) : Nat := if t = 1 then 0x400000000 + n * 0x10000000 else 0x10000000000 + n * 0xC00000000
/-! ### Lines and banks (R441, R443) -/

/-- Lines of a stack's SRAM or DRAM (R4). -/
def lineCount (sram : Bool) : Nat := if sram then 0x400000 else 0x30000000
def stackTier (sram : Bool) : Nat := if sram then 1 else 2
/-- Big Top physical address of a line (R345). -/
def linePa (n : Nat) (sram : Bool) (line : Nat) : Nat := stackBase (stackTier sram) n + 64 * line
/-- Channel and DRAM bank of a line, bank `(die * 32 + channel) * 4 + bank in die and channel` (R441). -/
def dramChan (line : Nat) : Nat := (bits (line * 64) 10 6) ^^^ (bits (line * 64) 22 18)
def dramBank (line : Nat) : Nat := (line / 0x4000000 * 32 + dramChan line) * 4 + bits (line * 64) 17 16
def dramRow (line : Nat) : Nat := bits (line * 64) 31 18
def dramCol (line : Nat) : Nat := bits (line * 64) 15 11
/-- The line at a row and column of a bank (R441). -/
def dramLine (bank row col : Nat) : Nat :=
  let ch := bank / 4 % 32
  bank / 128 * 0x4000000 + row * 0x1000 + bank % 4 * 0x400 + col * 0x20 + (ch ^^^ row % 32)
/-- Spare rows of a bank for use in service (R456). -/
def spareRows : Nat := 32
def Stack.sparesUsed (k : Stack) (bank : Nat) : Nat := (assoc k.spares bank).getD 0


/-! ### What a read of a line brings about (R446, R456) -/

/-- The partition of a trouble-log entry about an address. -/
def State.partOf (s : State) (pa : Nat) : Nat := (s.partsAt pa).headD 0xFF

/-- A count of 48 bits with its overflow flag (R459). -/
def bump48 (v : BitVec 48) (ovf : Bool) : BitVec 48 × Bool := (v + 1, ovf || v == BitVec.allOnes 48)

/-- Ringmaster is notified of a line (R446): the partitions that map it. -/
def notifyLine (pa : Nat) (s : State) : State := (s.partsAt pa).foldl State.notifyPart s

/-- Sparing of a row begins: a free copy buffer takes it, else it waits (R456). -/
def beginSparing (n bank row : Nat) (s : State) : State :=
  let k := s.stack n
  let busy := (match k.copy with | some c => c.bank == bank && c.row == row | none => false) || k.copyQ.contains (bank, row)
  if busy then s
  else if spareRows ≤ k.sparesUsed bank then
    s.logAdd 0x0D 2 0xFF (unitOf 3 n) (dramLine bank row 0 * 64) bank 0 0
  else if k.copy.isSome then s.updStack n fun k => { k with copyQ := k.copyQ ++ [(bank, row)] }
  else s.updStack n fun k => { k with copy := some ⟨bank, row, k.sparesUsed bank, s.time, false⟩ }

/-- A corrected symbol in a row: the row is spared when the same symbol was found at least 1 s before (R456). -/
def markRow (n bank row sym : Nat) (s : State) : State :=
  match (s.stack n).marks.find? fun m => m.1 == bank && m.2.1 == row && m.2.2.1 == sym with
  | none => s.updStack n fun k => { k with marks := k.marks ++ [(bank, row, sym, s.time)] }
  | some m => if m.2.2.2 + 1000000000 ≤ s.time then beginSparing n bank row s else s

/-- A correctable error (R446): it is counted, logged at most once a second for a line, and a correcting write-back waits. -/
def lineCE (n : Nat) (sram : Bool) (line sym source : Nat) (s : State) : State :=
  let k := s.stack n
  let (ce, ovf) := bump48 k.ce k.ceOvf
  let at_ (e : Bool × Nat × Nat × Nat) : Bool := e.1 == sram && e.2.1 == line
  let s1 := s.updStack n fun k => { k with
    ce := ce, ceOvf := ovf
    wbs := if k.wbs.contains (sram, line) then k.wbs else k.wbs ++ [(sram, line)] }
  let last := k.logged.find? at_
  let due := match last with | some e => decide (e.2.2.1 + 1000000000 ≤ s.time) | none => true
  let since := (match last with | some e => e.2.2.2 | none => 0) + 1
  let set (tm cnt : Nat) (s : State) : State :=
    s.updStack n fun k => { k with logged := (k.logged.filter fun e => !at_ e) ++ [(sram, line, tm, cnt)] }
  let s2 := if due then
      (set s.time 0 s1).logAdd 0x01 1 (s.partOf (linePa n sram line)) (unitOf 3 n) (linePa n sram line) sym source since
    else set ((last.map fun e => e.2.2.1).getD 0) since s1
  if sram then s2 else markRow n (dramBank line) (dramRow line) sym s2

/-- An uncorrectable line (R446): it is written as poisoned, recorded, counted, logged and notified. -/
def lineUE (n : Nat) (sram : Bool) (line source : Nat) (pc : Word) (s : State) : State :=
  let k := s.stack n
  let (ue, ovf) := bump48 k.ue k.ueOvf
  let pa := linePa n sram line
  let s1 := (s.setPoison pa).updStack n fun k => { k with
    ue := ue, ueOvf := ovf
    errrec := if k.errrec.1 then k.errrec else (true, sram, BitVec.ofNat 3 source, BitVec.ofNat 48 (line * 64)) }
  notifyLine pa (s1.logAdd 0x02 3 (s.partOf pa) (unitOf 3 n) pa 0x54 source pc.toNat)

/-- A line that reads as poisoned (R446): logged, and notified unless it is held as poisoned already. -/
def linePoisoned (n : Nat) (sram : Bool) (line source : Nat) (pc : Word) (s : State) : State :=
  let pa := linePa n sram line
  let s1 := s.logAdd 0x02 3 (s.partOf pa) (unitOf 3 n) pa 0x52 source pc.toNat
  if s.isPoisoned pa 64 then s1 else notifyLine pa (s1.setPoison pa)

/-! ### Units met by a core's access (R69, R77, R446, R448, R451) -/

/-- Stack, memory and line of a unit of a stack. -/
def lineOf (pa : Nat) : Option (Nat × Bool × Nat) :=
  match homeOf pa with
  | some (1, n) => some (n, true, (pa - stackBase 1 n) / 64)
  | some (2, n) => some (n, false, (pa - stackBase 2 n) / 64)
  | _ => none
/-- The bank of a stack, or the slice, that serves an address: requests for it contend there (R294, R443, R444). -/
def homeUnit (pa : Nat) : Option (Nat × Nat × Nat) :=
  match lineOf pa with
  | some (n, sram, line) => some (if sram then 1 else 2, n, if sram then line % 64 else dramBank line)
  | none => (homeOf pa).bind fun h => if h.1 = 0 then some (0, h.2, 0) else none
/-- Coded units that a range touches, by their addresses. -/
def unitsOf (pa n : Nat) : List Nat :=
  let u := ecUnit pa
  if u = 0 ∨ n = 0 then [] else (List.range ((pa + n - 1) / u - pa / u + 1)).map fun i => (pa / u + i) * u
/-- What an access finds at a unit, by what the command reports. -/
def errAt (e : HomeErrs) (u : Nat) : WordErr :=
  ((e.units.find? fun q => decide (u ≤ q.1 ∧ q.1 < u + ecUnit u)).map (·.2)).getD .clean

/-- Core `c`, at an instruction at `pc`, has unit `u` read, by a foreground read (`source` 1) or for a partial write (2): what the
code finds is corrected and counted, or poisons the unit, is recorded, logged and notified; with the reason where it cannot be read. -/
def meetUnit (c : Nat) (pc : Word) (source u : Nat) (err : WordErr) (s : State) : State × Option Byte :=
  match lineOf u, s.isPoisoned u (ecUnit u) || s.lostAt u, err with
  | some (n, sram, line), true, _ => (linePoisoned n sram line source pc s, some 0x52)
  | some (n, sram, line), _, .fixed sym => (lineCE n sram line sym source s, none)
  | some (n, sram, line), _, .bad => (lineUE n sram line source pc s, some 0x54)
  | none, true, _ => (noteUE c u 0x52 pc s source, some 0x52)
  | none, _, .fixed sym => (noteCE c u sym s source, none)
  | none, _, .bad => (noteUE c u 0x54 pc (s.setPoison u) source, some 0x54)
  | _, _, .clean => (s, none)
/-- The units of a range are read one by one; the reason of the first that cannot be. `seen`: units read before, with their outcome. -/
def meetUnits (c : Nat) (pc : Word) (source : Nat) (errs : HomeErrs) (seen : List (Nat × Option Byte)) (us : List Nat) (s : State) :
    State × Option Byte :=
  us.foldl (fun (r : State × Option Byte) u =>
    match seen.find? fun q => q.1 == u with
    | some q => (r.1, r.2.or q.2)
    | none =>
      let (s', e) := meetUnit c pc source u (errAt errs u) r.1
      (s', r.2.or e)) (s, none)
/-- A foreground write of a line cancels its correcting write-back (R455). -/
def dropWriteback (u : Nat) (s : State) : State :=
  match lineOf u with
  | some (n, sram, line) =>
    if (s.stack n).wbs.contains (sram, line) then s.updStack n fun k => { k with wbs := k.wbs.filter (· != (sram, line)) } else s
  | none => s
/-- A write of a physical range, unit by unit (R448, R451): a unit written whole loses its poison and is not read; one written in part
is read first, and where that fails is left poisoned with none of the bytes. Every unit of a page poisoned as a whole fails (R364). -/
def putUnits (c : Nat) (pc : Word) (errs : HomeErrs) (seen : List (Nat × Option Byte)) (pa : Nat) (bs : List Byte) (s : State) :
    State × Option Byte :=
  let u := ecUnit pa
  if u = 0 then (s.writePhys pa bs c, none) else
    (cutUnits u (bs.length + 1) pa bs).foldl (fun (r : State × Option Byte) p =>
      let base := p.1 / u * u
      if p.2.length = u && !r.1.lostAt base then (dropWriteback base ((r.1.writePhys p.1 p.2 c).clearPoison p.1), r.2)
      else
        match meetUnits c pc 2 errs seen [base] r.1 with
        | (s', none) => (dropWriteback base (s'.writePhys p.1 p.2 c), r.2)
        | (s', some e) => (s', r.2.or (some e))) (s, none)

end Sys2Proof.Machine
end

