-- ==== Sys2Proof/Machine/Waits.lean ====
section
/-! DEFINITION. Steps that pass, the taking of an exception, the flow of issue after an instruction, and blocking waits: what ends each
and what it returns (R61, R65, R80, R87, R103, R285, R314). -/

namespace Sys2Proof.Machine

/-! ### Steps in which nothing issues (R17, R34, R61, R80, R103, R509) -/

/-- `n` steps pass on a core in which nothing issues, `f` counting them: a write that comes due lands at its own step, after what the
array did before that step, and what is counted or set in that step and after comes after it. -/
def elapse (c : Nat) (f : Nat → Core → Core) : Nat → Nat → State → State
  | 0, n, s => s.upd c (f n)
  | fuel + 1, n, s =>
    match (s.core c).tm.pend with
    | p :: _ =>
      let d := p.land - (s.core c).tm.step
      if d ≤ n then elapse c f fuel (n - d) (landUpTo c p.land (settleBefore c p.land (s.upd c (f d)))) else s.upd c (f n)
    | [] => s.upd c (f n)
/-- `elapse` over all of a core's pending writes. -/
def stepsPass (c : Nat) (f : Nat → Core → Core) (n : Nat) (s : State) : State := elapse c f (s.core c).tm.pend.length n s
/-- Every pending write lands at its own step, those up to the last being idle (R103 step 1). -/
def landEntry (c : Nat) (s : State) : State :=
  let k := s.core c
  if k.lastLand ≤ k.tm.step then landAll c s else stepsPass c (fun n k => k.idle n) (k.lastLand - k.tm.step) s
/-- The writes due by the core's present step land, each after what the array did before its step, and the array stands as it is at
this step. -/
def catchUp (c : Nat) (s : State) : State :=
  let k := s.core c
  settleArray c ((((k.tm.pend.map (·.land)).filter fun t => decide (t ≤ k.tm.step)).eraseDups).foldl
    (fun s t => landUpTo c t (settleBefore c t s)) s)

/-! ### Taking an exception (R102, R103, R106) -/

/-- Taking an exception (R103, R106): pending writes land; a delayed fault among them is delivered in place of the cause that began
the entry, which leaves nothing of itself; else `mark`, what the cause does beside its entry, and the entry. The handler
issues at `t + 8`, or at `L + 1` if later. Of several delayed faults, due or not, the earliest-issued is delivered (log entry 32). -/
def takeExceptionBy (c : Nat) (t : Trap) (mark : State → State) (s : State) : State :=
  let k := s.core c
  let h := max (k.tm.step + 8) (k.lastLand + 1)
  let s' := landEntry c s
  match (s'.core c).tm.delayed with
  | d :: _ => enterSync c d.trap h (s'.upd c fun k => { k with tm := { k.tm with delayed := [] } })
  | [] => enterSync c t h (mark s')
/-- An exception that does nothing beside its entry. -/
def takeException (c : Nat) (t : Trap) (s : State) : State := takeExceptionBy c t id s

/-- An asynchronous cause that R111 lets be taken (R102, R103, R106): `barw` for an interrupted BAR (R333). -/
def takeInterrupt (c i : Nat) (barw : Bool) (s : State) : State :=
  let k := s.core c
  let h := max (k.tm.step + 8) (k.lastLand + 1)
  let s' := landEntry c s
  match (s'.core c).tm.delayed with
  | d :: _ => enterSync c d.trap h (s'.upd c fun k => { k with tm := { k.tm with delayed := [] } })
  | [] =>
    match routeOf s' c (0x20 + i) true with
    | .enter n esc b =>
      let t : Trap := { cause := BitVec.ofNat 8 (0x20 + i) }
      let s'' := s'.upd c fun k => { k with tr := { k.tr with ipend := k.tr.ipend &&& ~~~(BitVec.ofNat 8 (2 ^ i)) } }
      enterBank c n b t esc false barw true h s''
    | .rescue esc =>
      let t : Trap := { cause := BitVec.ofNat 8 (0x20 + i) }
      enterRescue c t esc true h (s'.upd c fun k =>
        { k with tr := { k.tr with ipend := k.tr.ipend &&& ~~~(BitVec.ofNat 8 (2 ^ i)) } })
    | .hold => s'

/-- Flow after an instruction that transfers no control: the next repetition, the next slot, the
branch's continuation, or the next instruction (R65, R87). -/
def Flow.advance (f : Flow) (wide : Bool) : Flow :=
  let n : Word := if wide then 8 else 4
  let g := { f with hold := false, barw := false }
  match f.rep with
  | some r =>
    if r.left ≤ 1 then { g with pc := f.pc + n, rep := none, repc := 0 }
    else { g with rep := some { r with left := r.left - 1 }, repc := BitVec.ofNat 16 (r.left - 1) }
  | none =>
    match f.slots with
    | 0 => { g with pc := f.pc + n, jump := none }
    | 1 => { g with pc := f.btgt, slots := 0 }
    | m + 1 => { g with pc := f.pc + n, slots := m }

/-- Flow of a core whose wait has issued: with no slot left, interrupts are no longer held back (R111). -/
def Flow.waiting (f : Flow) : Flow := { f with hold := false, jump := if f.slots = 0 then none else f.jump }
/-- An instruction has issued: one beat, and the flow moves on. -/
def Core.retire (k : Core) (wide : Bool) : Core := ({ k with flow := k.flow.advance wide }).beat

/-! ### The oldest work of a counter (R295) -/

/-- Stall cause of far work: 0 for work inside the step domain. -/
def Work.cause (s : State) (w : Work) : Nat :=
  let home := stallOfHome (if isHub w.core then homeOf w.addr.toNat else s.homeOfVa w.part w.addr.toNat)
  match w.kind with
  | .tld _ _ => if w.tags = 0 then 0 else home
  | .tst _ _ _ _ => if w.tags = 0 then 0 else home
  | .tmov _ _ _ _ _ _ => 0
  | .tzero _ _ => 0
  | .sig _ _ => 2
  | .query _ _ _ => 2
  | _ => home

/-- Oldest outstanding work on counter `n`: PC, stall cause, and the slot of a stream. -/
def State.oldest (s : State) (c n : Nat) : Option (Word × Nat × Option Nat) :=
  let k := s.core c
  let ws := (s.works.filter fun w => w.core == c && w.cc == n).map fun w => (w.id, (w.pc, w.cause s, (none : Option Nat)))
  let ps := (k.arr.queue.filter fun p => p.cc == n).map fun p => (p.id, (p.pc, 0, none))
  let us := (k.arr.upd.filter fun u => u.cc == n).map fun u => (u.id, (u.pc, 0, none))
  let ss := (k.slots.toList.zipIdx.filter fun q => q.1.st != .free && q.1.cc == n).map fun q =>
    (q.1.id, (q.1.pc, s.slotCause c q.1 true, some q.2))
  (argMin (·.1) (ws ++ ps ++ us ++ ss)).map (·.2)

/-- Cause code under which the idle steps of a wait count, 0 for none (R295, R314). -/
def State.waitCause (s : State) (c : Nat) (w : Wait) : Nat :=
  match w.kind with
  | .counter n _ => match s.oldest c n with | some (_, cause, _) => cause | none => 0
  | .sem _ _ => 6
  | .signal => 6
  | .barrier _ => 6
  | .stream sl => s.slotCause c (vget (s.core c).slots sl .reset) false
  | _ => 0

/-- Idle steps of a wait, counted under a stall cause (R295, R510). -/
def Core.idleStall (k : Core) (n cause : Nat) : Core :=
  let k := k.idle n
  if cause = 0 then k else k.count (1 + cause) n

/-! ### Segments (R285) -/

def SDesc.segBytes (d : SDesc) : Nat := d.rowb * d.segrows
/-- Ring address of segment `k` (R279). -/
def SDesc.segAddr (d : SDesc) (k : Nat) : Word := Word.plus d.rbase (k % d.nseg * d.segBytes)

/-- A satisfied SACQ: the segment is held; the interval enters the mean of R293. -/
def Slot.acquire (sl : Slot) (now : Nat) : Slot :=
  { sl with
    prog := { sl.prog with acq := sl.prog.acq + 1 }
    ivals := if sl.prog.acq = 0 then [] else ((now - sl.t0) :: sl.ivals).take 4
    t0 := now }

/-! ### Ends of a wait -/

/-- Whether a wait ends, and how. -/
inductive WaitEnd
  | keep
  | ret (v : Option Word)
  | fault (t : Trap)
deriving DecidableEq, Repr

/-- Whether a counter is hidden from the code that a core runs: a scoring task sees nothing of those it shares with the training task
it displaced, and a WAITC on one returns 0 (R416). -/
def Core.ccHidden (k : Core) (n : Nat) : Bool := k.idn.hide && k.level != .m && decide (n < 8)

/-- R81, R82, R285, R328, R333, R334, R224, R381. -/
def waitEnd (s : State) (c : Nat) (w : Wait) : WaitEnd :=
  let k := s.core c
  match w.kind with
  | .counter n m =>
    if k.ccHidden n then .ret (some 0)
    else if m < k.outst n then .keep
    else if bitOf k.cnt.ccerr.toNat n then
      let r := vget k.cnt.recs n .zero
      .fault (busError r.addr r.pc r.reason n)
    else .ret (some (BitVec.ofNat 64 (k.outst n)))
  | .sem id _ =>
    match s.works.find? fun v => v.id == id with
    | some v =>
      match v.stage with
      | .applied bs => .ret (some (BitVec.ofNat 64 (leNat bs)))
      | .failed r => .fault (busError r.addr r.pc r.reason 0)
      | _ => .keep
    | none => .keep
  | .signal =>
    match k.sigSeen k.level with
    | [] => .keep
    | e :: _ => .ret (some (BitVec.ofNat 64 (e.payload.toNat + e.sender.toNat * 2 ^ 48)))
  | .barrier ch =>
    if k.syn.barfail.getLsbD ch.toNat then
      let r := ((k.syn.barerr.find? fun e => e.1 == ch).map (·.2)).getD .zero
      .fault { cause := 3, reason := 0x41, edata0 := r.addr, edata1 := r.pc }
    else if !k.syn.barmask.getLsbD ch.toNat then .fault { cause := 1, reason := 3, edata0 := w.data }
    else if k.syn.barpend.getLsbD ch.toNat then .keep
    else .ret (some (vget k.syn.gens ch.toNat 0))
  | .stream i =>
    let sl := vget k.slots i .reset
    match sl.avail, sl.desc with
    | true, some d => .ret (some (d.segAddr sl.prog.acq))
    | _, _ => if sl.isEnded || sl.st == .free then .ret (some (BitVec.allOnes 64)) else .keep
  | .array => if k.arr.queue.isEmpty then .ret none else .keep
  | .watch =>
    let v := if k.idn.hide && k.level != .m then k.mon.fired &&& ~~~15 else k.mon.fired
    if v = 0 then .keep else .ret (some v)
  | .netGate _ => .keep

/-- A take of core `c`, in flight or parked, is no more (R323). -/
def clearTake (c : Nat) (s : State) : State :=
  let mine (w : Work) : Bool :=
    w.core == c && (match w.kind with | .semTake _ _ _ _ => true | _ => false)
  let ids := (s.works.filter mine).map (·.id)
  { s with works := s.works.filter fun w => !mine w, takes := s.takes.filter fun t => !ids.contains t.id }

/-- What returning from a wait takes: the dequeued signal, the acquired segment, the granted take. -/
def waitTake (s : State) (c : Nat) (w : Wait) : State :=
  match w.kind with
  | .sem _ _ => clearTake c s
  | .signal => s.upd c fun k =>
      match k.sigSeen k.level with
      | [] => k
      | e :: _ => { k with syn := { k.syn with sigq := k.syn.sigq.erase e } }
  | .stream i => s.upd c fun k =>
      let sl := vget k.slots i .reset
      if sl.avail then { k with slots := vset k.slots i (sl.acquire s.time) } else k
  | _ => s

/-- A wait returns at the core's present step: results due land, `rd` is written, the flow moves on. -/
def returnWait (c : Nat) (w : Wait) (v : Option Word) (s : State) : State :=
  let s := landUpTo c (s.core c).tm.step (waitTake s c w)
  s.upd c fun k =>
    let k := match v with
      | some x => k.setX k.bank w.rd x
      | none => k
    { k with wait := none, flow := k.flow.advance w.wide }

/-! ### The voltage of a waiting core (R338, R340, R474) -/

/-- Floor, nominal and retention settings of a core, mV (R36, R474). -/
def State.floorMv (s : State) (c : Nat) : Nat := 550 + 5 * (s.margin c).vofs
def State.nomMv (s : State) (c : Nat) : Nat := 780 + 5 * (s.margin c).vofs
def State.retMv (s : State) (c : Nat) : Nat := 450 + 5 * (s.margin c).vofs
/-- A core that resumes is set to its floor at least (R340). -/
def wakeVolt (c : Nat) (s : State) : State :=
  s.upd c fun k => { k with pw := { k.pw with vset := max k.pw.vset (s.floorMv c), target := max k.pw.target (s.floorMv c) } }
/-- Whether the power manager keeps a core off the retention voltage: a pass in the array, an item on the update
path, a tag held (R225, R275, R309). -/
def State.noRetention (s : State) (c : Nat) : Bool :=
  let k := s.core c
  !k.arr.queue.isEmpty || !k.arr.upd.isEmpty || decide (0 < s.tags c false)
/-- Whether the lead hub's power manager makes settings: none but a lapse while the lead is lost (R482). -/
def State.leadUp (s : State) : Bool := (s.hub s.pkg.lead).insvc
/-- A core that a long wait has lowered to its floor falls on to retention once nothing holds it, unless its wait has run out or an
interrupt would be taken, either of which has it resume (R338, R340), or no manager makes settings (R482). -/
def fallOn (c : Nat) (s : State) : State :=
  match (s.core c).wait with
  | some w =>
    if w.lowered && !s.noRetention c && s.leadUp && decide (s.time < w.deadline) && (readyInterrupt s c).isNone then
      s.upd c fun k => { k with pw := { k.pw with vset := s.retMv c, target := s.retMv c } }
    else s
  | none => s

/-- The stall cause that holds for the wait of a core, 0 with none. -/
def State.causeNow (s : State) (c : Nat) : Nat :=
  match (s.core c).wait with
  | some w => s.waitCause c w
  | none => 0

/-- A core whose wait state `s` lets end returns from it at its present step. One whose ring has stopped waits for its resumption
(R340). -/
def endWait (c : Nat) (s : State) : State :=
  match (s.core c).wait with
  | none => s
  | some w =>
    if !(s.core c).pw.ring then s else
      match waitEnd s c w with
      | .keep => fallOn c s
      | .ret v => returnWait c w v (if w.lowered then wakeVolt c s else s)
      | .fault t => takeException c t ((clearTake c (if w.lowered then wakeVolt c s else s)).upd c fun k => { k with wait := none })
/-- A free number of steps of a wait on work outside the step domain, counted under a stall cause (R33, R295; log entry 6). -/
def idleSteps (c cause : Nat) (s : State) : State :=
  stepsPass c (fun n k => k.idleStall n cause) (Config.freeSteps s.fresh) s.draw
/-- Whether going from `s` to `t` ends the wait of a core, or counts its further steps under another cause. -/
def State.waitMoves (s t : State) (c : Nat) : Bool :=
  match (s.core c).wait with
  | none => false
  | some w => (s.core c).pw.ring && (t.core c).wait == some w && (waitEnd t c w != .keep || s.causeNow c != t.causeNow c)
/-- An event `f` outside the step domain: the steps that the waits it moves have lasted pass before it, so that a write landing in them
comes before what it sets (R17); then the waits it satisfies end. -/
def settleWaits (cs : List Nat) (f : State → State) (s : State) : State :=
  let s1 := f s
  let s2 := match cs.filter (s.waitMoves s1) with
    | [] => s1
    | ds => f (ds.foldl (fun s c => idleSteps c (s.causeNow c) s) s)
  cs.foldl (fun s c => endWait c s) s2

/-- What an event set in the registers of a core that a write may clear stays set though the write lands after (R17). -/
def keepEvents (c : Nat) (s0 s1 : State) (s : State) : State :=
  let k0 := s0.core c
  let k1 := s1.core c
  s.upd c fun k => { k with
    cnt := { k.cnt with ccerr := k.cnt.ccerr ||| (k1.cnt.ccerr &&& ~~~k0.cnt.ccerr) }
    mon := { k.mon with fired := k.mon.fired ||| (k1.mon.fired &&& ~~~k0.mon.fired) }
    syn := { k.syn with barfail := k.syn.barfail ||| (k1.syn.barfail &&& ~~~k0.syn.barfail) } }
/-- As `settleWaits`, where the event has taken `s0` to `s1`. -/
def settleAfter (cs : List Nat) (s0 s1 : State) : State :=
  cs.foldl (fun s c => endWait c (if s0.waitMoves s c then keepEvents c s0 s1 (idleSteps c (s0.causeNow c) s) else s)) s1

end Sys2Proof.Machine
end

