-- ==== Sys2Proof/Machine/Issue.lean ====
section
/-! DEFINITION. The issue of an instruction: what comes due first, its checks, its effect, the next PC (R34, R60 to R67, R106). -/

namespace Sys2Proof.Machine

/-- A core is borrowed for calibration (R472): a free number of steps, at most 2 µs, in which issue is held. -/
def borrow (c : Nat) (s : State) : State :=
  let n := Config.freeSteps s.fresh
  (stepsPass c (fun n k => (k.idle n).count 28 n) n s.draw).upd c fun k =>
    { k with pw := { k.pw with lastCal := s.time, calForced := none } }
/-- A forced borrow begins once the passes issued before it have left the array (R225, R472). -/
def heldBorrow (c : Nat) (s : State) : State :=
  match (s.core c).pw.calHold with
  | some (id, n) =>
    if (s.core c).arr.queue.any fun p => decide (p.id ≤ id) then s
    else
      catchUp c ((stepsPass c (fun n k => (k.idle n).count 28 n) n s).upd c fun k =>
        { k with pw := { k.pw with lastCal := s.time, calHold := none } })
  | none => s

/-- The core at its present step, with a forced borrow behind it whose time has come. -/
def arrive (c : Nat) (s : State) : State := heldBorrow c (catchUp c s)

/-- Whether a delayed fault is due at the present step (R74, R106). -/
def Core.delayedDue (k : Core) : Bool := k.tm.delayed.any fun d => decide (d.due ≤ k.tm.step)

/-- The misaligned fetch of R51 and R67: the cause data is the address of the jump, or of the fetch itself. -/
def fetchTrap (k : Core) : Trap :=
  { cause := 2, edata0 := k.flow.pc, edata1 := k.flow.jump.getD k.flow.pc }

/-! ### The fetch (R531) -/

/-- Why the word at `a` cannot be fetched, and its place where it has one: translation and permission at the issuing level, then
its poison, then an error its code cannot correct. -/
def fetchWord (s : State) (c a : Nat) (err : WordErr) : Option (Byte × Option Nat) :=
  match s.translate (s.spaceOf c) (s.core c).level true false a with
  | .error r => some (r, none)
  | .ok pa =>
    if s.isPoisoned pa 4 then some (0x52, some pa) else
      match err with
      | .bad => some (0x54, some pa)
      | _ => none
/-- BUS_ERROR of a fetch: EDATA0 is the word that fails, EDATA1 the instruction's address; with the place of an unreadable word. -/
def fetchFault (s : State) (c : Nat) (wide : Bool) (e0 e1 : WordErr) : Option (Trap × Option Nat) :=
  let pc := (s.core c).flow.pc
  match fetchWord s c pc.toNat e0 with
  | some (r, pa) => some (busError pc pc r 0, pa)
  | none =>
    if wide then (fetchWord s c (pc.toNat + 4) e1).map fun q => (busError (pc + 4) pc q.1 0, q.2) else none
/-- A fetch that failed is taken as its BUS_ERROR; an unreadable word is logged. -/
def takeFetch (c : Nat) (f : Trap × Option Nat) (s : State) : State :=
  takeExceptionBy c f.1 (fun s => match f.2 with
    | some pa => noteUE c pa f.1.reason.toNat f.1.edata1 s
    | none => s) s

/-- Whether a repeat in progress leaves the words `e` to issue: only the repeated instruction does (R87). -/
def Core.repeats (k : Core) (e : Enc) : Bool :=
  match k.flow.rep with
  | some r => repEnc r.next == e
  | none => true

/-- Issue of an instruction whose words are `e`. A control transfer, repeat prefix or gate is `ctl` and has no
place in a delay slot (R66). `check` gives the fault at issue, if any, and `mark` what that fault does beside its entry; `run` the
whole effect with the move to the next instruction. A core that does not issue, or that repeats another instruction, ignores the
command. -/
def issueBy (c : Nat) (e : Enc) (ctl : Bool) (check : State → Option Trap) (mark : State → Trap → State → State)
    (run : State → State) (s0 : State) : Out :=
  if 160 ≤ c then .refused .noSuchUnit
  else if !(s0.core c).canIssue || !(s0.core c).repeats e then done s0 s0
  else
    let s := arrive c s0
    let k := s.core c
    if k.delayedDue then done s0 (takeException c {cause := 3} s)
    else if k.flow.pc.toNat % 4 ≠ 0 then done s0 (takeException c (fetchTrap k) s)
    else
      match fetchFault s c e.wide .clean .clean with
      | some f => done s0 (takeFetch c f s)
      | none =>
        if ctl && k.flow.slots != 0 then done s0 (takeException c (illegal e 0) s)
        else
          match check s with
          | some t => done s0 (takeExceptionBy c t (mark s t) s)
          | none => done s0 (run s)
/-- Issue of an instruction whose fault does nothing beside its entry. -/
def issueI (c : Nat) (e : Enc) (ctl : Bool) (check : State → Option Trap) (run : State → State) (s0 : State) : Out :=
  issueBy c e ctl check (fun _ _ => id) run s0

/-- An instruction of one beat that transfers no control: `eff` at the issue step, then the next PC. -/
def issueP (c : Nat) (e : Enc) (check : State → Option Trap) (eff : State → State) (s0 : State) : Out :=
  issueI c e false check (fun s => (eff s).upd c fun k => k.retire e.wide) s0

/-- An instruction of the tile files, the array, the update path or Juggler: a hub core has none of them. -/
def issueE (c : Nat) (e : Enc) (check : State → Option Trap) (eff : State → State) (s0 : State) : Out :=
  if isHub c && decide (c < 160) then .refused .unitAbsent else issueP c e check eff s0

/-- No fault at issue. -/
def noFault (_ : State) : Option Trap := none
/-- ILLEGAL_OP where a condition of the encoding holds. -/
def illegalIf (e : Enc) (b : Bool) : Option Trap := if b then some (illegal e 0) else none
/-- The first of several checks that fails. -/
def firstOf : List (Option Trap) → Option Trap
  | [] => none
  | some t :: _ => some t
  | none :: ts => firstOf ts

/-- A counter of cc14 or cc15 named at T (R79). -/
def Core.ccDenied (k : Core) (cc : BitVec 4) : Bool := k.level == .t && decide (14 ≤ cc.toNat)
/-- A counter of cc8 to cc13 named at T while they are held back for scoring (R382, R416). -/
def Core.ccResv (k : Core) (cc : BitVec 4) : Bool :=
  k.level == .t && k.idn.resv && decide (8 ≤ cc.toNat ∧ cc.toNat ≤ 13)
/-- ILLEGAL_OP of an instruction that reads a counter: of R79, of R382. -/
def illegalCcRead (e : Enc) (k : Core) (cc : BitVec 4) : Option Trap :=
  if k.ccDenied cc then some (illegal e 0) else if k.ccResv cc then some (illegal e 4) else none
/-- ILLEGAL_OP of an instruction that counts work: of its encoding, of R79, of R382; and of a counter that TRESV.HIDE hides, which
R416 leaves to the displaced task (R9; log entry 20, DESIGN CHOICE). -/
def illegalCc (e : Enc) (k : Core) (bad : Bool) (cc : BitVec 4) : Option Trap :=
  if bad then some (illegal e 0)
  else firstOf [illegalCcRead e k cc, if k.ccHidden cc.toNat then some (illegal e 4) else none]
/-- CC_LIMIT (R78). -/
def Core.ccFull (k : Core) (cc : BitVec 4) : Option Trap :=
  if 65535 ≤ k.outst cc.toNat then some (ccLimit cc.toNat) else none

/-- Timeout of a wait in nanoseconds: 0 selects WTO_DEF (R81). -/
def Core.timeout (k : Core) (rs : Reg) : Nat := if k.rx rs = 0 then k.idn.wtoDef.toNat else (k.rx rs).toNat

/-- A blocking wait (R80): it returns at once where it is satisfied, else the core waits. `check` holds the
faults of its own; a fault of a wait satisfied at once is taken in its place. -/
def issueWait (c : Nat) (e : Enc) (check : State → Option Trap) (pre : State → State) (wait : State → Wait) (s0 : State) : Out :=
  let endCheck (s : State) : Option Trap :=
    match waitEnd (pre s) c (wait s) with
    | .fault t => some t
    | _ => none
  issueI c e false (fun s => firstOf [check s, endCheck s])
    (fun s =>
      let w := wait s
      let s1 := (pre s).upd c Core.beat
      match waitEnd (pre s) c w with
      | .ret v => returnWait c w v s1
      | _ => s1.upd c fun k => { k with wait := some w, flow := k.flow.waiting })
    s0

/-- A wait record at the present time. -/
def mkWait (s : State) (c : Nat) (kind : WaitKind) (rd rs : Reg) (long bar : Bool) (e : Enc) : Wait :=
  ⟨kind, rd, s.time, s.time + (s.core c).timeout rs, long, bar, false, e.data, e.wide⟩

end Sys2Proof.Machine
end

