-- ==== Sys2Proof/Machine/Flags.lean ====
section
/-! DEFINITION. Flag rules of the integer and floating-point instructions (R57, R124, R140, R141). -/

namespace Sys2Proof.Machine

/-- Whether a signed result does not fit in 64 bits (R57). -/
def overflows (i : Int) : Bool := decide (i < -(2 ^ 63 : Int)) || decide ((2 ^ 63 : Int) ≤ i)
def addOv (a b : Word) : Bool := overflows (a.toInt + b.toInt)
def subOv (a b : Word) : Bool := overflows (a.toInt - b.toInt)
def mulOv (a b : Word) : Bool := overflows (a.toInt * b.toInt)

/-- An integer result at distance `d` that may overflow (R57, R124): in the maintenance state with TRAPOV the
destination is not written and INT_OVF is raised at the first issue at or after the landing step. -/
def Core.landOv (k : Core) (d : Nat) (rd : Reg) (v : Word) (ov : Bool) : Core :=
  if !ov then k.landX d rd v
  else if k.tr.trapov && k.tr.maint then
    (k.land d (.aflags true false)).delay ⟨k.tm.step, k.tm.step + d, none, { cause := 0x0D, edata0 := k.flow.pc }⟩
  else (k.landX d rd v).land d (.aflags true false)

/-- The traps of a divide at issue (R124). -/
def divTrap (k : Core) (dz ov : Bool) : Option Trap :=
  if dz && k.tr.trapdz && k.tr.maint then some { cause := 0x0C, edata0 := k.flow.pc }
  else if ov && k.tr.trapov && k.tr.maint then some { cause := 0x0D, edata0 := k.flow.pc }
  else none
/-- A divide result with its sticky flags (R57). -/
def Core.landDiv (k : Core) (rd : Reg) (v : Word) (dz ov : Bool) : Core :=
  let k := k.landX 18 rd v
  if dz || ov then k.land 18 (.aflags ov dz) else k

/-- An FP32 result in f[rd] at distance `d`, bits 63:32 zero, with its flags at the same step (R50, R141). -/
def Core.landF (k : Core) (d : Nat) (rd : Reg) (r : BitVec 32 × FF) : Core :=
  let k := k.land d (.f rd (r.1.setWidth 64))
  if r.2 = 0 then k else k.land d (.fflags r.2)
/-- An integer result of a floating-point instruction. -/
def Core.landXF (k : Core) (d : Nat) (rd : Reg) (v : Word) (f : FF) : Core :=
  let k := k.landX d rd v
  if f = 0 then k else k.land d (.fflags f)
/-- A vector result at distance 8 with its flags. -/
def Core.landV (k : Core) (d : Nat) (vd : Reg) (v : BitVec 4096) (f : FF) : Core :=
  let k := k.land d (.v vd v)
  if f = 0 then k else k.land d (.fflags f)

end Sys2Proof.Machine
end

