-- ==== Sys2Proof/Machine/Operands.lean ====
section
/-! DEFINITION. Operand forms: immediates, branch targets, local and Carousel addresses, sizes (R52, R65, R71, R84 to R86). -/

namespace Sys2Proof.Machine

def sextImm (imm : BitVec 16) : Word := imm.signExtend 64
def zextImm (imm : BitVec 16) : Word := imm.setWidth 64
/-- Target of a B-format branch (R65). -/
def targetB (pc : Word) (off : BitVec 16) : Word := pc + (off.signExtend 64) <<< 2
/-- Target of a J-format jump (R65). -/
def targetJ (pc : Word) (off : BitVec 26) : Word := pc + (off.signExtend 64) <<< 2
/-- Bytes of the two delay slots (R51, R69). -/
def delayBytes (sl : SlotLens) : Nat := (if sl.w1 then 8 else 4) + (if sl.w2 then 8 else 4)
/-- The address after both delay slots (R69). -/
def afterSlots (pc : Word) (sl : SlotLens) : Word := Word.plus pc (4 + delayBytes sl)

/-- A loaded value extended to 64 bits (R52). -/
def extend (size : Nat) (sx : Bool) (v : Nat) : Word :=
  if sx then wordOfInt (sextInt (8 * size) v) else BitVec.ofNat 64 v

/-- The two checks of a local access of `n` bytes aligned to `al` (R71). -/
def localFault (k : Core) (a : Word) (n al i : Nat) : Option Trap :=
  if a.toNat % al ≠ 0 then some (misaligned a k.flow.pc i)
  else if !k.inWindow a.toNat n then some (busError a k.flow.pc 0 i)
  else none

/-- Reason of an uncorrectable local read: a set tag (R450, R353). -/
def poisoned : Byte := 0x52

/-- A local load of `n` bytes at `a`, landing at distance 6 through `w` (R72, R74): a poisoned word writes
nothing and raises the delayed BUS_ERROR. -/
def localLoad (c : Nat) (a : Word) (n : Nat) (w : Nat → PendW) (s : State) : State :=
  let k := s.core c
  let pa := s.windowPa c a.toNat
  if s.isPoisoned pa n then
    (noteUE c pa 0x52 k.flow.pc s).upd c
      fun k => k.delay ⟨k.tm.step, k.tm.step + 6, some .scalar, busError a k.flow.pc poisoned 0⟩
  else
    s.upd c fun k' => k'.addPend ⟨k.tm.step + 6, w (s.mem.nat pa n), some (.scalar, a, k.flow.pc)⟩

/-- Runs of bytes that a core stores into its own slice (R72, R451): a word written in part merges, and one that is poisoned is
notified and stays so. -/
def localPut (c : Nat) (runs : List (Nat × List Byte)) (s : State) : State :=
  let k := s.core c
  let parts := runs.flatMap fun r => (cutUnits 32 (r.2.length + 1) r.1 r.2).filter fun p => p.2.length != 32
  let s1 := runs.foldl (fun s p => s.storeLocal p.1 p.2 c) s
  let s2 := (parts.filter fun p => s.isPoisoned p.1 p.2.length).foldl (fun s p => notePartial c p.1 0x52 k.flow.pc s) s1
  s2.upd c fun q => { q with tm := { q.tm with merged := ⟨k.tm.step, k.flow.pc, parts.map fun p => p.1 / 32 * 32⟩ } }
/-- A local store of the low `n` bytes of `v` (R72). -/
def localStore (c : Nat) (a : Word) (n : Nat) (v : Nat) (s : State) : State :=
  localPut c [(s.windowPa c a.toNat, leBytes n v)] s

/-! ### Carousel (R84 to R86) -/

def Core.cb (k : Core) (i : BitVec 3) : Word := vget k.car.cb i.toNat 0
def Core.cl (k : Core) (i : BitVec 3) : Nat := (vget k.car.cl i.toNat 0).toNat
def Core.carMode (k : Core) (i : BitVec 3) : Bool := (vget k.car.cs i.toNat 0).getLsbD 63
def Core.stride (k : Core) (i : BitVec 3) : Int := sextInt 32 ((vget k.car.cs i.toNat 0).toNat % 2 ^ 32)

def isPow2 (n : Nat) : Bool := n != 0 && 2 ^ Nat.log2 n == n

/-- car_ok (R86). -/
def Core.carOk (k : Core) (i : BitVec 3) (size : Nat) : Bool :=
  let cl := k.cl i
  let st := k.stride i
  decide (0 < cl) && decide (cl ≤ 2 ^ 26) && decide (cl % size = 0) && decide (st.natAbs % size = 0) &&
  decide (st.natAbs < cl) && (!k.carMode i || (isPow2 cl && decide (2 * size ≤ cl)))

/-- The `n` low bits of `v` in reverse order. -/
def reverseBits (n v : Nat) : Nat := ((List.range n).map fun i => b2n (bitOf v i) * 2 ^ (n - 1 - i)).sum
/-- The offset of R85 for an index already in `0 .. cl - 1`. -/
def Core.carOff (k : Core) (i : BitVec 3) (size off : Nat) : Nat :=
  if k.carMode i then
    let n := Nat.log2 (k.cl i)
    let e := Nat.log2 size
    reverseBits (n - e) (off / 2 ^ e) * 2 ^ e + off % 2 ^ e
  else off
/-- Index register value `x` plus `n` strides, modulo the length (R85, R170, R196). -/
def Core.carIdx (k : Core) (i : BitVec 3) (x : Word) (n : Nat) : Nat :=
  (((x.toNat : Int) + (n : Int) * k.stride i) % (k.cl i : Int)).toNat
/-- Address of the access with index value `x`, unbounded as R85 computes it (R20). -/
def Core.carSum (k : Core) (i : BitVec 3) (size : Nat) (x : Word) : Nat := (k.cb i).toNat + k.carOff i size (k.carIdx i x 0)
/-- Address of the first element under a set that car_ok refuses (R166): where the rule of R85 gives it none, a value the manual
leaves open (log entry 33). -/
def Core.carRefused (k : Core) (i : BitVec 3) (size : Nat) (x : Word) : Word :=
  if k.cl i = 0 ∨ (k.carMode i ∧ (!isPow2 (k.cl i) ∨ k.cl i < 2 * size)) then
    Config.carAddress (k.cb i) (vget k.car.cl i.toNat 0) (vget k.car.cs i.toNat 0) x
  else BitVec.ofNat 64 (k.carSum i size x)
/-- The same as an address. -/
def Core.carAddr (k : Core) (i : BitVec 3) (size : Nat) (x : Word) : Word := BitVec.ofNat 64 (k.carSum i size x)

end Sys2Proof.Machine
end

