-- ==== Sys2Proof/Machine/FarOps.lean ====
section
/-! DEFINITION. Far work: how it enters, reaches its home, completes or fails; releases (R75 to R82, R198, R199, R315 to R323). -/

namespace Sys2Proof.Machine

/-! ### Access by virtual address -/

/-- A read of a range: the bytes, or the reason of the first unit that fails (R353). -/
def State.readVa (s : State) (part : Nat) (p : Priv) (wr : Bool) (va n : Nat) : Except Byte (List Byte) :=
  (pagesOf va n).foldl (fun (r : Except Byte (List Byte)) q =>
    match r, s.translate part p true wr q.1 with
    | .error e, _ => .error e
    | .ok _, .error e => .error e
    | .ok bs, .ok pa =>
      match s.readPhys pa q.2 with
      | .error e => .error e
      | .ok b => .ok (bs ++ b)) (.ok [])

/-- A range cut at multiples of 32 bytes. -/
def wordsOf (a n : Nat) : List (Nat × Nat) :=
  if n = 0 then [] else
    (List.range ((a + n - 1) / 32 - a / 32 + 1)).map fun i =>
      let lo := max a ((a / 32 + i) * 32)
      (lo, min (a + n) ((a / 32 + i + 1) * 32) - lo)
/-- The bytes of a range, none where they cannot be read. -/
def State.readParts (s : State) (part : Nat) (p : Priv) (va n : Nat) : List (Option Byte) :=
  (wordsOf va n).flatMap fun q =>
    match s.readVa part p false q.1 q.2 with
    | .ok bs => bs.map some
    | .error _ => List.replicate q.2 none

/-- A write of a range, unit by unit; the reason of the first unit that fails (R353, R448). -/
def State.writeVa (s : State) (part : Nat) (p : Priv) (va : Nat) (bs : List Byte) (who : Nat := 160) : State × Option Byte :=
  (pagesOf va bs.length).foldl (fun (r : State × Option Byte) q =>
    match r.1.translate part p false true q.1 with
    | .error e => (r.1, r.2.orElse fun _ => some e)
    | .ok pa =>
      let (s', e) := r.1.storeFar pa ((bs.drop (q.1 - va)).take q.2) who
      (s', r.2.orElse fun _ => e)) (s, none)

/-- One access to a tier of the partition's pages: EVC50 to EVC53 count one in 64 (R511). -/
def State.sampleAccess (s : State) (part pa : Nat) : State :=
  match homeOf pa with
  | some (t, _) =>
    if 4 ≤ t then s else
      match s.part part with
      | none => s
      | some q =>
        let n := vget q.samp t 0 + 1
        let s := s.updPart part fun q => { q with samp := vset q.samp t (n % 64) }
        if n = 64 then s.countPart part (50 + t) 1 else s
  | none => s

/-! ### Work -/

def State.work (s : State) (id : Nat) : Option Work := s.works.find? fun w => w.id == id
def State.dropWork (s : State) (id : Nat) : State := { s with works := s.works.filter fun w => w.id != id }
def State.setWork (s : State) (w : Work) : State :=
  { s with works := s.works.map fun v => if v.id == w.id then w else v }

/-- Whether work is a write of R315. -/
def Work.isWrite (w : Work) : Bool :=
  match w.kind with
  | .fst => true
  | .vfst => true
  | .tst _ _ _ _ => true
  | .semAdd _ _ _ => true
  | _ => false
/-- Whether work is a far access of its core: on a tag, or a semaphore's (R77, R290, R320). -/
def Work.isFar (w : Work) : Bool :=
  w.tags != 0 || match w.kind with | .semAdd _ _ _ => true | .semTake _ _ _ _ => true | _ => false
def Work.open (w : Work) : Bool :=
  match w.stage with
  | .held => true
  | .untagged => true
  | .going => true
  | _ => false
def WorkKind.isFile : WorkKind → Bool
  | .tmov _ _ _ _ _ _ => true
  | .tzero _ _ => true
  | _ => false
/-! ### Write holds (R427) -/

/-- Virtual addresses of a net's pages, in order. -/
def Net.pages (t : Net) : List Nat :=
  t.regions.flatMap fun r => (List.range (r.2 / 0x10000)).map fun i => r.1 + i * 0x10000
/-- Page places of chunk `i`, up to sixteen. -/
def Net.chunkPages (t : Net) (i : Nat) : List Nat := (t.pages.drop (16 * i)).take 16
/-- Chunks under hold, with their nets, that a physical range touches. -/
def State.heldChunks (s : State) (pa n : Nat) : List (Nat × Nat) :=
  s.nets.flatMap fun t => match t.cap with
    | none => []
    | some c => (c.todo.filter fun i => (t.chunkPages i).any fun va => match s.page t.part va with
        | some q => decide (q.home < pa + n ∧ pa < q.home + 0x10000)
        | none => false).map fun i => (t.num, i)
/-- Chunks under hold that a range of a partition touches. -/
def State.heldRange (s : State) (part : Nat) (p : Priv) (va n : Nat) : List (Nat × Nat) :=
  if s.nets.isEmpty then [] else
    (pagesOf va n).flatMap fun q => match s.translate part p false true q.1 with
      | .ok pa => s.heldChunks pa q.2
      | .error _ => []
/-- The reads of chunks under hold, moved to the head of the engine's queue, complete: the hold on each ends (R427). -/
def readHeld (cs : List (Nat × Nat)) (s : State) : State :=
  if cs.isEmpty then s else
    { s with nets := s.nets.map fun t => match t.cap with
        | some c =>
          let now := (cs.filter fun q => q.1 == t.num).map (·.2)
          { t with cap := some { c with
              todo := c.todo.filter fun i => !now.contains i
              copied := c.copied ++ c.todo.filter fun i => now.contains i } }
        | none => t }
/-- The chunks under hold for which a write waits at its home. -/
def State.heldWork (s : State) (w : Work) : List (Nat × Nat) :=
  match w.kind with
  | .semTake _ _ _ _ => s.heldRange w.part w.priv w.addr.toNat 8
  | _ => if w.isWrite then w.ranges.flatMap fun r => s.heldRange w.part w.priv r.1 r.2 else []
/-- Earlier work that must be done first, or a hold on what it writes (R427): on the same line, of a stream too (R77, R294), on the same tile (R185), on the file channel (R184). -/
def State.behind (s : State) (w : Work) : Bool :=
  s.works.any fun v => v.core == w.core && decide (v.id < w.id) &&
    ((v.open && v.ranges.any fun a => w.ranges.any (sameLine a)) ||
     (v.group == w.group && v.kind.tiles.any (fun t => w.kind.tiles.contains t)) || (v.kind.isFile && w.kind.isFile)) ||
  !(s.heldWork w).isEmpty ||
  (w.isFar && (s.core w.core).slots.toList.any fun sl =>
    sl.prog.pieces.any fun p => p.tag && decide (p.id < w.id) && w.ranges.any (sameLine (p.addr.toNat, p.len)))

/-- Physical ranges that a piece of work reaches. -/
def State.workPas (s : State) (w : Work) : List (Nat × Nat) :=
  (w.ranges.flatMap fun r => pagesOf r.1 r.2).filterMap fun q =>
    match s.translate w.part w.priv (!w.isWrite) w.isWrite q.1 with
    | .ok pa => some (pa, q.2)
    | .error _ => none
/-- Earlier far work of the core on a line of `w` that has not completed, so that `w` may not (R77). A parked take is no access
that completes. -/
def State.unfinished (s : State) (w : Work) : Bool :=
  s.works.any fun v => v.core == w.core && decide (v.id < w.id) && v.isFar && w.isFar &&
    (match v.kind with | .semTake _ _ _ _ => false | _ => true) && v.ranges.any fun a => w.ranges.any (sameLine a)

/-- 256-byte-aligned blocks a range touches: the tags it takes (R290). -/
def blocksOf (a n : Nat) : Nat := if n = 0 then 0 else (a + n - 1) / 256 - a / 256 + 1

/-- New work of core `c` on counter `cc`, its deadline the time of issue (R293). -/
def newWork (s : State) (c cc : Nat) (kind : WorkKind) (addr : Word) (runs : List (Word × Nat))
    (puts : List (Word × List Byte)) : Work :=
  let k := s.core c
  let blocks (a n : Nat) : List Nat := (List.range (blocksOf a n)).map (a / 256 + ·)
  let tags := ((runs.flatMap fun r => blocks r.1.toNat r.2) ++ (puts.flatMap fun p => blocks p.1.toNat p.2.length)).eraseDups.length
  ⟨s.nextId, c, cc, k.flow.pc, kind, addr, runs, puts, k.level, s.spaceOf c, k.idn.group.toNat, k.idn.member,
   s.time, tags, .going, [], [], none, []⟩
/-- Whether new work finds its tags free, with none waiting for tags before it (R290, R294). -/
def State.tagsFree (s : State) (w : Work) : Bool :=
  w.tags == 0 || (decide (s.tags w.core false + w.need ≤ Config.tags) &&
    !s.works.any fun v => v.core == w.core && v.stage == Stage.untagged)
/-- Counted work enters: its counter rises and its tags are taken, or it waits for them in the engine (R78, R290, R510); its data
contends for the bonding field with the update path (R269). -/
def pushWork (w : Work) (s : State) : State :=
  if s.tagsFree w then
    let s := ({ s with works := s.works ++ [w], nextId := s.nextId + 1 }).upd w.core fun k =>
      (if w.cc < 16 then k.bump w.cc else k).count 21 w.tags
    if w.tags = 0 then s else contend w.core s
  else
    ({ s with works := s.works ++ [{ w with stage := .untagged }], nextId := s.nextId + 1 }).upd w.core fun k =>
      if w.cc < 16 then k.bump w.cc else k

/-- Writes of a core still to complete (R315): works, passes with an update and items, and streams. -/
def State.outWrites (s : State) (c : Nat) : List Nat :=
  let k := s.core c
  ((s.works.filter fun w => w.core == c && w.isWrite).map (·.id)) ++
  (k.arr.queue.filterMap fun p => match p.data with
    | .trap _ _ _ _ _ _ _ _ _ (some _) => some p.id
    | _ => none) ++
  ((k.arr.upd.filter fun u => u.desc.isSome).map (·.id))
/-- Released segments of open write streams not yet written (R297): the stream and how many segments. -/
def State.outSegs (s : State) (c : Nat) : List (Nat × Nat) :=
  (s.core c).slots.toList.filterMap fun sl =>
    match sl.desc with
    | some d => if d.write && sl.st != .free && decide (sl.full < sl.prog.rel) then some (sl.id, sl.prog.rel) else none
    | none => none

/-- Whether every write a release covers has completed (R315). -/
def State.coversDone (s : State) (w : Work) : Bool :=
  let out := s.outWrites w.core
  !(w.covers.any out.contains) &&
  w.coverSegs.all fun q => (s.core w.core).slots.toList.all fun sl =>
    sl.id != q.1 || sl.st == .free || decide (q.2 ≤ sl.full)

/-- A release as it issues: held while it covers anything (R315). -/
def asRelease (s : State) (w : Work) : Work :=
  let w := { w with covers := s.outWrites w.core, coverSegs := s.outSegs w.core }
  if s.coversDone w then w else { w with stage := .held }

/-- Work ends: it leaves, its counter falls, and a failed write fails the releases that cover it (R82, R316). -/
def finishWork (w : Work) (err : Option FailRec) (s : State) : State :=
  let s := if w.cc < 16 then lowerCc w.core w.group w.cc err (s.dropWork w.id) else s.dropWork w.id
  match err with
  | some r => if w.isWrite then failWrite w.core w.id r s else s
  | none => s

def Work.fail (w : Work) (a : Word) (reason : Byte) : Work := { w with stage := .failed ⟨w.pc, a, reason⟩ }

/-- The bytes a TST writes, from the tile as it stands, and its flags. -/
def State.tstPuts (s : State) (w : Work) : List (Word × List Byte) × FF :=
  match w.kind with
  | .tst x sh ctr key =>
    let (rows, f) := tstRows x sh ctr key s.fresh ((s.owner w.core w.group).tile x.tile.toNat)
    (List.zipWith (fun (r : Word × Nat) bs => (r.1, bs)) w.runs rows, f)
  | _ => (w.puts, 0)

/-- A range of a partition that core `c` reads: every unit is read, those in error as `errs` says; the bytes, or why the first failed
(R353, R446, R448, R451). -/
def getVa (c : Nat) (pc : Word) (errs : HomeErrs) (seen : List (Nat × Option Byte)) (part : Nat) (p : Priv) (wr : Bool) (va n : Nat)
    (s : State) : State × Except Byte (List Byte) :=
  let (s', bad) := (pagesOf va n).foldl (fun (r : State × Option Byte) q =>
    match r.1.translate part p true wr q.1 with
    | .error e => (r.1, r.2.or (some e))
    | .ok pa =>
      let (s1, e) := meetUnits c pc 1 errs seen (unitsOf pa q.2) r.1
      (s1, r.2.or e)) (s, none)
  match bad with
  | some e => (s', .error e)
  | none => (s', s.readVa part p wr va n)
/-- Work's reads at their homes, in order: the bytes, or where and why the first failed. -/
def readWork (w : Work) (errs : HomeErrs) (wr : Bool) (s : State) : State × Except (Word × Byte) (List Byte) :=
  w.runs.foldl (fun (r : State × Except (Word × Byte) (List Byte)) q =>
    let (s', x) := getVa w.core w.pc errs w.seen w.part w.priv wr q.1.toNat q.2 r.1
    (s', match r.2, x with
      | .error e, _ => .error e
      | .ok _, .error e => .error (q.1, e)
      | .ok bs, .ok b => .ok (bs ++ b))) (s, .ok [])
/-- Bytes that core `c` writes to a range of a partition, page by page and unit by unit (R353, R448, R451). -/
def putVa (c : Nat) (pc : Word) (errs : HomeErrs) (seen : List (Nat × Option Byte)) (part : Nat) (p : Priv) (va : Nat) (bs : List Byte)
    (s : State) : State × Option Byte :=
  (pagesOf va bs.length).foldl (fun (r : State × Option Byte) q =>
    match r.1.translate part p false true q.1 with
    | .error e => (r.1, r.2.or (some e))
    | .ok pa =>
      let (s', e) := putUnits c pc errs seen pa ((bs.drop (q.1 - va)).take q.2) r.1
      (s', r.2.or e)) (s, none)
/-- Work's writes at their homes, in order, with where and why the first failed. -/
def writeWork (w : Work) (errs : HomeErrs) (puts : List (Word × List Byte)) (s : State) : State × Option (Word × Byte) :=
  puts.foldl (fun (r : State × Option (Word × Byte)) q =>
    let (s', e) := putVa w.core w.pc errs w.seen w.part w.priv q.1.toNat q.2 r.1
    (s', r.2.or (e.map fun b => (q.1, b)))) (s, none)

/-- The first physical address a piece of work reaches. -/
def State.firstPa (s : State) (w : Work) : Except Byte Nat :=
  match w.ranges with
  | (a, _) :: _ => s.translate w.part w.priv (!w.isWrite) w.isWrite a
  | [] => s.translate w.part w.priv true false w.addr.toNat
/-- A far access counts once toward the sample of each page of its partition that it reaches (R511). -/
def sampleWork (w : Work) (s : State) : State :=
  if !w.isFar then s else
    (((w.ranges.flatMap fun r => pagesOf r.1 r.2).map fun q => (q.1 / 0x10000, q.1)).foldl
      (fun (r : State × List Nat) q =>
        if r.2.contains q.1 then r else
          (match r.1.translate w.part w.priv (!w.isWrite) w.isWrite q.2 with
           | .ok pa => r.1.sampleAccess w.part pa
           | .error _ => r.1, q.1 :: r.2)) (s, [])).1

/-- A piece of far work is applied at its home, `errs` being what it meets there: reads obtain their bytes, writes are written, both or
neither of a failing access as R448 and R82 say. A far TST first reads its tile: a word of it that cannot be corrected fails it with
nothing written (R177; log entry 14). -/
def applyWork (w : Work) (errs : HomeErrs) (s : State) : State :=
  let s := sampleWork w s
  let reading : State :=
    match readWork w errs false s with
    | (s, .error (a, e)) => s.setWork (w.fail a e)
    | (s, .ok bs) => s.setWork { w with stage := .applied bs }
  let writing (puts : List (Word × List Byte)) (s : State) : State :=
    match writeWork w errs puts s with
    | (s, some (a, r)) => s.setWork (w.fail a r)
    | (s, none) => s.setWork { w with stage := .applied [] }
  match w.kind with
  | .fst => writing w.puts s
  | .vfst => writing w.puts s
  | .tst x _ _ _ =>
    let (puts, f) := s.tstPuts w
    let fresh := s.fresh
    let s := { s with fresh := fresh + 2 ^ 20 }
    match errs.tile with
    | .bad => (s.updOwner w.core w.group fun k => k.orFF (f &&& (Config.freeByte fresh).setWidth 6)).setWork (w.fail w.addr 0x54)
    | e =>
      let s := match e with | .fixed bit => noteTileCE w.core x.tile.toNat bit s | _ => s
      writing puts (s.updOwner w.core w.group fun k => k.orFF f)
  | .semAdd _ _ v =>
    match s.translate w.part w.priv true true w.addr.toNat with
    | .error _ => s.setWork (w.fail w.addr 0x30)
    | .ok pa =>
      let old := s.mem.nat pa 8
      match putUnits w.core w.pc errs w.seen pa (leBytes 8 ((old + v.toNat) % 2 ^ 64)) s with
      | (s, some _) => s.setWork (w.fail w.addr 0x30)
      | (s, none) => s.setWork { w with stage := .applied (leBytes 8 old) }
  | .fld _ _ _ _ => reading
  | .vfld _ _ _ => reading
  | .tld _ _ => reading
  | _ => s

/-- Bytes a far access has read and written, for EVC18 and EVC19 (R510). -/
def Work.bytesMoved (w : Work) : Nat × Nat :=
  match w.kind with
  | .semAdd _ _ _ => (8, 8)
  | .tst _ _ _ _ => (0, (w.runs.map (·.2)).sum)
  | _ => ((w.runs.map (·.2)).sum, (w.puts.map fun p => p.2.length).sum)

/-- What completed work delivers to its core (R75, R76, R170, R194). -/
def deliver (w : Work) (bs : List Byte) (s : State) : State :=
  match w.kind with
  | .fld b rd fp sx =>
    s.updOwner w.core w.group fun k =>
      if fp then k.setF rd (BitVec.ofNat 64 (leNat bs)) else k.setX b rd (extend bs.length sx (leNat bs))
  | .vfld v _ _ => s.updOwner w.core w.group fun k => k.setV v (BitVec.ofNat 4096 (leNat bs))
  | .tld x sh =>
    s.updOwner w.core w.group fun k =>
      let (tl, f) := tldTile x sh bs (k.tile x.tile.toNat)
      (k.setTile x.tile.toNat tl).orFF f
  | .tmov d sr _ ovf dsh ssh =>
    s.updOwner w.core w.group fun k =>
      let (tl, f) := tmovTile d.toNat sr.toNat ovf dsh ssh (k.tile d.toNat) (k.tile sr.toNat)
      (k.setTile d.toNat tl).orFF f
  | .tzero d dsh => s.updOwner w.core w.group fun k => k.setTile d.toNat (tzeroTile d.toNat dsh (k.tile d.toNat))
  | .semAdd b rd _ => s.updOwner w.core w.group fun k => k.setX b rd (BitVec.ofNat 64 (leNat bs))
  | .query b rd _ => s.updOwner w.core w.group fun k => k.setX b rd (BitVec.ofNat 64 (leNat bs))
  | .arm b rd _ => s.updOwner w.core w.group fun k => k.setX b rd (BitVec.ofNat 64 (leNat bs))
  | _ => s

/-- Work that has been applied, or has failed, completes: its results, its bytes, its counter (R82). -/
def completeWork (w : Work) (s : State) : State :=
  match w.stage with
  | .applied bs =>
    let (rd, wr) := w.bytesMoved
    let far := w.isFar
    let s := (deliver w bs s).upd w.core fun k => if far then (k.count 18 rd).count 19 wr else k
    finishWork w none s
  | .failed r =>
    let s := match w.kind with
      | .tld x sh =>
        let parts := w.runs.map fun q => s.readParts w.part w.priv q.1.toNat q.2
        { s.updOwner w.core w.group (fun k =>
            let (tl, f) := tldFailed s.fresh x sh parts (k.tile x.tile.toNat)
            (k.setTile x.tile.toNat tl).orFF f) with fresh := s.fresh + 2 ^ 21 }
      | _ => s
    finishWork w (some r) s
  | _ => s

end Sys2Proof.Machine
end

