-- ==== Sys2Proof/Machine/Far.lean ====
section
/-! DEFINITION. Far loads and stores, counter waits, and the landing of fixed-latency results (R60, R74 to R82). -/

namespace Sys2Proof.Machine

/-- The illegal forms of FLD and FST (R75, R79). -/
def farIllegal (size : BitVec 3) (fp sx : Bool) : Bool :=
  decide (3 < size.toNat) || (fp && (decide (size.toNat < 2) || sx))
/-- The checks of FLD and FST at issue (R75, R78). -/
def farFault (k : Core) (e : Enc) (a : Word) (cc : BitVec 4) (size : BitVec 3) (fp sx : Bool) : Option Trap :=
  firstOf [illegalCc e k (farIllegal size fp sx) cc,
    (if a.toNat % 2 ^ size.toNat ≠ 0 then some (misaligned a k.flow.pc 0) else none),
    k.ccFull cc]

/-- FLD (R75). -/
def execFld (c : Nat) (rd rs1 : Reg) (cc : BitVec 4) (size : BitVec 3) (fp sx : Bool) (s : State) : Out :=
  let e := encF rd rs1 cc size 0 fp sx
  issueP c e (fun s => farFault (s.core c) e ((s.core c).rx rs1) cc size fp sx)
    (fun s =>
      let k := s.core c
      pushWork (newWork s c cc.toNat (.fld k.bank rd fp sx) (k.rx rs1) [(k.rx rs1, 2 ^ size.toNat)] []) s) s

/-- FST (R75). -/
def execFst (c : Nat) (rs2 rs1 : Reg) (cc : BitVec 4) (size : BitVec 3) (fp sx : Bool) (s : State) : Out :=
  let e := encF rs2 rs1 cc size 1 fp sx
  issueP c e (fun s => farFault (s.core c) e ((s.core c).rx rs1) cc size fp sx)
    (fun s =>
      let k := s.core c
      let v := if fp then k.rf rs2 else k.rx rs2
      pushWork (newWork s c cc.toNat .fst (k.rx rs1) [] [(k.rx rs1, leBytes (2 ^ size.toNat) v.toNat)]) s) s

/-- WAITC (R80, R81): with TEST it writes the count at distance 1, and raises nothing though CCERR be set and the count at most n: R80
and R82 leave that open (DESIGN CHOICE, log entry 32). -/
def execWaitc (c : Nat) (rd rs1 : Reg) (cc : BitVec 4) (l test : Bool) (n : BitVec 10) (s : State) : Out :=
  let e := encW rd rs1 cc l test n
  let chk := fun s => illegalCcRead e (State.core s c) cc
  if test then
    issueP c e chk (fun s => s.upd c fun k =>
      k.landX 1 rd (if k.ccHidden cc.toNat then 0 else BitVec.ofNat 64 (k.outst cc.toNat))) s
  else
    issueWait c e chk id (fun s => mkWait s c (.counter cc.toNat n.toNat) rd rs1 l false e) s

/-- The next fixed-latency result lands (R60): the ring beats to its landing step, a delayed fault then due is
taken where the core would issue (R74, R124), and a wait that the landing ends is over (R334). An event of the array
that comes first on a waiting core goes first. -/
def execResultLands (c : Nat) (s : State) : Out :=
  if 160 ≤ c then .refused .noSuchUnit else
    let k := s.core c
    match k.tm.pend.find? fun p => match p.what with | .evc _ => false | _ => true with
    | none => done s s
    | some p =>
      let sooner := k.wait.isSome && (match k.arr.nextResult with | some (t, _) => decide (t < p.land) | none => false)
      if !k.inSvc || !k.pw.ring || k.pw.stopped || sooner then done s s else
        let cause := s.causeNow c
        let s2 := arrive c (stepsPass c (fun n k => k.idleStall n cause) (p.land - k.tm.step) s)
        if (s2.core c).delayedDue && (s2.core c).canIssue then done s (takeException c {cause := 3} s2)
        else done s (endWait c s2)

/-- The word, or a word, of the earliest pending load of a kind turns out to be in error (R74, R169, R177). One that is corrected is
counted and logged and the load lands; an uncorrectable one writes nothing, and its BUS_ERROR is due where it would have landed. For a
vector load EDATA0 is the address of element 0 (DESIGN CHOICE, log entry 33). -/
def markUe (c : Nat) (isKind : LoadKind → Bool) (err : WordErr) (s : State) : State :=
  let k := s.core c
  match k.tm.pend.find? fun p => match p.load with | some (kd, _, _) => isKind kd | none => false with
  | none => s
  | some p =>
    match p.load with
    | none => s
    | some (kd, a, pc) =>
      match err with
      | .clean => s
      | .fixed sym =>
        match kd with
        | .tget t => noteTileCE c t.toNat sym s
        | _ => noteCE c (s.windowPa c a.toNat) sym s
      | .bad =>
      let dist := match kd with | .scalar => 6 | _ => 10
      let idx := match kd with | .tget t => t.toNat | _ => 0
      let t : Trap := match kd with
        | .tget _ => { cause := 3, reason := 0x54, index := BitVec.ofNat 16 idx, edata0 := 0, edata1 := pc }
        | _ => busError a pc 0x54 0
      let s := match kd with
        | .tget _ => s
        | _ => noteUE c (s.windowPa c a.toNat) 0x54 pc s
      s.upd c fun k =>
        ({ k with tm := { k.tm with pend := k.tm.pend.erase p } }).delay ⟨p.land - dist, p.land, some kd, t⟩

/-- A word with which the store just issued merged turns out to be in error (R451): one that is corrected is counted and logged; in an
uncorrectable one the store's bytes stand, the poison tag is set, and Ringmaster is notified. -/
def mergeUe (c i : Nat) (err : WordErr) (s : State) : State :=
  let k := s.core c
  match k.tm.merged.words[i]? with
  | none => s
  | some pa =>
    if k.tm.step ≠ k.tm.merged.step + 1 ∨ s.isPoisoned pa 32 then s else
      match err with
      | .clean => s
      | .fixed sym => noteCE c pa sym s 2
      | .bad => (notePartial c pa 0x54 k.tm.merged.pc s).setPoison pa

/-- LOCAL_LOAD_UE (R74, R451; log entry 35): the error lies in a pending local load's word or, with `merge`, in word `merge` of those that the
store just issued merged with. -/
def execLocalLoadUe (e : LocalErr) (s : State) : Out :=
  if 160 ≤ e.core then .refused .noSuchUnit else
    match e.merge with
    | none => done s (markUe e.core (fun k => match k with | .scalar => true | _ => false) e.err s)
    | some i => done s (mergeUe e.core i e.err s)

end Sys2Proof.Machine
end

