-- ==== Sys2Proof/Machine/Vector.lean ====
section
/-! DEFINITION. The long-vector unit: lanes, the datapath, local and far vector access (R147 to R171). -/

namespace Sys2Proof.Machine

/-! ### Lanes (R149) -/

/-- Lane width of a type code, 0 for no type. -/
def vw (ty : Nat) : Nat :=
  match ty with
  | 0 => 8
  | 1 => 16
  | 2 => 32
  | 3 => 64
  | 4 => 32
  | 5 => 16
  | 6 => 16
  | 7 => 8
  | 8 => 8
  | 9 => 4
  | _ => 0
def vn (ty : Nat) : Nat := 4096 / vw ty
def lanesV (ty : Nat) (v : BitVec 4096) : List Nat := lanesOf (vw ty) (vn ty) v.toNat
def vecOf (ty : Nat) (ls : List Nat) : BitVec 4096 := BitVec.ofNat 4096 (ofLanes (vw ty) ls)
def sx (ty v : Nat) : Int := sextInt (vw ty) v
/-- An integer modulo the lane width. -/
def wrap (ty : Nat) (i : Int) : Nat := intCode (vw ty) i
def isIntTy (ty : Nat) : Bool := decide (ty ≤ 3)
def isFloatTy (ty : Nat) : Bool := decide (4 ≤ ty ∧ ty ≤ 6)
/-- The source lanes of one operation. -/
structure VSrc where
  d : Nat
  a : Nat
  b : Nat
def zipSrc (d a b : List Nat) : List VSrc := (d.zip (a.zip b)).map fun p => ⟨p.1, p.2.1, p.2.2⟩

/-! ### The datapath (R150) -/

/-- The datapath is in use for the four steps from the issue step, each counted in its own (R150, R509, R510). -/
def Core.dpUse (k : Core) : Core :=
  [1, 2, 3].foldl (fun k d => k.addPend ⟨k.tm.step + d, .evc 15, none⟩) (k.count 15 1)
/-- A datapath instruction: illegal forms, then the busy datapath; `eff` gets the core at issue. -/
def issueV (c : Nat) (e : Enc) (bad : Bool) (eff : Core → Core) (s : State) : Out :=
  issueP c e
    (fun s =>
      let k := s.core c
      if bad then some (illegal e 0)
      else if k.tm.step < k.tm.dpFree then some (illegal e 1)
      else none)
    (fun s => s.upd c fun k =>
      let k' := (eff k).dpUse
      { k' with tm := { k'.tm with dpFree := k.tm.step + 4 } }) s
/-- Lane-wise operation into v[vd] (R154, R155): lane results and the OR of their flags. -/
def vaRun (ty : Nat) (vd vs1 vs2 : Reg) (f : VSrc → Nat × FF) (k : Core) : Core :=
  let rs := (zipSrc (lanesV ty (k.rv vd)) (lanesV ty (k.rv vs1)) (lanesV ty (k.rv vs2))).map f
  k.landV 8 vd (vecOf ty (rs.map (·.1))) (rs.foldl (fun a r => a ||| r.2) 0)
/-- Format VA (R153, R154): `types` the types the func takes; a unary func has vs2 0. -/
def vaI (c func : Nat) (types : Nat → Bool) (unary : Bool) (vd vs1 vs2 : Reg) (ty : BitVec 4) (f : Nat → VSrc → Nat × FF)
    (s : State) : Out :=
  issueV c (encVA vd vs1 vs2 ty func) (!types ty.toNat || (unary && vs2 != 0)) (vaRun ty.toNat vd vs1 vs2 (f ty.toNat)) s

def vInt (f : Nat → VSrc → Int) (ty : Nat) (x : VSrc) : Nat × FF := (wrap ty (f ty x), 0)
def vBit (f : Nat → Nat → Nat → Nat) (ty : Nat) (x : VSrc) : Nat × FF := (f (vw ty) x.a x.b % 2 ^ vw ty, 0)
def allOnes (ty : Nat) (b : Bool) : Nat := if b then 2 ^ vw ty - 1 else 0
/-- A floating-point lane: an exact operation, rounded once to the lane format (R155). -/
def vFl (f : FV → FV → FV → FV × FF) (ty : Nat) (x : VSrc) : Nat × FF :=
  let g := fmtOf ty
  let r := f (g.decode x.d) (g.decode x.a) (g.decode x.b)
  let e := g.encode r.1
  (e.1, r.2 ||| e.2)
def vRel (op ty : Nat) (x : VSrc) : Nat × FF :=
  let g := fmtOf ty
  let r := FV.rel op (g.decode x.a) (g.decode x.b)
  (allOnes ty r.1, r.2)

/-! ### Estimates (R156) -/

/-- Whether `|r - v| * 4096 ≤ |v|` with `v = num / den`, all positive: `r = m * 2^e`, `num = n * 2^x`, `den = d * 2^y`. -/
def nearQuot (m : Nat) (e : Int) (n : Nat) (x : Int) (d : Nat) (y : Int) : Bool :=
  -- r * den against num
  let p := e + y
  let lo := min p x
  let a := m * d * 2 ^ (p - lo).toNat
  let b := n * 2 ^ (x - lo).toNat
  decide ((if a ≤ b then b - a else a - b) * 4096 ≤ b)
/-- 2^(f / 2^149) in units of 2^-256, at most 4 of them too small: from the last binary digit of the fraction to the first, the power so
far, doubled for a digit 1, has its square root taken. 2^-149 is the least digit of an FP32 operand. -/
def exp2Frac (f : Nat) : Nat :=
  (List.range 149).foldl (fun acc j => isqrt ((if bitOf f j then 2 * acc else acc) * 2 ^ 256)) (2 ^ 256)
/-- The estimate `cand` where the bound of R156 holds for the normal result `v`; where the result is not normal,
the manual gives no bound and `cand` stands (log entry 5). `ok` says whether `cand` meets the bound. -/
def estimate (normal : Bool) (ok : Bool) (cand computed : BitVec 32) : BitVec 32 := if !normal || ok then cand else computed
def isNormal32 (b : BitVec 32) : Bool := decide (0 < bits b.toNat 30 23 ∧ bits b.toNat 30 23 < 255)
/-- UF where an inexact result is tiny (R139). -/
def tinyFlag (b : BitVec 32) : FF := if bits b.toNat 30 23 = 0 then ffUF else 0
/-- Flags of an estimate outside the cases that R156 lists, of which it says nothing: NX where it is not the exact result, with
UF or OF where it is subnormal or infinite (DESIGN CHOICE, log entry 33). -/
def estFlags (exact : Bool) (b : BitVec 32) : FF :=
  if exact then 0 else ffNX ||| tinyFlag b ||| (match f32 b with | .inf _ => ffOF | _ => 0)
/-- VFRCPE of one lane. -/
def rcpE (a : BitVec 32) : BitVec 32 × FF :=
  match f32 a with
  | .nan g => (BitVec.ofNat 32 fp32.nanCode, if g then ffNV else 0)
  | .inf n => (BitVec.ofNat 32 (fp32.signed n 0), 0)
  | .fin n m e =>
    if m = 0 then (BitVec.ofNat 32 (fp32.signed n fp32.infCode), ffDZ) else
      let r := (toF32 (FV.div (.fin n 1 0) (.fin false m e)).1).1
      let cand := Config.rcpEstimate a
      let ok := match f32 cand with | .fin n' m' e' => n == n' && nearQuot m' e' 1 0 m e | _ => false
      let est := estimate (isNormal32 r) ok cand r
      let exact := match f32 est with
        | .fin _ m' e' => decide (FV.cmp (FV.mul (.fin false m' e') (.fin false m e)).1 (.fin false 1 0) = 0)
        | _ => false
      (est, estFlags exact est)
/-- VFRSQE of one lane. -/
def rsqrtE (a : BitVec 32) : BitVec 32 × FF :=
  match f32 a with
  | .nan g => (BitVec.ofNat 32 fp32.nanCode, if g then ffNV else 0)
  | .inf n => if n then (BitVec.ofNat 32 fp32.nanCode, ffNV) else (0, 0)
  | .fin n m e =>
    if m = 0 then (BitVec.ofNat 32 (fp32.signed n fp32.infCode), ffDZ)
    else if n then (BitVec.ofNat 32 fp32.nanCode, ffNV) else
      -- 1 / sqrt v, from the root with its sticky bit
      let r := match FV.sqrt (.fin false m e) with
        | (.fin _ q x, _) => (toF32 (FV.div (.fin false 1 0) (.fin false q x)).1).1
        | _ => 0
      let cand := Config.rsqrtEstimate a
      -- |c sqrt v - 1| ≤ 2^-12: (4095/4096)^2 ≤ c^2 v ≤ (4097/4096)^2
      let ok := match f32 cand with
        | .fin false m' e' =>
          let p := m' * m' * m
          let x := 2 * e' + e
          !magLt (p * 2 ^ 24) x (4095 * 4095) 0 && !magLt (4097 * 4097) 0 (p * 2 ^ 24) x
        | _ => false
      let est := estimate (isNormal32 r) ok cand r
      let exact := match f32 est with
        | .fin _ m' e' => decide (FV.cmp (.fin false (m' * m' * m) (2 * e' + e)) (.fin false 1 0) = 0)
        | _ => false
      (est, estFlags exact est)
/-- VFEXP2E of one lane; the power is irrational but at whole numbers, and a candidate is held against both ends of the range in which it
lies. -/
def exp2E (a : BitVec 32) : BitVec 32 × FF :=
  match f32 a with
  | .nan g => (BitVec.ofNat 32 fp32.nanCode, if g then ffNV else 0)
  | .inf n => if n then (0, ffUF ||| ffNX) else (BitVec.ofNat 32 fp32.infCode, ffOF ||| ffNX)
  | .fin n m e =>
    if !n && !magLt m e 128 0 then (BitVec.ofNat 32 fp32.infCode, ffOF ||| ffNX)
    else if n && magLt 150 0 m e then (0, ffUF ||| ffNX)
    else
      let i : Int := signedAt n m e (-149)
      let whole := i / 2 ^ 149
      let p := exp2Frac (i % 2 ^ 149).toNat
      let r := (toF32 (.fin false p (whole - 256))).1
      let cand := Config.exp2Estimate a
      let ok := match f32 cand with | .fin false m' e' => nearQuot m' e' p (whole - 256) 1 0 && nearQuot m' e' (p + 4) (whole - 256) 1 0 | _ => false
      let normal := decide (-126 ≤ whole)
      let est := estimate normal ok cand r
      let exact := decide (FV.cmp (.fin n m e) (.ofInt whole) = 0) && decide (FV.cmp (f32 est) (.fin false 1 whole) = 0)
      (est, estFlags exact est)
def vEst (f : BitVec 32 → BitVec 32 × FF) (_ : Nat) (x : VSrc) : Nat × FF :=
  let r := f (BitVec.ofNat 32 x.a)
  (r.1.toNat, r.2)

/-- VADD (R154). -/
def execVadd (c : Nat) (vd vs1 vs2 : Reg) (ty : BitVec 4) (s : State) : Out :=
  vaI c 0x00 isIntTy false vd vs1 vs2 ty (vInt fun _ x => x.a + x.b) s

/-- VSUB (R154). -/
def execVsub (c : Nat) (vd vs1 vs2 : Reg) (ty : BitVec 4) (s : State) : Out :=
  vaI c 0x01 isIntTy false vd vs1 vs2 ty (vInt fun _ x => x.a - x.b) s

/-- VMUL (R154). -/
def execVmul (c : Nat) (vd vs1 vs2 : Reg) (ty : BitVec 4) (s : State) : Out :=
  vaI c 0x02 isIntTy false vd vs1 vs2 ty (vInt fun _ x => x.a * x.b) s

/-- VMULH (R154). -/
def execVmulh (c : Nat) (vd vs1 vs2 : Reg) (ty : BitVec 4) (s : State) : Out :=
  vaI c 0x03 isIntTy false vd vs1 vs2 ty (vInt fun t x => sx t x.a * sx t x.b / (2 ^ vw t : Nat)) s

/-- VMULHU (R154). -/
def execVmulhu (c : Nat) (vd vs1 vs2 : Reg) (ty : BitVec 4) (s : State) : Out :=
  vaI c 0x04 isIntTy false vd vs1 vs2 ty (vBit fun w a b => a * b / 2 ^ w) s

/-- VMIN (R154). -/
def execVmin (c : Nat) (vd vs1 vs2 : Reg) (ty : BitVec 4) (s : State) : Out :=
  vaI c 0x05 isIntTy false vd vs1 vs2 ty (vInt fun t x => min (sx t x.a) (sx t x.b)) s

/-- VMAX (R154). -/
def execVmax (c : Nat) (vd vs1 vs2 : Reg) (ty : BitVec 4) (s : State) : Out :=
  vaI c 0x06 isIntTy false vd vs1 vs2 ty (vInt fun t x => max (sx t x.a) (sx t x.b)) s

/-- VMINU (R154). -/
def execVminu (c : Nat) (vd vs1 vs2 : Reg) (ty : BitVec 4) (s : State) : Out :=
  vaI c 0x07 isIntTy false vd vs1 vs2 ty (vBit fun _ a b => min a b) s

/-- VMAXU (R154). -/
def execVmaxu (c : Nat) (vd vs1 vs2 : Reg) (ty : BitVec 4) (s : State) : Out :=
  vaI c 0x08 isIntTy false vd vs1 vs2 ty (vBit fun _ a b => max a b) s

/-- VAND (R154). -/
def execVand (c : Nat) (vd vs1 vs2 : Reg) (ty : BitVec 4) (s : State) : Out :=
  vaI c 0x09 (fun t => decide (t ≤ 6)) false vd vs1 vs2 ty (vBit fun _ a b => a &&& b) s

/-- VOR (R154). -/
def execVor (c : Nat) (vd vs1 vs2 : Reg) (ty : BitVec 4) (s : State) : Out :=
  vaI c 0x0A (fun t => decide (t ≤ 6)) false vd vs1 vs2 ty (vBit fun _ a b => a ||| b) s

/-- VXOR (R154). -/
def execVxor (c : Nat) (vd vs1 vs2 : Reg) (ty : BitVec 4) (s : State) : Out :=
  vaI c 0x0B (fun t => decide (t ≤ 6)) false vd vs1 vs2 ty (vBit fun _ a b => a ^^^ b) s

/-- VANDN (R154). -/
def execVandn (c : Nat) (vd vs1 vs2 : Reg) (ty : BitVec 4) (s : State) : Out :=
  vaI c 0x0C (fun t => decide (t ≤ 6)) false vd vs1 vs2 ty (vBit fun w a b => a &&& (2 ^ w - 1 - b)) s

/-- VSLL (R154). -/
def execVsll (c : Nat) (vd vs1 vs2 : Reg) (ty : BitVec 4) (s : State) : Out :=
  vaI c 0x0D isIntTy false vd vs1 vs2 ty (vBit fun w a b => a <<< (b % w)) s

/-- VSRL (R154). -/
def execVsrl (c : Nat) (vd vs1 vs2 : Reg) (ty : BitVec 4) (s : State) : Out :=
  vaI c 0x0E isIntTy false vd vs1 vs2 ty (vBit fun w a b => a >>> (b % w)) s

/-- VSRA (R154). -/
def execVsra (c : Nat) (vd vs1 vs2 : Reg) (ty : BitVec 4) (s : State) : Out :=
  vaI c 0x0F isIntTy false vd vs1 vs2 ty (vInt fun t x => sx t x.a / (2 ^ (x.b % vw t) : Nat)) s

/-- VSEQ (R154). -/
def execVseq (c : Nat) (vd vs1 vs2 : Reg) (ty : BitVec 4) (s : State) : Out :=
  vaI c 0x10 isIntTy false vd vs1 vs2 ty (fun t x => (allOnes t (x.a == x.b), 0)) s

/-- VSLT (R154). -/
def execVslt (c : Nat) (vd vs1 vs2 : Reg) (ty : BitVec 4) (s : State) : Out :=
  vaI c 0x11 isIntTy false vd vs1 vs2 ty (fun t x => (allOnes t (decide (sx t x.a < sx t x.b)), 0)) s

/-- VSLTU (R154). -/
def execVsltu (c : Nat) (vd vs1 vs2 : Reg) (ty : BitVec 4) (s : State) : Out :=
  vaI c 0x12 isIntTy false vd vs1 vs2 ty (fun t x => (allOnes t (decide (x.a < x.b)), 0)) s

/-- VMAC (R154). -/
def execVmac (c : Nat) (vd vs1 vs2 : Reg) (ty : BitVec 4) (s : State) : Out :=
  vaI c 0x13 isIntTy false vd vs1 vs2 ty (vInt fun _ x => x.d + x.a * x.b) s

/-- VFADD (R154). -/
def execVfadd (c : Nat) (vd vs1 vs2 : Reg) (ty : BitVec 4) (s : State) : Out :=
  vaI c 0x20 isFloatTy false vd vs1 vs2 ty (vFl fun _ a b => a.add b) s

/-- VFSUB (R154). -/
def execVfsub (c : Nat) (vd vs1 vs2 : Reg) (ty : BitVec 4) (s : State) : Out :=
  vaI c 0x21 isFloatTy false vd vs1 vs2 ty (vFl fun _ a b => a.add b.neg) s

/-- VFMUL (R154). -/
def execVfmul (c : Nat) (vd vs1 vs2 : Reg) (ty : BitVec 4) (s : State) : Out :=
  vaI c 0x22 isFloatTy false vd vs1 vs2 ty (vFl fun _ a b => a.mul b) s

/-- VFMA (R154). -/
def execVfma (c : Nat) (vd vs1 vs2 : Reg) (ty : BitVec 4) (s : State) : Out :=
  vaI c 0x23 isFloatTy false vd vs1 vs2 ty (vFl fun d a b => a.fma b d) s

/-- VFNMA (R154). -/
def execVfnma (c : Nat) (vd vs1 vs2 : Reg) (ty : BitVec 4) (s : State) : Out :=
  vaI c 0x24 isFloatTy false vd vs1 vs2 ty (vFl fun d a b => a.neg.fma b d) s

/-- VFMIN (R154). -/
def execVfmin (c : Nat) (vd vs1 vs2 : Reg) (ty : BitVec 4) (s : State) : Out :=
  vaI c 0x25 isFloatTy false vd vs1 vs2 ty (vFl fun _ a b => FV.minmax false a b) s

/-- VFMAX (R154). -/
def execVfmax (c : Nat) (vd vs1 vs2 : Reg) (ty : BitVec 4) (s : State) : Out :=
  vaI c 0x26 isFloatTy false vd vs1 vs2 ty (vFl fun _ a b => FV.minmax true a b) s

/-- VFABS (R154, R138). -/
def execVfabs (c : Nat) (vd vs1 vs2 : Reg) (ty : BitVec 4) (s : State) : Out :=
  vaI c 0x27 isFloatTy true vd vs1 vs2 ty (fun t x => (x.a % 2 ^ (vw t - 1), 0)) s

/-- VFNEG (R154, R138). -/
def execVfneg (c : Nat) (vd vs1 vs2 : Reg) (ty : BitVec 4) (s : State) : Out :=
  vaI c 0x28 isFloatTy true vd vs1 vs2 ty (fun t x => (x.a ^^^ 2 ^ (vw t - 1), 0)) s

/-- VFEQ (R154). -/
def execVfeq (c : Nat) (vd vs1 vs2 : Reg) (ty : BitVec 4) (s : State) : Out :=
  vaI c 0x29 isFloatTy false vd vs1 vs2 ty (vRel 0) s

/-- VFLT (R154). -/
def execVflt (c : Nat) (vd vs1 vs2 : Reg) (ty : BitVec 4) (s : State) : Out :=
  vaI c 0x2A isFloatTy false vd vs1 vs2 ty (vRel 1) s

/-- VFLE (R154). -/
def execVfle (c : Nat) (vd vs1 vs2 : Reg) (ty : BitVec 4) (s : State) : Out :=
  vaI c 0x2B isFloatTy false vd vs1 vs2 ty (vRel 2) s

/-- VFRCPE (R154, R156). -/
def execVfrcpe (c : Nat) (vd vs1 vs2 : Reg) (ty : BitVec 4) (s : State) : Out :=
  vaI c 0x2C (· == 4) true vd vs1 vs2 ty (vEst rcpE) s

/-- VFRSQE (R154, R156). -/
def execVfrsqe (c : Nat) (vd vs1 vs2 : Reg) (ty : BitVec 4) (s : State) : Out :=
  vaI c 0x2D (· == 4) true vd vs1 vs2 ty (vEst rsqrtE) s

/-- VFEXP2E (R154, R156). -/
def execVfexp2e (c : Nat) (vd vs1 vs2 : Reg) (ty : BitVec 4) (s : State) : Out :=
  vaI c 0x2E (· == 4) true vd vs1 vs2 ty (vEst exp2E) s

/-! ### Format VW (R157 to R163) -/

def vwI (c func : Nat) (bad : Bool) (vd vs1 vs2 : Reg) (ty : BitVec 4) (h : Bool) (eff : Core → Core) (s : State) : Out :=
  issueV c (encVW vd vs1 vs2 ty h func) bad eff s

/-- A widened lane as a number or a value (R157). -/
def widenInt (uns : Bool) (ty v : Nat) : Int := if uns then (v : Int) else sx ty v
/-- The four widening multiplies (R157): a product of double width, added to vd for the accumulating forms. -/
def widenMul (c func : Nat) (uns acc : Bool) (vd vs1 vs2 : Reg) (ty : BitVec 4) (h : Bool) (s : State) : Out :=
  let t := ty.toNat
  let ints := decide (t ≤ 2)
  vwI c func (!(ints || (!uns && (t == 5 || t == 6)))) vd vs1 vs2 ty h
    (fun k =>
      let half (r : Reg) := ((lanesV t (k.rv r)).drop (if h then vn t / 2 else 0)).take (vn t / 2)
      let t2 := if ints then t + 1 else 4
      let rs := (zipSrc (lanesV t2 (k.rv vd)) (half vs1) (half vs2)).map fun x =>
        if ints then
          (wrap t2 ((if acc then (x.d : Int) else 0) + widenInt uns t x.a * widenInt uns t x.b), (0 : FF))
        else
          let p := roundOp (((fmtOf t).decode x.a).mul ((fmtOf t).decode x.b))
          if acc then
            let q := faddB (BitVec.ofNat 32 x.d) p.1
            (q.1.toNat, p.2 ||| q.2)
          else (p.1.toNat, p.2)
      k.landV 8 vd (vecOf t2 (rs.map (·.1))) (rs.foldl (fun a r => a ||| r.2) 0)) s

/-- VWMUL (R157). -/
def execVwmul (c : Nat) (vd vs1 vs2 : Reg) (ty : BitVec 4) (h : Bool) (s : State) : Out :=
  widenMul c 0 false false vd vs1 vs2 ty h s
/-- VWMULU (R157). -/
def execVwmulu (c : Nat) (vd vs1 vs2 : Reg) (ty : BitVec 4) (h : Bool) (s : State) : Out :=
  widenMul c 1 true false vd vs1 vs2 ty h s
/-- VWMAC (R157). -/
def execVwmac (c : Nat) (vd vs1 vs2 : Reg) (ty : BitVec 4) (h : Bool) (s : State) : Out :=
  widenMul c 2 false true vd vs1 vs2 ty h s
/-- VWMACU (R157). -/
def execVwmacu (c : Nat) (vd vs1 vs2 : Reg) (ty : BitVec 4) (h : Bool) (s : State) : Out :=
  widenMul c 3 true true vd vs1 vs2 ty h s

/-- Integer dot products (R158): `n` products of `ty` lanes into each 32-bit lane, modulo 2^32. -/
def dotInt (c func t n : Nat) (vd vs1 vs2 : Reg) (ty : BitVec 4) (h : Bool) (s : State) : Out :=
  vwI c func (ty.toNat != t || h) vd vs1 vs2 ty h
    (fun k =>
      let a := chunks n 128 (lanesV t (k.rv vs1))
      let b := chunks n 128 (lanesV t (k.rv vs2))
      let rs := ((lanesV 2 (k.rv vd)).zip (a.zip b)).map fun q =>
        wrap 2 ((q.1 : Int) + (List.zipWith (fun x y => sx t x * sx t y) q.2.1 q.2.2).sum)
      k.landV 8 vd (vecOf 2 rs) 0) s
/-- VDOT4 (R158). -/
def execVdot4 (c : Nat) (vd vs1 vs2 : Reg) (ty : BitVec 4) (h : Bool) (s : State) : Out := dotInt c 4 0 4 vd vs1 vs2 ty h s
/-- VDOT8 (R158). -/
def execVdot8 (c : Nat) (vd vs1 vs2 : Reg) (ty : BitVec 4) (h : Bool) (s : State) : Out := dotInt c 5 9 8 vd vs1 vs2 ty h s
/-- VDOT2 (R158, R144): one rounding of the exact sum. -/
def execVdot2 (c : Nat) (vd vs1 vs2 : Reg) (ty : BitVec 4) (h : Bool) (s : State) : Out :=
  let t := ty.toNat
  vwI c 6 (t != 7 && t != 8) vd vs1 vs2 ty h
    (fun k =>
      let half (r : Reg) := chunks 2 128 ((lanesV t (k.rv r)).drop (if h then 256 else 0))
      let rs := ((lanesV 4 (k.rv vd)).zip ((half vs1).zip (half vs2))).map fun q =>
        let ps := List.zipWith (fun x y => ((fmtOf t).decode x).mul ((fmtOf t).decode y)) q.2.1 q.2.2
        let d := fp32.decode q.1
        let r := sumFV (d :: ps.map (·.1))
        let o := roundOp r
        (o.1.toNat, o.2 ||| ps.foldl (fun a p => a ||| p.2) 0)
      k.landV 8 vd (vecOf 4 (rs.map (·.1))) (rs.foldl (fun a r => a ||| r.2) 0)) s

/-- The source and target pairs of VCVT (R159); a type is no pair with itself (log entry 15). -/
def vcvtPair (a b : Nat) : Bool :=
  let fl (t : Nat) := decide (4 ≤ t ∧ t ≤ 8)
  let sm (t : Nat) := t == 0 || t == 9
  (a != b && fl a && fl b) || (fl a && sm b) || (sm a && fl b) || (a == 2 && b == 4) || (a == 4 && b == 2)
/-- VCVT (R159). -/
def execVcvt (c : Nat) (vd vs1 : Reg) (tgt : BitVec 4) (ovf : Bool) (ty : BitVec 4) (h : Bool) (part : BitVec 3) (s : State) :
    Out :=
  let t := ty.toNat
  let u := tgt.toNat
  let p := part.toNat
  let wide := max (vw t) (vw u)
  let narrow := min (vw t) (vw u)
  let f2 : Reg := BitVec.ofNat 5 (2 * u + b2n ovf)
  vwI c (0x10 + p) (h || !vcvtPair t u || decide (wide ≤ narrow * p)) vd vs1 f2 ty h
    (fun k =>
      let src := lanesV t (k.rv vs1)
      let cv (l : List Nat) := l.map fun v => convElem u ovf .rne (elemFV t v)
      if vw t ≤ vw u then
        let rs := cv ((src.drop (p * vn u)).take (vn u))
        k.landV 8 vd (vecOf u (rs.map (·.1))) (rs.foldl (fun a r => a ||| r.2) 0)
      else
        let rs := cv src
        let old := lanesV u (k.rv vd)
        let ls := old.take (p * vn t) ++ rs.map (·.1) ++ old.drop (p * vn t + vn t)
        k.landV 8 vd (vecOf u ls) (rs.foldl (fun a r => a ||| r.2) 0)) s

/-- VPK4 (R160). -/
def execVpk4 (c : Nat) (vd vs1 vs2 : Reg) (ty : BitVec 4) (h : Bool) (s : State) : Out :=
  vwI c 0x18 (ty != 4 || vs2 != 0 || h) vd vs1 vs2 ty h
    (fun k =>
      let bs := (chunks 32 4 ((lanesV 4 (k.rv vs1)).map fp32.decode)).map (packE2m1 fun _ => .rne)
      let bytes := leBytes 64 (ofLanes 4 (bs.flatMap (·.2.1))) ++ bs.map (·.1)
      k.landV 8 vd (BitVec.ofNat 4096 (leNat bytes)) (bs.foldl (fun a b => a ||| b.2.2) 0)) s
/-- VUNPK4 (R160, R131). An element that its scale (0xFD or 0xFE) takes out of the FP32 range has no exact lane: an infinity, and no
flag (DESIGN CHOICE, log entry 33). -/
def execVunpk4 (c : Nat) (vd vs1 vs2 : Reg) (ty : BitVec 4) (h : Bool) (s : State) : Out :=
  vwI c 0x19 (ty != 4 || vs2 != 0 || h) vd vs1 vs2 ty h
    (fun k =>
      let v := (k.rv vs1).toNat
      let codes := lanesOf 4 128 v
      let scales := (lanesOf 8 4 (v >>> 512)).map (BitVec.ofNat 8)
      let vals := ((chunks 32 4 codes).zip scales).flatMap fun p => p.1.map fun x => (fp32.encode (decodeE2m1 p.2 x)).1
      k.landV 8 vd (vecOf 4 vals) 0) s

/-- VSLIDE.D (R161): no rule gives H a meaning or forbids it, so the permutes ignore it (log entry 15). -/
def execVslideD (c : Nat) (vd vs1 vs2 : Reg) (ty : BitVec 4) (h : Bool) (s : State) : Out :=
  let t := ty.toNat
  vwI c 0x20 (!isIntTy t) vd vs1 vs2 ty h
    (fun k =>
      let l := lanesV t (k.rv vs1)
      let n := min (k.rx vs2).toNat (vn t)
      k.landV 8 vd (vecOf t (l.drop n)) 0) s
/-- VSLIDE.U (R161). -/
def execVslideU (c : Nat) (vd vs1 vs2 : Reg) (ty : BitVec 4) (h : Bool) (s : State) : Out :=
  let t := ty.toNat
  vwI c 0x21 (!isIntTy t) vd vs1 vs2 ty h
    (fun k =>
      let l := lanesV t (k.rv vs1)
      let n := min (k.rx vs2).toNat (vn t)
      k.landV 8 vd (vecOf t (List.replicate n 0 ++ l.take (vn t - n))) 0) s
/-- VPERM (R161). -/
def execVperm (c : Nat) (vd vs1 vs2 : Reg) (ty : BitVec 4) (h : Bool) (s : State) : Out :=
  let t := ty.toNat
  vwI c 0x22 (!isIntTy t) vd vs1 vs2 ty h
    (fun k =>
      let l := lanesV t (k.rv vs1)
      k.landV 8 vd (vecOf t ((lanesV t (k.rv vs2)).map fun i => l.getD (i % vn t) 0)) 0) s

/-! ### Summaries (R162, R163) -/

/-- The fixed tree of R163: neighbours combine until one value is left. -/
def treeFold {α : Type} (comb : α → α → α) : Nat → List α → List α
  | 0, l => l
  | n + 1, l => treeFold comb n (go l)
where
  go : List α → List α
    | a :: b :: r => comb a b :: go r
    | l => l
def treeInt (comb : Int → Int → Int) (t : Nat) (v : BitVec 4096) : Int :=
  ((treeFold comb 10 ((lanesV t v).map (sx t))).head?).getD 0
def treeFloat (comb : FV → FV → FV × FF) (t : Nat) (v : BitVec 4096) : BitVec 32 × FF :=
  let w (x : Nat) : BitVec 32 × FF :=
    let y := (fmtOf t).decode x
    -- an FP32 lane enters as it is; a narrower one widens exactly
    if t = 4 then (BitVec.ofNat 32 x, 0) else toF32 y
  ((treeFold (fun (a b : BitVec 32 × FF) =>
      let r := roundOp (comb (f32 a.1) (f32 b.1))
      (r.1, a.2 ||| b.2 ||| r.2)) 10 ((lanesV t v).map w)).head?).getD (0, 0)
/-- Format VW with a scalar destination (R162). -/
def sumI (c func : Nat) (rd vs1 vs2 : Reg) (ty : BitVec 4) (h : Bool) (eff : Core → Core) (s : State) : Out :=
  vwI c func (decide (8 < ty.toNat) || vs2 != 0 || h) rd vs1 vs2 ty h eff s

/-- VANY (R162). -/
def execVany (c : Nat) (vd vs1 vs2 : Reg) (ty : BitVec 4) (h : Bool) (s : State) : Out :=
  sumI c 0x28 vd vs1 vs2 ty h (fun k => k.landX 8 vd (if (lanesV ty.toNat (k.rv vs1)).any (· != 0) then 1 else 0)) s
/-- VALL (R162). -/
def execVall (c : Nat) (vd vs1 vs2 : Reg) (ty : BitVec 4) (h : Bool) (s : State) : Out :=
  sumI c 0x29 vd vs1 vs2 ty h (fun k => k.landX 8 vd (if (lanesV ty.toNat (k.rv vs1)).all (· != 0) then 1 else 0)) s
/-- VMAXS (R162, R163). -/
def execVmaxs (c : Nat) (vd vs1 vs2 : Reg) (ty : BitVec 4) (h : Bool) (s : State) : Out :=
  let t := ty.toNat
  sumI c 0x2A vd vs1 vs2 ty h
    (fun k => if isIntTy t then k.landX 8 vd (wordOfInt (treeInt max t (k.rv vs1)))
      else k.landF 8 vd (treeFloat (FV.minmax true) t (k.rv vs1))) s
/-- Whether a lane is the largest under FMAX ordering: equal, and zeros of one sign. -/
def sameMax (a b : FV) : Bool :=
  !a.isNan && !b.isNan && decide (FV.cmp a b = 0) && (!a.isZero || a.signBit == b.signBit)
/-- VMAXI (R162, R163): the number of lanes where every lane is NaN. -/
def execVmaxi (c : Nat) (vd vs1 vs2 : Reg) (ty : BitVec 4) (h : Bool) (s : State) : Out :=
  let t := ty.toNat
  sumI c 0x2B vd vs1 vs2 ty h
    (fun k =>
      let ls := lanesV t (k.rv vs1)
      if isIntTy t then
        let m := treeInt max t (k.rv vs1)
        k.landX 8 vd (BitVec.ofNat 64 ((ls.map (sx t)).findIdx (· == m)))
      else
        let r := treeFloat (FV.minmax true) t (k.rv vs1)
        k.landXF 8 vd (BitVec.ofNat 64 (ls.findIdx fun x => sameMax ((fmtOf t).decode x) (f32 r.1))) r.2) s
/-- VSUMS (R162, R163). -/
def execVsums (c : Nat) (vd vs1 vs2 : Reg) (ty : BitVec 4) (h : Bool) (s : State) : Out :=
  let t := ty.toNat
  sumI c 0x2C vd vs1 vs2 ty h
    (fun k => if isIntTy t then k.landX 8 vd (wordOfInt (treeInt (· + ·) t (k.rv vs1)))
      else k.landF 8 vd (treeFloat FV.add t (k.rv vs1))) s

/-! ### Local vector access (R151, R164 to R169) -/

def elemCount (ew : BitVec 2) : Nat := 512 / 2 ^ ew.toNat
/-- Address of element `j` (R164). R164 gives the sum no width: in modes 0, 1 and 3 it is taken modulo 2^64, in mode 2 `vmBeyond` sees
what passes it (DESIGN CHOICE, log entry 33). -/
def vmAddr (k : Core) (mode : Nat) (rs1 f2 : Reg) (set : BitVec 3) (ew : BitVec 2) (j : Nat) : Word :=
  let size := 2 ^ ew.toNat
  match mode with
  | 0 => k.rx rs1 + wordOfInt (512 * f2.toInt) + BitVec.ofNat 64 (j * size)
  | 1 => k.rx rs1 + BitVec.ofNat 64 j * k.rx f2
  | 2 => Word.plus (k.cb set) (k.carOff set size (k.carIdx set (k.rx rs1) j))
  | _ => k.rx rs1 + BitVec.ofNat 64 (bits (k.rv f2).toNat (32 * j + 31) (32 * j))
/-- Steps for which the memory port is occupied (R151). -/
def portSteps (k : Core) (mode : Nat) (f2 : Reg) (ew : BitVec 2) : Nat :=
  if mode = 0 then 1
  else if mode = 1 ∧ (k.rx f2 = 0 ∨ k.rx f2 = BitVec.ofNat 64 (2 ^ ew.toNat)) then 1
  else (elemCount ew + 63) / 64
/-- Forms with no meaning (R153, R164). -/
def vmIllegal (mode : Nat) (f2 : Reg) (set : BitVec 3) (ew : BitVec 2) : Bool :=
  (mode != 2 && set != 0) || (mode == 2 && f2 != 0) || (mode == 3 && decide (ew.toNat < 2))
/-- Whether the unbounded Carousel address of element `j` has no 64-bit form, so that it lies outside any window (R20, R85). -/
def vmBeyond (k : Core) (mode : Nat) (rs1 : Reg) (set : BitVec 3) (ew : BitVec 2) (j : Nat) : Bool :=
  mode == 2 && decide (2 ^ 64 ≤ (k.cb set).toNat + k.carOff set (2 ^ ew.toNat) (k.carIdx set (k.rx rs1) j))
/-- The checks at issue, in the order of R166. -/
def vmFault (k : Core) (e : Enc) (mode : Nat) (rs1 f2 : Reg) (set : BitVec 3) (ew : BitVec 2) : Option Trap :=
  let size := 2 ^ ew.toNat
  if vmIllegal mode f2 set ew then some (illegal e 0)
  else if k.tm.step < k.tm.portFree then some (illegal e 2)
  else if mode = 2 ∧ !k.carOk set size then some (carCfgV set.toNat (k.carRefused set size (k.rx rs1)) k.flow.pc)
  else
    let as := (List.range (elemCount ew)).map fun j => (vmAddr k mode rs1 f2 set ew j, j)
    match as.find? fun p => decide (p.1.toNat % size ≠ 0) with
    | some p => some (misaligned p.1 k.flow.pc p.2)
    | none =>
      match as.find? fun p => !k.inWindow p.1.toNat size || vmBeyond k mode rs1 set ew p.2 with
      | some p => some (busError p.1 k.flow.pc 0 p.2)
      | none => none
/-- Bytes of the bonding field that the access takes in each of its steps: a register's 512 at unit stride, one
element where the stride is 0, else the lines that the elements of the step touch (R151, R219, R220; log entry 17). -/
def portBytes (k : Core) (mode : Nat) (rs1 f2 : Reg) (set : BitVec 3) (ew : BitVec 2) : List Nat :=
  if portSteps k mode f2 ew = 1 ∧ mode ≤ 1 then [if mode = 1 ∧ k.rx f2 = 0 then 2 ^ ew.toNat else 512]
  else
    (List.range ((elemCount ew + 63) / 64)).map fun i =>
      64 * (((List.range 64).map fun j => (vmAddr k mode rs1 f2 set ew (64 * i + j)).toNat / 64).eraseDups).length
/-- The port is taken, and a Carousel index moves on at distance 1 (R151, R168). -/
def Core.vmAfter (k : Core) (mode : Nat) (rs1 f2 : Reg) (set : BitVec 3) (ew : BitVec 2) : Core :=
  let use := (portBytes k mode rs1 f2 set ew).mapIdx fun i n => (k.tm.step + i, n)
  let k' := { k with
    tm := { k.tm with portFree := k.tm.step + portSteps k mode f2 ew }
    arr := { k.arr with portUse := (k.arr.portUse.filter fun u => decide (k.tm.step ≤ u.1)) ++ use } }
  if mode = 2 then k'.landX 1 rs1 (BitVec.ofNat 64 (k.carIdx set (k.rx rs1) (elemCount ew))) else k'

/-- A local vector load (R164, R165, R169): every element is read at issue; distance 10. Which element's address EDATA0 of the
delayed BUS_ERROR holds is open: here that of the first poisoned one (DESIGN CHOICE, log entry 33). -/
def vLoad (c mode : Nat) (v rs1 f2 : Reg) (set : BitVec 3) (ew : BitVec 2) (s : State) : Out :=
  let e := encVM v rs1 f2 mode set ew 0
  issueP c e (fun s => vmFault (s.core c) e mode rs1 f2 set ew)
    (fun s =>
      let k := s.core c
      let size := 2 ^ ew.toNat
      let as := (List.range (elemCount ew)).map (vmAddr k mode rs1 f2 set ew)
      let s := contend c (s.upd c fun k => k.vmAfter mode rs1 f2 set ew)
      match as.find? fun a => s.isPoisoned (s.windowPa c a.toNat) size with
      | some a =>
        (noteUE c (s.windowPa c a.toNat) 0x52 k.flow.pc s).upd c
          fun k => k.delay ⟨k.tm.step, k.tm.step + 10, some .vector, busError a k.flow.pc poisoned 0⟩
      | none =>
        let val := ofLanes (8 * size) (as.map fun a => s.mem.nat (s.windowPa c a.toNat) size)
        s.upd c fun k => k.addPend ⟨k.tm.step + 10, .v v (BitVec.ofNat 4096 val),
          some (.vector, (as.head?).getD 0, k.flow.pc)⟩) s
/-- Runs of consecutive elements joined, in element order. -/
def joinRuns : List (Nat × List Byte) → List (Nat × List Byte)
  | [] => []
  | p :: ps =>
    match joinRuns ps with
    | [] => [p]
    | q :: qs => if p.1 + p.2.length = q.1 then (p.1, p.2 ++ q.2) :: qs else p :: q :: qs
/-- A local vector store (R164, R167): elements in increasing order. -/
def vStore (c mode : Nat) (v rs1 f2 : Reg) (set : BitVec 3) (ew : BitVec 2) (s : State) : Out :=
  let e := encVM v rs1 f2 mode set ew 1
  issueP c e (fun s => vmFault (s.core c) e mode rs1 f2 set ew)
    (fun s =>
      let k := s.core c
      let size := 2 ^ ew.toNat
      let els := ((lanesOf (8 * size) (elemCount ew) (k.rv v).toNat).zipIdx).map fun p =>
        (s.windowPa c (vmAddr k mode rs1 f2 set ew p.2).toNat, leBytes size p.1)
      contend c ((localPut c (joinRuns els) s).upd c fun k => k.vmAfter mode rs1 f2 set ew)) s

/-- VLD (R164). -/
def execVld (c : Nat) (v rs1 f2 : Reg) (set : BitVec 3) (ew : BitVec 2) (s : State) : Out :=
  vLoad c 0 v rs1 f2 set ew s

/-- VLDS (R164). -/
def execVlds (c : Nat) (v rs1 f2 : Reg) (set : BitVec 3) (ew : BitVec 2) (s : State) : Out :=
  vLoad c 1 v rs1 f2 set ew s

/-- VLD.C (R164). -/
def execVldC (c : Nat) (v rs1 f2 : Reg) (set : BitVec 3) (ew : BitVec 2) (s : State) : Out :=
  vLoad c 2 v rs1 f2 set ew s

/-- VGATHER (R164). -/
def execVgather (c : Nat) (v rs1 f2 : Reg) (set : BitVec 3) (ew : BitVec 2) (s : State) : Out :=
  vLoad c 3 v rs1 f2 set ew s

/-- VST (R164). -/
def execVst (c : Nat) (v rs1 f2 : Reg) (set : BitVec 3) (ew : BitVec 2) (s : State) : Out :=
  vStore c 0 v rs1 f2 set ew s

/-- VSTS (R164). -/
def execVsts (c : Nat) (v rs1 f2 : Reg) (set : BitVec 3) (ew : BitVec 2) (s : State) : Out :=
  vStore c 1 v rs1 f2 set ew s

/-- VST.C (R164). -/
def execVstC (c : Nat) (v rs1 f2 : Reg) (set : BitVec 3) (ew : BitVec 2) (s : State) : Out :=
  vStore c 2 v rs1 f2 set ew s

/-- VSCATTER (R164). -/
def execVscatter (c : Nat) (v rs1 f2 : Reg) (set : BitVec 3) (ew : BitVec 2) (s : State) : Out :=
  vStore c 3 v rs1 f2 set ew s

/-- LOCAL_VLOAD_UE (R169). -/
def execLocalVloadUe (e : ReadErr) (s : State) : Out :=
  if 160 ≤ e.core then .refused .noSuchUnit else
    done s (markUe e.core (fun k => match k with | .vector => true | _ => false) e.err s)

/-! ### Far vector access (R170) -/

/-- Address of element `j` (R170), modulo 2^64 as in `vmAddr` (DESIGN CHOICE, log entry 33). -/
def vfAddr (k : Core) (rs1 rs2 : Reg) (ew : BitVec 2) (mode : Bool) (j : Nat) : Word :=
  if mode then k.rx rs1 + BitVec.ofNat 64 j * k.rx rs2 else Word.plus (k.rx rs1) (j * 2 ^ ew.toNat)
/-- The checks at issue of VFLD and VFST (R170, R79, R78). -/
def vfFault (k : Core) (e : Enc) (rs1 rs2 : Reg) (cc : BitVec 4) (ew : BitVec 2) (mode : Bool) : Option Trap :=
  (illegalCc e k false cc).orElse fun _ =>
    let as := (List.range (elemCount ew)).map fun j => (vfAddr k rs1 rs2 ew mode j, j)
    match as.find? fun p => decide (p.1.toNat % 2 ^ ew.toNat ≠ 0) with
    | some p => some (misaligned p.1 k.flow.pc p.2)
    | none => k.ccFull cc

/-- VFLD (R170): one element where the stride broadcasts, else all. -/
def execVfld (c : Nat) (v rs1 rs2 : Reg) (cc : BitVec 4) (ew : BitVec 2) (mode : Bool) (s : State) : Out :=
  let e := encVF v rs1 rs2 cc ew 0 mode
  issueP c e (fun s => vfFault (s.core c) e rs1 rs2 cc ew mode)
    (fun s =>
      let k := s.core c
      let runs := (List.range (elemCount ew)).map fun j => (vfAddr k rs1 rs2 ew mode j, 2 ^ ew.toNat)
      let bcast := mode && k.rx rs2 == 0
      pushWork (newWork s c cc.toNat (.vfld v bcast ew) (k.rx rs1) runs []) s) s
/-- VFST (R170). -/
def execVfst (c : Nat) (v rs1 rs2 : Reg) (cc : BitVec 4) (ew : BitVec 2) (mode : Bool) (s : State) : Out :=
  let e := encVF v rs1 rs2 cc ew 1 mode
  issueP c e (fun s => vfFault (s.core c) e rs1 rs2 cc ew mode)
    (fun s =>
      let k := s.core c
      let size := 2 ^ ew.toNat
      let puts := ((lanesOf (8 * size) (elemCount ew) (k.rv v).toNat).zipIdx).map fun p =>
        (vfAddr k rs1 rs2 ew mode p.2, leBytes size p.1)
      pushWork (newWork s c cc.toNat .vfst (k.rx rs1) [] puts) s) s

end Sys2Proof.Machine
end

