-- ==== Sys2Proof/Machine/TileMoves.lean ====
section
/-! DEFINITION. Tile shapes, the tile mover, and vector access to the buffers (R172 to R201). -/

namespace Sys2Proof.Machine

/-! ### Faults of tile operands (R183) -/

/-- TSHAPE of a tile as read (R179). -/
def State.tshape (s : State) (c t : Nat) : Nat := ((s.core c).shape t).word + b2n (s.inflight c t) * 2 ^ 28
/-- TILE_SHAPE: operand `i`, with the TSHAPE value at fault. -/
def tileShape (e : Enc) (reason i tsh : Nat) : Trap :=
  { cause := 0x0E, reason := BitVec.ofNat 8 reason, index := BitVec.ofNat 16 i, edata0 := e.data, edata1 := BitVec.ofNat 64 tsh }
/-- The fault of a tile operand where a condition fails. -/
def tileIf (s : State) (c : Nat) (e : Enc) (bad : Bool) (reason i t : Nat) : Option Trap :=
  if bad then some (tileShape e reason i (s.tshape c t)) else none

/-- A write to the tile in the stationary tag clears SVALID (R211), and no load can re-make a KEEP hit on the tile (R222). -/
def Core.untag (k : Core) (t : Nat) : Core :=
  let k := { k with arr := { k.arr with
    queue := k.arr.queue.map fun p => if p.load == LoadMode.keep && p.sta == t then { p with staOld := true } else p } }
  if k.arr.stag == t then { k with arr := { k.arr with svalid := false } } else k

/-! ### TCFG -/

/-- TCFG (R178, R180, R181, R211). -/
def execTcfg (c : Nat) (t fmt : BitVec 4) (colsm1 : BitVec 11) (rowsm1 : BitVec 7) (s : State) : Out :=
  let e := encTcfg t fmt colsm1 rowsm1
  let n := t.toNat
  let new : TShape := ⟨true, fmt, colsm1.toNat + 1, rowsm1.toNat + 1⟩
  let cap := maxCols (fileOf n) fmt.toNat
  issueE c e
    (fun s =>
      if cap = 0 then some (tileShape e 2 0 new.word)
      else if cap < new.cols ∨ new.cols % colMult fmt.toNat ≠ 0 then some (tileShape e 3 0 new.word)
      else if (s.core c).shape n ≠ new ∧ s.inflight c n then
        some { cause := 0x0F, reason := if s.moverOn c n then 1 else 2, index := BitVec.ofNat 16 n,
               edata0 := e.data, edata1 := BitVec.ofNat 64 new.word }
      else none)
    (fun s => s.upd c fun k =>
      if k.shape n = new then k else (k.setTile n { k.tile n with shape := new }).untag n) s

/-! ### The tile mover -/

/-- Work of the memory channel (R184). -/
def Work.isXfer (w : Work) : Bool :=
  match w.kind with
  | .tld _ _ => true
  | .tst _ _ _ _ => true
  | _ => false
/-- A transfer that has found all four places held (R184). -/
def State.noPlace (s : State) (w : Work) : Bool :=
  w.isXfer && decide (4 ≤ (s.works.filter fun v => v.core == w.core && v.isXfer && decide (v.id < w.id)).length)
/-- Steps from issue to the fall of the counter, past the overhead of 6 (Timing, R184). -/
def moveSteps (x : TileXfer) (sh : TShape) (bytes : Nat) : Nat :=
  if x.raw then (bytes + 4095) / 4096
  else max (if x.tr then (sh.rows + 3) / 4 else (sh.rows + 7) / 8) ((bytes + 4095) / 4096)
/-- Bytes of a tile's elements and scales. -/
def TShape.bytes (sh : TShape) : Nat :=
  sh.rows * (sh.cols * fmtBits sh.fmt.toNat / 8 + if sh.fmt = 10 then sh.cols / 32 else 0)
/-- Bytes that pace a transfer: the larger of those read and those written. -/
def xferBytes (x : TileXfer) (sh : TShape) (runs : List (Word × Nat)) : Nat :=
  let m := (runs.map (·.2)).sum
  if x.raw then m else max m sh.bytes
/-- Steps in which mover work moves its rows with nothing else contending. -/
def Work.moveLen (w : Work) : Nat :=
  match w.kind with
  | .tld x sh => moveSteps x sh (xferBytes x sh w.runs)
  | .tst x sh _ _ => moveSteps x sh (xferBytes x sh w.runs)
  | .tmov _ _ _ _ dsh _ => (dsh.rows + 7) / 8
  | .tzero _ dsh => (dsh.rows + 7) / 8
  | _ => 0
/-- Of these, the steps still to come at step `t`; a far transfer may have all of them before it. -/
def Work.moveLeft (t : Nat) (w : Work) : Nat := if w.tags = 0 then min w.moveLen (w.time - 6 - t) else w.moveLen
/-- Transfer `id` begins on the memory channel at the present step, and shares its steps with the transfers in progress there. In
which order the channel serves their rows is open: a free number of the others' steps comes before the end of this one, and as
many of its own as that leaves before theirs (R184, log entry 36). -/
def shareChannel (c id : Nat) (s : State) : State :=
  let t := (s.core c).tm.step
  match s.work id with
  | none => s
  | some w =>
    if s.noPlace w then s else
      let others := (s.works.filter fun v =>
        v.core == c && v.isXfer && v.id != id && !s.noPlace v && decide (0 < v.moveLeft t)).map (·.id)
      let rest := ((s.works.filter fun v => others.contains v.id).map (·.moveLeft t)).sum
      let n := w.moveLen
      let a := if rest = 0 then 0 else Config.freeSteps s.fresh % (rest + 1)
      let b := if a < rest ∧ w.tags = 0 then n else Config.freeSteps (s.fresh + 1) % (n + 1)
      { s with
        works := s.works.map fun v =>
          if v.tags != 0 then v
          else if v.id == id then { v with time := max v.time (t + 6 + n + a) }
          else if others.contains v.id then { v with time := v.time + b }
          else v
        fresh := if rest = 0 then s.fresh else s.fresh + 2 }

/-- Whether every byte of the ranges lies in the core's own store slice (R198). -/
def State.ownSlice (s : State) (c : Nat) (wr : Bool) (runs : List (Word × Nat)) : Bool :=
  let k := s.core c
  runs.all fun r => (pagesOf r.1.toNat r.2).all fun q =>
    match s.translate k.idn.part.toNat k.level (!wr) wr q.1 with
    | .ok pa => decide (sliceBase c ≤ pa ∧ pa + q.2 ≤ sliceBase c + Config.sliceBytes)
    | .error _ => false

/-- Issue of mover work on the file channel: its rows follow those of the one before (R184). -/
def pushFile (c : Nat) (cc : BitVec 4) (kind : WorkKind) (dst rows : Nat) (s : State) : State :=
  let w := newWork s c cc.toNat kind 0 [] []
  let prev := (s.works.filter fun v => v.core == c && v.kind.isFile).map (·.time)
  let from_ := max (s.core c).tm.step ((prev.foldl max 0) - 6)
  (pushWork { w with tags := 0, time := from_ + 6 + (rows + 7) / 8 } s).upd c fun k => k.untag dst

/-- TMOV (R187, R188). -/
def execTmov (c : Nat) (dst src : BitVec 4) (cvt ovf : Bool) (cc : BitVec 4) (s : State) : Out :=
  let e := encTmov dst src cvt ovf false cc
  issueE c e
    (fun s =>
      let k := s.core c
      let d := k.shape dst.toNat
      let r := k.shape src.toNat
      firstOf [
        illegalCc e k (ovf && !cvt) cc,
        tileIf s c e (!d.cfg) 1 0 dst.toNat,
        tileIf s c e (!r.cfg) 1 1 src.toNat,
        tileIf s c e (d.rows != r.rows || d.cols != r.cols) 4 1 src.toNat,
        tileIf s c e (if cvt then !cvtPair r.fmt.toNat d.fmt.toNat else r.fmt != d.fmt) 5 1 src.toNat,
        k.ccFull cc])
    (fun s =>
      let k := s.core c
      pushFile c cc (.tmov dst src cvt ovf (k.shape dst.toNat) (k.shape src.toNat)) dst.toNat (k.shape dst.toNat).rows s) s

/-- TZERO (R187, R188). -/
def execTzero (c : Nat) (dst : BitVec 4) (cc : BitVec 4) (s : State) : Out :=
  let e := encTmov dst 0 false false true cc
  issueE c e
    (fun s =>
      let k := s.core c
      firstOf [illegalCc e k false cc, tileIf s c e (!(k.shape dst.toNat).cfg) 1 0 dst.toNat, k.ccFull cc])
    (fun s =>
      let k := s.core c
      pushFile c cc (.tzero dst (k.shape dst.toNat)) dst.toNat (k.shape dst.toNat).rows s) s

/-! ### TLD and TST -/

/-- The illegal field combinations of R192. -/
def xferIllegal (x : TileXfer) (store : Bool) : Bool :=
  (x.mfmt == 1 || x.mfmt == 3 || decide (12 ≤ x.mfmt.toNat)) ||
  (x.sr && (!store || !x.cvt)) || (x.ovf && !x.cvt) || (!x.car && x.set != 0) ||
  (x.car && (x.rs2 != 0 || x.mfmt == 10)) || (x.rs3 != 0 && x.mfmt != 10) ||
  (x.raw && (x.tr || x.cvt || x.sr || x.ovf || x.car || x.mfmt != 0 || x.rs2 != 0 || x.rs3 != 0))
/-- Memory rows with no form (R194). -/
def noLayout (x : TileXfer) (sh : TShape) : Bool :=
  let mc := xferCols x sh
  let f := x.mfmt.toNat
  (f == 9 && mc % 2 != 0) || (f == 11 && mc % 8 != 0) || (f == 10 && mc % 32 != 0) || (x.tr && (f == 10 || f == 11))
/-- Address of memory row `i` (R194, R196). -/
def xferRow (k : Core) (x : TileXfer) (sh : TShape) (i : Nat) : Word :=
  if x.car then
    Word.plus (k.cb x.set) (k.carOff x.set (xferRowBytes x sh) (k.carIdx x.set (k.rx x.rs1) i))
  else k.rx x.rs1 + BitVec.ofNat 64 i * k.rx x.rs2
/-- The memory of a transfer: rows in order, then the scales of E2M1 rows (R194, R197). -/
def xferRuns (k : Core) (x : TileXfer) (sh : TShape) : List (Word × Nat) :=
  if x.raw then [(k.rx x.rs1, rawBytes x.tile.toNat)]
  else
    let rows := List.range (xferRows x sh)
    let sc := xferCols x sh / 32
    (rows.map fun i => (xferRow k x sh i, xferRowBytes x sh)) ++
      (if x.mfmt = 10 then rows.map fun i => (Word.plus (k.rx x.rs3) (i * sc), sc) else [])
/-- The address checks of a transfer (R194, R196, R197). -/
def xferAddr (k : Core) (x : TileXfer) (sh : TShape) : Option Trap :=
  if x.raw then
    if (k.rx x.rs1).toNat % 64 ≠ 0 then some (misaligned (k.rx x.rs1) k.flow.pc 0) else none
  else
    let el := elemBytes x.mfmt.toNat
    let off (v : Word) : Bool := decide (v.toNat % el ≠ 0)
    if x.car then
      let rb := xferRowBytes x sh
      if !isPow2 rb || !k.carOk x.set rb then some (carCfg x.set.toNat) else
        let rows := (List.range (xferRows x sh)).map fun i => (xferRow k x sh i, i)
        match rows.find? fun p => off p.1 with
        | some p => some (misaligned p.1 k.flow.pc 0)
        | none =>
          let beyond (i : Nat) : Bool :=
            decide (2 ^ 64 ≤ (k.cb x.set).toNat + k.carOff x.set rb (k.carIdx x.set (k.rx x.rs1) i))
          match rows.find? fun p => !k.inWindow p.1.toNat rb || beyond p.2 with
          | some p => some (busError p.1 k.flow.pc 0 p.2)
          | none => none
    else if off (k.rx x.rs1) then some (misaligned (k.rx x.rs1) k.flow.pc 0)
    else if off (k.rx x.rs2) then some (misaligned (k.rx x.rs2) k.flow.pc 1)
    else if x.mfmt = 10 ∧ off (k.rx x.rs3) then some (misaligned (k.rx x.rs3) k.flow.pc 2)
    else none
/-- The checks at issue of TLD and TST, in the order of R201. -/
def xferFault (c : Nat) (e : Enc) (x : TileXfer) (store : Bool) (s : State) : Option Trap :=
  let k := s.core c
  let sh := k.shape x.tile.toNat
  let src := if store then sh.fmt.toNat else x.mfmt.toNat
  let tgt := if store then x.mfmt.toNat else sh.fmt.toNat
  firstOf [
    illegalCc e k (xferIllegal x store) x.cc,
    tileIf s c e (!x.raw && !sh.cfg) 1 0 x.tile.toNat,
    tileIf s c e (!x.raw && (if x.cvt then !cvtPair src tgt else src != tgt)) 5 0 x.tile.toNat,
    tileIf s c e (!x.raw && noLayout x sh) 6 0 x.tile.toNat,
    xferAddr k x sh,
    k.ccFull x.cc]
/-- A transfer enters the memory channel: local or far (R198); the Carousel index and SRCTR move on (R136, R196). -/
def pushXfer (c : Nat) (x : TileXfer) (store : Bool) (kind : WorkKind) (s : State) : State :=
  let k := s.core c
  let sh := k.shape x.tile.toNat
  let runs := xferRuns k x sh
  let w := newWork s c x.cc.toNat kind (k.rx x.rs1) runs []
  let w := if s.ownSlice c store runs then
      { w with tags := 0, time := k.tm.step + 6 + moveSteps x sh (xferBytes x sh runs) } else w
  (shareChannel c s.nextId (contend c (pushWork w s))).upd c fun k =>
    let k := if x.car then k.landX 1 x.rs1 (BitVec.ofNat 64 (k.carIdx x.set (k.rx x.rs1) (xferRows x sh))) else k
    if store then (if x.sr then { k with arr := { k.arr with srctr := k.arr.srctr + 1 } } else k)
    else k.untag x.tile.toNat

/-- TLD (R191 to R199). -/
def execTld (c : Nat) (x : TileXfer) (s : State) : Out :=
  let e := encXfer 4 x
  issueE c e (xferFault c e x false)
    (fun s => pushXfer c x false (.tld x ((s.core c).shape x.tile.toNat)) s) s

/-- TST (R191 to R199, R136). -/
def execTst (c : Nat) (x : TileXfer) (s : State) : Out :=
  let e := encXfer 5 x
  issueE c e (xferFault c e x true)
    (fun s =>
      let k := s.core c
      let key := if k.arr.srSet then some k.arr.srkey else none
      pushXfer c x true (.tst x (k.shape x.tile.toNat) k.arr.srctr key) s) s

/-- Whether work is mover work inside the step domain. -/
def Work.isMover (w : Work) : Bool := (w.isXfer && w.tags == 0) || w.kind.isFile
/-- Mover work of a core that cannot run yet: it has no place, or stands behind other work (R184, R185). -/
def State.stalledMover (s : State) (c : Nat) : List Nat :=
  (s.works.filter fun w => w.core == c && (w.isXfer || w.kind.isFile) && (s.noPlace w || s.behind w)).map (·.id)
/-- Work `done` has left the mover at the present step, and what stood behind it may run: a transfer from now, on a channel it
shares; work of the file channel with its rows from now, its overhead overlapping that of file work that went before (R184). -/
def admitMover (c : Nat) (done : Work) (waited : List Nat) (s : State) : State :=
  waited.foldl (fun s id =>
    match s.work id with
    | none => s
    | some w =>
      if s.noPlace w || s.behind w then s
      else if w.isXfer then shareChannel c id s
      else
        let extra := if done.kind.isFile then 0 else Config.freeSteps s.fresh % 7
        s.draw.setWork { w with time := max w.time ((s.core c).tm.step + w.moveLen + extra) }) s

/-- Steps by which the other users of the bonding field may have delayed a transfer: the feeds of the array, the update path and
Juggler, which take alternate steps at most, and the vector memory port (R184, R219, R269). -/
def State.fieldDelay (s : State) (w : Work) : Nat :=
  let k := s.core w.core
  let begun := w.time - 6 - w.moveLen
  if !w.isXfer then 0 else
    ((k.arr.queue.filter fun p => p.dem != 0 && decide (begun < p.b + p.str)).map fun p => (p.dem * p.str + 4095) / 4096).sum +
    (if k.arr.upd.isEmpty && decide (k.arr.updFree ≤ begun) && s.tags w.core false == 0 then 0 else w.moveLen) +
    (min k.tm.portFree w.time - begun)
/-- The tile whose words a piece of mover work reads, or writes where it reads none. -/
def Work.moverTile (w : Work) : Nat :=
  match w.kind with
  | .tld x _ => x.tile.toNat
  | .tst x _ _ _ => x.tile.toNat
  | .tmov _ t _ _ _ _ => t.toNat
  | .tzero t _ => t.toNat
  | _ => 0

/-- TILE_MOVER_COMPLETE (R184, R185, R177): the core's own mover finishes work `id` at its step; with a tile word in error it is
corrected and logged, or the work fails. Work that fails so writes nothing, keeps the flags of the rows converted before, which are a
free part of its flags (R141), and is recorded with reason 0x54 and, for TMOV and TZERO, its tile's number as the address (DESIGN
CHOICE, log entry 14: R141, R177 and R82 say neither). -/
def execTileMoverComplete (id : Nat) (err : WordErr) (s : State) : Out :=
  match s.work id with
  | none => done s s
  | some w =>
    let c := w.core
    if !w.isMover || s.behind w || s.noPlace w || !(s.core c).pw.ring || !(s.core c).inSvc then done s s else
      let cause := s.causeNow c
      let late := s.fieldDelay w
      let d := if late = 0 then 0 else Config.freeSteps s.fresh % (late + 1)
      let s1 := arrive c (stepsPass c (fun n k => k.idleStall n cause) (w.time + d - (s.core c).tm.step) s.draw)
      let waited := s1.stalledMover c
      let addr : Word := if w.kind.isFile then BitVec.ofNat 64 w.moverTile else w.addr
      let run (s : State) : State :=
        if w.kind.isFile then s.setWork { w with stage := .applied [] } else applyWork w .none s
      let s2 := match err with
        | .clean => run s1
        | .fixed bit => run (noteTileCE c w.moverTile bit s1)
        | .bad =>
          if (match w.kind with | .tld _ _ => true | _ => false) then s1.setWork (w.fail addr 0x54) else
          let t := run (s1.upd c fun k => { k with ff := 0 })
          let t := match t.work id with | some w => completeWork w t | none => t
          ({ s1 with fresh := s1.fresh + 2 ^ 21 }.updOwner c w.group fun k =>
            k.orFF ((t.owner c w.group).ff &&& (Config.freeByte s1.fresh).setWidth 6)).setWork (w.fail addr 0x54)
      let s3 := match s2.work id with
        | some w => completeWork w s2
        | none => s2
      done s (endWait c (admitMover c w waited s3))

/-! ### TGET and TPUT (R189) -/

/-- The checks of TGET and TPUT, in the order of R201. -/
def tgetFault (s : State) (c : Nat) (e : Enc) (t : BitVec 4) : Option Trap :=
  let k := s.core c
  if k.tm.step < k.tm.portFree then some (illegal e 2)
  else if t.toNat < 12 then some (tileShape e 2 0 (s.tshape c t.toNat))
  else none
def segOf (k : Core) (rs : Reg) (imm : BitVec 6) : Nat := ((k.rx rs).toNat + imm.toNat) % 64
def Core.takePort (k : Core) : Core := { k with tm := { k.tm with portFree := k.tm.step + 1 } }

/-- TGET (R189): distance 10. -/
def execTget (c : Nat) (v : Reg) (t : BitVec 4) (rs : Reg) (imm : BitVec 6) (s : State) : Out :=
  let e := encTget 0 v t rs imm
  issueE c e (fun s => tgetFault s c e t)
    (fun s => s.upd c fun k =>
      k.takePort.addPend ⟨k.tm.step + 10, .v v (tileSeg (k.tile t.toNat) (segOf k rs imm)),
        some (.tget t, 0, k.flow.pc)⟩) s

/-- TPUT (R189). -/
def execTput (c : Nat) (v : Reg) (t : BitVec 4) (rs : Reg) (imm : BitVec 6) (s : State) : Out :=
  let e := encTget 1 v t rs imm
  issueE c e (fun s => tgetFault s c e t)
    (fun s => s.upd c fun k =>
      k.takePort.setTile t.toNat ((k.tile t.toNat).setSeg (segOf k rs imm) (k.rv v))) s

/-- TGET_UE (R177): as a local vector load (R169). -/
def execTgetUe (e : ReadErr) (s : State) : Out :=
  if 160 ≤ e.core then .refused .noSuchUnit else
    done s (markUe e.core (fun k => match k with | .tget _ => true | _ => false) e.err s)

end Sys2Proof.Machine
end

