-- ==== Sys2Proof/Machine/Array.lean ====
section
/-! DEFINITION. APASS, AELEM and ADIST, and the events of passes in flight (07, 08). -/

namespace Sys2Proof.Machine

/-! ### Checks shared by the passes -/

def arrayCfg (e : Enc) (reason : Nat) (d1 : Nat) : Trap :=
  { cause := 0x10, reason := BitVec.ofNat 8 reason, edata0 := e.data, edata1 := BitVec.ofNat 64 d1 }
/-- At most four passes in flight (R215). -/
def queueFull (k : Core) (e : Enc) : Option Trap := if 4 ≤ k.arr.queue.length then some (arrayCfg e 1 0) else none
/-- A configured tile of the matrix file (R208). -/
def mtOperand (s : State) (c : Nat) (e : Enc) (i t : Nat) : Option Trap :=
  firstOf [tileIf s c e (!((s.core c).shape t).cfg) 1 i t, tileIf s c e (decide (8 ≤ t)) 2 i t]
/-- The fault of accumulator tile `t` that should have `rows` rows, `cols` columns and format `fmt` (R208): its reason, if any. -/
def accReason (k : Core) (t rows cols fmt : Nat) : Option Nat :=
  let sh := k.shape t
  if 11 < t then some 4
  else if !sh.cfg then some 1
  else if t < 8 then some 2
  else if sh.rows ≠ rows ∨ sh.cols ≠ cols then some 4
  else if sh.fmt.toNat ≠ fmt then some 5
  else none
/-- The accumulators of a pass (INDEX 0), by reason and then in tile order (R208, R246; log entry 17). -/
def accsFault (s : State) (c : Nat) (e : Enc) (dst rows fmt : Nat) (cols : List Nat) : Option Trap :=
  let bad := (cols.zipIdx).filterMap fun p => (accReason (s.core c) (dst + p.2) rows p.1 fmt).map fun r => (r, dst + p.2)
  (argMin (·.1) bad).map fun b => tileShape e b.1 0 (if b.2 < 16 then s.tshape c b.2 else 0)
/-- Columns of each accumulator tile that `n` result columns take (R207). -/
def accCols (n : Nat) : List Nat := (List.range ((n + 127) / 128)).map fun j => min 128 (n - 128 * j)

/-! ### Feeds (R209, R245) -/

/-- Ranges of one feed row: its elements, and its scales where it has them. -/
structure FeedRow where
  a : Word
  n : Nat
  sa : Word
  sn : Nat
deriving DecidableEq, Repr

/-- Feed rows of `n` bytes each. -/
def feedRows (k : Core) (rs1 rs2 rs3 : Reg) (rows n sn : Nat) : List FeedRow :=
  (List.range rows).map fun i => ⟨k.rx rs1 + BitVec.ofNat 64 i * k.rx rs2, n, Word.plus (k.rx rs3) (i * sn), sn⟩
/-- Alignment of base, pitch and scale base to `el`, then every row and its scales in the window: EDATA0 is the row's address
whichever of the two lies outside (R231). -/
def feedFault (k : Core) (rs1 rs2 rs3 : Reg) (el : Nat) (e2m1 : Bool) (rows : List FeedRow) : Option Trap :=
  let off (v : Word) : Bool := decide (v.toNat % el ≠ 0)
  if off (k.rx rs1) then some (misaligned (k.rx rs1) k.flow.pc 0)
  else if off (k.rx rs2) then some (misaligned (k.rx rs2) k.flow.pc 1)
  else if e2m1 && off (k.rx rs3) then some (misaligned (k.rx rs3) k.flow.pc 2)
  else
    (rows.zipIdx).findSome? fun p =>
      if !k.inWindow p.1.a.toNat p.1.n then some (busError p.1.a k.flow.pc 0 p.2)
      else if !k.inWindow p.1.sa.toNat p.1.sn && p.1.sn != 0 then some (busError p.1.a k.flow.pc 0 p.2)
      else none
/-- The first feed row that cannot be read, with its address (R221). -/
def feedUe (s : State) (c : Nat) (rows : List FeedRow) : Option (Nat × Word) :=
  (rows.zipIdx).findSome? fun p =>
    if s.windowBad c p.1.a.toNat p.1.n then some (p.2, p.1.a)
    else if p.1.sn ≠ 0 ∧ s.windowBad c p.1.sa.toNat p.1.sn = true then some (p.2, p.1.sa)
    else none
/-- Bytes of a feed row and of its scales, as they stand at issue. -/
def feedBytes (s : State) (c : Nat) (r : FeedRow) : List Byte × List Byte :=
  (s.windowBytes c r.a.toNat r.n, s.windowBytes c r.sa.toNat r.sn)
/-- Values of feed rows of `kk` elements of format `f`. -/
def feedVals (s : State) (c f kk : Nat) (rows : List FeedRow) : List (List FV) :=
  rows.map fun r =>
    let (bs, sc) := feedBytes s c r
    TRow.vals f ⟨unpackRow f kk bs, sc⟩
/-- Feed rows that have no form (R208). -/
def feedLayout (f kk : Nat) : Bool := (f == 10 && kk % 32 != 0) || (f == 9 && kk % 2 != 0)
/-- Bytes of a feed row of `kk` elements, and of its scales. -/
def feedSizes (f kk : Nat) : Nat × Nat := (kk * fmtBits f / 8, if f = 10 then kk / 32 else 0)

/-! ### APASS -/

/-- What a pass is, once its operands are known to be right. -/
structure PassPlan where
  form : PeForm
  str  : Nat           -- S
  tail : Nat           -- X
  srcs : List Nat      -- operand tiles but the stationary one
  dst  : List Nat
  ue   : Option (Nat × Word)
  dem  : Nat           -- bytes of feed per stream step (R219, R250)
  data : PassData

/-- The illegal field combinations of R206. -/
def passIllegal (k : Core) (x : PassOp) : Bool :=
  (x.load == 3) ||
  (!x.feed && (x.rs1 != 0 || x.rs2 != 0 || x.rs3 != 0 || x.ffmt != 0 || x.frowsm1 != 0)) ||
  (x.feed && x.mov != 0) || (x.rs3 != 0 && x.ffmt != 10) ||
  (k.arr.tent && (!x.feed || x.frowsm1 != 0))
/-- TILE_SHAPE of a feed operand (R208): EDATA1 is FFMT and FROWSM1. -/
def feedShape (e : Enc) (bad : Bool) (reason : Nat) (x : PassOp) : Option Trap :=
  if bad then some (tileShape e reason 2 (x.ffmt.toNat * 2 ^ 24 + x.frowsm1.toNat)) else none
/-- Formats that stand in some pair of R204. -/
def inFamily (f : Nat) : Bool := pairOk f f

/-- The operand checks of a ganged pass (R208). -/
def gangedFault (s : State) (c : Nat) (e : Enc) (x : PassOp) : Option Trap :=
  let k := s.core c
  let st := k.shape x.sta.toNat
  let f := st.fmt.toNat
  let mv := k.shape x.mov.toNat
  let rows := if x.feed then x.frowsm1.toNat + 1 else mv.rows
  firstOf [
    mtOperand s c e 1 x.sta.toNat,
    tileIf s c e (!inFamily f) 5 1 x.sta.toNat,
    (if x.feed then
      firstOf [feedShape e (!pairOk f x.ffmt.toNat) 5 x, feedShape e (feedLayout x.ffmt.toNat st.rows) 6 x]
     else
      firstOf [mtOperand s c e 2 x.mov.toNat, tileIf s c e (mv.cols != st.rows) 4 2 x.mov.toNat,
        tileIf s c e (!pairOk f mv.fmt.toNat) 5 2 x.mov.toNat]),
    accsFault s c e x.dst.toNat rows 4 (accCols st.cols)]
/-- Full column count of a tent operand (R216). -/
def tentCols (f : Nat) : Nat := if f = 9 ∨ f = 10 then 512 else 256
def tentFmt (f : Nat) : Bool := f == 0 || f == 7 || f == 8 || f == 9 || f == 10
/-- The operand checks of a tent pass (R216). -/
def tentFault (s : State) (c : Nat) (e : Enc) (x : PassOp) : Option Trap :=
  let k := s.core c
  let st := k.shape x.sta.toNat
  let f := st.fmt.toNat
  let d := x.dst.toNat
  let dsh := k.shape d
  firstOf [
    mtOperand s c e 1 x.sta.toNat,
    tileIf s c e (st.rows % 32 != 0 || (tentFmt f && st.cols != tentCols f)) 4 1 x.sta.toNat,
    tileIf s c e (!tentFmt f) 5 1 x.sta.toNat,
    feedShape e (!pairOk f x.ffmt.toNat) 5 x,
    (if 11 < d then some (tileShape e 4 0 (s.tshape c d)) else none),
    tileIf s c e (!dsh.cfg) 1 0 d, tileIf s c e (decide (d < 8)) 2 0 d,
    tileIf s c e (dsh.cols != 128 || dsh.rows % 32 != 0) 4 0 d, tileIf s c e (dsh.fmt != 4) 5 0 d]
/-- S of a tent pass (R217). -/
def tentSteps (f n kk : Nat) : Nat := n * kk / (if f = 9 ∨ f = 10 then 1024 else 256)

/-- The feed of an APASS, its formats known to be right. -/
def passFeed (k : Core) (x : PassOp) : List FeedRow :=
  let st := k.shape x.sta.toNat
  let kk := if k.arr.tent then st.rows / 32 * st.cols else st.rows
  let rows := if k.arr.tent then 4 * (k.shape x.dst.toNat).rows else x.frowsm1.toNat + 1
  let sz := feedSizes x.ffmt.toNat kk
  feedRows k x.rs1 x.rs2 x.rs3 rows sz.1 sz.2
/-- The plan of an APASS whose operands are right (R207, R216, R217). -/
def passPlan (s : State) (c : Nat) (x : PassOp) : PassPlan :=
  let k := s.core c
  let st := k.shape x.sta.toNat
  let f := st.fmt.toNat
  let sv := k.tileVals x.sta.toNat
  if k.arr.tent then
    let q := st.rows / 32
    let kk := q * st.cols
    let n := 4 * (k.shape x.dst.toNat).rows
    let fr := passFeed k x
    let a := (List.range 32).map fun t => (List.range q).flatMap fun j => sv.getD (32 * j + t) []
    let str := tentSteps f n kk
    ⟨if f = 9 ∨ f = 10 then .tent4 else .tent8, str, 0, [], [x.dst.toNat],
     (feedUe s c fr).map fun u => (u.1 * str / n, u.2), Config.fieldBytes,
     .mm true (grpOf f) a (feedVals s c x.ffmt.toNat kk fr) (k.arr.trowsm1.toNat + 1)⟩
  else
    let fr := passFeed k x
    let xs := if x.feed then feedVals s c x.ffmt.toNat st.rows fr else k.tileVals x.mov.toNat
    ⟨.ganged (lanesM f), xs.length, 0, if x.feed then [] else [x.mov.toNat],
     (List.range (accCols st.cols).length).map (x.dst.toNat + ·), if x.feed then feedUe s c fr else none,
     if x.feed then (feedSizes x.ffmt.toNat st.rows).1 else 0,
     .mm false (grpOf f) xs (colsOf st.cols sv) 0⟩

/-- The load a pass makes if issued now (R210, R211). -/
def loadNow (k : Core) (req : Nat) (form : PeForm) (sta : Nat) (nh tent : Bool) : LoadMode :=
  (loadOf k.arr req form sta nh tent).1
/-- ARRAY_CFG reason 2 (R213). -/
def tooLong (e : Enc) (len : Nat) : Option Trap := if Config.passMax < len then some (arrayCfg e 2 len) else none

/-- A pass enters the array by its plan; a feed takes its part of the bonding field (R219). -/
def enterPass (c : Nat) (cc sta req : Nat) (nh tent accum : Bool) (p : PassPlan) (s : State) : State :=
  let k := s.core c
  (if p.dem = 0 then id else contend c) <| issuePass c req p.form sta nh tent
    (fun id a ld => ⟨id, k.flow.pc, cc, p.form, ld, a, p.str, p.tail, sta,
      if p.form == .elem then p.srcs else keepSrcs ld sta p.srcs, p.dst, accum, false, false, p.ue, p.dem, 0, 0,
      p.data⟩) s

/-- APASS (R205 to R218, R231). -/
def execApass (c : Nat) (x : PassOp) (s : State) : Out :=
  let e := encPass x
  issueE c e
    (fun s =>
      let k := s.core c
      let tent := k.arr.tent
      firstOf [
        illegalCc e k (passIllegal k x) x.cc,
        (if tent then tentFault s c e x else gangedFault s c e x),
        queueFull k e,
        (let p := passPlan s c x
         tooLong e (passLen (loadNow k x.load.toNat p.form x.sta.toNat false tent) p.str 0)),
        (if x.feed then
          feedFault k x.rs1 x.rs2 x.rs3 (elemBytes x.ffmt.toNat) (x.ffmt == 10) (passFeed k x)
         else none),
        k.ccFull x.cc])
    (fun s =>
      enterPass c x.cc.toNat x.sta.toNat x.load.toNat false (s.core c).arr.tent x.accum (passPlan s c x) s) s

/-! ### AELEM (R237 to R240) -/

/-- A floating-point source of AELEM: an FP32 accumulator or a BF16 or FP16 matrix tile; `dims` the shape it must have. -/
def elemOperand (s : State) (c : Nat) (e : Enc) (i t : Nat) (badDims : Bool) : Option Trap :=
  let sh := (s.core c).shape t
  firstOf [
    tileIf s c e (!sh.cfg) 1 i t,
    tileIf s c e (decide (12 ≤ t)) 2 i t,
    tileIf s c e badDims 4 i t,
    tileIf s c e (if t < 8 then sh.fmt != 5 && sh.fmt != 6 else sh.fmt != 4) 5 i t]

/-- AELEM (R237 to R240). -/
def execAelem (c : Nat) (dst srca srcb : BitVec 4) (op : BitVec 2) (brow : Bool) (cc : BitVec 4) (s : State) : Out :=
  let e := encElem dst srca srcb op brow cc
  issueE c e
    (fun s =>
      let k := s.core c
      let a := k.shape srca.toNat
      let b := k.shape srcb.toNat
      let d := k.shape dst.toNat
      firstOf [
        illegalCc e k false cc,
        elemOperand s c e 1 srca.toNat false,
        elemOperand s c e 2 srcb.toNat (b.cols != a.cols || (!brow && b.rows != a.rows)),
        tileIf s c e (!d.cfg) 1 0 dst.toNat,
        tileIf s c e (decide (dst.toNat < 8 ∨ 11 < dst.toNat)) 2 0 dst.toNat,
        tileIf s c e (d.rows != a.rows || d.cols != a.cols) 4 0 dst.toNat,
        tileIf s c e (d.fmt != 4) 5 0 dst.toNat,
        queueFull k e,
        k.ccFull cc])
    (fun s =>
      let k := s.core c
      let a := k.tileVals srca.toNat
      let b := k.tileVals srcb.toNat
      let b := if brow then List.replicate a.length (b.headD []) else b
      enterPass c cc.toNat 0 0 false false false
        ⟨.elem, (a.length + 7) / 8, 0, [srca.toNat, srcb.toNat], [dst.toNat], none, 0,
          .elem op brow a b⟩ s) s

/-! ### ADIST (R241 to R249) -/

def DistOp.ham (x : DistOp) : Bool := x.op == 2
def DistOp.top8 (x : DistOp) : Bool := decide (3 ≤ x.sel.toNat)
/-- The illegal field combinations of R242. -/
def distIllegal (x : DistOp) : Bool :=
  x.load == 3 || x.op == 3 || decide (5 ≤ x.sel.toNat) || (x.u && DistOp.ham x) ||
  (x.accum && (x.sel == 1 || x.sel == 2)) || (!x.feed && (x.rs1 != 0 || x.rs2 != 0 || x.rs4 != 0)) ||
  (x.feed && x.mov != 0) || (x.rs3 != 0 && !DistOp.top8 x)
/-- M, the candidates of a pass (R243). -/
def distCount (k : Core) (x : DistOp) : Nat := if x.feed then (k.rx x.rs4).toNat else (k.shape x.mov.toNat).rows
/-- N, the queries (R244). -/
def distN (k : Core) (x : DistOp) : Nat :=
  let sh := k.shape x.sta.toNat
  if DistOp.ham x then sh.cols / 16 else sh.cols
/-- The operand checks of ADIST (R244, R246). -/
def distFault (s : State) (c : Nat) (e : Enc) (x : DistOp) : Option Trap :=
  let k := s.core c
  let st := k.shape x.sta.toNat
  let mv := k.shape x.mov.toNat
  let fmt : BitVec 4 := if DistOp.ham x then 11 else 0
  let part := if DistOp.ham x then 16 else 1
  let m := distCount k x
  let many := decide (128 < m) && !DistOp.top8 x
  let n := distN k x
  firstOf [
    mtOperand s c e 1 x.sta.toNat,
    tileIf s c e (st.fmt == 11 && DistOp.ham x && st.cols % 16 != 0) 4 1 x.sta.toNat,
    tileIf s c e (st.fmt != fmt) 5 1 x.sta.toNat,
    (if x.feed then (if many then some (tileShape e 4 2 m) else none)
     else firstOf [mtOperand s c e 2 x.mov.toNat, tileIf s c e (mv.cols != part * st.rows) 4 2 x.mov.toNat,
       tileIf s c e (mv.fmt != fmt) 5 2 x.mov.toNat]),
    (match x.sel.toNat with
     | 0 => accsFault s c e x.dst.toNat m 2 (accCols n)
     | 1 => accsFault s c e x.dst.toNat m 2 [2]
     | 2 => accsFault s c e x.dst.toNat m 2 [2]
     | _ => accsFault s c e x.dst.toNat 16 2 (accCols n))]
/-- Feed rows of ADIST (R245). -/
def distFeed (k : Core) (x : DistOp) : List FeedRow :=
  feedRows k x.rs1 x.rs2 0 (distCount k x) ((k.shape x.sta.toNat).rows * if DistOp.ham x then 2 else 1) 0
/-- Parts of a run of bytes: bytes, signed or not, or 16-bit parts (R244). -/
def partsOf (x : DistOp) (n : Nat) (bs : List Byte) : List Int :=
  if DistOp.ham x then (lanesOf 16 n (leNat bs)).map fun (v : Nat) => (v : Int)
  else (lanesOf 8 n (leNat bs)).map fun (v : Nat) => if x.u then (v : Int) else sextInt 8 v
def popCount (v : Nat) : Nat := ((List.range 16).map fun i => b2n (bitOf v i)).sum
/-- Distance of one part (R247). -/
def distPart (x : DistOp) (a b : Int) : Int :=
  match x.op.toNat with
  | 0 => ((a - b).natAbs : Int)
  | 1 => (a - b) * (a - b)
  | _ => (popCount (a.toNat ^^^ b.toNat) : Int)
/-- Bytes of row `r` of a matrix tile under its shape. -/
def rowBytesOf (k : Core) (t r : Nat) : List Byte :=
  let sh := k.shape t
  (k.tile t).data.bytes (256 * r) (sh.cols * fmtBits sh.fmt.toNat / 8)
/-- The plan of an ADIST whose operands are right (R247 to R249). -/
def distPlan (s : State) (c : Nat) (x : DistOp) : PassPlan :=
  let k := s.core c
  let st := k.shape x.sta.toNat
  let n := distN k x
  let m := distCount k x
  let q := (List.range st.rows).map fun r => partsOf x n (rowBytesOf k x.sta.toNat r)
  let queries := (List.range n).map fun j => q.map fun row => row.getD j 0
  let fr := if x.feed then distFeed k x else []
  let cand := if x.feed then fr.map fun r => partsOf x st.rows (feedBytes s c r).1
    else (List.range m).map fun r => partsOf x st.rows (rowBytesOf k x.mov.toNat r)
  let d := cand.map fun cr => queries.map fun qr => (List.zipWith (distPart x) cr qr).sum
  let per := if DistOp.ham x then 4 else 1
  ⟨if DistOp.ham x then .distBin else .distInt, (m + per - 1) / per,
   match x.sel.toNat with | 0 => 0 | 1 => 8 | 2 => 8 | _ => 16,
   if x.feed then [] else [x.mov.toNat],
   (List.range (if x.sel = 1 ∨ x.sel = 2 then 1 else (accCols n).length)).map (x.dst.toNat + ·),
   (feedUe s c fr).map fun u => (u.1 / per, u.2),
   if x.feed then st.rows * (if DistOp.ham x then 8 else 1) else 0,
   .dist x.sel d ((k.rx x.rs3).toNat % 2 ^ 32)⟩

/-- ADIST (R241 to R251). -/
def execAdist (c : Nat) (x : DistOp) (s : State) : Out :=
  let e := encDist x
  issueE c e
    (fun s =>
      let k := s.core c
      let m := distCount k x
      firstOf [
        illegalCc e k (distIllegal x) x.cc,
        (if x.feed ∧ (m = 0 ∨ 8192 < m) then some (arrayCfg e 3 m) else none),
        distFault s c e x,
        queueFull k e,
        (let per := if DistOp.ham x then 4 else 1
         let tail := match x.sel.toNat with | 0 => 0 | 1 => 8 | 2 => 8 | _ => 16
         let form := if DistOp.ham x then PeForm.distBin else PeForm.distInt
         tooLong e (passLen (loadNow k x.load.toNat form x.sta.toNat false false) ((m + per - 1) / per) tail)),
        (if x.feed then feedFault k x.rs1 x.rs2 0 (if DistOp.ham x then 2 else 1) false (distFeed k x) else none),
        k.ccFull x.cc])
    (fun s => enterPass c x.cc.toNat x.sta.toNat x.load.toNat false false x.accum (distPlan s c x) s) s

/-! ### Events of passes in flight -/

/-- The core's ring beats to step `t`, idle, and the array's events due by then occur. -/
def ringTo (c t : Nat) (s : State) : State :=
  let cause := s.causeNow c
  arrive c (stepsPass c (fun n k => k.idleStall n cause) (t - (s.core c).tm.step) s)
/-- Whether the ring of a core beats. -/
def Core.beats (k : Core) : Bool := k.inSvc && k.pw.ring
/-- A command about the array of a core: no such core, a hub core, or one whose ring does not beat. -/
def onArray (c : Nat) (s : State) (f : State → State) : Out :=
  if 160 ≤ c then .refused .noSuchUnit
  else if isHub c then .refused .unitAbsent
  else if !(s.core c).beats then done s s
  else done s (f s)

/-- The ring beats to the start step of pass `id`, by way of every event before it, which may put it off (R213). -/
def ringToStart (c id : Nat) : Nat → State → State
  | 0, s => s
  | fuel + 1, s =>
    let k := s.core c
    match k.arr.queue.find? fun p => p.id == id with
    | none => s
    | some p =>
      if p.start ≤ k.tm.step then s else
        let t := match k.arr.nextEvent with | some (u, _) => max (k.tm.step + 1) (min u p.start) | none => p.start
        ringToStart c id fuel (ringTo c t s)
/-- PASS_START (R212): the ring beats to the start step of the next pass that has not begun. -/
def execPassStart (c : Nat) (s : State) : Out :=
  onArray c s fun s =>
    let k := s.core c
    match k.arr.queue.find? fun p => decide (k.tm.step < p.start) with
    | none => s
    | some p => endWait c (ringToStart c p.id 16 s)

/-- Events of the array one after another until the oldest pass is number `id` no longer. -/
def ringToCommit (c id : Nat) : Nat → State → State
  | 0, s => s
  | fuel + 1, s =>
    let a := (s.core c).arr
    match a.queue.head?, a.nextEvent with
    | some p, some (t, _) => if p.id = id then ringToCommit c id fuel (ringTo c t s) else s
    | _, _ => s
/-- PASS_COMMIT (R212, R214): the ring beats to the commit of the oldest pass. -/
def execPassCommit (c : Nat) (s : State) : Out :=
  onArray c s fun s =>
    match (s.core c).arr.queue.head? with
    | none => s
    | some p => endWait c (ringToCommit c p.id 32 s)

/-- PARITY_MISMATCH (R221, R222, R468): on the pass at place `idx` of the queue, which has begun, in PE row `row`. -/
def execParityMismatch (c idx : Nat) (row : BitVec 7) (s : State) : Out :=
  onArray c s fun s =>
    let s0 := arrive c s
    match (s0.core c).arr.queue[idx]? with
    | none => s
    | some p =>
      if (s0.core c).tm.step < p.start then s else
        let s1 := parityOn c idx s0
        let old := s1.pkg.peFaults
        endWait c { s1 with pkg := { s1.pkg with peFaults := old ++ [(c, row.toNat, s1.time, p.id)] } }

/-- PASS_ABANDON (R221, R222): an uncorrectable operand of the pass at place `idx`, at tile number or feed address `addr`. -/
def execPassAbandon (c idx : Nat) (addr : Word) (s : State) : Out :=
  onArray c s fun s =>
    let s0 := arrive c s
    match (s0.core c).arr.queue[idx]? with
    | none => s
    | some p =>
      if (s0.core c).tm.step < p.start then s
      else endWait c (failFrom c idx 0x20 addr s0)

/-- AQUIET (R224): at T it is illegal. -/
def execAquiet (c : Nat) (rs1 : Reg) (s : State) : Out :=
  let e := encWide 0x21 (rs1.toNat * 2 ^ 13) 0
  if isHub c && decide (c < 160) then .refused .unitAbsent else
    issueWait c e (fun s => illegalIf e ((s.core c).level == .t)) id
      (fun s => mkWait s c .array 0 rs1 false false e) s

end Sys2Proof.Machine
end

