-- ==== Sys2Proof/Machine/Backward.lean ====
section
/-! DEFINITION. TPASS, slice emission, UPDT and the update path (09). -/

namespace Sys2Proof.Machine

/-! ### Update descriptors (R266, R267) -/

/-- The descriptor in 128 bytes (R266). -/
def readUpdDesc (bs : List Byte) : UpdDesc :=
  let f32b (o : Nat) : BitVec 32 := BitVec.ofNat 32 (field bs o 4)
  let w (o : Nat) : Word := BitVec.ofNat 64 (field bs o 8)
  ⟨field bs 0 1, BitVec.ofNat 4 (field bs 1 1), field bs 2 1 == 1, field bs 3 1 == 1, field bs 4 4, field bs 8 4,
   w 16, w 24, w 32, w 40, f32b 48, f32b 52, f32b 56, f32b 60, f32b 64, f32b 68, f32b 72, f32b 76⟩
/-- Copy element size of a format code, 1 where there is no copy. -/
def copySize (cf : Nat) : Nat := if cf = 0 then 1 else elemBytes cf
/-- Offset of the first field that is not valid, `cend` the first tile column past those used (R267, check 3). -/
def descBad (bs : List Byte) (cend : Nat) : Option Nat :=
  let form := field bs 0 1
  let cf := field bs 1 1
  if form ≠ 1 ∧ form ≠ 2 then some 0
  else if !([0, 5, 6, 7, 8].contains cf) then some 1
  else if field bs 2 1 ≠ 0 ∧ !(field bs 2 1 = 1 ∧ cf = 8) then some 2
  else if 1 < field bs 3 1 then some 3
  else if field bs 4 4 % 4 ≠ 0 ∨ field bs 4 4 < 4 * cend then some 4
  else if (if cf = 0 then field bs 8 4 ≠ 0 else field bs 8 4 < elemBytes cf * cend) then some 8
  else if field bs 12 4 ≠ 0 then some 12
  else if form = 1 ∧ field bs 32 8 ≠ 0 then some 32
  else if cf = 0 ∧ field bs 40 8 ≠ 0 then some 40
  else if field bs 80 48 ≠ 0 then some 80
  else none

/-- The arrays an update uses: place in R267's numbering, base, pitch, element size. -/
def UpdDesc.arrays (d : UpdDesc) : List (Nat × Word × Nat × Nat) :=
  [(0, d.waddr, d.pitch, 4), (1, d.m1addr, d.pitch, 4)] ++
  (if d.form = 2 then [(2, d.m2addr, d.pitch, 4)] else []) ++
  (if d.cfmt = 0 then [] else [(3, d.caddr, d.cpitch, elemBytes d.cfmt.toNat)])
/-- The first two arrays whose ranges overlap, as the bits of EDATA1 (R267, check 6; log entry 17). -/
def overlapPair (kk cend : Nat) (as : List (Nat × Word × Nat × Nat)) : Option Nat :=
  let rng (a : Nat × Word × Nat × Nat) : Nat × Nat :=
    (a.2.1.toNat, a.2.1.toNat + (kk - 1) * a.2.2.1 + a.2.2.2 * cend)
  as.findSome? fun a => as.findSome? fun b =>
    if a.1 < b.1 ∧ (rng a).1 < (rng b).2 ∧ (rng b).1 < (rng a).2 then some (2 ^ a.1 + 2 ^ b.1) else none

/-- The descriptor checks of R267, in their order: `kk` rows, columns up to `cend`; `err` is an error that the read meets. -/
def descFault (s : State) (c : Nat) (e : Enc) (base : Word) (kk cend : Nat) (err : WordErr) : Option Trap :=
  let k := s.core c
  let pc := k.flow.pc
  if base.toNat % 128 ≠ 0 then some (misaligned base pc 8)
  else if !k.inWindow base.toNat 128 then some (busError base pc 0 8)
  else if s.windowBad c base.toNat 128 then some (busError base pc poisoned 8)
  else if err == .bad then some (busError base pc 0x54 8)
  else
    let bs := s.windowBytes c base.toNat 128
    match descBad bs cend with
    | some o => some (arrayCfg e 4 o)
    | none =>
      let as := (readUpdDesc bs).arrays
      match as.find? fun a => decide (a.2.1.toNat % a.2.2.2 ≠ 0) with
      | some a => some (misaligned a.2.1 pc (4 + a.1))
      | none =>
        match as.find? fun a => !k.inWindow a.2.1.toNat ((kk - 1) * a.2.2.1 + a.2.2.2 * cend) with
        | some a => some (busError a.2.1 pc 0 (4 + a.1))
        | none => (overlapPair kk cend as).map (arrayCfg e 6)
/-- A descriptor that cannot be read is logged (R267, R284, R435, R451). -/
def descMark (c : Nat) (base : Word) (s : State) (t : Trap) (s1 : State) : State :=
  if t.cause = 3 ∧ t.reason ≠ 0 then
    let pa := s.windowPa c base.toNat
    noteUE c pa t.reason.toNat t.edata1 (if t.reason = 0x54 then s1.setPoison (pa / 32 * 32) else s1)
  else s1
/-- A descriptor word that is corrected as it is read (R451). -/
def descFixed (c : Nat) (base : Word) (err : WordErr) (s : State) : State :=
  match err with
  | .fixed sym => noteCE c (s.windowPa c base.toNat) sym s
  | _ => s
/-- The descriptor a pass or UPDT captures. -/
def State.updDesc (s : State) (c : Nat) (base : Word) : UpdDesc := readUpdDesc (s.windowBytes c base.toNat 128)

/-! ### TPASS (R252 to R262) -/

/-- The family of a format: its m (R253). -/
def trapM (f : Nat) : Option Nat :=
  match f with
  | 5 => some 1
  | 6 => some 1
  | 7 => some 2
  | 8 => some 2
  | _ => none
/-- The window of a TPASS (R254). -/
structure TrapWin where
  m  : Nat
  nt : Nat
  n0 : Nat
  n  : Nat
  mm : Nat
  kk : Nat
def trapWin (k : Core) (x : TrapOp) : TrapWin :=
  let dy := k.shape x.dy.toNat
  let m := (trapM dy.fmt.toNat).getD 1
  let n0 := if x.nh then 64 else 0
  ⟨m, dy.cols, n0, min (64 * m) (dy.cols - n0), dy.rows, (k.shape x.wt.toNat).cols⟩
/-- Column counts of the slices (R254). -/
def sliceCols (n : Nat) : List Nat := (List.range ((n + 63) / 64)).map fun j => min 64 (n - 64 * j)
/-- A slice operand (INDEX 4 + j): a vector tile buffer, FP32, of the shape it must have (R262). -/
def sliceFault (s : State) (c : Nat) (e : Enc) (j t : Nat) (badShape : Bool) : Option Trap :=
  let sh := (s.core c).shape t
  if 15 < t then some (tileShape e 4 (4 + j) 0)
  else firstOf [
    tileIf s c e (!sh.cfg) 1 (4 + j) t,
    tileIf s c e (decide (t < 12)) 2 (4 + j) t,
    tileIf s c e badShape 4 (4 + j) t,
    tileIf s c e (sh.fmt != 4) 5 (4 + j) t]
/-- The operand checks of R262. -/
def trapFault (s : State) (c : Nat) (e : Enc) (x : TrapOp) : Option Trap :=
  let k := s.core c
  let w := trapWin k x
  let dy := k.shape x.dy.toNat
  let wt := k.shape x.wt.toNat
  let xt := k.shape x.xt.toNat
  let dx := k.shape x.dx.toNat
  let fam (f : BitVec 4) : Bool := trapM f.toNat == trapM dy.fmt.toNat
  firstOf [
    mtOperand s c e 2 x.dy.toNat,
    tileIf s c e (trapM dy.fmt.toNat).isNone 5 2 x.dy.toNat,
    mtOperand s c e 1 x.wt.toNat,
    tileIf s c e (wt.rows != w.nt || decide (128 < wt.cols)) 4 1 x.wt.toNat,
    tileIf s c e (!fam wt.fmt) 5 1 x.wt.toNat,
    mtOperand s c e 3 x.xt.toNat,
    tileIf s c e (xt.rows != w.kk || xt.cols != w.mm) 4 3 x.xt.toNat,
    tileIf s c e (!fam xt.fmt) 5 3 x.xt.toNat,
    tileIf s c e (!dx.cfg) 1 0 x.dx.toNat,
    tileIf s c e (decide (x.dx.toNat < 8 ∨ 11 < x.dx.toNat)) 2 0 x.dx.toNat,
    tileIf s c e (dx.rows != w.mm || dx.cols != w.kk) 4 0 x.dx.toNat,
    tileIf s c e (dx.fmt != 4) 5 0 x.dx.toNat,
    ((sliceCols w.n).zipIdx).findSome? fun p =>
      let t := x.dvt.toNat + p.2
      sliceFault s c e p.2 t ((k.shape t).rows != w.kk || (k.shape t).cols != p.1)]
/-- The illegal field combinations of R261. -/
def trapIllegal (x : TrapOp) : Bool := x.load == 3 || (!x.upd && x.rs1 != 0)

/-- The plan of a TPASS whose operands are right (R254 to R257). -/
def trapPlan (s : State) (c : Nat) (x : TrapOp) : PassPlan :=
  let k := s.core c
  let w := trapWin k x
  let win (r : List FV) : List FV := (r.drop w.n0).take w.n
  let mk := k.arr.masks
  let streamed := (List.range w.kk).filter fun r => mk.rowOn x.mask r w.n0 w.n
  let slices := ((sliceCols w.n).zipIdx).map fun p => (⟨x.dvt.toNat + p.2, w.kk, p.1, w.n0 + 64 * p.2⟩ : Slice)
  ⟨.trapeze w.m, max w.mm streamed.length, 0, [x.dy.toNat, x.xt.toNat], [x.dx.toNat], none, 0,
   .trap (grpOf (k.shape x.dy.toNat).fmt.toNat) ((k.tileVals x.dy.toNat).map win)
     (((k.tileVals x.wt.toNat).drop w.n0).take w.n) (k.tileVals x.xt.toNat) w.n0 x.mask mk x.gacc slices
     (if x.upd then some (s.updDesc c (k.rx x.rs1)) else none)⟩

/-- Issue of an instruction that reads a descriptor at `base`. -/
def issueD (c : Nat) (e : Enc) (base : Core → Word) (check : State → Option Trap) (eff : State → State) (s0 : State) : Out :=
  if isHub c && decide (c < 160) then .refused .unitAbsent else
    issueBy c e false check (fun s t => descMark c (base (s.core c)) s t) (fun s => (eff s).upd c fun k => k.retire e.wide) s0

/-- TPASS (R252 to R277). -/
def execTpass (c : Nat) (x : TrapOp) (s : State) : Out :=
  let e := encTrap x
  issueD c e (fun k => k.rx x.rs1)
    (fun s =>
      let k := s.core c
      let w := trapWin k x
      firstOf [
        illegalCc e k (trapIllegal x) x.cc,
        trapFault s c e x,
        (if w.n < 1 ∨ (x.nh ∧ w.m = 2) then some (arrayCfg e 5 w.nt) else none),
        queueFull k e,
        (if x.upd then descFault s c e (k.rx x.rs1) w.kk (w.n0 + w.n) x.err else none),
        k.ccFull x.cc])
    (fun s =>
      let s1 := enterPass c x.cc.toNat x.wt.toNat x.load.toNat x.nh false x.accum (trapPlan s c x) s
      if x.upd then descFixed c ((s.core c).rx x.rs1) x.err s1 else s1) s

/-- Events of the array and the update path one after another, up to the end of an emission or of an item. -/
def ringToEvent (c : Nat) (isEnd : AEvent → Bool) : Nat → State → State × Option (Nat × AEvent)
  | 0, s => (s, none)
  | fuel + 1, s =>
    match (s.core c).arr.nextEvent with
    | none => (s, none)
    | some (t, ev) =>
      if isEnd ev then
        let cause := s.causeNow c
        (stepsPass c (fun n k => k.idleStall n cause) (t - (s.core c).tm.step) s, some (t, ev))
      else ringToEvent c isEnd fuel (ringTo c t s)
def AEvent.isEmit : AEvent → Bool
  | .emit _ => true
  | _ => false
def AEvent.isUpdate : AEvent → Bool
  | .update _ => true
  | _ => false

/-- SLICE_EMISSION (R258, R259, R274): the next emission ends, with a parity mismatch where `parity` says so. -/
def execSliceEmission (c : Nat) (parity : Bool) (s : State) : Out :=
  onArray c s fun s =>
    match ringToEvent c AEvent.isEmit 32 (arrive c s) with
    | (s1, some (t, .emit id)) =>
      match (s1.core c).arr.upd.find? fun u => u.id == id with
      | some u =>
        let s2 := emitItem c t u parity (s1.upd c fun k => k.countStream t)
        endWait c (arrive c s2)
      | none => s
    | _ => s

/-- UPDT (R272, R275): the update path alone takes it. -/
def execUpdt (c : Nat) (vt : BitVec 4) (ns nh mask : Bool) (d : DescReg) (cc : BitVec 4) (s : State) : Out :=
  let e := encUpdt vt ns nh mask d.reg cc
  let count := if ns then 2 else 1
  let base := if nh then 64 else 0
  let kk (k : Core) := (k.shape vt.toNat).rows
  let cend (k : Core) := base + ((List.range count).map fun j => (k.shape (vt.toNat + j)).cols).sum
  issueD c e (fun k => k.rx d.reg)
    (fun s =>
      let k := s.core c
      firstOf [
        illegalCc e k false cc,
        ((List.range count).findSome? fun j =>
          sliceFault s c e j (vt.toNat + j)
            ((k.shape (vt.toNat + j)).rows != kk k || decide (64 < (k.shape (vt.toNat + j)).cols))),
        (if (List.range count).any (fun j => decide (128 < base + 64 * j + (k.shape (vt.toNat + j)).cols)) then
          some (arrayCfg e 5 128) else none),
        descFault s c e (k.rx d.reg) (kk k) (cend k) d.err,
        k.ccFull cc])
    (fun s =>
      let k := s.core c
      let s := descFixed c (k.rx d.reg) d.err s
      let d := s.updDesc c (k.rx d.reg)
      let slices := (List.range count).map fun j =>
        (⟨vt.toNat + j, kk k, (k.shape (vt.toNat + j)).cols, base + 64 * j⟩ : Slice)
      let mk := k.arr.masks
      if s.fenced c || k.pw.disUpd then
        failItem c s.nextId k.flow.pc cc.toNat 0x23 0 ((s.takeId).upd c fun k => k.bump cc.toNat)
      else
        let (skip, fl) := if d.skipnf then skipCheck k d slices mask mk else (false, 0)
        let u := updSteps slices mask mk
        let late := s.pairDelay c u
        let fin := max (k.tm.step + 1) k.arr.updFree + (if d.skipnf && !skip then 2 * u else u) + late
        let item : UpdItem := ⟨s.nextId, k.flow.pc, cc.toNat, slices, none, [], false, mask, mk,
          if skip then none else some d, some fin, true, [], fin - u - late, 0, none⟩
        (s.takeId).draw.upd c fun k =>
          let k := (k.bump cc.toNat).orFF fl
          { k with arr := { k.arr with upd := k.arr.upd ++ [item], updFree := fin } }) s

/-- Events of the array and the update path one after another until item `id` has left the path. -/
def ringToItemEnd (c id : Nat) : Nat → State → State
  | 0, s => s
  | fuel + 1, s =>
    let a := (s.core c).arr
    if a.upd.any (·.id == id) then
      match a.nextEvent with
      | some (t, _) => ringToItemEnd c id fuel (ringTo c t s)
      | none => s
    else s
/-- UPDATE_ITEM_END (R269, R274): the next item of the update path ends; `ue` is an uncorrectable element met at
(slice, row), with its address or vt tile number, where that row is not done yet. -/
def execUpdateItemEnd (c : Nat) (ue : Option (Nat × Nat × Nat)) (s : State) : Out :=
  onArray c s fun s =>
    match ringToEvent c AEvent.isUpdate 32 (arrive c s) with
    | (s1, some (t, .update id)) =>
      let mark (k : Core) : Core :=
        { k with arr := { k.arr with upd := k.arr.upd.map fun u => if u.id = id then { u with bad := ue } else u } }
      endWait c (ringToItemEnd c id 1024 (ringTo c t (s1.upd c mark)))
    | _ => s

end Sys2Proof.Machine
end

