-- ==== Sys2Proof/Machine/Streams.lean ====
section
/-! DEFINITION. Juggler: stream slots, pieces, multicast, cancellation and ends (10). -/

namespace Sys2Proof.Machine

def State.updSlot (s : State) (c i : Nat) (f : Slot → Slot) : State :=
  s.upd c fun k => { k with slots := vset k.slots i (f (k.slot i)) }
/-- s14 and s15 belong to S and M (R278). -/
def Core.slotDenied (k : Core) (slot : BitVec 4) : Bool := k.level == .t && decide (14 ≤ slot.toNat)
/-- ILLEGAL_OP of the slot an instruction names: s14 and s15 at T (R278), those held back for scoring (R382), and s0 to s7 while
TRESV.HIDE hides them, which R416 leaves to the displaced task (R9; log entry 20, DESIGN CHOICE). -/
def illegalSlot (e : Enc) (k : Core) (slot : BitVec 4) : Option Trap :=
  if k.slotDenied slot then some (illegal e 0)
  else if k.level == .t && k.idn.resv && decide (8 ≤ slot.toNat ∧ slot.toNat ≤ 13) then some (illegal e 4)
  else if k.ccHidden slot.toNat then some (illegal e 4)
  else none
def streamCfg (e : Enc) (reason : Nat) (slot : BitVec 4) (d1 : Nat) : Trap :=
  { cause := 0x11, reason := BitVec.ofNat 8 reason, index := slot.setWidth 16, edata0 := e.data, edata1 := BitVec.ofNat 64 d1 }
/-- Discarded bytes (R304, R510). -/
def State.discard (s : State) (c i n : Nat) : State :=
  (s.updSlot c i fun sl => { sl with prog := { sl.prog with disc := sl.prog.disc + BitVec.ofNat 48 n } }).upd c
    fun k => k.count 20 n
/-- Physical address of a byte of a slot's window: that of the task that opened it, pre-empted or not (R413). -/
def Slot.pa (sl : Slot) (c : Nat) (a : Word) : Nat := sliceBase c + sl.idn.windowOfs a.toNat

/-! ### Descriptors (R281, R282) -/

/-- NRCV of a descriptor's bytes. -/
def nrcvOf (bs : List Byte) : Nat := field bs 3 1
def rcvEntry (bs : List Byte) (j : Nat) : Nat := field bs (64 + 2 * j) 2
/-- The first receiver entry that is not valid (R282). -/
def rcvBad (s : State) (c : Nat) (bs : List Byte) : Option Nat :=
  (List.range 8).findSome? fun j =>
    let e := rcvEntry bs j
    let bad := if j < nrcvOf bs then
        (s.memberCore (s.core c).idn.group.toNat (e % 4096)).isNone || (List.range j).any fun i => rcvEntry bs i == e
      else e != 0
    if bad then some (64 + 2 * j) else none
/-- Offset of the first field that fails, in the order of R281; a bad SEGBYTES counts against SEGROWS (log entry 18). -/
def streamBad (s : State) (c : Nat) (bs : List Byte) : Option Nat :=
  let dir := field bs 0 1
  let mode := field bs 1 1
  let rowb := field bs 24 4
  let segrows := field bs 28 4
  let nrows := field bs 32 8
  if 1 < dir then some 0
  else if 1 < mode then some 1
  else if field bs 2 1 < 2 ∨ 16 < field bs 2 1 then some 2
  else if 8 < nrcvOf bs ∨ (dir = 1 ∧ nrcvOf bs ≠ 0) then some 3
  else if bits (field bs 4 1) 6 5 ≠ 0 then some 4
  else if field bs 5 3 ≠ 0 then some 5
  else if rowb < 8 ∨ 65536 < rowb ∨ rowb % 8 ≠ 0 then some 24
  else if segrows = 0 ∨ rowb * segrows % 64 ≠ 0 ∨ 0x100000 < rowb * segrows then some 28
  else if nrows = 0 ∨ 2 ^ 40 < nrows then some 32
  else if (field bs 48 8 = 0) != (mode = 0) then some 48
  else if field bs 60 4 ≠ 0 then some 60
  else match rcvBad s c bs with
    | some o => some o
    | none => if field bs 80 48 ≠ 0 then some 80 else none
/-- The descriptor as captured. -/
def readStream (bs : List Byte) : SDesc :=
  let w (o : Nat) : Word := BitVec.ofNat 64 (field bs o 8)
  ⟨field bs 0 1 == 1, field bs 1 1 == 1, field bs 2 1, bitOf (field bs 4 1) 7, BitVec.ofNat 5 (field bs 4 1), w 8, w 16,
   field bs 24 4, field bs 28 4, field bs 32 8, w 40, w 48, field bs 56 4,
   (List.range (nrcvOf bs)).map fun j => (BitVec.ofNat 4 (rcvEntry bs j / 4096), BitVec.ofNat 12 (rcvEntry bs j))⟩
def SDesc.ringBytes (d : SDesc) : Nat := d.nseg * d.segBytes

/-- The checks of SOPEN, in the order of R284. -/
def sopenFault (s : State) (c : Nat) (e : Enc) (slot : BitVec 4) (base : Word) (cc : BitVec 4) (err : WordErr) : Option Trap :=
  let k := s.core c
  let pc := k.flow.pc
  if (illegalSlot e k slot).isSome || (illegalCc e k false cc).isSome then
    (if k.slotDenied slot || k.ccDenied cc then some (illegal e 0) else some (illegal e 4))
  else if (k.slot slot.toNat).st != SlotSt.free then some (streamCfg e 1 slot 0)
  else if base.toNat % 64 ≠ 0 then some (misaligned base pc 0)
  else if !k.inWindow base.toNat 128 then some (busError base pc 0 0)
  else if s.windowBad c base.toNat 128 then some (busError base pc poisoned 0)
  else if err == .bad then some (busError base pc 0x54 0)
  else
    let bs := s.windowBytes c base.toNat 128
    match streamBad s c bs with
    | some o => some (streamCfg e 3 slot o)
    | none =>
      let d := readStream bs
      if d.mem.toNat % 8 ≠ 0 then some (misaligned d.mem pc 3)
      else if d.pitch.toNat % 8 ≠ 0 then some (misaligned d.pitch pc 3)
      else if d.rbase.toNat % 64 ≠ 0 then some (misaligned d.rbase pc 1)
      else if d.idx.toNat % 4 ≠ 0 then some (misaligned d.idx pc 2)
      else if !k.inWindow d.rbase.toNat d.ringBytes then some (busError d.rbase pc 0 1)
      else if d.mode && !k.inWindow d.idx.toNat (4 * d.nrows) then some (busError d.idx pc 0 2)
      else if d.mode && decide (d.rbase.toNat < d.idx.toNat + 4 * d.nrows ∧ d.idx.toNat < d.rbase.toNat + d.ringBytes) then
        some (streamCfg e 4 slot 0)
      else k.ccFull cc

/-- A slot begins (R284, R298), or under a disable its counter falls FENCED at once (R309). -/
def openSlot (c : Nat) (slot : BitVec 4) (cc : BitVec 4) (st : SlotSt) (d : Option SDesc) (s : State) : State :=
  let k := s.core c
  if s.fenced c || k.pw.disJug then
    s.upd c fun k => (k.bump cc.toNat).lower cc.toNat (some ⟨k.flow.pc, 0, 0x23⟩)
  else
    let rcvs := match d with
      | some d => d.rcv.map fun q => (⟨q.1, q.2, false, true⟩ : Rcv)
      | none => []
    let gated := match d with | some d => d.gated | none => false
    ((s.takeId).updSlot c slot.toNat fun _ =>
      { Slot.reset with
        id := s.nextId, st := st, cc := cc.toNat, pc := k.flow.pc, desc := d, gated := gated, t0 := s.time, rcvs := rcvs
        priv := k.level, part := k.idn.part.toNat, idn := k.idn }).upd c fun k => k.bump cc.toNat

/-- SOPEN (R284). -/
def execSopen (c : Nat) (slot : BitVec 4) (d : DescReg) (cc : BitVec 4) (s : State) : Out :=
  let e := encStream 0x60 slot d.reg 0 false cc.toNat
  issueD c e (fun k => k.rx d.reg) (fun s => sopenFault s c e slot ((s.core c).rx d.reg) cc d.err)
    (fun s =>
      let s := descFixed c ((s.core c).rx d.reg) d.err s
      let d := readStream (s.windowBytes c ((s.core c).rx d.reg).toNat 128)
      openSlot c slot cc (if !d.rcv.isEmpty then .sender else if d.write then .write else .read) (some d) s) s

/-- SJOIN (R298). -/
def execSjoin (c : Nat) (slot : BitVec 4) (cc : BitVec 4) (s : State) : Out :=
  let e := encStream 0x61 slot 0 0 false cc.toNat
  issueE c e
    (fun s =>
      let k := s.core c
      firstOf [(if k.slotDenied slot || k.ccDenied cc then some (illegal e 0) else none), illegalSlot e k slot,
        illegalCc e k false cc,
        (if (k.slot slot.toNat).st != SlotSt.free then some (streamCfg e 1 slot 0) else none), k.ccFull cc])
    (openSlot c slot cc .joined none) s

/-- Whether a slot takes SACQ and SREL: no free slot and no multicast sender, draining or not (R285, R286, R304; log entry 18). -/
def Slot.ringed (sl : Slot) : Bool := sl.st != SlotSt.free && sl.rcvs.isEmpty

/-- SACQ (R285). -/
def execSacq (c : Nat) (slot : BitVec 4) (rd rs1 : Reg) (l : Bool) (s : State) : Out :=
  let e := encStream 0x62 slot rd rs1 l 0
  if isHub c && decide (c < 160) then .refused .unitAbsent else
    issueWait c e
      (fun s =>
        let k := s.core c
        let sl := k.slot slot.toNat
        firstOf [illegalSlot e k slot,
          (if !sl.ringed then some (streamCfg e 2 slot 0) else none),
          (match sl.desc with
           | some d => if sl.held = d.nseg then some (streamCfg e 5 slot 0) else none
           | none => none)])
      id (fun s => mkWait s c (.stream slot.toNat) rd rs1 l false e) s

/-- SREL (R286). -/
def execSrel (c : Nat) (slot : BitVec 4) (s : State) : Out :=
  let e := encStream 0x63 slot 0 0 false 0
  issueE c e
    (fun s =>
      let k := s.core c
      let sl := k.slot slot.toNat
      firstOf [illegalSlot e k slot,
        (if !sl.ringed then some (streamCfg e 2 slot 0) else none),
        (if sl.held = 0 then some (streamCfg e 5 slot 0) else none)])
    (fun s => s.updSlot c slot.toNat fun sl => { sl with prog := { sl.prog with rel := sl.prog.rel + 1 } }) s

/-! ### Ends that come early (R302 to R306, R308, R309) -/

/-- Bytes that have arrived at a slot. -/
def Slot.arrived (sl : Slot) : Nat :=
  match sl.desc with
  | some d => sl.prog.doneRows * d.rowb + (sl.prog.got.map (·.2)).sum
  | none => 0
/-- Bytes of the segments handed out. -/
def Slot.handed (sl : Slot) : Nat :=
  match sl.desc with
  | some d => min (sl.prog.acq * d.segrows) d.nrows * d.rowb
  | none => 0

/-- A receiver is dropped: what was wholly delivered stays acquirable, the pieces on their way to it are discarded and counted,
and its counter waits until they have drained (R302, R303). `err` is what its counter will report. -/
def dropReceiver (t i : Nat) (inflight : List Piece) (err : Option FailRec) (s : State) : State :=
  let sl := s.slot t i
  if sl.st == SlotSt.joined then
    s.updSlot t i fun sl => { sl with st := .draining, err := err, ended := true, cutSeg := some 0 }
  else if sl.st == SlotSt.receive then
    (s.discard t i (inflight.map (·.len)).sum).updSlot t i fun sl =>
      { sl with st := .draining, cancelled := true, err := err, ended := true, cutSeg := some sl.full
                drain := inflight.map (·.id) }
  else s
/-- The record a dropped receiver reports: its own SJOIN, the peer's member number (R308). -/
def dropRec (s : State) (t i : Nat) (peer : Word) (reason : Byte) : FailRec := ⟨(s.slot t i).pc, peer, reason⟩
/-- The sender `(c, i)` drops the receivers that `which` names, with a reason, or without error. -/
def dropMembers (c i : Nat) (which : Rcv → Bool) (reason : Option Byte) (s : State) : State :=
  let sl := s.slot c i
  let inflight := sl.prog.pieces
  let s1 := (sl.rcvs.filter fun r => r.live && which r).foldl (fun s r =>
    match s.memberCore sl.idn.group.toNat r.member.toNat with
    | some t =>
      let j := r.slot.toNat
      let mine := (s.slot t j).sender == some (c, i) || (!r.bound && (s.slot t j).st == SlotSt.joined)
      if mine then dropReceiver t j inflight (reason.map (dropRec s t j (sl.idn.member.setWidth 64))) s else s
    | none => s) s
  s1.updSlot c i fun sl => { sl with rcvs := sl.rcvs.map fun r => if r.live && which r then { r with live := false } else r }

/-- A stream ends in failure (R308): no further piece is requested; segments wholly moved stay acquirable on a read
stream, and a write stream hands out no more; the receivers of a sender lose their peer (R303). -/
def failSlot (c i : Nat) (addr : Word) (reason : Byte) (s : State) : State :=
  let sl := s.slot c i
  let s := if sl.rcvs.isEmpty then s else dropMembers c i (fun _ => true) (some 0x32) s
  let isWr := match sl.desc with | some d => d.write | none => false
  s.updSlot c i fun sl =>
    let r : FailRec := ⟨sl.pc, addr, reason⟩
    if isWr then
      { sl with st := .draining, err := some r, ended := true, cutSeg := some sl.prog.rel,
                prog := { sl.prog with acq := sl.prog.rel } }
    else { sl with st := .draining, err := some r, ended := true, cutSeg := some (max sl.full sl.prog.acq) }

/-- The ring bytes of the positions that a cancelled read stream does not hold are undefined: they become free values (R304; log
entry 18). -/
def freeRing (c i : Nat) (s : State) : State :=
  let sl := s.slot c i
  match sl.desc with
  | none => s
  | some d =>
    let n := d.segBytes
    let put (s : State) (j : Nat) : State :=
      ((sl.idn.runs c (d.segAddr (sl.prog.acq + j)).toNat n).foldl (fun (r : State × Nat) q =>
        (r.1.storeLocal q.1 ((List.range q.2).map fun b => Config.freeByte (s.fresh + r.2 + b)) c, r.2 + q.2)) (s, j * n)).1
    { (List.range (d.nseg - sl.held)).foldl put s with fresh := s.fresh + d.nseg * n }
/-- A cancel (R304 to R306), or the same drain under a fence with its record (R309). -/
def cancelSlot (c i : Nat) (err : Option FailRec) (s : State) : State :=
  let sl := s.slot c i
  match sl.st with
  | .free => s
  | .draining =>
    match sl.desc with
    | some d =>
      -- a read stream or receiver that has ended early: its full segments not yet acquired go (R304)
      -- a receiver that was dropped keeps what was wholly delivered to it (R302, R303)
      if d.write || !sl.rcvs.isEmpty || sl.err.isNone || sl.cancelled then s else
        (s.discard c i ((min (min sl.limit sl.full * d.segrows) d.nrows - min (sl.prog.acq * d.segrows) d.nrows) * d.rowb)).updSlot
          c i fun sl => { sl with cancelled := true, cutSeg := some (min sl.limit sl.prog.acq) }
    | none => s
  | .joined => s.updSlot c i fun sl => { sl with st := .draining, err := err, ended := true, cutSeg := some 0 }
  | .write =>
    s.updSlot c i fun sl =>
      { sl with st := .draining, cancelled := true, err := err, ended := true, cutSeg := some sl.prog.rel,
                prog := { sl.prog with acq := sl.prog.rel } }
  | .sender =>
    (dropMembers c i (fun _ => true) (some (if err.isSome then 0x32 else 0x31)) s).updSlot c i fun sl =>
      { sl with st := .draining, cancelled := true, err := err.or sl.err, ended := true, cutSeg := some 0 }
  | .receive =>
    match sl.sender with
    | some (sc, ss) =>
      (dropReceiver c i (s.slot sc ss).prog.pieces err s).updSlot sc ss fun q =>
        { q with rcvs := q.rcvs.map fun r =>
            if r.bound ∧ r.slot.toNat = i ∧ s.memberCore q.idn.group.toNat r.member.toNat = some c then
              { r with live := false } else r }
    | none => dropReceiver c i [] err s
  | .read =>
    (freeRing c i (s.discard c i (sl.arrived - sl.handed))).updSlot c i fun sl =>
      { sl with st := .draining, cancelled := true, err := err, ended := true, cutSeg := some sl.prog.acq }

/-- Frees a slot: its counter falls, its links to peers go (R307, R316). -/
def freeSlot (c i : Nat) (s : State) : State :=
  let sl := s.slot c i
  let isWr := match sl.desc with | some d => d.write | none => false
  let s := lowerCc c sl.idn.group.toNat sl.cc sl.err (s.updSlot c i fun _ => .reset)
  let s := match sl.err, isWr with
    | some r, true =>
      -- of the segments that a release covers, one was not wholly written (R316)
      failReleases (s.works.length + 1) c (fun w => w.coverSegs.any fun q => q.1 == sl.id && decide (sl.full < q.2)) r s
    | _, _ => s
  let s := match sl.sender with
    | some (sc, ss) =>
      s.updSlot sc ss fun q => { q with rcvs := q.rcvs.map fun r =>
        if r.bound ∧ r.slot.toNat = i ∧ s.memberCore q.idn.group.toNat r.member.toNat = some c then
          { r with live := false } else r }
    | none => s
  sl.rcvs.foldl (fun s r =>
    match s.memberCore sl.idn.group.toNat r.member.toNat with
    | some t => if (s.slot t r.slot.toNat).sender = some (c, i) then
        s.updSlot t r.slot.toNat fun q => { q with sender := none } else s
    | none => s) s

/-- Cores that a slot's stream touches: its own, its receivers', its sender's. -/
def slotCores (s : State) (c i : Nat) : List Nat :=
  let sl := s.slot c i
  c :: ((sl.rcvs.filterMap fun r => s.memberCore sl.idn.group.toNat r.member.toNat) ++
    (match sl.sender with | some (sc, _) => [sc] | none => []))

/-- STREAM.CANCEL (R304 to R306): a joined slot is freed at once; the waits of receivers that lose their sender end. -/
def execStreamCancel (c : Nat) (slot : BitVec 4) (s : State) : Out :=
  let e := encStream 0x64 slot 0 0 false 0
  issueE c e (fun s => illegalSlot e (s.core c) slot)
    (fun s =>
      let i := slot.toNat
      settleWaits ((slotCores s c i).filter (· != c)) (fun s =>
        let s' := cancelSlot c i none s
        if (s.slot c i).st == SlotSt.joined then freeSlot c i s' else s') s) s

/-- MCAST.DROP (R302). -/
def execMcastDrop (c : Nat) (slot : BitVec 4) (rs : Reg) (s : State) : Out :=
  let e := encStream 0x65 slot rs 0 false 0
  issueE c e
    (fun s =>
      let k := s.core c
      let sl := k.slot slot.toNat
      firstOf [illegalSlot e k slot, if sl.st != SlotSt.sender then some (streamCfg e 2 slot 0) else none])
    (fun s =>
      let m := (s.core c).rx rs
      settleWaits ((slotCores s c slot.toNat).filter (· != c))
        (dropMembers c slot.toNat (fun r => r.member.setWidth 64 == m) (some 0x31)) s) s

/-! ### Pieces (R280, R286, R288 to R294) -/

/-- Address of row `i` of a stream, or the address of an index entry that cannot be read (R280). -/
def State.rowAddr (s : State) (c : Nat) (sl : Slot) (d : SDesc) (i : Nat) : Except Word Word :=
  if d.mode then
    let a := Word.plus d.idx (4 * i)
    let pa := sl.pa c a
    if s.isPoisoned pa 4 then .error a else .ok (d.mem + BitVec.ofNat 64 (s.mem.nat pa 4) * d.pitch)
  else .ok (d.mem + BitVec.ofNat 64 i * d.pitch)
/-- Ring address of byte `off` of row `i` (R279). -/
def SDesc.ringAddr (d : SDesc) (i off : Nat) : Word :=
  Word.plus d.rbase (i / d.segrows % d.nseg * d.segBytes + i % d.segrows * d.rowb + off)

/-- Whether the next row of a slot may be requested: its gate is open and ring space is free, or its segment has been
released, or every live receiver is bound and has room (R286, R291, R296, R300). -/
def State.mayRequest (s : State) (sl : Slot) : Bool :=
  match sl.desc with
  | none => false
  | some d =>
    let k := sl.prog.reqRow / d.segrows
    !sl.gated && decide (sl.prog.reqRow < d.nrows) &&
    match sl.st with
    | .read => decide (k < sl.prog.rel + d.nseg)
    | .write => decide (k < sl.prog.rel)
    | .draining => d.write && sl.cancelled && sl.err.isNone && decide (k < sl.prog.rel)
    | .sender =>
      let live := sl.rcvs.filter (·.live)
      !live.isEmpty && live.all fun r => r.bound && decide (k < s.rcvPos sl.idn.group.toNat r + d.nseg)
    | _ => false

/-- Whether a piece lies in the core's own slice (R289). -/
def State.ownPiece (s : State) (c : Nat) (sl : Slot) (wr : Bool) (a : Word) : Bool :=
  match s.translate sl.part sl.priv (!wr) wr a.toNat with
  | .ok pa => decide (sliceBase c ≤ pa ∧ pa < sliceBase c + Config.sliceBytes)
  | .error _ => false

/-- The piece a slot would request next; a row's index entry is read once, with its first piece (R280). A piece in the core's own
slice draws no tag (R289), a multicast sender's too, of which R299 says that it holds one (DESIGN CHOICE, log entry 18). -/
def State.nextPiece (s : State) (c : Nat) (sl : Slot) (d : SDesc) : Except Word Piece :=
  match (match sl.prog.reqAddr with | some r => (Except.ok r : Except Word Word) | none => s.rowAddr c sl d sl.prog.reqRow) with
  | .error a => .error a
  | .ok r =>
    let a := Word.plus r sl.prog.reqOff
    let len := min (d.rowb - sl.prog.reqOff) (256 - a.toNat % 256)
    let data := if d.write then (sl.idn.runs c (d.ringAddr sl.prog.reqRow sl.prog.reqOff).toNat len).flatMap fun q => s.mem.bytes q.1 q.2 else []
    .ok ⟨s.nextId, 0, sl.prog.reqRow * 512 + (r.toNat % 256 + sl.prog.reqOff) / 256, sl.prog.reqRow, sl.prog.reqOff, len, a,
      !s.ownPiece c sl d.write a, data⟩

/-- A piece is requested; write-back data is read from the ring over the bonding field (R290). -/
def pushPiece (c i : Nat) (d : SDesc) (p : Piece) (s : State) : State :=
  let due := s.due c i
  let s := if d.write then contend c s else s
  ((s.takeId).updSlot c i fun sl =>
    let whole := sl.prog.reqOff + p.len = d.rowb
    { sl with prog := { sl.prog with
        pieces := sl.prog.pieces ++ [{ p with due := due }]
        reqRow := if whole then sl.prog.reqRow + 1 else sl.prog.reqRow
        reqOff := if whole then 0 else sl.prog.reqOff + p.len
        reqAddr := if whole then none else some (p.addr - BitVec.ofNat 64 sl.prog.reqOff) } }).upd c
    fun k => k.count 21 (b2n p.tag)
/-- Whether slot `i` could request piece `p` but for a tag. -/
def State.wantsTag (s : State) (c i : Nat) : Option Piece :=
  let sl := s.slot c i
  match s.mayRequest sl, sl.desc with
  | true, some d => (match s.nextPiece c sl d with | .ok p => if p.tag then some p else none | .error _ => none)
  | _, _ => none
/-- Work that waits for tags takes them, the earliest deadline first, but after a stream's piece with an earlier one that waits
for a tag too and stands on no line of work that waits (R77, R290, R294). -/
def grantTags (c : Nat) : Nat → State → State
  | 0, s => s
  | fuel + 1, s =>
    match argMin (·.time) (s.untagged c) with
    | none => s
    | some w =>
      if Config.tags < s.tags c false + w.need ∨
          (List.range 16).any (fun i => match s.wantsTag c i with
            | some p => decide (s.due c i < 12 * w.time) &&
                !(s.untagged c).any fun v => v.ranges.any (sameLine (p.addr.toNat, p.len))
            | none => false) then s
      else grantTags c fuel (contend c ((s.setWork { w with stage := .going }).upd c fun k => k.count 21 w.tags))
/-- Tags of a core have come free. -/
def settleTags (c : Nat) (s : State) : State := grantTags c (s.untagged c).length s
/-- One request: among the slots that may request and have a tag where they need one, the earliest deadline, then the
lower slot, then the lower row (R290, R294). Work that waits for tags goes before a piece whose deadline is no earlier, and before
any piece on a line of its own (R77). A slot whose index entry cannot be read fails (R308). -/
def requestOne (c : Nat) (s : State) : State :=
  let cands := (List.range 16).filter fun i =>
    let sl := s.slot c i
    s.mayRequest sl &&
    match sl.desc with
    | some d => (match s.nextPiece c sl d with
      | .ok p => !p.tag || !s.keptBack c (s.due c i) (p.addr.toNat, p.len)
      | .error _ => true)
    | none => false
  match argMin (s.due c) cands with
  | none => s
  | some i =>
    let sl := s.slot c i
    match sl.desc with
    | none => s
    | some d =>
      match s.nextPiece c sl d with
      | .error a => failSlot c i a 0x30 s
      | .ok p => pushPiece c i d p s

/-- A command about the streams of a core. -/
def onJuggler (c : Nat) (s : State) (f : State → State) : Out :=
  if 160 ≤ c then .refused .noSuchUnit else if isHub c then .refused .unitAbsent else done s (f s)

/-- A step of Juggler: the waits of every core that it moves (R295). -/
def juggle (f : State → State) (s : State) : State := settleWaits (List.range 144) f s
/-- STREAM_REQUEST (R290): up to two requests in one step. -/
def execStreamRequest (c : Nat) (s : State) : Out :=
  onJuggler c s fun s => if (s.core c).beats then juggle (fun s => settleTags c (requestOne c (requestOne c s))) s else s

/-- Rows of segments that have become whole leave the set (R279). -/
def SlotProg.compress (d : SDesc) : Nat → SlotProg → SlotProg
  | 0, p => p
  | fuel + 1, p =>
    let base := p.doneRows - p.doneSet.length
    if d.nrows ≤ base then p else
      let fin := min d.nrows ((base / d.segrows + 1) * d.segrows)
      if (List.range (fin - base)).all fun i => p.doneSet.contains (base + i) then
        SlotProg.compress d fuel { p with doneSet := p.doneSet.filter fun r => decide (fin ≤ r) }
      else p
/-- `n` bytes of row `r` have moved. -/
def SlotProg.moved (d : SDesc) (r n : Nat) (p : SlotProg) : SlotProg :=
  let have_ := (assoc p.got r).getD 0 + n
  if have_ < d.rowb then { p with got := assocSet p.got r have_ }
  else SlotProg.compress d 20 { p with got := p.got.filter (fun q => q.1 != r), doneRows := p.doneRows + 1, doneSet := r :: p.doneSet }
def Slot.dropPiece (sl : Slot) (no : Nat) : Slot :=
  { sl with prog := { sl.prog with pieces := sl.prog.pieces.filter fun p => p.no != no } }

/-- A failing piece: the stream fails with MEM_FAIL (R308); what was read there has been logged (R353). -/
def pieceFails (c i : Nat) (p : Piece) (s : State) : State := failSlot c i p.addr 0x30 (s.updSlot c i fun sl => sl.dropPiece p.no)
/-- The sample of a far access (R511) and its bytes (R510). -/
def pieceCounts (c i : Nat) (p : Piece) (wr : Bool) (s : State) : State :=
  if !p.tag then s else
    let sl := s.slot c i
    let s := match s.translate sl.part sl.priv (!wr) wr p.addr.toNat with
      | .ok pa => s.sampleAccess sl.part pa
      | .error _ => s
    s.upd c fun k => k.count (if wr then 19 else 18) p.len

/-- Read data arrives at a ring: written, and counted toward its row. -/
def ringArrive (t i : Nat) (p : Piece) (bs : List Byte) (s : State) : State :=
  match (s.slot t i).desc with
  | none => s
  | some d =>
    let a := (d.ringAddr p.row p.off).toNat
    let s := contend t s
    ((pagesOf (a - (s.slot t i).idn.lwb.toNat) bs.length).foldl (fun (r : State × List Byte) q =>
      (r.1.storeLocal (sliceBase t + pageMap (s.slot t i).idn.lwp q.1) (r.2.take q.2), r.2.drop q.2)) (s, bs)).1.updSlot t i fun sl =>
      { sl with prog := sl.prog.moved d p.row p.len }

/-- A written piece is acknowledged, `errs` being what it meets at its home. -/
def ackPiece (c i : Nat) (d : SDesc) (p : Piece) (errs : HomeErrs) (s : State) : State :=
  let sl := s.slot c i
  let (s', e) := putVa c sl.pc errs [] sl.part sl.priv p.addr.toNat p.data s
  match e with
  | some _ => pieceFails c i p s'
  | none => pieceCounts c i p true (s'.updSlot c i fun sl =>
      let sl := sl.dropPiece p.no
      { sl with prog := sl.prog.moved d p.row p.len })

/-- An earlier row of the stream still writes the same line (R288). -/
def Slot.blocked (sl : Slot) (p : Piece) : Bool :=
  sl.prog.pieces.any fun q => (decide (q.row < p.row) || (q.row == p.row && decide (q.off < p.off))) &&
    sameLine (q.addr.toNat, q.len) (p.addr.toNat, p.len)

/-- Earlier work of the core, or an earlier piece of another slot, is still on its way to the same line (R77, R294), or the piece
writes a chunk under hold (R427). -/
def State.lineBusy (s : State) (c i : Nat) (p : Piece) : Bool :=
  (!p.data.isEmpty && !(s.heldRange (s.slot c i).part (s.slot c i).priv p.addr.toNat p.len).isEmpty) || p.tag && ((s.works.any fun w => w.core == c && w.stage == Stage.going && w.isFar && decide (w.id < p.id) &&
      w.ranges.any (sameLine (p.addr.toNat, p.len))) ||
    ((s.core c).slots.toList.zipIdx.any fun q => q.2 != i && q.1.prog.pieces.any fun o => o.tag && decide (o.id < p.id) &&
      sameLine (o.addr.toNat, o.len) (p.addr.toNat, p.len)))

/-- Whether a request is granted at its home: of those for the same bank or slice that have got there, none has an earlier deadline and
stands behind nothing. Which have got there is open, since the way takes a variable time (R294, R444; log entry 35). -/
def State.granted (s : State) (id due : Nat) (us : List Nat) : Bool :=
  let here (pa : Nat) : Bool := match homeUnit pa with
    | some u => us.any fun x => homeUnit x == some u
    | none => false
  !s.works.any fun v => v.stage == Stage.going && v.id != id && decide (12 * v.time < due) && Config.arrivedFirst v.id id &&
    (s.workPas v).any (fun r => here r.1) && !s.behind v && !s.noPlace v

/-- The response of one piece, by the state of its slot, `errs` being what it meets at its home (R288, R289, R299, R304, R305). -/
def respond (c i : Nat) (d : SDesc) (p : Piece) (errs : HomeErrs) (s : State) : State :=
  let sl := s.slot c i
  if d.write then
    if sl.blocked p then s
    else if sl.st == SlotSt.draining && sl.err.isSome then
      -- a failed stream's writes in flight land or do not (log entry 18)
      let s' := s.draw
      if Config.freeBool s.fresh then
        let (s', e) := s'.writeVa sl.part sl.priv p.addr.toNat p.data
        (if e.isNone then pieceCounts c i p true s' else s').updSlot c i fun sl => sl.dropPiece p.no
      else s'.updSlot c i fun sl => sl.dropPiece p.no
    else ackPiece c i d p errs s
  else if sl.st == SlotSt.draining then
    let s := (getVa c sl.pc errs [] sl.part sl.priv false p.addr.toNat p.len s).1
    pieceCounts c i p false ((s.discard c i p.len).updSlot c i fun sl => sl.dropPiece p.no)
  else
    match getVa c sl.pc errs [] sl.part sl.priv false p.addr.toNat p.len s with
    | (s, .error _) => pieceFails c i p s
    | (s, .ok bs) =>
      let s := pieceCounts c i p false (s.updSlot c i fun sl => sl.dropPiece p.no)
      if sl.rcvs.isEmpty then ringArrive c i p bs s
      else
        let s := s.updSlot c i fun sl => { sl with prog := sl.prog.moved d p.row p.len }
        (sl.rcvs.filter fun r => r.live && r.bound).foldl (fun s r =>
          match s.memberCore sl.idn.group.toNat r.member.toNat with
          | some t => if (s.slot t r.slot.toNat).st == SlotSt.receive then ringArrive t r.slot.toNat p bs s else s
          | none => s) s

/-- A slot that drains moves what is left: the pieces in flight, and every row released before (R304, R305, R309); a chunk under hold
that a piece writes is read first (R427). -/
def drainSlot (c i : Nat) : Nat → State → State
  | 0, s => s
  | fuel + 1, s =>
    let sl := s.slot c i
    match sl.desc, sl.prog.pieces with
    | some d, p :: _ =>
      let held := if d.write then s.heldRange sl.part sl.priv p.addr.toNat p.len else []
      drainSlot c i fuel (respond c i d p .none (readHeld held s))
    | some d, [] =>
      if !s.mayRequest sl then s else
        match s.nextPiece c sl d with
        | .error a => failSlot c i a 0x30 s
        | .ok p => drainSlot c i fuel (pushPiece c i d p s)
    | none, _ => s
/-- A stream is fenced: drained as by a cancel, its counter falls FENCED and its slot is free (R309). -/
def fenceSlot (c i : Nat) (s : State) : State :=
  let sl := s.slot c i
  let fuel := match sl.desc with | some d => sl.prog.pieces.length + d.ringBytes | none => 0
  let rec_ : FailRec := ⟨sl.pc, 0, 0x23⟩
  let s1 := drainSlot c i fuel (cancelSlot c i (if sl.st == SlotSt.write then none else some rec_) s)
  freeSlot c i (s1.updSlot c i fun q => { q with err := some rec_ })

/-- A piece of a slot, by its number. -/
def Slot.piece (sl : Slot) (no : Nat) : Option (SDesc × Piece) :=
  match sl.desc, sl.prog.pieces.find? fun p => p.no == no with
  | some d, some p => some (d, p)
  | _, _ => none

/-- PIECE_RESPONSE (R289), with the errors that the piece meets (R446, R451). -/
def execPieceResponse (c : Nat) (slot : BitVec 4) (piece : PieceOp) (s : State) : Out :=
  onJuggler c s fun s =>
    match (s.slot c slot.toNat).piece piece.no with
    | some (d, p) =>
      let sl := s.slot c slot.toNat
      let pa := s.translate sl.part sl.priv (!d.write) d.write p.addr.toNat
      let turn := match pa with | .ok a => s.granted p.id p.due (unitsOf a p.len) | .error _ => true
      if s.lineBusy c slot.toNat p || !turn then s
      else juggle (fun s => settleTags c (respond c slot.toNat d p piece.errs s)) s
    | none => s

/-- PIECE_FAIL (R308): the piece fails where its address fails, else by an uncorrectable error of a unit that it reads. -/
def execPieceFail (c : Nat) (slot : BitVec 4) (piece : Nat) (s : State) : Out :=
  onJuggler c s fun s =>
    let i := slot.toNat
    let sl := s.slot c i
    match sl.piece piece with
    | some (d, p) =>
      juggle (fun s => settleTags c (match s.translate sl.part sl.priv (!d.write) d.write p.addr.toNat with
        | .error _ => respond c i d p .none s
        | .ok pa =>
          let u := ecUnit pa
          if u = 0 then pieceFails c i p (noteUE c pa 0x54 sl.pc s)
          else respond c i d p ⟨[(if d.write && pa % u == 0 then pa + p.len - 1 else pa, .bad)], .clean⟩ s)) s
    | none => s

/-! ### Ends (R307) -/

/-- Whether a slot's last condition is met. -/
def State.slotOver (s : State) (c i : Nat) : Bool :=
  let sl := s.slot c i
  match sl.st, sl.desc with
  | .free, _ => false
  | .joined, _ => false
  | .draining, none => true
  | .draining, some d =>
    sl.prog.pieces.isEmpty &&
    (if d.write then sl.err.isSome || decide (sl.prog.rel ≤ sl.full)
     else if !sl.rcvs.isEmpty then true
     else if (match sl.sender with
       | some (sc, ss) => (s.slot sc ss).prog.pieces.any fun p => sl.drain.contains p.id
       | none => false) then false
     else if sl.cancelled then decide (sl.limit ≤ sl.prog.rel)
     else sl.held == 0)
  | .read, some d => decide (sl.prog.doneRows = d.nrows ∧ sl.prog.rel = d.segs)
  | .receive, some d => decide (sl.prog.doneRows = d.nrows ∧ sl.prog.rel = d.segs)
  | .write, some d => decide (sl.prog.doneRows = d.nrows)
  | .sender, some d =>
    sl.prog.pieces.isEmpty && (sl.rcvs.filter (·.live)).all fun r => r.bound && decide (s.rcvPos sl.idn.group.toNat r = d.segs)
  | _, none => false

/-- STREAM_END (R307): a stream whose last condition is met: its counter falls and its slot is free. -/
def execStreamEnd (c : Nat) (slot : BitVec 4) (s : State) : Out :=
  onJuggler c s fun s => if s.slotOver c slot.toNat then juggle (freeSlot c slot.toNat) s else s

/-- MULTICAST_BIND (R298, R303): receiver entry `j` of a sender meets its slot. The ring stands at the place in the
receiver's window that RBASE has in the sender's (log entry 18). -/
def execMulticastBind (c : Nat) (slot : BitVec 4) (j : BitVec 3) (s : State) : Out :=
  onJuggler c s fun s =>
    let i := slot.toNat
    let sl := s.slot c i
    match sl.st, sl.desc, sl.rcvs[j.toNat]? with
    | .sender, some d, some r =>
      if !r.live || r.bound then s else
        match s.memberCore sl.idn.group.toNat r.member.toNat with
        | none => s
        | some t =>
          let ti := r.slot.toNat
          let tl := s.slot t ti
          if tl.st != SlotSt.joined then s else
            let rbase := d.rbase - sl.idn.lwb + tl.idn.lwb
            if !tl.idn.inWindow rbase.toNat d.ringBytes then
              juggle (fun s => (dropReceiver t ti [] (some ⟨tl.pc, r.member.setWidth 64, 0x33⟩) s).updSlot c i fun sl =>
                { sl with rcvs := sl.rcvs.set j.toNat { r with live := false } }) s
            else
              juggle (fun s => (s.updSlot t ti fun tl =>
                { tl with st := .receive, desc := some { d with rbase := rbase, rcv := [] }, sender := some (c, i)
                          t0 := s.time, ivals := [] }).updSlot c i fun sl =>
                { sl with rcvs := sl.rcvs.set j.toNat { r with bound := true } }) s
    | _, _, _ => s

end Sys2Proof.Machine
end

