-- ==== Sys2Proof/Machine/Sync.lean ====
section
/-! DEFINITION. Semaphores, signals, Tightrope barriers, wait timeouts and interrupts during a wait (11, R312 to R344). -/

namespace Sys2Proof.Machine

/-! ### Semaphores (R319 to R323) -/

/-- The checks of SEM.ADD, SEM.ADD.REL, SIG and SIG.REL (R312, R313, R344): an address where there is one. -/
def syncFault (k : Core) (e : Enc) (f : BitVec 5) (a : Option Word) : Option Trap :=
  let cc : BitVec 4 := f.setWidth 4
  firstOf [illegalCc e k (f.getLsbD 4) cc,
    (match a with
     | some a => if a.toNat % 8 ≠ 0 then some (misaligned a k.flow.pc 0) else none
     | none => none),
    k.ccFull cc]

/-- SEM.ADD and SEM.ADD.REL at issue (R320): counted work, a release where `rel`. -/
def semAddI (c op : Nat) (rel : Bool) (rd rs1 rs2 : Reg) (f : BitVec 5) (s : State) : Out :=
  let e := encSync op rd rs1 rs2 false false f.toNat
  issueP c e (fun s => syncFault (s.core c) e f (some ((s.core c).rx rs1)))
    (fun s =>
      let k := s.core c
      let a := k.rx rs1
      let w := { newWork s c (f.toNat % 16) (.semAdd k.bank rd (k.rx rs2)) a [(a, 8)] [] with tags := 0 }
      pushWork (if rel then asRelease s w else w) s) s

/-- SEM_ADD (R320). -/
def execSemAdd (c : Nat) (rd rs1 rs2 : Reg) (f : BitVec 5) (s : State) : Out := semAddI c 0 false rd rs1 rs2 f s
/-- SEM_ADD_REL (R320). -/
def execSemAddRel (c : Nat) (rd rs1 rs2 : Reg) (f : BitVec 5) (s : State) : Out := semAddI c 1 true rd rs1 rs2 f s

/-- SEM_TAKE (R321, R322): the core waits for the grant, or with TEST for the answer. -/
def execSemTake (c : Nat) (rd rs1 rs2 : Reg) (f : BitVec 5) (l test : Bool) (s : State) : Out :=
  let e := encSync 2 rd rs1 rs2 l test f.toNat
  issueI c e false
    (fun s =>
      let k := s.core c
      if (k.rx rs1).toNat % 8 ≠ 0 then some (misaligned (k.rx rs1) k.flow.pc 0) else none)
    (fun s =>
      let k := s.core c
      let a := k.rx rs1
      let w := { newWork s c 16 (.semTake k.bank rd (f.toNat + 1) test) a [(a, 8)] [] with tags := 0 }
      (pushWork w s).upd c fun k =>
        { k.beat with wait := some (mkWait s c (.sem w.id a) rd rs2 (l && !test) false e), flow := k.flow.waiting }) s

/-- The semaphore's doubleword at a physical address, or none where its unit is poisoned. -/
def State.semVal (s : State) (pa : Nat) : Option Nat :=
  if s.isPoisoned pa 8 || s.lostAt pa then none else some (s.mem.nat pa 8)
/-- A semaphore operation fails in flight (R320, R323, R353). -/
def failSem (w : Work) (s : State) : State := s.setWork (w.fail w.addr 0x30)
/-- A take's unit is read: where it cannot be, the take fails, and the log carries the reason (R323, R353, R446). -/
def meetTake (w : Work) (pa : Nat) (errs : HomeErrs) (next : State → State) (s : State) : State :=
  match meetUnits w.core w.pc 2 errs [] (unitsOf pa 8) s with
  | (s, some _) => failSem w s
  | (s, none) => next s
/-- A take subtracts `n` from the old value and is granted; a chunk under hold there is read first (R427). -/
def grantTake (w : Work) (pa old n : Nat) (s : State) : State :=
  let s := readHeld (s.heldChunks pa 8) s
  ((s.storeFar pa (leBytes 8 ((old + 2 ^ 64 - n) % 2 ^ 64)) w.core).1.setWork { w with stage := .applied (leBytes 8 old) }).upd w.core
    fun k => k.count 19 8

/-- Whether a semaphore value suffices for a take (R321: a signed compare). -/
def semEnough (v n : Nat) : Bool := decide ((n : Int) ≤ sextInt 64 v)

/-- Takes parked at a doubleword are granted in order while the value suffices (R321). -/
def drainTakes (pa : Nat) : Nat → State → State
  | 0, s => s
  | fuel + 1, s =>
    match s.takes.find? fun t => t.addr == pa with
    | none => s
    | some t =>
      match s.work t.id, s.semVal pa with
      | some w, some v =>
        if semEnough v t.n then
          drainTakes pa fuel (grantTake w pa v t.n { s with takes := s.takes.filter fun u => u.id != t.id })
        else s
      | some w, none => drainTakes pa fuel (meetTake w pa .none id { s with takes := s.takes.filter fun u => u.id != t.id })
      | none, _ => drainTakes pa fuel { s with takes := s.takes.filter fun u => u.id != t.id }

/-- A take that reaches its home (R321, R322): it joins the queue there, or with TEST is answered at once. -/
def takeArrives (w : Work) (pa n : Nat) (test : Bool) (s : State) : State :=
  let s := (sampleWork w s).upd w.core fun k => k.count 18 8
  match s.semVal pa with
  | none => failSem w s
  | some v =>
    if test then
      if semEnough v n then
        if s.takes.any fun t => t.addr == pa then s.setWork { w with stage := .applied (leBytes 8 (n - 1)) }
        else grantTake w pa v n s
      else s.setWork { w with stage := .applied (leBytes 8 v) }
    else drainTakes pa (s.takes.length + 1) { s with takes := s.takes ++ [⟨w.id, pa, n⟩] }

/-- The physical doubleword of a semaphore operation: both permissions are needed (R319). -/
def State.semPa (s : State) (w : Work) : Except Byte Nat := s.translate w.part w.priv true true w.addr.toNat

/-- What an operation at its home does there, with the errors it meets: it reaches it, or a parked take is looked at again (R319 to
R323). -/
def semAtHome (w : Work) (errs : HomeErrs) (s : State) : State :=
  let going := match w.stage with | .going => true | _ => false
  match w.kind, s.takes.find? fun t => t.id == w.id with
  | .semAdd _ _ _, _ =>
    if !going || s.behind w then s
    else
      let s1 := applyWork w errs s
      match s.semPa w with
      | .ok pa => drainTakes pa (s1.takes.length + 1) s1
      | .error _ => s1
  | .semTake _ _ _ _, some t => meetTake w t.addr errs (drainTakes t.addr (s.takes.length + 1)) s
  | .semTake _ _ n test, none =>
    if !going || s.behind w then s
    else match s.semPa w with
      | .ok pa => meetTake w pa errs (takeArrives w pa n test) s
      | .error _ => failSem w s
  | _, _ => s
/-- SEM_OP_AT_HOME (R319 to R323): operation `id` reaches its home, or a parked take is looked at again; takes that
the new value suffices for are granted, and their waits end. -/
def execSemOpAtHome (id : Nat) (errs : HomeErrs) (s : State) : Out :=
  match s.work id with
  | none => done s s
  | some w => done s (settleWaits (List.range 160) (semAtHome w errs) s)

/-! ### Signals (R324 to R328) -/

/-- SIG and SIG.REL at issue (R324, R325). -/
def sigI (c op : Nat) (rel : Bool) (rs1 rs2 : Reg) (f : BitVec 5) (s : State) : Out :=
  let e := encSync op 0 rs1 rs2 false false f.toNat
  issueP c e (fun s => syncFault (s.core c) e f none)
    (fun s =>
      let k := s.core c
      let m := k.rx rs1
      let w := newWork s c (f.toNat % 16) (.sig (m.setWidth 12) ((k.rx rs2).setWidth 48)) m [] []
      pushWork (if rel then asRelease s w else w) s) s

/-- SIG (R324). -/
def execSig (c : Nat) (rs1 rs2 : Reg) (f : BitVec 5) (s : State) : Out := sigI c 3 false rs1 rs2 f s
/-- SIG_REL (R325). -/
def execSigRel (c : Nat) (rs1 rs2 : Reg) (f : BitVec 5) (s : State) : Out := sigI c 4 true rs1 rs2 f s

/-- The core that serves group `g` as member `m`: none where the group has no such member, or has released it (R326). -/
def State.liveMember (s : State) (g m : Nat) : Option Nat :=
  (s.place.groups.find? fun q => q.num == g).bind fun q => if q.released.contains m then none else q.members[m]?

/-- A signal queued at a core (R324, R327, R416). -/
def Core.queueSig (k : Core) (e : SigEntry) : Core :=
  let k := { k with syn := { k.syn with sigq := k.syn.sigq ++ [e] } }.count 29 1
  if k.idn.hide && e.group != k.idn.group.toNat then k else k.raise 2

/-- SIGNAL_QUEUED (R324 to R327): signal `id` reaches its target. It keeps its place behind earlier signals of its
sender to that target, and waits where the queue is full. -/
def execSignalQueued (id : Nat) (s : State) : Out :=
  match s.work id with
  | none => done s s
  | some w =>
    match w.kind, w.stage with
    | .sig m payload, .going =>
      -- a core that has left service keeps its member number until its stand-in takes it (R355, R436)
      let earlier := s.works.any fun v => v.core == w.core && decide (v.id < w.id) && v.open &&
        (match v.kind with | .sig _ _ => v.addr == w.addr | _ => false)
      if earlier then done s s
      else match (if w.addr.toNat < 4096 then s.liveMember w.group m.toNat else none) with
        | none => done s (s.setWork (w.fail w.addr 0x40))
        | some t =>
          if !(s.core t).inSvc then done s (s.setWork (w.fail w.addr 0x32))
          else if 16 ≤ (s.core t).syn.sigq.length then done s s
          else
            done s (settleWaits [t] (fun s => (s.setWork { w with stage := .applied [] }).upd t fun k =>
              k.queueSig ⟨payload, w.sender, w.group⟩) s)
    | _, _ => done s s

/-- SIGW (R328). -/
def execSigw (c : Nat) (rd rs2 : Reg) (l test : Bool) (s : State) : Out :=
  let e := encSync 5 rd 0 rs2 l test 0
  if test then
    issueP c e noFault
      (fun s =>
        let k := s.core c
        let w := mkWait s c .signal rd rs2 false false e
        match waitEnd s c w with
        | .ret (some v) => (waitTake s c w).upd c fun k => k.landX 1 rd v
        | _ => s.setCore c (k.landX 1 rd (BitVec.allOnes 64))) s
  else issueWait c e noFault id (fun s => mkWait s c .signal rd rs2 l false e) s

/-! ### Releases and barriers (R315, R329 to R335) -/

/-- A core's wire rises (R331). -/
def Core.raiseWire (k : Core) (ch : BitVec 5) : Core :=
  { k with syn := { k.syn with wires := k.syn.wires ||| BitVec.ofNat 32 (2 ^ ch.toNat) } }

/-- RELEASE_TAKES_EFFECT (R315, R331): every write that release `id` covers has completed. -/
def execReleaseTakesEffect (id : Nat) (s : State) : Out :=
  match s.work id with
  | none => done s s
  | some w =>
    match w.stage with
    | .held =>
      if !s.coversDone w then done s s else
        match w.kind with
        | .barArr ch => done s ((s.dropWork id).updOwner w.core w.group fun k => k.raiseWire ch)
        | _ => done s (s.setWork { w with stage := .going })
    | _ => done s s

/-- ILLEGAL_OP of the barrier instructions (R313). -/
def barIllegal (s : State) (c : Nat) (e : Enc) (ch : BitVec 5) : Option Trap :=
  if isHub c then some (illegal e 0)
  else if !(s.core c).syn.barmask.getLsbD ch.toNat then some (illegal e 3)
  else none

/-- An arrival (R331): BARPEND is set, and the wire rises once its release takes effect. -/
def arriveBar (c : Nat) (ch : BitVec 5) (s : State) : State :=
  if (s.core c).syn.barpend.getLsbD ch.toNat then s else
    let s1 := s.upd c fun k => { k with syn := { k.syn with barpend := k.syn.barpend ||| BitVec.ofNat 32 (2 ^ ch.toNat) } }
    let w := asRelease s (newWork s c 16 (.barArr ch) 0 [] [])
    match w.stage with
    | .held => pushWork w s1
    | _ => s1.upd c fun k => k.raiseWire ch

/-- BAR_ARR (R331). -/
def execBarArr (c : Nat) (ch : BitVec 5) (s : State) : Out :=
  let e := encSync 6 0 0 0 false false ch.toNat
  issueP c e (fun s => barIllegal s c e ch) (arriveBar c ch) s

/-- BAR_WAIT (R333). -/
def execBarWait (c : Nat) (rd rs2 : Reg) (ch : BitVec 5) (l test : Bool) (s : State) : Out :=
  let e := encSync 7 rd 0 rs2 l test ch.toNat
  if test then
    issueP c e
      (fun s => firstOf [barIllegal s c e ch,
        match waitEnd s c (mkWait s c (.barrier ch) rd rs2 false false e) with
        | .fault t => some t
        | _ => none])
      (fun s => s.upd c fun k => k.landX 1 rd (vget k.syn.gens ch.toNat 0)) s
  else issueWait c e (fun s => barIllegal s c e ch) id (fun s => mkWait s c (.barrier ch) rd rs2 l false e) s

/-- BAR (R333): an arrival and the wait in one step; with ESTAT.BARW restored, the wait alone. -/
def execBar (c : Nat) (rd rs2 : Reg) (ch : BitVec 5) (l : Bool) (s : State) : Out :=
  let e := encSync 8 rd 0 rs2 l false ch.toNat
  issueWait c e (fun s => barIllegal s c e ch)
    (fun s => if (s.core c).flow.barw then s else arriveBar c ch s)
    (fun s => mkWait s c (.barrier ch) rd rs2 l true e) s

/-- Members of a channel, with the task pre-empted on a core (R329, R413): the core, and its registers. -/
def State.barParties (s : State) (ch : Nat) : List (Nat × Sync) :=
  (allCores.flatMap fun c => (c, (s.core c).syn) ::
    (match s.savedCore c with | some k => [(c, k.syn)] | none => [])).filter fun p => p.2.barmask.getLsbD ch
def State.barMembers (s : State) (ch : Nat) : List Nat := (s.barParties ch).map (·.1)
/-- Members whose arrival has not taken effect. -/
def State.laggards (s : State) (ch : Nat) : List Nat :=
  ((s.barParties ch).filter fun p => !p.2.wires.getLsbD ch).map (·.1)
/-- A barrier's completion at one member: the arrival is consumed and the generation rises (R330). -/
def Sync.barDone (y : Sync) (n : Nat) (g : Word) : Sync :=
  let b : BitVec 32 := BitVec.ofNat 32 (2 ^ n)
  { y with
    barpend := if y.barmask.getLsbD n then y.barpend &&& ~~~b else y.barpend
    wires := y.wires &&& ~~~b
    gens := vset y.gens n g }

/-- Whether a stream is gated on a channel. -/
def Slot.gatedOn (sl : Slot) (ch : BitVec 5) : Bool := sl.gated && (match sl.desc with | some d => d.gch == ch | none => false)
/-- Streams gated on a channel begin to request (R296); a consumer with no satisfied SACQ yet, a receiver of such a stream too,
counts its intervals from now (R293). -/
def State.openGate (s : State) (ch : BitVec 5) (sl : Slot) : Slot :=
  let opened (sl : Slot) : Slot := if sl.prog.acq = 0 then { sl with t0 := s.time } else sl
  if sl.gatedOn ch then opened { sl with gated := false }
  else match sl.sender with
    | some (sc, ss) => if (s.slot sc ss).gatedOn ch then opened sl else sl
    | none => sl
/-- `State.openGate` at every slot. -/
def State.openGates (s : State) (ch : BitVec 5) : State :=
  { s with cores := s.cores.map fun k => { k with slots := k.slots.map (s.openGate ch) } }

/-- BARRIER_COMPLETE (R330, R332, R296): every member has arrived. The arrivals are consumed, the generation rises,
gated streams open and waits end. A channel with no members never completes (R329); the lead hub's combiner alone completes one,
while that hub serves (R30, R335). A die whose Tightrope wires to the lead are out of service as a link keeps its arrivals: the
model completes its barriers all the same (R24; log entry 34, DESIGN CHOICE). -/
def execBarrierComplete (ch : BitVec 5) (s : State) : Out :=
  let n := ch.toNat
  if !(s.hub s.pkg.lead).insvc || (s.barMembers n).isEmpty || !(s.laggards n).isEmpty then done s s
  else
    let g := vget s.gens n 0 + 1
    let complete (s : State) : State :=
      let s0 := s.openGates ch
      State.mapSaved { s0 with
        gens := vset s.gens n g
        cores := s0.cores.map fun k => { k with syn := k.syn.barDone n g } } fun q => (q.1, { q.2.1 with syn := q.2.1.syn.barDone n g }, q.2.2)
    done s (settleWaits allCores complete s)

/-- Ringmaster clears every BARMASK bit of a core, logging each removal; a wait on a removed channel ends (R334). -/
def removeBars (c : Nat) (s : State) : State :=
  let k := s.core c
  let old : BitVec 32 := match s.savedCore c with | some q => q.syn.barmask | none => 0
  let s1 := (setBits 32 (k.syn.barmask ||| old).toNat).foldl
    (fun s ch => s.logAdd 0x1E 0 k.logPart (coreUnit c) ch c 0 0) s
  let clear (k : Core) : Core := { k with syn := { k.syn with barmask := 0, barpend := 0, barfail := 0, wires := 0 } }
  let remove (s : State) : State :=
    let s2 := { s with works := s.works.filter fun w =>
      match w.kind with
      | .barArr _ => w.core != c
      | _ => true }
    (s2.upd c clear).updSaved c clear
  settleWaits [c] remove s1

/-! ### Timeouts and interrupts during a wait (R81, R111, R336, R337, R340) -/

/-- The ring of a core lowered to retention starts again at the floor (R40, R41, R340). -/
def resumeRing (c : Nat) (s : State) : State :=
  let k := s.core c
  if k.pw.ring then s else
    (wakeVolt c s).upd c fun k => { k with pw := { k.pw with ring := true, volt := s.floorMv c } }

/-- A wait of core `c` draws its free number of idle steps, and what falls due in them happens (log entry 6). -/
def waitSteps (c : Nat) (s : State) : State :=
  arrive c (if (s.core c).pw.ring then idleSteps c (s.causeNow c) s else resumeRing c s)

/-- The object waited on (R336): REASON, INDEX, EDATA0, the peer's member number, the peer's core for the log. -/
def timeoutData (s : State) (c : Nat) (w : Wait) : Byte × Nat × Word × Option Nat × Nat :=
  let k := s.core c
  let none' : Option Nat := none
  let slowPeer (i : Nat) : Option Nat × Nat :=
    let src := s.source c (vget k.slots i .reset)
    match (if src.2.st == SlotSt.sender then s.slowest src.2 else none) with
    | some r => (some r.member.toNat, (s.memberCore src.2.idn.group.toNat r.member.toNat).getD 0xFFFF)
    | none => (none, 0xFFFF)
  let stream (i : Nat) : Byte × Nat × Word × Option Nat × Nat :=
    let (m, p) := slowPeer i
    let sl := vget k.slots i .reset
    -- a sender's next segment is the one it would request next
    let next := match sl.st, sl.desc with | .sender, some d => sl.prog.reqRow / d.segrows | _, _ => sl.prog.acq
    (5, i, BitVec.ofNat 64 next, m, p)
  match w.kind with
  | .counter n _ =>
    match s.oldest c n with
    | some (pc, _, some i) =>
      if (vget k.slots i .reset).st == SlotSt.sender then stream i else (1, n, pc, none', 0xFFFF)
    | some (pc, _, none) => (1, n, pc, none', 0xFFFF)
    | none => (1, n, 0, none', 0xFFFF)
  | .sem _ a => (2, 0, a, none', 0xFFFF)
  | .signal => (3, 0, 0, none', 0xFFFF)
  | .barrier ch =>
    let lag := s.laggards ch.toNat
    let own := match s.place.groups.find? fun g => g.num == k.idn.group.toNat with
      | some g => (g.members.zipIdx.find? fun p => lag.contains p.1).map (·.2)
      | none => none
    let phys := match own with
      | some m => (s.memberCore k.idn.group.toNat m).getD 0xFFFF
      | none => lag.headD 0xFFFF
    (4, ch.toNat, vget k.syn.gens ch.toNat 0 + 1, own, phys)
  | .stream i => stream i
  | .array => (6, k.arr.queue.length, (k.arr.queue.head?.map (·.pc)).getD 0, none', 0xFFFF)
  | .watch => (7, 0, BitVec.ofNat 64 (csrVal s c k.level 0x510), none', 0xFFFF)
  | .netGate _ => (0, 0, 0, none', 0xFFFF)

/-- Die and position of a waiter, in EDATA1 (R336). -/
def waiterWord (c : Nat) : Nat :=
  if isHub c then 2 ^ 16 + dieOf c * 2 ^ 8 + (c - 144) % 8 else c / 18 * 2 ^ 8 + c % 18

/-- The cause of a timed-out wait (R336). -/
def timeoutTrap (s : State) (c : Nat) (w : Wait) : Trap :=
  let (reason, index, e0, peer, _) := timeoutData s c w
  let pw := match peer with
    | some m => 2 ^ 36 + m * 2 ^ 24
    | none => 0
  { cause := 8, reason := reason, index := BitVec.ofNat 16 index, edata0 := e0, edata1 := BitVec.ofNat 64 (pw + waiterWord c) }

/-- WAIT_TIMEOUT (R81, R336, R337, R340): the deadline has come. A wait satisfied by then returns; else the trap is
raised at the waiting instruction and logged, and the object is left as it is. -/
def execWaitTimeout (c : Nat) (s : State) : Out :=
  if 160 ≤ c then .refused .noSuchUnit else
    match (s.core c).wait with
    | none => done s s
    | some w =>
      match w.kind with
      | .netGate _ => done s s
      | _ =>
        if !(s.core c).inSvc || (s.core c).pw.stopped then done s s else
          let s1 := waitSteps c (s.tickTo w.deadline)
          match waitEnd s1 c w with
          | .keep =>
            let t := timeoutTrap s1 c w
            let s2 := s1.logAdd 0x04 0 (s.core c).logPart (coreUnit c) t.edata0.toNat (ecauseOf t false).toNat c
              (timeoutData s1 c w).2.2.2.2
            let s3 := clearTake c (if w.lowered then wakeVolt c s2 else s2)
            done s (takeException c t (s3.upd c fun k => { k with wait := none }))
          | _ => done s (endWait c s1)

/-- An interrupt is taken; CALIB is the borrow itself, before the handler's first instruction (R472). -/
def takeAsync (c i : Nat) (barw : Bool) (s : State) : State :=
  let s1 := takeInterrupt c i barw s
  if i = 7 ∧ !(s1.core c).tr.ipend.getLsbD 7 then borrow c s1 else s1

/-- The fault that the instruction due at a core has whichever it is: a delayed one, its PC misaligned, its first word not to be
fetched. It is taken before an interrupt (R106, R111, R531); a fault of the instruction's own checks is the sender's to command first. -/
def faultDue (c : Nat) (s : State) : Option State :=
  let k := s.core c
  if k.delayedDue then some (takeException c {cause := 3} s)
  else if k.flow.pc.toNat % 4 ≠ 0 then some (takeException c (fetchTrap k) s)
  else (fetchFault s c false .clean .clean).map fun f => takeFetch c f s
/-- Before the next instruction of a core, whichever comes first: its fault, an interrupt that is ready, or neither. -/
def interruptDue (c : Nat) (s : State) : Option State :=
  (readyInterrupt s c).map fun i => (faultDue c s).getD (takeAsync c i false s)

/-- ASYNC_INTERRUPT_TAKEN (R102, R111, R81, R323, R328, R333): the interrupt that is ready is taken before the next
instruction. During a wait, a satisfaction that comes first ends the wait; else a parked take is withdrawn and the
waiting instruction's PC is saved. -/
def execAsyncInterruptTaken (c : Nat) (s : State) : Out :=
  if 160 ≤ c then .refused .noSuchUnit else
    let k := s.core c
    if !k.inSvc || k.pw.stopped then done s s else
      match k.wait with
      | none =>
        if !k.canIssue then done s s else
          done s ((interruptDue c (arrive c s)).getD s)
      | some w =>
        match w.kind with
        | .netGate _ => done s s
        | _ =>
          let s1 := waitSteps c s
          match waitEnd s1 c w with
          | .keep =>
            match readyInterrupt s1 c with
            | some i =>
              let s2 := clearTake c (if w.lowered then wakeVolt c s1 else s1)
              done s (takeAsync c i w.bar (s2.upd c fun k => { k with wait := none }))
            | none => done s s
          | .fault _ => done s (endWait c s1)
          | .ret _ =>
            let s2 := endWait c s1
            done s ((interruptDue c s2).getD s2)

end Sys2Proof.Machine
end

