-- ==== Sys2Proof/Machine/Placement.lean ====
section
/-! DEFINITION. Big Top placement: tiers, allocations, groups, sharing, migration, PLACE.QUERY (12, R345 to R372). -/

namespace Sys2Proof.Machine

/-! ### Distances (R22, R23, R354, R372) -/

/-- Whether a mesh link joins two dies, and its name. -/
def meshLink (a b : Nat) : Option LinkId :=
  let lo := min a b
  let hi := max a b
  if hi = lo + 4 then some (.column lo)
  else if hi = lo + 1 ∧ lo ≠ 3 then some (.row (if lo < 4 then lo else lo - 1))
  else none
/-- Whether a link joins two nodes of the fabric, dies 0 to 7 and hubs 8 and 9, and its name. -/
def fabricLink (a b : Nat) : Option LinkId :=
  match min a b, max a b with
  | 8, 9 => some .bridge
  | 0, 8 => some (.hub 0)
  | 4, 8 => some (.hub 1)
  | 3, 9 => some (.hub 2)
  | 7, 9 => some (.hub 3)
  | lo, hi => if hi < 8 then meshLink lo hi else none
/-- Whether a node's router is in service. -/
def State.nodeUp (s : State) (n : Nat) : Bool := if n < 8 then s.pkg.routers.getLsbD n else (s.hub (n - 8)).insvc
/-- Nodes below `m` reached in at most `n` hops over links and routers in service: the mesh for 8, the hubs too for 10. -/
def State.reach (s : State) (m a : Nat) : Nat → List Nat
  | 0 => [a]
  | n + 1 =>
    let r := s.reach m a n
    (List.range m).filter fun b => r.contains b ||
      (s.nodeUp b && r.any fun x => match fabricLink x b with
        | some l => !s.pkg.linksDown.contains l
        | none => false)
def State.hopsIn (s : State) (m a b : Nat) : Option Nat := (List.range m).find? fun n => (s.reach m a n).contains b
/-- Router hops between two nodes over the whole fabric, 7 where no route is left. -/
def State.fabricHops (s : State) (a b : Nat) : Nat := (s.hopsIn 10 a b).getD 7
/-- Router hops between two dies (R23): over the mesh, and through the hubs only where the mesh has no route left (log entry 19). -/
def State.dieHops (s : State) (a b : Nat) : Nat := (s.hopsIn 8 a b).getD (s.fabricHops a b)
/-- Hops from an origin, a die or a hub (8 and 9), to a die's router: a hub's over its own hub links in service, then the mesh,
and over the bridge where none of them leads there. -/
def State.originHops (s : State) (o d : Nat) : Nat :=
  if o < 8 then s.dieHops o d
  else
    let on := [0, 4, 3, 7].filter fun e => s.nodeUp e && (match fabricLink o e with
      | some l => !s.pkg.linksDown.contains l
      | none => false)
    match minOf (on.filterMap fun e => s.hopsIn 8 e d) with
    | some n => n + 1
    | none => s.fabricHops o d
/-- The die at whose router a stack attaches: by its stack link while that link and its router serve, else by its bypass (R22). -/
def State.stackDie (s : State) (n : Nat) : Nat :=
  if !s.pkg.linksDown.contains (.stack n) && s.pkg.routers.getLsbD n then n else if n % 2 = 0 then n + 1 else n - 1
/-- Hops from an origin to the home of a physical address. -/
def State.homeHops (s : State) (o pa : Nat) : Nat :=
  let hub (h : Nat) : Nat := if o < 8 then s.originHops (8 + h) o else if o = 8 + h then 0 else 1
  match homeOf pa with
  | some (0, c) => s.originHops o (c / 18)
  | some (1, n) => s.originHops o (s.stackDie n)
  | some (2, n) => s.originHops o (s.stackDie n)
  | some (3, p) => hub (p / 2)
  | some (_, h) => hub h
  | none => 0
/-- The origin of a core: its die, or its hub. -/
def originOf (c : Nat) : Nat := if isHub c then 8 + dieOf c else dieOf c

/-- Insertion sort, stable. -/
def insertBy {α : Type} (le : α → α → Bool) (x : α) : List α → List α
  | [] => [x]
  | y :: ys => if le x y then x :: y :: ys else y :: insertBy le x ys
def sortBy {α : Type} (le : α → α → Bool) : List α → List α
  | [] => []
  | x :: xs => insertBy le x (sortBy le xs)

/-! ### Places in the tiers -/

/-- Pages of a byte count, rounded up (R351, R359). -/
def pagesIn (n : Nat) : Nat := (n + 0xFFFF) / 0x10000
/-- Homes of the second copies of a staging allocation. -/
def Alloc.copies (a : Alloc) : List Nat := a.copy2.filterMap fun h => h
/-- Homes in use: of pages, of migrations under way, of the second copies of staging. -/
def State.homesUsed (s : State) : List Nat :=
  s.place.pages.map (·.home) ++ s.place.pages.filterMap (·.moving) ++ s.place.allocs.flatMap (·.copies)
/-- Page numbers in use from a base. -/
def State.usedFrom (s : State) (base n : Nat) : List Nat :=
  (s.homesUsed.filter fun h => decide (base ≤ h ∧ h < base + n * 0x10000)).map fun h => (h - base) / 0x10000
/-- Bytes of a net: its regions. -/
def Net.bytes (t : Net) : Nat := (t.regions.map (·.2)).sum
def chunksOf (n : Nat) : Nat := (n + 0xFFFFF) / 0x100000
/-- Pages a net reserves: four times its bytes, and four manifests (R423, R429). -/
def netReserve (bytes : Nat) : Nat := 4 * pagesIn bytes + 4 * pagesIn (416 + 64 * chunksOf bytes)
def State.stacksUp (s : State) : List Nat := (List.range 8).filter fun n => (s.stack n).insvc
/-- Pages of a stack open to placement: DRAM less the nets' replicas, SRAM less a journal mirror (R393, R423). -/
def State.stackLim (s : State) (t : Nat) : Nat :=
  if t = 1 then 4096 else
    let k := max 1 s.stacksUp.length
    786432 - ((s.nets.map fun q => (netReserve q.bytes + k - 1) / k).sum)
def State.stackUsed (s : State) (t n : Nat) : List Nat :=
  (if t = 1 ∧ s.host.mirrors.contains (16 + n) then List.range 16 else []) ++ s.usedFrom (stackBase t n) 786432
/-- The first `n` numbers from `i`, below `lim`, that are not used; `fuel` bounds the search. -/
def takeFree (used : List Nat) (lim : Nat) : Nat → Nat → Nat → List Nat
  | 0, _, _ => []
  | fuel + 1, i, n =>
    if n = 0 ∨ lim ≤ i then []
    else if used.contains i then takeFree used lim fuel (i + 1) n
    else i :: takeFree used lim fuel (i + 1) (n - 1)
/-- Up to `cnt` free page homes of tier `t` on stack `n`. -/
def State.stackTake (s : State) (t n cnt : Nat) : List Nat :=
  let used := s.stackUsed t n
  let cap := if t = 1 then 4096 else 786432
  (takeFree (used.filter (decide <| · < cap)) (s.stackLim t) (cnt + used.length) 0 cnt).map
    fun i => stackBase t n + i * 0x10000

/-- Pages of a slice that windows take. -/
def State.windowsOf (s : State) (c : Nat) : List Nat :=
  s.place.groups.flatMap fun g =>
    (g.members.zipIdx).flatMap fun p => if p.1 = c ∧ g.released.contains p.2 = false then (g.wins[p.2]?).getD [] else []
/-- Free page homes of a core's placement pool (R347); of a core out of service, none (R346). -/
def State.poolTake (s : State) (c cnt : Nat) : List Nat :=
  let used := s.usedFrom (sliceBase c) 1024
  let ws := s.windowsOf c
  if !(s.core c).inSvc then [] else
  (((List.range 1022).filter fun i => !used.contains i && !ws.contains i).take cnt).map
    fun i => sliceBase c + i * 0x10000
/-- Pages taken in turn from several places (R369). -/
def robin : Nat → List (List Nat) → List Nat
  | 0, _ => []
  | n + 1, ls =>
    match ls.filter fun l => !l.isEmpty with
    | (x :: xs) :: rest => x :: robin n (rest ++ [xs])
    | _ => []

/-- Stacks in service, nearest first, the lower number first of equals. -/
def State.nearStacks (s : State) (o : Nat) : List Nat :=
  let key (n : Nat) : Nat := 16 * s.originHops o (s.stackDie n) + n
  sortBy (fun a b => decide (key a ≤ key b)) s.stacksUp
/-- Homes for `n` pages in stack tier `t` (R369), fewer where they do not fit. -/
def State.stackPlace (s : State) (t o n : Nat) : List Nat :=
  match s.nearStacks o with
  | [] => []
  | first :: _ =>
    if 64 ≤ n then
      let ring := (s.stacksUp.filter fun i => decide (first ≤ i)) ++ s.stacksUp.filter fun i => decide (i < first)
      robin n (ring.map fun i => s.stackTake t i n)
    else
      match (s.nearStacks o).find? fun i => (s.stackTake t i n).length == n with
      | some i => s.stackTake t i n
      | none => []
/-- Homes for `n` pages in the pools of some cores, filled in order. -/
def State.poolPlace (s : State) (cs : List Nat) (n : Nat) : List Nat :=
  cs.foldl (fun got c => got ++ s.poolTake c (n - got.length)) []

/-- Who asks for a placement: a core, or a hub that stands in for one (R368). -/
structure Asker where
  core   : Option Nat
  origin : Nat
  part   : Nat
deriving DecidableEq, Repr

/-- The tiers a request may use, in order (R368): the store pools it may fill, or none for a stack tier. -/
def State.tierOrder (s : State) (a : Asker) (life pattern size : Nat) (pin : Option Nat) (excl : List Nat) :
    List (Nat × List Nat) :=
  match pin with
  | some c => [(0, [c])]
  | none =>
    let own := match a.core with
      | none => []
      | some c =>
        match s.place.groups.find? fun g => g.num == (s.core c).idn.group.toNat with
        | none => []
        | some g =>
          let live := (((g.members.zipIdx).filter fun p => !g.released.contains p.2).map (·.1)).filter fun c => (s.core c).inSvc
          (if live.contains c then [c] else []) ++ live.filter (· != c)
    let store (cs : List Nat) : Nat × List Nat := (0, cs.filter fun c => !excl.contains c)
    if s.stacksUp.isEmpty then [store (if own.isEmpty then s.inSvcCores else own)]
    else if life = 1 ∧ size ≤ 0x2000000 then [store own, (1, []), (2, [])]
    else if (pattern = 2 ∨ pattern = 3) ∧ size ≤ 0x40000000 then [(1, []), (2, [])]
    else [(2, []), (1, [])]

/-- Pages of a partition's own allocations in a tier, with its nets' replicas in DRAM (R348, R423). -/
def State.tierPages (s : State) (p t : Nat) : Nat :=
  let own := (s.place.allocs.filter fun a => a.part == p && !a.host).map (·.id)
  (s.place.pages.filter fun q => q.part == p && own.contains q.alloc && (homeOf q.home).map (·.1) == some t).length +
  (((s.place.allocs.filter fun a => a.part == p).flatMap (·.copies)).filter fun h => (homeOf h).map (·.1) == some t).length +
  (if t = 2 then ((s.nets.filter fun n => n.part == p).map fun n => netReserve n.bytes).sum else 0)
/-- Pages of a partition on their way into a tier (R370). -/
def State.tierComing (s : State) (p t : Nat) : Nat :=
  (s.place.pages.filter fun q => q.part == p && (match q.moving with
    | some h => (homeOf h).map (·.1) == some t
    | none => false)).length
def Part.quota (q : Part) (t : Nat) : Nat := if t = 0 then q.qStore else if t = 1 then q.qSram else q.qDram
def State.quotaOk (s : State) (p t n : Nat) : Bool :=
  match s.part p with
  | some q => decide ((s.tierPages p t + n) * 0x10000 ≤ q.quota t)
  | none => false

/-- Homes for `n` pages in the first tier that holds them (R368), else QUOTA or NOSPACE; `quota` says whether the
quota counts. -/
def State.choose (s : State) (a : Asker) (n : Nat) (quota : Bool) : List (Nat × List Nat) → Bool → Except Nat (List Nat)
  | [], q => .error (if q then 2 else 1)
  | (t, cs) :: rest, q =>
    let homes := if t = 0 then s.poolPlace cs n else s.stackPlace t a.origin n
    if homes.length ≠ n then s.choose a n quota rest q
    else if quota && !s.quotaOk a.part t n then s.choose a n quota rest true
    else .ok homes

/-! ### The virtual space (R351, R352) -/

/-- Mapped ranges of a partition: pages and store apertures. -/
def State.mappedRanges (s : State) (p : Nat) : List (Nat × Nat) :=
  ((s.place.pages.filter fun q => q.part == p).map fun q => (q.vpage * 0x10000, 0x10000)) ++
  ((s.place.groups.filter fun g => g.part == p).map fun g => (g.gbase, g.members.length * 0x4000000))
/-- Whether a range lies in the space and overlaps nothing mapped. -/
def State.vaFree (s : State) (p va n : Nat) : Bool :=
  decide (va + n ≤ 2 ^ 48) && (s.mappedRanges p).all fun r => decide (r.1 + r.2 ≤ va ∨ va + n ≤ r.1)
/-- An address Ringmaster chooses: a free value where it fits, else the lowest place from `base` (log entry 19). -/
def State.pickVa (s : State) (p n align base : Nat) : Option Nat :=
  let cand := (Config.freeWord s.fresh).toNat % 2 ^ 48 / align * align
  if cand ≠ 0 ∧ s.vaFree p cand n = true then some cand
  else
    let starts := base :: (s.mappedRanges p).map fun r => roundUp (r.1 + r.2) align
    minOf (starts.filter fun v => decide (base ≤ v) && s.vaFree p v n)

/-! ### Pages -/

/-- Contents of a home lost or cleared: zero, unpoisoned. -/
def State.zeroHome (s : State) (h n : Nat) : State :=
  { s with mem := s.mem.zero h n, poison := s.poison.filter fun u => decide (u < h ∨ h + n ≤ u) }
/-- A partition's tasks may write some slice pages from now on, or, with 64, those of several partitions may (R396). -/
def State.setTenant (s : State) (p : Nat) (homes : List Nat) : State :=
  { s with place := { s.place with
      tenants := homes.foldl (fun ts h => if h < 0x240000000 then assocSet ts (h / 0x10000) p else ts) s.place.tenants } }
/-- Map pages of an allocation in a partition. -/
def State.mapPages (s : State) (p va alloc : Nat) (rights : BitVec 4) (homes : List Nat) : State :=
  let s := s.setTenant p homes
  { s with place := { s.place with
      pages := s.place.pages ++ homes.mapIdx fun i h => ⟨p, va / 0x10000 + i, h, rights, alloc, 0, none, false, false, false⟩ } }

/-- Every code unit of a page poisoned (R364, R447). -/
def State.poisonHome (s : State) (h : Nat) : State :=
  let u := ecUnit h
  if u = 0 then s else
    { s.zeroHome h 0x10000 with
      poison := ((List.range (0x10000 / u)).map fun i => h + i * u) ++ (s.zeroHome h 0x10000).poison }

/-- The units of a new home that stay poisoned: all that a poisoned unit of the old home overlaps (R364, R371). -/
def movedPoison (old new : Nat) (bad : List Nat) : List Nat :=
  let unit := ecUnit new
  if unit = 0 then [] else
    (bad.flatMap fun u =>
      (List.range ((ecUnit u + unit - 1) / unit)).map fun i => (new + (u - old)) / unit * unit + i * unit).eraseDups
/-- The partition whose tasks wrote a page, 64 where several may have. -/
def State.tenantOf (s : State) (h : Nat) : Nat :=
  (assoc s.place.tenants (h / 0x10000)).getD
    (match ((s.place.pages.filter fun q => q.home == h).map (·.part)).eraseDups with | [p] => p | _ => 64)
/-- A page's contents, poison, takes and dirty bits move to a new home; monitors on its lines fire (R371, R380, R426). -/
def State.movePage (s : State) (old new : Nat) : State :=
  let cells := s.mem.window old 0x10000
  let bad := (s.poison.filter fun u => decide (old ≤ u ∧ u < old + 0x10000))
  let badNew := movedPoison old new bad
  let s := s.setTenant (s.tenantOf old) [new]
  let s := s.zeroHome new 0x10000
  let s := { s with
    mem := s.mem.putWindow new 0x10000 cells
    poison := badNew ++ s.poison
    takes := s.takes.map fun (t : Take) => if old ≤ t.addr ∧ t.addr < old + 0x10000 then { t with addr := new + (t.addr - old) } else t
    place := { s.place with pages := s.place.pages.map fun (q : Page) =>
      if q.home = old then { q with home := new, moves := min (q.moves + 1) 0xFFFFFFFF, moving := none } else q } }
  s.fireOn old 0x10000 160

/-- A move counts for the partition as one to a faster or to a slower tier (R370, R511, R532). -/
def State.countMove (s : State) (p old new : Nat) : State :=
  match homeOf old, homeOf new with
  | some (a, _), some (b, _) => if b < a then s.countPart p 48 1 else if a < b then s.countPart p 49 1 else s
  | _, _ => s

/-- A new home for one page (R532): as its allocation's hints place it, off the pools of `excl`. -/
def State.rehome (s : State) (q : Page) (quota : Bool) (excl : List Nat) : Option Nat :=
  match s.place.allocs.find? fun a => a.id == q.alloc with
  | none => none
  | some a =>
    let origin := match s.part a.part with | some p => 8 + p.owner / 2 | none => 8
    let ask : Asker := ⟨none, origin, a.part⟩
    match s.choose ask 1 quota (s.tierOrder ask a.life a.pattern (a.pages * 0x10000) none excl) false with
    | .ok (h :: _) => some h
    | _ => none
/-- The owner's page at a home. -/
def State.pageAt (s : State) (h : Nat) : Option Page :=
  match s.place.pages.filter fun q => q.home == h with
  | [] => none
  | q :: qs =>
    match (q :: qs).find? fun r => s.place.allocs.any fun a => a.id == r.alloc && a.part == r.part with
    | some r => some r
    | none => some q
def State.isPinned (s : State) (q : Page) : Bool := s.place.allocs.any fun a => a.id == q.alloc && a.pinned

/-! ### ALLOC, FREE, HINT, sharing (R360, R363, R365) -/

/-- An allocation placed and mapped. -/
def addAlloc (p va : Nat) (r : PlaceRec) (pin : Bool) (homes : List Nat) (s : State) : State :=
  let id := s.place.nextAlloc
  let tier := match homes.head?.bind homeOf with | some (t, _) => t | none => 2
  let a : Alloc := ⟨id, p, va, homes.length, false, false, pin, r.flags.getLsbD 1, r.life.toNat, r.pattern.toNat,
    r.rights.setWidth 4, [], [], tier, []⟩
  let s := homes.foldl (fun s h => s.zeroHome h 0x10000) s
  { (s.mapPages p va id (r.rights.setWidth 4) homes) with
    place := { (s.mapPages p va id (r.rights.setWidth 4) homes).place with
      allocs := s.place.allocs ++ [a], nextAlloc := id + 1 } }

/-- What an operation answers: the state, the STATUS, the record with its output fields. -/
abbrev PlaceOut := State × Nat × PlaceRec

/-- ALLOC (R360, R368, R369). -/
def placeAlloc (a : Asker) (r : PlaceRec) (s : State) : PlaceOut :=
  let n := pagesIn r.size.toNat
  let va := r.vaddr.toNat
  let pin := r.flags.getLsbD 0
  let member : Option Nat :=
    match a.core with
    | some c => if r.member = 0xFFFF then none else s.liveMember (s.core c).idn.group.toNat r.member.toNat
    | none => none
  if n = 0 ∨ va % 0x10000 ≠ 0 ∨ 3 < r.life.toNat ∨ 3 < r.pattern.toNat ∨ (va ≠ 0 ∧ 2 ^ 48 < va + n * 0x10000) ∨
      (pin = true ∧ member.isNone = true) then (s, 3, r)
  else if va ≠ 0 ∧ s.vaFree a.part va (n * 0x10000) = false then (s, 8, r)
  else
    match s.choose a n true (s.tierOrder a r.life.toNat r.pattern.toNat r.size.toNat (if pin then member else none) []) false with
    | .error e => (s, e, r)
    | .ok homes =>
      match (if va ≠ 0 then some va else s.pickVa a.part (n * 0x10000) 0x10000 0x20000000000) with
      | none => (s, 1, r)
      | some va => (addAlloc a.part va r pin homes { s with fresh := s.fresh + 1 }, 0, { r with vaddr := BitVec.ofNat 64 va })

/-- The allocation of a partition that starts at an address. -/
def State.allocAt (s : State) (p va : Nat) : Option Alloc :=
  s.place.allocs.find? fun a => a.part == p && a.vaddr == va && !a.host && !a.staging
/-- Takes parked at some homes fail: the allocation is no more (R363). -/
def failTakes (homes : List Nat) (s : State) : State :=
  let gone := s.takes.filter fun t => homes.any fun h => decide (h ≤ t.addr ∧ t.addr < h + 0x10000)
  gone.foldl (fun s t => match s.work t.id with | some w => failSem w s | none => s)
    { s with takes := s.takes.filter fun t => !gone.contains t }
/-- An allocation unmapped everywhere; its homes lose their poison (R364, R365). -/
def State.dropAlloc (s : State) (id : Nat) : State :=
  let homes := (s.place.pages.filter fun q => q.alloc == id).map (·.home)
  let s := failTakes homes s
  { s with
    poison := s.poison.filter fun u => !(homes.any fun h => decide (h ≤ u ∧ u < h + 0x10000))
    place := { s.place with
      pages := s.place.pages.filter fun q => q.alloc != id
      allocs := s.place.allocs.filter fun a => a.id != id } }
/-- Whether a net of the owner has a region in an allocation (R419). -/
def State.inNet (s : State) (al : Alloc) : Bool :=
  s.nets.any fun t => t.part == al.part && t.regions.any fun r => decide (r.1 < al.vaddr + al.pages * 0x10000 ∧ al.vaddr < r.1 + r.2)
/-- FREE (R363, R365); of memory that a net covers, BUSY (log entry 21). -/
def placeFree (a : Asker) (r : PlaceRec) (s : State) : PlaceOut :=
  match s.allocAt a.part r.vaddr.toNat with
  | none => (s, 5, r)
  | some al => if s.inNet al then (s, 6, r) else (s.dropAlloc al.id, 0, r)

/-- HINT (R360): PIN is not touched. -/
def placeHint (a : Asker) (r : PlaceRec) (s : State) : PlaceOut :=
  match s.allocAt a.part r.vaddr.toNat with
  | none => (s, 5, r)
  | some al =>
    if 3 < r.life.toNat ∨ 3 < r.pattern.toNat then (s, 3, r)
    else
      ({ s with place := { s.place with
          allocs := s.place.allocs.map fun b =>
            if b.id = al.id then { b with life := r.life.toNat, pattern := r.pattern.toNat, rights := r.rights.setWidth 4 } else b
          pages := s.place.pages.map fun q =>
            if q.alloc = al.id ∧ q.part = a.part then { q with rights := r.rights.setWidth 4 } else q } }, 0, r)

/-- SHARE (R365); no other partition comes to write a net's page (R419). -/
def placeShare (a : Asker) (r : PlaceRec) (s : State) : PlaceOut :=
  match s.allocAt a.part r.vaddr.toNat with
  | none => (s, 5, r)
  | some al =>
    let rights : BitVec 4 := r.rights.setWidth 4
    if !al.share then (s, 7, r)
    else if (s.part r.part.toNat).isNone then (s, 5, r)
    else if rights &&& ~~~al.rights ≠ 0 then (s, 3, r)
    else if s.inNet al && (rights.getLsbD 1 || rights.getLsbD 3) && r.part.toNat != a.part then (s, 7, r)
    else
      let g := s.place.nextGrant % 2 ^ 16
      ({ s with place := { s.place with
          nextGrant := s.place.nextGrant + 1
          allocs := s.place.allocs.map fun b =>
            if b.id = al.id then { b with grants := b.grants ++ [(g, r.part.toNat, rights)] } else b } },
        0, { r with grant := BitVec.ofNat 16 g })

/-- ATTACH (R365). -/
def placeAttach (a : Asker) (r : PlaceRec) (s : State) : PlaceOut :=
  let va := r.vaddr.toNat
  let found := s.place.allocs.findSome? fun al =>
    if al.part = r.part.toNat then
      (al.grants.find? fun g => g.1 == r.grant.toNat && g.2.1 == a.part).map fun g => (al, g)
    else none
  match found with
  | none => (s, 7, r)
  | some (al, g) =>
    let n := al.pages * 0x10000
    if va % 0x10000 ≠ 0 ∨ 2 ^ 48 < va + n then (s, 3, r)
    else if va ≠ 0 ∧ s.vaFree a.part va n = false then (s, 8, r)
    else
      match (if va ≠ 0 then some va else s.pickVa a.part n 0x10000 0x20000000000) with
      | none => (s, 1, r)
      | some va =>
        let src := s.place.pages.filter fun q => q.alloc == al.id && q.part == al.part
        let new := src.map fun q =>
          { q with part := a.part, vpage := va / 0x10000 + (q.vpage - al.vaddr / 0x10000), rights := g.2.2 }
        let s := s.setTenant 64 (src.map (·.home))
        ({ s with
            fresh := s.fresh + 1
            place := { s.place with
              pages := s.place.pages ++ new
              allocs := s.place.allocs.map fun b =>
                if b.id = al.id then { b with grants := b.grants.erase g, att := b.att ++ [(g.1, a.part, va)] } else b } },
          0, { r with vaddr := BitVec.ofNat 64 va, size := BitVec.ofNat 64 n })

/-- DETACH (R360). -/
def placeDetach (a : Asker) (r : PlaceRec) (s : State) : PlaceOut :=
  let found := s.place.allocs.findSome? fun al =>
    (al.att.find? fun t => t.1 == r.grant.toNat && t.2.1 == a.part).map fun t => (al, t)
  match found with
  | none => (s, 5, r)
  | some (al, t) =>
    ({ s with place := { s.place with
        pages := s.place.pages.filter fun q =>
          !(q.alloc == al.id && q.part == a.part && decide (t.2.2 / 0x10000 ≤ q.vpage ∧ q.vpage < t.2.2 / 0x10000 + al.pages))
        allocs := s.place.allocs.map fun b => if b.id = al.id then { b with att := b.att.erase t } else b } }, 0, r)

/-! ### Groups (R354 to R356, R361) -/

/-- Whether any group holds a core. -/
def State.holder (s : State) (c : Nat) : Option Group :=
  s.place.groups.find? fun g => (g.members.zipIdx).any fun p => p.1 == c && !g.released.contains p.2
/-- Cores that a group may take (R354, R405): each in monitor code. -/
def State.freeCores (s : State) : List Nat :=
  s.inSvcCores.filter fun c =>
    let w := (s.core c).pw
    (s.holder c).isNone && (s.core c).level == .m && !(s.place.groups.any fun g => g.pend.any fun q => q.2 == c) && !(w.disabled || w.disArray || w.disJug || w.disUpd || w.stopped)
/-- The slice page of a home in a core's slice. -/
def slicePage (c h : Nat) : Option Nat :=
  if sliceBase c ≤ h ∧ h < sliceBase c + 0x4000000 then some ((h - sliceBase c) / 0x10000) else none
/-- Slice pages that a window cannot take: other windows, pinned pages, second copies of staging (R347, R361). -/
def State.takenPages (s : State) (c : Nat) : List Nat :=
  s.windowsOf c ++ ((s.place.pages.filter s.isPinned).map (·.home) ++ s.place.allocs.flatMap (·.copies)).filterMap (slicePage c)
/-- The slice pages of a window of `n` pages (R347, R361): the lowest that may serve it, for the scoring class the highest, so
that the windows of a training task and of one that displaces it lie apart (R416; log entry 19). -/
def State.windowPages (s : State) (c : Nat) (score : Bool) (n : Nat) : Option (List Nat) :=
  let taken := s.takenPages c
  let open_ := (List.range 1022).filter fun i => !taken.contains i
  if open_.length < n then none else some (if score then open_.drop (open_.length - n) else open_.take n)
/-- The pages in the way of a window move to other homes, off the pools of `excl`; copies on their way there are given up. -/
def clearWindow (excl : List Nat) (s : State) (w : Nat × List Nat) : Option State :=
  let there (h : Nat) : Bool := match slicePage w.1 h with | some i => w.2.contains i | none => false
  let stay (q : Page) : Page :=
    if (match q.moving with | some m => there m | none => false) then { q with moving := none } else q
  let s : State := { s with place := { s.place with pages := s.place.pages.map stay } }
  (((s.place.pages.filter fun q => there q.home).map (·.home)).eraseDups).foldlM (fun s h =>
    match s.pageAt h with
    | none => some s
    | some q => (s.rehome q true excl).map fun new => (s.movePage h new).countMove q.part h new) s
/-- Every window of a group is cleared, where that can be done (R361, R532). -/
def clearWindows (ws : List (Nat × List Nat)) (s : State) : Option State := ws.foldlM (clearWindow (ws.map (·.1))) s
/-- Up to `want` cores with room for a window, in the order given, with its slice pages: one whose pages in the way cannot all be
moved beside those of the cores before it is passed over (R361, R532). -/
def State.fitCores (s : State) (score : Bool) (n want : Nat) : List Nat → List (Nat × List Nat) → List (Nat × List Nat)
  | [], got => got
  | c :: cs, got =>
    if want ≤ got.length then got else
      match s.windowPages c score n with
      | none => s.fitCores score n want cs got
      | some ps =>
        if (clearWindows (got ++ [(c, ps)]) s).isSome then s.fitCores score n want cs (got ++ [(c, ps)])
        else s.fitCores score n want cs got

/-- Homes of the affinity object: the allocation that holds an address, else the partition's largest (R354). -/
def State.affHomes (s : State) (p aff : Nat) : List Nat :=
  let byAddr := if aff = 0 then none else (s.page p aff).map (·.alloc)
  let mine := s.place.allocs.filter fun a => a.part == p && !a.host && !a.staging
  let largest := (argMin (fun (a : Alloc) => 2 ^ 64 - a.pages) mine).map (·.id)
  match byAddr.orElse fun _ => largest with
  | none => []
  | some id => (s.place.pages.filter fun q => q.part == p && q.alloc == id).map (·.home)
/-- Candidate cores in the order of R354; `free` are the free cores. -/
def State.orderCores (s : State) (homes free cand : List Nat) : List Nat :=
  let dies := (List.range 8).filter fun d => cand.any fun c => c / 18 == d
  let hops (d : Nat) : Nat := (homes.map fun h => s.homeHops d h).sum
  let cnt (d : Nat) : Nat := (free.filter fun c => c / 18 == d).length
  let keyed := dies.map fun d => (hops d, 32 - cnt d, d)
  let le (a b : Nat × Nat × Nat) : Bool :=
    decide (a.1 < b.1 ∨ (a.1 = b.1 ∧ (a.2.1 < b.2.1 ∨ (a.2.1 = b.2.1 ∧ a.2.2 ≤ b.2.2))))
  (sortBy le keyed).flatMap fun k => cand.filter fun c => c / 18 == k.2.2

/-- What a group is formed from. -/
structure GroupAsk where
  part  : Nat
  count : Nat
  minc  : Nat
  all   : Bool
  aff   : Nat
  lwl   : Nat
  bars  : Nat
deriving DecidableEq, Repr

/-- Channels no group holds (R329). -/
def State.freeChans (s : State) (n : Nat) : List Nat :=
  lowestFree 32 n (s.place.groups.flatMap fun g => setBits 32 g.bars.toNat)
/-- Cores a partition's groups hold. -/
def State.coresHeld (s : State) (p : Nat) : Nat :=
  ((s.place.groups.filter fun g => g.part == p).map fun g => g.members.length - g.released.length).sum

/-- Cores that the other partitions are guaranteed and do not hold (R348). -/
def State.reserved (s : State) (p : Nat) : Nat :=
  ((s.place.parts.filter fun q => q.num != p).map fun q => q.coresMin - s.coresHeld q.num).sum
/-- How many of some free cores a partition may take (R348): what the others are guaranteed is left, but not at the cost of
its own guarantee. -/
def State.mayTakeCores (s : State) (p free : Nat) : Nat :=
  let own := match s.part p with | some q => q.coresMin - s.coresHeld p | none => 0
  max (free - s.reserved p) (min own free)

/-- Window pages that tasks of another partition last could write read zero; the partition's own keep their bytes (R396). -/
def clearStale (part : Nat) (s : State) (w : Nat × List Nat) : State :=
  let homes := w.2.map fun i => sliceBase w.1 + i * 0x10000
  let s1 := (homes.filter fun h => (assoc s.place.tenants (h / 0x10000)).any (· != part)).foldl (fun s h => s.zeroHome h 0x10000) s
  s1.setTenant part homes

/-- The group's registers on a member (R355 to R357, R329, R326). -/
def joinGroup (g : Group) (score : Bool) (j c : Nat) (s : State) : State :=
  s.upd c fun k => { k with
    idn := { k.idn with
      part := BitVec.ofNat 6 g.part, cls := score, group := BitVec.ofNat 32 g.num
      count := BitVec.ofNat 12 g.members.length, member := BitVec.ofNat 12 j
      gbase := BitVec.ofNat 38 (g.gbase / 2 ^ 26), lwb := BitVec.ofNat 64 (g.gbase + j * 0x4000000)
      lwl := BitVec.ofNat 64 g.lwl, lwp := (g.wins[j]?).getD [] }
    syn := { k.syn with barmask := g.bars, barpend := 0, barfail := 0, wires := 0, sigq := [] } }

/-- The group formed on chosen cores with their windows, or why not: NOSPACE for channels or addresses (R329, R354, R356). -/
def formOn (q : GroupAsk) (score : Bool) (ws : List (Nat × List Nat)) (s : State) : Except Nat (State × Group) :=
  let cs := ws.map (·.1)
  let chans := s.freeChans q.bars
  if chans.length < q.bars then .error 1
  else match s.pickVa q.part (cs.length * 0x4000000) 0x4000000 0x10000000000 with
    | none => .error 1
    | some gbase =>
      match clearWindows ws { s with fresh := s.fresh + 1 } with
      | none => .error 4
      | some s =>
        let g : Group := ⟨s.place.nextGroup % 2 ^ 32, q.part, gbase, q.lwl, cs, [], BitVec.ofNat 32 ((chans.map (2 ^ ·)).sum), false, none, false,
          ws.map (·.2), [], []⟩
        let s := ws.foldl (clearStale q.part) s
        let s := { s with place := { s.place with groups := s.place.groups ++ [g], nextGroup := s.place.nextGroup + 1 } }
        .ok ((cs.zipIdx).foldl (fun s p => joinGroup g score p.2 p.1 s) s, g)

/-- The fewest cores a request accepts (R360). -/
def GroupAsk.need (q : GroupAsk) : Nat := if q.all then q.count else max 1 (min q.minc q.count)
/-- Cores a group request would get, in order, with their windows; none where fewer than it needs have room (R348, R354, R361). -/
def State.pickCores (s : State) (q : GroupAsk) (score : Bool) (coresMax : Nat) (cand : List Nat) : Option (List (Nat × List Nat)) :=
  let want := min (min q.count (coresMax - s.coresHeld q.part)) (s.mayTakeCores q.part cand.length)
  let got := s.fitCores score (q.lwl / 0x10000) want (s.orderCores (s.affHomes q.part q.aff) cand cand) []
  if got.length < q.need then none else some got

/-- Limits of a window length (R361). -/
def lwlOk (n : Nat) : Bool := decide (0 < n ∧ n % 0x10000 = 0 ∧ n ≤ 0x3FE0000)

/-- FLAGS of a descriptor (R99). -/
def descFlags (argc minpriv tpriv : Nat) (gate : Bool) (bank : Nat) : Nat :=
  argc * 2 ^ 16 + minpriv * 2 ^ 14 + b2n gate * 2 ^ 10 + bank * 2 ^ 8 + tpriv * 2 ^ 4 + 1
/-- The descriptors Ringmaster installs on every core (R98, R358, R397, R422; log entry 20): number, FLAGS, ARG bytes. -/
def baseDescs : List (Nat × Nat × Nat) :=
  [(0x1E, descFlags 0 0 2 false 2, 0), (0x1F, descFlags 0 0 2 false 2, 0), (0x20, descFlags 0 0 2 false 2, 0),
   (0x26, descFlags 0 0 2 false 2, 0), (0x27, descFlags 0 0 2 false 2, 0), (0xF0, descFlags 2 1 2 true 2, 0x07C0),
   (0xF1, descFlags 1 0 2 true 2, 0), (0xF2, descFlags 1 0 2 true 2, 0), (0xF3, descFlags 2 0 2 true 2, 0x07C0),
   (0xFE, descFlags 0 2 2 true 2, 0)]
/-- One descriptor stored in a core's table. -/
def putDesc (c n haddr hsp flags extra : Nat) (s : State) : State :=
  { s with mem := s.mem.put (descAddr c n) (leBytes 8 haddr ++ leBytes 8 hsp ++ leBytes 8 flags ++ leBytes 8 extra) }
/-- A core's table drawn anew: the monitor's descriptors, then those of a partition's S context with DELEG set (R534). -/
def installDescs (c : Nat) (sdesc : List (Nat × Vector Word 4)) (s : State) : State :=
  let s0 := { s with mem := s.mem.zero (sliceBase c + 0x3FE0000) 0x2000 }
  let s1 := baseDescs.foldl (fun s d => putDesc c d.1 (4 * (Config.monitorEntry d.1).toNat) 0 d.2.1 d.2.2 s) s0
  sdesc.foldl (fun s d => putDesc c d.1 d.2[0].toNat d.2[1].toNat (d.2[2].toNat ||| 2048) d.2[3].toNat s) s1

/-- GROUP (R354, R360, R361); the members serve the partition and carry its descriptors (R534). -/
def placeGroup (a : Asker) (r : PlaceRec) (s : State) : PlaceOut :=
  match s.part a.part with
  | none => (s, 5, r)
  | some p =>
    let lwl := if r.lwl = 0 then p.lwlDef else r.lwl.toNat
    let q : GroupAsk := ⟨a.part, r.count.toNat, r.mincount.toNat, r.flags.getLsbD 2, r.aff.toNat, lwl, r.bars.toNat⟩
    if !lwlOk lwl || r.count = 0 || decide (128 < r.count.toNat) || decide (32 < r.bars.toNat) then (s, 3, r)
    else match s.pickCores q p.score p.coresMax s.freeCores with
      | none => (s, 4, r)
      | some cs =>
        match formOn q p.score cs s with
        | .error e => (s, e, r)
        | .ok (s, g) => (cs.foldl (fun s w => installDescs w.1 p.sdesc s) s, 0, { r with
            group := BitVec.ofNat 32 g.num, count := BitVec.ofNat 32 cs.length, gbase := BitVec.ofNat 64 g.gbase })

/-- Members leave a group; their channel bits clear; an empty group is no more, and binds no net (R329, R360, R423). -/
def releaseMembers (num : Nat) (js : List Nat) (s : State) : State :=
  match s.place.groups.find? fun g => g.num == num with
  | none => s
  | some g =>
    let gone (x : NetCall) : Bool := js.any fun j => g.members[j]? == some x.core && (s.core x.core).idn.group.toNat == num
    let s0 : State := { s with nets := s.nets.map fun (n : Net) => { n with calls := n.calls.filter fun x => !gone x } }
    let s := js.foldl (fun (s : State) j =>
      match g.members[j]? with
      | some c =>
        if (s.core c).idn.group.toNat = num then
          s.upd c fun k => { k with
            idn := { k.idn with group := 0, count := 0, member := 0, taskseq := 0, gbase := 0, resv := false }
            -- signals of a task displaced here stay queued (R416)
            syn := { k.syn with barmask := 0, barpend := 0, barfail := 0, wires := 0
                                sigq := k.syn.sigq.filter fun e => k.idn.hide && e.group != num } }
        else s
      | none => s) s0
    let rel := (g.released ++ js).eraseDups
    if g.members.length ≤ rel.length then
      { s with
        nets := s.nets.map fun n => if n.bound == some num then { n with bound := none } else n
        place := { s.place with groups := s.place.groups.filter fun h => h.num != num } }
    else
      { s with place := { s.place with groups := s.place.groups.map fun h => if h.num = num then { h with released := rel } else h } }

/-- UNGROUP (R360): a group whose task runs is released with it; one that runs none, its task waiting for its replay perhaps, at once. -/
def placeUngroup (a : Asker) (r : PlaceRec) (s : State) : PlaceOut :=
  match s.place.groups.find? fun g => g.num == r.group.toNat && g.part == a.part with
  | none => (s, 5, r)
  | some g =>
    let mine (t : Task) : Bool := t.group == some g.num
    if s.host.tasks.any fun t => mine t && (t.st == .running || t.st == .ending) then
      ({ s with place := { s.place with
          groups := s.place.groups.map fun h => if h.num = g.num then { h with ungrouped := true } else h } }, 0, r)
    else
      (releaseMembers g.num (List.range g.members.length) { s with host := { s.host with
          tasks := s.host.tasks.map fun t => if mine t then { t with group := none } else t } }, 0, r)

/-! ### The request record (R358, R359) -/

/-- The record in 64 bytes. -/
def placeOfBytes (bs : List Byte) : PlaceRec :=
  let f (o n w : Nat) : BitVec w := BitVec.ofNat w (field bs o n)
  { op := f 0 1 8, status := f 1 1 8, life := f 2 1 8, pattern := f 3 1 8, flags := f 4 2 16, member := f 6 2 16
    size := f 8 8 64, vaddr := f 16 8 64, aff := f 24 8 64, count := f 32 4 32, mincount := f 36 4 32, group := f 40 4 32
    part := f 44 2 16, grant := f 46 2 16, rights := f 48 1 8, bars := f 49 1 8, lwl := f 52 4 32, gbase := f 56 8 64
    zeroOk := decide (field bs 4 2 < 8 ∧ field bs 48 1 < 16 ∧ field bs 50 2 = 0) }
/-- The 64 bytes of a record. -/
def placeBytes (r : PlaceRec) : List Byte :=
  leBytes 1 r.op.toNat ++ leBytes 1 r.status.toNat ++ leBytes 1 r.life.toNat ++ leBytes 1 r.pattern.toNat ++
  leBytes 2 r.flags.toNat ++ leBytes 2 r.member.toNat ++ leBytes 8 r.size.toNat ++ leBytes 8 r.vaddr.toNat ++
  leBytes 8 r.aff.toNat ++ leBytes 4 r.count.toNat ++ leBytes 4 r.mincount.toNat ++ leBytes 4 r.group.toNat ++
  leBytes 2 r.part.toNat ++ leBytes 2 r.grant.toNat ++ leBytes 1 r.rights.toNat ++ leBytes 1 r.bars.toNat ++
  leBytes 2 0 ++ leBytes 4 r.lwl.toNat ++ leBytes 8 r.gbase.toNat

/-- One request (R359, R360, R362): a status other than DONE changes nothing. -/
def placeOp (a : Asker) (r : PlaceRec) (s : State) : PlaceOut :=
  let bad : PlaceOut := (s, 3, r)
  let (s', st, r') :=
    if !r.zeroOk || (s.part a.part).isNone then bad
    else match r.op.toNat with
      | 1 => placeAlloc a r s
      | 2 => placeFree a r s
      | 3 => placeHint a r s
      | 4 => placeGroup a r s
      | 5 => placeUngroup a r s
      | 6 => placeShare a r s
      | 7 => placeAttach a r s
      | 8 => placeDetach a r s
      | _ => bad
  if st = 0 then (s', 0, { r' with status := 0 }) else (s, st, { r with status := BitVec.ofNat 8 st })

/-- Whether a core stands at M in the handler of gate `n`, at the gate's own entry. -/
def Core.inGate (k : Core) (n : Nat) : Bool :=
  k.canIssue && k.level == .m && k.bank != .main && (k.tr.save k.bank).estat.gate &&
  (k.tr.save k.bank).ecause.toNat % 256 == n
/-- Ringmaster's answer to a gate: STATUS in x10 of the handler's bank, which ERET returns (R120, R358). -/
def gateAnswer (c st : Nat) (s : State) : State := s.upd c fun k => k.setX k.bank 10 (BitVec.ofNat 64 st)

/-- Whether a range of a partition still has accesses at its homes that have not completed: applied work, and parked takes
(R363). -/
def State.rangeBusy (s : State) (part va n : Nat) : Bool :=
  s.works.any fun w => w.part == part &&
    ((match w.stage with | .applied _ => true | _ => false) || s.takes.any fun t => t.id == w.id) &&
    w.ranges.any fun r => decide (r.1 < va + n ∧ va < r.1 + r.2)
/-- Whether a FREE or DETACH has still to wait for accesses that reached the home before it (R363). -/
def State.freeWaits (s : State) (a : Asker) (r : PlaceRec) : Bool :=
  match r.op.toNat with
  | 2 => (match s.allocAt a.part r.vaddr.toNat with
    | some al => s.rangeBusy al.part al.vaddr (al.pages * 0x10000) || al.att.any fun t => s.rangeBusy t.2.1 t.2.2 (al.pages * 0x10000)
    | none => false)
  | 8 => s.place.allocs.any fun al => al.att.any fun t => t.1 == r.grant.toNat && t.2.1 == a.part &&
      s.rangeBusy a.part t.2.2 (al.pages * 0x10000)
  | _ => false

/-- A placement request through gate 0xF0 (R358): Ringmaster carries out the record at x10 when its OP is `op`. A
length other than 64 and an unassigned OP complete with BADREQ. A FREE or DETACH that has to wait (R363) waits on, or, as a free
value says, its millisecond is over and it completes with BUSY (R362; log entry 19). -/
def placeService (c op : Nat) (s : State) : Out :=
  if 160 ≤ c then .refused .noSuchUnit
  else if !(s.core c).inGate 0xF0 then done s s
  else
    let s1 := arrive c s
    let k := s1.core c
    let p := k.idn.part.toNat
    let a := (k.rx 10).toNat
    let len := (k.rx 11).toNat
    if len ≠ 64 then
      let s2 := if 2 ≤ len then (s1.writeVa p .m (a + 1) [3]).1 else s1
      done s (gateAnswer c 3 s2)
    else match s1.readVa p .m true a 64 with
      | .error _ => done s (gateAnswer c 3 s1)
      | .ok bs =>
        let r := placeOfBytes bs
        if r.op.toNat = op && r.zeroOk && s1.freeWaits ⟨some c, originOf c, p⟩ r then
          if Config.freeBool s1.fresh then done s (gateAnswer c 6 (s1.writeVa p .m a (splice bs 1 [6])).1).draw else done s s.draw
        else if r.op.toNat = op ∨ r.op.toNat = 0 ∨ 8 < r.op.toNat then
          let (s2, st, r') := placeOp ⟨some c, originOf c, p⟩ r s1
          let out := if st = 0 then placeBytes r' else splice bs 1 [BitVec.ofNat 8 st]
          done s (gateAnswer c st (s2.writeVa p .m a out).1)
        else done s s

/-- ALLOC (R360, R368). -/
def execAlloc (c : Nat) (s : State) : Out := placeService c 1 s
/-- FREE (R363). -/
def execFree (c : Nat) (s : State) : Out := placeService c 2 s
/-- HINT (R360). -/
def execHint (c : Nat) (s : State) : Out := placeService c 3 s
/-- GROUP (R354). -/
def execGroup (c : Nat) (s : State) : Out := placeService c 4 s
/-- UNGROUP (R360). -/
def execUngroup (c : Nat) (s : State) : Out := placeService c 5 s
/-- SHARE (R365). -/
def execShare (c : Nat) (s : State) : Out := placeService c 6 s
/-- ATTACH (R365). -/
def execAttach (c : Nat) (s : State) : Out := placeService c 7 s
/-- DETACH (R360). -/
def execDetach (c : Nat) (s : State) : Out := placeService c 8 s

/-! ### PLACE.QUERY (R372) -/

/-- PLACE_QUERY at issue: op 3 to 15 is illegal. -/
def execPlaceQuery (c : Nat) (rd rs1 : Reg) (cc op : BitVec 4) (s : State) : Out :=
  let e := encQuery rd rs1 cc op
  issueP c e
    (fun s => firstOf [illegalCc e (s.core c) (decide (3 ≤ op.toNat)) cc, (s.core c).ccFull cc])
    (fun s =>
      let k := s.core c
      pushWork { newWork s c cc.toNat (.query k.bank rd op) (k.rx rs1) [] [] with tags := 0 } s) s

/-- The answer to a query (R372). -/
def State.queryVal (s : State) (w : Work) (op : Nat) : Nat :=
  let va := w.addr.toNat
  match (if va < 2 ^ 48 then s.page w.part va else none) with
  | none =>
    match (if va < 2 ^ 48 then s.aperture w.part va else none) with
    | none => if op = 0 then 0x0E0FFF0000000000 else 0
    | some pa =>
      -- a window's page: mapped in the store tier, of no allocation; op 1 and op 2 have no stated result (log entry 19)
      if op ≠ 0 then (Config.freeWord s.fresh).toNat else
        let m := match s.place.groups.find? fun g => g.num == w.group with
          | some g => match g.members.findIdx? fun c => c == pa / 0x4000000 with | some j => j | none => 0xFFF
          | none => 0xFFF
        2 ^ 63 + s.homeHops (originOf w.core) pa % 8 * 2 ^ 54 + m * 2 ^ 40
  | some q =>
    match s.place.allocs.find? fun a => a.id == q.alloc with
    | none => if op = 0 then 0x0E0FFF0000000000 else 0
    | some a =>
      let start := if a.part = w.part then a.vaddr else
        match a.att.find? fun t => t.2.1 == w.part && decide (t.2.2 ≤ va ∧ va < t.2.2 + a.pages * 0x10000) with
        | some t => t.2.2
        | none => a.vaddr
      match op with
      | 0 =>
        let tier := match homeOf q.home with | some (t, _) => t | none => 7
        let m := if tier = 0 then
            (match s.place.groups.find? fun g => g.num == w.group with
             | some g => (match g.members.findIdx? fun c => c == q.home / 0x4000000 with | some j => j | none => 0xFFF)
             | none => 0xFFF)
          else 0xFFF
        2 ^ 63 + b2n a.pinned * 2 ^ 62 + b2n q.moving.isSome * 2 ^ 61 + b2n (!a.att.isEmpty) * 2 ^ 60 + tier * 2 ^ 57 +
          s.homeHops (originOf w.core) q.home % 8 * 2 ^ 54 + m * 2 ^ 40 + a.life % 16 * 2 ^ 36 + a.pattern % 16 * 2 ^ 32 +
          q.moves
      | 1 => start
      | _ => a.pages * 0x10000

/-! ### Migration (R370, R371) -/

/-- PAGE_MIGRATION (R370): a copy of a page begins toward the next faster or slower tier that has room and quota. A
pinned page, one of LIFE 1, one of host memory and one already moving stay. -/
def execPageMigration (part vpage : Nat) (faster : Bool) (s : State) : Out :=
  match s.place.pages.find? fun q => q.part == part && q.vpage == vpage with
  | none => done s s
  | some q =>
    match s.place.allocs.find? fun a => a.id == q.alloc, homeOf q.home with
    | some a, some (t, _) =>
      let origin := match s.part a.part with | some p => 8 + p.owner / 2 | none => 8
      let tiers := if faster then (if t = 2 then [1, 0] else if t = 1 then [0] else []) else
        (if t = 0 then [1, 2] else if t = 1 then [2] else [])
      let holders := (s.place.groups.filter fun g => g.part == a.part).flatMap (·.members)
      let target := tiers.findSome? fun t' =>
        if !s.quotaOk a.part t' (1 + s.tierComing a.part t') then none
        else (if t' = 0 then s.poolPlace (holders.filter fun c => (s.core c).inSvc) 1 else s.stackPlace t' origin 1).head?
      if a.pinned || a.life == 1 || a.host || q.moving.isSome then done s s
      else match target with
        | none => done s s
        | some h => done s { s with place := { s.place with
            pages := s.place.pages.map fun r => if r.home = q.home then { r with moving := some h } else r } }
    | _, _ => done s s

/-- The unit that a log entry names for a physical address (R513). -/
def unitAt (pa : Nat) : Nat :=
  match homeOf pa with
  | some (0, c) => unitOf 0 c
  | some (4, h) => unitOf 2 h
  | some (3, p) => unitOf 5 p
  | some (_, n) => unitOf 3 n
  | none => unitOf 15 0
/-- A copy gives up: the page stays where it is. -/
def State.stopMove (s : State) (h : Nat) : State :=
  { s with place := { s.place with pages := s.place.pages.map fun r => if r.home = h then { r with moving := none } else r } }
/-- The contents of a page are lost at its home (R364): it is poisoned as a whole, word by word too, and the S code of its partitions
notified. -/
def losePage (h : Nat) (s : State) : State :=
  let s1 := s.poisonHome h
  ((s.place.pages.filter fun r => r.home == h).map (·.part)).eraseDups.foldl State.notifyPart
    { s1 with place := { s1.place with pages := s1.place.pages.map fun r => if r.home = h then { r with lost := true } else r } }
/-- A read of a copy's source finds an address uncorrectable (R364, R446, R514). -/
def copyUe (part pa : Nat) (s : State) : State :=
  match lineOf pa with
  | some (n, sram, line) => lineUE n sram line 1 0 s
  | none => s.logAdd 0x02 3 part (unitAt pa) (pa / 32 * 32) 0x54 1 0
/-- MIGRATION_SWITCH (R371): the page's new home takes over at one instant. A poisoned unit of the source stays
poisoned in the copy; `page.ue`, the offset of an uncorrectable one, poisons the page, with ERROR_NOTIFY (R364, R435). A page that may
no longer move, its tier now above its quota, pinned or of LIFE 1, stays (R350, R370). -/
def execMigrationSwitch (part : Nat) (page : PageCopy) (s : State) : Out :=
  match s.place.pages.find? fun q => q.part == part && q.vpage == page.vpage with
  | none => done s s
  | some q =>
    match q.moving, s.place.allocs.find? fun a => a.id == q.alloc with
    | some h, some a =>
      let tier := ((homeOf h).map (·.1)).getD 3
      if a.pinned || a.life == 1 || !s.quotaOk a.part tier 1 then done s (s.stopMove q.home)
      else
        let copied (s : State) : State :=
          let s0 := match page.ue with
            | some o => copyUe q.part (q.home + o % 0x10000) s
            | none => s
          let s1 := (s0.movePage q.home h).countMove q.part q.home h
          if page.ue.isSome then losePage h s1 else s1
        done s (settleWaits (List.range 160) copied s)
    | _, _ => done s s

end Sys2Proof.Machine
end

