-- ==== Sys2Proof/Machine/Members.lean ====
section
/-! DEFINITION. The members of a group: work brought to rest or fenced, cores that go to the monitor and displaced tasks that come back, tasks
stopped and replayed, nets that a failure affects (13 and 14, R397, R403, R405, R413, R416, R435). -/

namespace Sys2Proof.Machine

/-! ### Channels and tasks by number -/

def State.chan (s : State) (n : Nat) : Option Chan := s.host.chans.find? fun c => c.num == n
def State.updChan (s : State) (n : Nat) (f : Chan → Chan) : State :=
  { s with host := { s.host with chans := s.host.chans.map fun c => if c.num == n then f c else c } }
def State.task (s : State) (seq : Nat) : Option Task := s.host.tasks.find? fun t => t.seq == seq
def State.updTask (s : State) (seq : Nat) (f : Task → Task) : State :=
  { s with host := { s.host with tasks := s.host.tasks.map fun t => if t.seq == seq then f t else t } }

/-! ### Members at rest and members fenced (R397, R405, R226, R275, R309) -/

/-- Whether group `g` has nothing in flight on core `c`. -/
def State.memberIdle (s : State) (c g : Nat) : Bool :=
  let k := s.core c
  (s.works.all fun w => !(w.core == c && w.group == g)) &&
  (k.slots.toList.all fun sl => sl.st == SlotSt.free || sl.idn.group.toNat != g) &&
  (k.idn.group.toNat != g || (k.arr.queue.isEmpty && k.arr.upd.isEmpty))

/-- Passes not committed are abandoned FENCED; the update path runs to completion (R226, R275). -/
def fenceArray (c : Nat) (s : State) : State :=
  let s1 := if (s.core c).arr.queue.isEmpty then s else failFrom c 0 0x23 0 s
  arrayUpTo c ((s1.core c).tm.step + 2 ^ 20) 64 s1
/-- TPASSes not committed are abandoned FENCED, and what stands behind one of them fails BEHIND (R222, R275). -/
def fenceUpdates (c : Nat) (s : State) : State :=
  let trap (p : Pass) : Bool := match p.data with | .trap _ _ _ _ _ _ _ _ _ _ => true | _ => false
  let i := (s.core c).arr.queue.findIdx trap
  let s1 := if i < (s.core c).arr.queue.length then failFrom c i 0x23 0 s trap else s
  arrayUpTo c ((s1.core c).tm.step + 2 ^ 20) 64 s1
/-- Open streams that `which` names are drained as by a cancel and their counters fall FENCED (R309). -/
def fenceStreams (c : Nat) (which : Slot → Bool) (s : State) : State :=
  (List.range 16).foldl (fun s i =>
    let sl := s.slot c i
    if sl.st == SlotSt.free || !which sl then s
    else fenceSlot c i s) s
/-- Counted work of a core that `which` names falls FENCED (R405). -/
def fenceWorks (c : Nat) (which : Work → Bool) (s : State) : State :=
  (s.works.filter fun w => w.core == c && which w).foldl (fun s w => finishWork w (some ⟨w.pc, 0, 0x23⟩) s) s

/-- All that group `g` has in flight on core `c` is fenced. -/
def fenceMember (c g : Nat) (s : State) : State :=
  let s1 := if (s.core c).idn.group.toNat = g then
      (clearTake c (fenceArray c s)).upd c fun k => { k with wait := none } else s
  -- it waits in no rendezvous any more (R423)
  let drop (n : Net) : Net :=
    { n with calls := n.calls.filter fun x => !(x.core == c && (s.core c).idn.group.toNat == g) }
  fenceWorks c (fun w => w.group == g) (fenceStreams c (fun sl => sl.idn.group.toNat == g)
    { s1 with nets := s1.nets.map drop })

/-! ### The monitor's hold of a core -/

/-- A core begins to run monitor code, at M in bank 1 as its reset left it (R122, R123; log entry 20). -/
def Core.park (k : Core) : Core :=
  { k with
    tr := { k.tr with status := { k.tr.status with priv := .m, bank := .b1, b1 := true, ie := false } }
    flow := k.flow.handler (BitVec.ofNat 64 (4 * (Config.monitorEntry 0x26).toNat))
    wait := none }

/-- The monitor takes a core over (R397, R405): one in monitor code stays there; to one in a task's code DRAIN is sent, and taken at
once where R111 lets it be. Else it is pending, and the core, whose work has been fenced, serves no other task until it has taken it
(R95; log entry 20). -/
def toMonitor (c : Nat) (s : State) : State :=
  if !(s.core c).inSvc then s
  else if (s.core c).level == .m then s.upd c fun k => { k with wait := none }
  else
    let s1 := s.upd c fun k => k.raise 6
    if (s1.core c).canIssue && readyInterrupt s1 c == some 6 && (faultDue c (arrive c s1)).isNone then takeInterrupt c 6 false (arrive c s1)
    else s1

/-- The live part of a pre-empted core that its task kept in place: counters 0 to 7, slots 0 to 7, monitors 0 to 3,
signals of its group; with the saved rest it resumes (R416). Of the pending interrupts only a borrow is the core's own (R472). The form
in which the PEs were left is saved with the registers (R234, R413; log entry 20, DESIGN CHOICE). -/
def Core.resumeTask (live saved : Core) : Core :=
  let pick {α : Type} (n : Nat) (a b : Vector α 16) : Vector α 16 := Vector.ofFn fun i => if i.val < n then a[i] else b[i]
  let sigq := live.syn.sigq.filter fun e => e.group == saved.idn.group.toNat
  let k : Core := { saved with
    cnt := { cc := pick 8 live.cnt.cc saved.cnt.cc
             ccerr := (live.cnt.ccerr &&& 0xFF) ||| (saved.cnt.ccerr &&& 0xFF00)
             recs := pick 8 live.cnt.recs saved.cnt.recs }
    slots := pick 8 live.slots saved.slots
    mon := { fired := (live.mon.fired &&& 0xF) ||| (saved.mon.fired &&& ~~~0xF), heldFire := false }
    syn := { saved.syn with sigq := sigq }
    idn := { saved.idn with hide := false, resv := true }
    tm := { live.tm with pend := [], delayed := [] }
    arr := { saved.arr with settled := live.arr.settled, bypass := live.arr.bypass }
    tr := { saved.tr with ipend := saved.tr.ipend ||| (live.tr.ipend &&& 0x80) }
    pw := live.pw }
  let k := if live.mon.heldFire then k.raise 3 else k
  if sigq.isEmpty then k else k.raise 2

/-- The cells of a core's protected lines (R68, R98). -/
def State.protectedCells (s : State) (c : Nat) : Mem := s.mem.window (sliceBase c + 0x3FE0000) 0x20000

/-- Displaced tasks come back on the cores that by now stand in monitor code (R413, R416). -/
def bringBack (s : State) : State :=
  (s.host.returning.filter fun q => (s.core q.1).level == .m).foldl (fun (s : State) q =>
    let s1 := s.upd q.1 fun k => k.resumeTask ((s.savedCore q.1).getD k)
    { s1 with
      mem := s1.mem.putWindow (sliceBase q.1 + 0x3FE0000) 0x20000 q.2.2
      armed := s1.armed.filter fun a => !(a.1 == q.1 && decide (4 ≤ a.2.1))
      host := { s1.host with returning := s1.host.returning.filter fun p => p.1 != q.1 } }) s

/-- A task displaced from a core has nothing saved there that will resume. -/
def dropSaved (c g : Nat) (s : State) : State :=
  let stays (q : Nat × Core × Mem) : Bool := !(q.1 == c && q.2.1.idn.group.toNat == g)
  { s with host := { s.host with
      tasks := s.host.tasks.map fun t => { t with saved := t.saved.filter stays }
      returning := s.host.returning.filter stays } }
/-- A core leaves group `g` and goes to the monitor, which lets a task displaced there resume. -/
def leaveCore (c g : Nat) (s : State) : State :=
  if (s.core c).idn.group.toNat ≠ g then
    -- the displaced task itself is stopped: nothing of it will resume
    dropSaved c g s
  else
    match s.host.tasks.findSome? fun t => t.saved.find? fun q => q.1 == c with
    | some q => bringBack (toMonitor c { s with host := { s.host with
        tasks := s.host.tasks.map fun t => { t with saved := t.saved.filter fun q => q.1 != c }
        returning := s.host.returning ++ [q] } })
    | none => toMonitor c s

/-- Live members of a group: number and core. -/
def Group.live (g : Group) : List (Nat × Nat) :=
  ((g.members.zipIdx).filter fun p => !g.released.contains p.2).map fun p => (p.2, p.1)
def State.group (s : State) (num : Nat) : Option Group := s.place.groups.find? fun g => g.num == num
def State.taskGroup (s : State) (t : Task) : Option Group := t.group.bind s.group

/-- A task's group is released: each member's registers are cleared, and its core goes back (R326, R329, R360). -/
def releaseTask (t : Task) (s : State) : State :=
  match s.taskGroup t with
  | none => s.updTask t.seq fun t => { t with group := none }
  | some g =>
    let s1 := releaseMembers g.num (List.range g.members.length) (g.live.foldl (fun s p => fenceMember p.2 g.num s) s)
    -- `releaseMembers` has cleared the group number of the members that still held it
    (g.live.foldl (fun s p =>
      if (s.core p.2).idn.group = 0 then leaveCore p.2 0 s else leaveCore p.2 g.num s) s1).updTask t.seq
        fun t => { t with group := none, saved := [] }

/-- A running task is stopped where it is: its work is fenced and its cores go back. -/
def stopTask (t : Task) (s : State) : State :=
  match s.taskGroup t with
  | none => s
  | some g => releaseTask t (g.live.foldl (fun s p => fenceMember p.2 g.num s) s)

/-- Staging contents discarded (R403). -/
def clearStaging (t : Task) (s : State) : State :=
  match t.staging with
  | none => s
  | some id =>
    let homes := (s.place.pages.filter fun q => q.alloc == id).map (·.home)
    let copies := s.place.allocs.flatMap fun a => if a.id = id then a.copies else []
    (homes ++ copies).foldl (fun s h => s.zeroHome h 0x10000) s

/-- A stopped task waits to be run again from its record (R403, R405). -/
def requeue (t : Task) (replayed : Bool) (s : State) : State :=
  (clearStaging t (stopTask t s)).updTask t.seq fun t =>
    { t with st := .queued, replayed := t.replayed || replayed, result := 0, failed := none, start := 0, cores := 0 }

/-- A part fault under a task: it is replayed, counted and logged (R403, R511, R514). -/
def replayTask (t : Task) (code : Nat) (eseq : Nat) (s : State) : State :=
  let part := match s.chan t.ch with | some c => c.part | none => 0xFF
  ((requeue t true s).countPart part 56 1).logAdd 0x1F 3 part (unitOf 15 0) t.seq t.ch code eseq

/-! ### Nets that a failure affects (R423, R434, R435) -/

def State.net (s : State) (n : Nat) : Option Net := s.nets.find? fun t => t.num == n
def State.updNet (s : State) (n : Nat) (f : Net → Net) : State := { s with nets := s.nets.map fun t => if t.num == n then f t else t }

/-- The page that maps an address of the net's partition. -/
def State.netPage (s : State) (t : Net) (va : Nat) : Option Page := s.page t.part va
/-- Whether some page of a net is poisoned (R435). -/
def State.netPoisoned (s : State) (t : Net) : Bool :=
  t.pages.any fun va => match s.netPage t va with
    | some q => decide (2 ^ 48 ≤ q.home) || s.isPoisoned q.home 0x10000
    | none => false
/-- A failure affects nets together: the tasks that hold them are fenced, each once, to be replayed when the nets are restored (R435).
A member that still waits at the gate stays in its rendezvous. -/
def affectNets (code eseq : Nat) (ts : List Net) (s : State) : State :=
  let holder (t : Net) : Option Task := t.bound.bind fun g =>
    s.host.tasks.find? fun u => u.group == some g && (u.st == .running || u.st == .ending || u.st == .queued)
  let s1 := ((ts.filterMap holder).eraseDups).foldl (fun s u => if u.st == .queued then s else replayTask u code eseq s) s
  ts.foldl (fun s t => s.updNet t.num fun u => { u with
    dirtyNeed := true, waiting := ((holder t).map (·.seq)).orElse fun _ => u.waiting, bound := none }) s1
/-- Ringmaster finds the nets of which a page has come to be poisoned (R364, R435). A net that is LOST has none to restore (R431). The
failure is the one logged last. -/
def affectPoisoned (s : State) : State :=
  match s.nets.filter fun t => !t.dirtyNeed && !t.lost && s.netPoisoned t with
  | [] => s
  | ts => affectNets 0x02 (s.log.next - 1) ts s

end Sys2Proof.Machine
end

