-- ==== Sys2Proof/Machine/Link.lean ====
section
/-! DEFINITION. The Tsufy ports: WATCH, port states, rings and completion records, acceptance of task records (13, R373 to R394, R404). -/

namespace Sys2Proof.Machine

/-! ### WATCH (R378 to R381) -/

/-- ILLEGAL_OP of a monitor number (R378, R382); of monitors 0 to 3 while TRESV.HIDE hides them (R416; log entry 20). -/
def illegalMon (e : Enc) (k : Core) (c : Nat) (m : BitVec 6) : Option Trap :=
  if !isHub c && (decide (8 ≤ m.toNat) || (k.level == .t && decide (6 ≤ m.toNat))) then some (illegal e 0)
  else if k.level == .t && decide (6 ≤ m.toNat ∧ m.toNat ≤ 7) then some (illegal e 0)
  else if k.level == .t && k.idn.resv && decide (4 ≤ m.toNat ∧ m.toNat ≤ 5) then some (illegal e 4)
  else if k.ccHidden (2 * m.toNat) then some (illegal e 4)
  else none

/-- WATCH_ARM at issue (R379): counted work; the monitor is armed when the home grants the copy. -/
def execWatchArm (c : Nat) (rd rs1 : Reg) (m : BitVec 6) (cc : BitVec 4) (s : State) : Out :=
  let e := encWatch 0 rd rs1 cc m
  issueP c e
    (fun s =>
      let k := s.core c
      let a := k.rx rs1
      firstOf [illegalCc e k false cc, illegalMon e k c m,
        (if a.toNat % 8 ≠ 0 then some (misaligned a k.flow.pc 0) else none), k.ccFull cc])
    (fun s =>
      let k := s.core c
      let a := k.rx rs1
      pushWork { newWork s c cc.toNat (.arm k.bank rd m) a [(a, 8)] [] with tags := 0 } s) s

/-- A monitor disarmed. -/
def State.disarm (s : State) (c m : Nat) : State := { s with armed := s.armed.filter fun a => !(a.1 == c && a.2.1 == m) }
/-- A monitor armed on the line of a physical address (R379). -/
def State.arm (s : State) (c m pa : Nat) : State :=
  { (s.disarm c m) with armed := (s.disarm c m).armed ++ [(c, m, pa / 64 * 64)] }

/-- WATCH_DIS (R380): WFIRED is not touched. -/
def execWatchDis (c : Nat) (m : BitVec 6) (s : State) : Out :=
  let e := encWatch 1 0 0 0 m
  issueP c e (fun s => illegalMon e (s.core c) c m) (fun s => s.disarm c m.toNat) s

/-- WATCH_WAIT (R381). -/
def execWatchWait (c : Nat) (rd rs1 : Reg) (s : State) : Out :=
  let e := encWatch 2 rd rs1 0 0
  issueWait c e noFault id (fun s => mkWait s c .watch rd rs1 false false e) s

/-! ### Host memory and rings (R374, R385, R386) -/

/-- Big Top physical address of a port's host memory (R345). -/
def hostPa (p a : Nat) : Nat := 0x400000000000 + p * 0x100000000000 + a
/-- Whether a host range lies in the aperture. -/
def inAperture (a n : Nat) : Bool := decide (a + n ≤ 2 ^ 44)

def State.portActive (s : State) (p : Nat) : Bool := (s.port p).st == .active

/-- Rings by number: a task channel below 256, the management channel of port `p` as `256 + p`; with the port. -/
def State.ring (s : State) (r : Nat) : Option (Nat × Ring) :=
  if r < 256 then (s.chan r).map fun c => (c.port, c.ring)
  else ((s.port (r - 256)).ring).map fun g => (r - 256, g)
def State.updRing (s : State) (r : Nat) (f : Ring → Ring) : State :=
  if r < 256 then s.updChan r fun c => { c with ring := f c.ring }
  else s.updPort (r - 256) fun p => { p with ring := p.ring.map f }

/-- CQ_HEAD as the host's memory holds it (R385). -/
def State.cqHead (s : State) (p : Nat) (g : Ring) : Nat := s.mem.nat (hostPa p g.hcb) 8
/-- LAP of the `k`-th record of a ring of `n` entries (R386). -/
def lapOf (k n : Nat) : Nat := (k / n + 1) % 65536

/-! ### The journal (R392, R393, R402) -/

def JWhat.isAccept (w : JWhat) (seq : Nat) : Bool := w == JWhat.accept seq
/-- An entry is appended on the lead hub. -/
def State.journal (s : State) (w : JWhat) : State :=
  { s with host := { s.host with
      journal := s.host.journal ++ [⟨s.host.nextJ, w, s.time, false⟩], nextJ := s.host.nextJ + 1 } }
/-- Whether an entry has become durable. -/
def State.durable (s : State) (w : JWhat) : Bool := s.host.journal.any fun e => e.what == w && e.durable
/-- Fewer than two mirrors in service (R393). -/
def State.single (s : State) : Bool := decide (s.host.mirrors.length < 2)

/-! ### Completion records (R388, R390) -/

/-- A record of a ring as written with its LAP. -/
def compBytes (lap : Nat) (r : CompRec) : List Byte :=
  leBytes 2 lap ++ leBytes 1 r.kind.toNat ++ leBytes 1 r.reason.toNat ++ leBytes 2 r.channel.toNat ++ leBytes 2 r.flags.toNat ++
  (match r.data with
   | some bs => bs
   | none =>
     leBytes 8 r.seq.toNat ++ leBytes 8 r.tag.toNat ++ leBytes 8 r.time.toNat ++ leBytes 8 r.start.toNat ++
     leBytes 8 r.result.toNat ++ leBytes 4 r.ridx.toNat ++ leBytes 4 r.cores.toNat ++ leBytes 8 0)

/-- A record of ring `r` under KIND: fields that R388 does not state for the KIND are free values (log entry 20). -/
def State.newRec (s : State) (r kind : Nat) (tag : Word) (ridx : Nat) : CompRec :=
  ⟨BitVec.ofNat 8 kind, Config.freeByte s.fresh, if r < 256 then BitVec.ofNat 16 r else 0xFFFF, 0, 0, tag,
   Config.freeWord s.fresh, 0, Config.freeWord (s.fresh + 1), BitVec.ofNat 32 ridx, 0, none⟩

/-- Bytes of staging, from either copy (R400): both hold what was last written, and the second one is read, of a page that has
it, where the mapped one cannot be (log entry 19). -/
def State.stagedBytes (s : State) (al : Option Alloc) (part va n : Nat) : Option (List Byte) :=
  match s.readVa part .m false va n with
  | .ok bs => some bs
  | .error _ =>
    match al.bind fun a => (a.copy2[(va - a.vaddr) / 0x10000]?).join, s.page part va with
    | some h, some q =>
      if s.homeUp h && !s.isPoisoned (h + va % 0x10000) n then some (s.mem.bytes (q.home + va % 0x10000) n) else none
    | _, _ => none
/-- An output copied out of staging with far writes, page piece by page piece; what neither copy can give stays as it is (R399). -/
def copyVa (al : Option Alloc) (part src dst n : Nat) (s : State) : State :=
  (pagesOf src n).foldl (fun s q =>
    match s.stagedBytes al part q.1 q.2 with
    | some bs => (s.writeVa part .m (dst + (q.1 - src)) bs).1
    | none => s) s

/-- Staging is freed. -/
def freeStaging (t : Task) (s : State) : State :=
  match t.staging with
  | some id => (s.dropAlloc id).updTask t.seq fun t => { t with staging := none }
  | none => s

/-- The last 1,024 finished tasks of a channel (R391). -/
def Chan.finish (c : Chan) (t : Task) (aborted : Bool) : Chan :=
  { c with finished := ((t.trec.tag, t.seq, aborted) :: c.finished).take 1024 }

/-- What goes before a final record (R399, R400): outputs published, then PUBLISHED appended and the staging freed. -/
def publish (t : Task) (kind idx : Nat) (s : State) : State :=
  let part := match s.chan t.ch with | some c => c.part | none => 0
  let al := t.staging.bind fun id => s.place.allocs.find? fun a => a.id == id
  let s := if kind = 3 then
      copyVa al part t.out1 t.trec.out1.toNat t.trec.olen1.toNat (copyVa al part t.out0 t.trec.out0.toNat t.trec.olen0.toNat s)
    else s
  let s := if kind = 5 then s else s.journal (.published t.seq)
  (freeStaging t (s.updTask t.seq fun t =>
    { t with st := if kind = 5 then .aborted else .published, finalIdx := some idx })).updChan t.ch fun c =>
      c.finish t (decide (kind = 5))

/-- One record is written: outputs first for a final record, SINGLE as the mirrors stand (R386, R393, R399). -/
def emitRec (r : Nat) (x : CompRec) (s : State) : State :=
  match s.ring r with
  | none => s
  | some (p, g) =>
    let s1 := if 3 ≤ x.kind.toNat ∧ x.kind.toNat ≤ 5 then
        (match s.task x.seq.toNat with | some t => publish t x.kind.toNat g.posted s | none => s)
      else s
    let x1 := if s.single ∧ x.kind ≠ 8 then { x with flags := x.flags ||| 1 } else x
    (s1.writePhys (hostPa p (g.cqbase + g.posted % g.c * 64)) (compBytes (lapOf g.posted g.c) x1)).updRing r
      fun g => { g with posted := g.posted + 1 }

/-- Waiting records are written in order while the port is ACTIVE and entries are free; the two of a PLACE reply
together, the second first (R386, R390, R409). -/
def flushRing (r : Nat) : Nat → State → State
  | 0, s => s
  | fuel + 1, s =>
    match s.ring r with
    | none => s
    | some (p, g) =>
      let room := g.c - (g.posted - s.cqHead p g)
      if !s.portActive p then s else
        match g.waiting with
        | [] => s
        | [x] => if 1 ≤ room then emitRec r x (s.updRing r fun g => { g with waiting := [] }) else s
        | x :: y :: rest =>
          let need := if y.kind = 8 then 2 else 1
          if need ≤ room then
            flushRing r fuel (emitRec r x (s.updRing r fun g => { g with waiting := y :: rest }))
          else s

/-! ### Slots and DCB (R383 to R386) -/

/-- Slots a channel holds: tasks whose final record CQ_HEAD has not passed. -/
def State.held (s : State) (ch : Nat) : Nat := (s.host.tasks.filter fun t => t.ch == ch).length
/-- The shared remainder. -/
def State.shared (s : State) : Nat := 8192 - (s.host.chans.map fun c => max (s.held c.num) c.credMin).sum
/-- Slots free to a channel. -/
def State.slotsFree (s : State) (c : Chan) : Nat :=
  min (c.credMax - s.held c.num) ((c.credMin - s.held c.num) + s.shared)
/-- SQ_TAKEN (R391): the durable position. -/
def State.sqTaken (s : State) (r : Nat) (g : Ring) : Nat :=
  (minOf (((s.host.tasks.filter fun t => t.ch == r && !s.durable (.accept t.seq)).map (·.ridx)) ++
    s.host.journal.filterMap fun e => match e.what with
      | .abort _ ch ridx _ => if !e.durable && ch == r then some ridx else none
      | .disable _ p ridx _ _ _ => if !e.durable && 256 + p == r then some ridx else none
      | _ => none)).getD g.taken

/-- DCB is written where what it reports has changed (R386). -/
def writeDcb (r : Nat) (s : State) : State :=
  match s.ring r with
  | none => s
  | some (p, g) =>
    let (free, held) := match (if r < 256 then s.chan r else none) with
      | some c => (s.slotsFree c, s.held r)
      | none => (0, 0)
    let bs := leBytes 8 (s.sqTaken r g) ++ leBytes 4 free ++ leBytes 4 held
    let pa := hostPa p g.dcb
    if !s.portActive p ∨ s.mem.bytes pa 16 = bs then s else s.writePhys pa bs

/-- Tasks whose final record CQ_HEAD has passed leave their slots (R384). -/
def purge (ch : Nat) (s : State) : State :=
  match s.chan ch with
  | none => s
  | some c =>
    if !s.portActive c.port then s else
      let head := s.cqHead c.port c.ring
      { s with host := { s.host with tasks := s.host.tasks.filter fun t =>
          !(t.ch == ch && (match t.finalIdx with | some i => decide (i < head) | none => false)) } }

/-- ABORT entries of a channel that are not yet durable: each still owes its reply (R404). -/
def State.abortsDue (s : State) (ch : Nat) : Nat :=
  (s.host.journal.filter fun e => !e.durable && (match e.what with | .abort _ c _ _ => c == ch | _ => false)).length
/-- A closing channel whose last final record and replies are written is closed and answered (R389, R404). -/
def closeDone (ch : Nat) (s : State) : State :=
  match s.chan ch with
  | none => s
  | some c =>
    match c.closing with
    | none => s
    | some (h, ridx) =>
      if !c.ring.waiting.isEmpty || s.abortsDue ch != 0 || (s.host.tasks.any fun t => t.ch == ch && t.finalIdx.isNone) then s
      else
        let x := { s.newRec (256 + c.port) 7 h.tag ridx with reason := 0 }
        let s1 := { s with
          fresh := s.fresh + 2
          host := { s.host with
            chans := s.host.chans.filter fun d => d.num != ch
            tasks := s.host.tasks.filter fun t => t.ch != ch } }
        s1.updRing (256 + c.port) fun g => { g with waiting := g.waiting ++ [x] }

/-- Whatever the rings have come to owe is done: records, slots, closings, control lines. -/
def pump (s : State) : State :=
  let chs := s.host.chans.map (·.num)
  let fuel (s : State) (r : Nat) : Nat := match s.ring r with | some (_, g) => g.waiting.length + 1 | none => 0
  let s1 := chs.foldl (fun s n => closeDone n (purge n (flushRing n (fuel s n) s))) s
  let s2 := (List.range 4).foldl (fun s p => flushRing (256 + p) (fuel s (256 + p)) s) s1
  (chs ++ (List.range 4).map (256 + ·)).foldl (fun s r => writeDcb r s) s2

/-- The service minimum (R440). -/
def State.minService (s : State) : Bool :=
  (List.range 4).any (fun p => (s.hub (p / 2)).insvc && ((s.port p).st == .announced || (s.port p).st == .active)) &&
  !s.inSvcCores.isEmpty

/-- A command that the link or Ringmaster carries out: what it owes follows, and the waits it satisfies end;
a fall below the service minimum is logged (R440). -/
def hostDone (s0 s1 : State) : Out :=
  let s2 := pump (affectPoisoned (bringBack s1))
  let s3 := if s0.minService && !s2.minService then s2.logAdd 0x12 3 0xFF (unitOf 15 0) s2.feat3 s2.feat6 0 0 else s2
  done s0 (settleAfter (List.range 160) s0 s3)

/-- A record is due: it waits its turn. -/
def postRec (r : Nat) (x : CompRec) (s : State) : State :=
  { (s.updRing r fun g => { g with waiting := g.waiting ++ [x] }) with fresh := s.fresh + 2 }

/-- Completion entries promised and not yet written: to records that wait, to tasks without their records, to
management replies that are to come (R384). -/
def State.promised (s : State) (r : Nat) : Nat :=
  let waiting := match s.ring r with | some (_, g) => g.waiting.length | none => 0
  if r < 256 then
    waiting + ((s.host.tasks.filter fun t => t.ch == r && t.finalIdx.isNone).map fun t =>
      if s.durable (.accept t.seq) then 1 else 2).sum
      + s.abortsDue r
  else
    waiting + (s.host.disables.filter fun d => d.port == r - 256).length
      + (s.host.chans.filter fun c => c.port == r - 256 && c.closing.isSome).length
/-- Completion entries free for new records. -/
def State.entriesFree (s : State) (r : Nat) : Nat :=
  match s.ring r with
  | some (p, g) => g.c - (g.posted - s.cqHead p g) - s.promised r
  | none => 0

/-! ### Monitors that fire (R380, R412) -/

/-- WATCH_FIRE (R380): the line of an armed monitor is written by another agent, or its copy is taken back. -/
def execWatchFire (c : Nat) (m : BitVec 6) (w : LineEvent) (s : State) : Out :=
  if 160 ≤ c then .refused .noSuchUnit else
    match s.armed.find? fun a => a.1 == c && a.2.1 == m.toNat with
    | none => done s s
    | some a =>
      match w with
      | .written bytes => hostDone s (s.storeFar a.2.2 (bytes.take 64)).1
      | .takenBack => hostDone s (s.fireAll [a])

/-! ### Port states (R375 to R377, R504) -/

/-- The ANNOUNCE message (R504). -/
def announceBytes (bootid : Word) (port lead hint : Nat) (svn : Word) (time feat3 feat6 : Nat) : List Byte :=
  let magic : List Byte := [0x48, 0x42, 0x58, 0x5A, 0x34, 0x38, 0x41, 0x4E]
  magic ++ leBytes 8 bootid.toNat ++ leBytes 1 port ++ leBytes 1 lead ++ leBytes 1 hint ++ leBytes 5 0 ++ leBytes 8 svn.toNat ++
    leBytes 8 time ++ leBytes 8 feat3 ++ leBytes 8 feat6 ++ leBytes 8 0
/-- Cold start ends when a port first reaches ANNOUNCED (R492). -/
def endColdStart (s : State) : State :=
  [0, 1].foldl (fun s h => if (s.hub h).insvc && (s.hub h).step == 4 then s.updHub h fun q => { q with step := 5 } else s) s
/-- Spare lanes stand in for the lanes of a port that fail, two in each direction (R373, R461). -/
def steerPort (p : Nat) (failed : List (Bool × Nat)) (s : State) : State :=
  let was := (s.port p).lanes
  let more := (failed.eraseDups.filter fun l => decide (l.2 < 34) && !was.contains l)
  let s1 := s.updPort p fun q => { q with lanes := was ++ more }
  more.foldl (fun s l => s.logAdd 0x08 1 0xFF (unitOf 5 p) (Config.unitTest 10).toNat l.2 0 0) s1
/-- Whether no more lanes of a port have failed than spares stand in for (R375). -/
def State.lanesOk (s : State) (p : Nat) : Bool :=
  [true, false].all fun d => decide (((s.port p).lanes.filter fun l => l.1 == d).length ≤ 2)
/-- A port's training has ended (R376, R461, R504): ANNOUNCED with the announce message sent, or DOWN, where a third lane of one direction
has failed as such. -/
def trainPort (p : Nat) (r : PortTest) (s0 : State) : State :=
  let s := steerPort p r.failed s0
  if r.ok && s.lanesOk p then
    let s1 := (s.updPort p fun q => { q with st := .announced, since := s.time }).chg
    let q := s.hub s.pkg.lead
    endColdStart (s1.updPort p fun u => { u with sent := u.sent ++
      [.announce (announceBytes s.pkg.bootid p s.pkg.lead q.hint q.svn s.time s1.feat3 s1.feat6)] })
  else (s.updPort p fun q => { q with st := .down, since := s.time }).logAdd 0x0E 2 0xFF (unitOf 5 p) (if s.lanesOk p then 1 else 2) 0 0 0
/-- PORT_TRAINING_DONE (R376). -/
def execPortTrainingDone (p : Nat) (r : PortTest) (s : State) : Out :=
  if 4 ≤ p then .refused .noSuchUnit
  else if (s.port p).st != .training then done s s
  else hostDone s (trainPort p r s)

/-- A port goes DOWN (R375, R380, R409): monitors on its lines fire. -/
def portDown (p cause : Nat) (s : State) : State :=
  let was := (s.port p).st
  if was == .off || was == .down || was == .training then s else
    let s1 := ((s.updPort p fun q => { q with st := .down, since := s.time }).chg).logAdd 0x0E 2 0xFF (unitOf 5 p) cause 0 0 0
    s1.fireAll (s1.armed.filter fun m => homeOf m.2.2 == some (3, p))

/-- PORT_DOWN (R375): causes 0 to 3 in the order of R375. -/
def execPortDown (p : Nat) (cause : BitVec 2) (s : State) : Out :=
  if 4 ≤ p then .refused .noSuchUnit else hostDone s (portDown p cause.toNat s)

/-- PORT_RETRAIN (R376): the interval of 10 ms is over and an attempt begins. -/
def execPortRetrain (p : Nat) (s : State) : Out :=
  if 4 ≤ p then .refused .noSuchUnit
  else if (s.port p).st != .down || !(s.hub (p / 2)).insvc then done s s
  else done s ((s.tickTo ((s.port p).since + 10000000)).updPort p fun q => { q with st := .training })

/-- Whether no two ranges of a list overlap. -/
def disjointRanges : List (Nat × Nat) → Bool
  | [] => true
  | r :: rs => rs.all (fun q => decide (r.1 + r.2 ≤ q.1 ∨ q.1 + q.2 ≤ r.1)) && disjointRanges rs

/-- Rules of a MGMT_SETUP message (R377). -/
def setupOk (m : SetupMsg) : Bool :=
  let rs := [(m.sqbase.toNat, 128 * m.e.toNat), (m.cqbase.toNat, 64 * m.c.toNat), (m.hcb.toNat, 64), (m.dcb.toNat, 64)]
  m.magicOk && m.zeroOk && isPow2 m.e.toNat && isPow2 m.c.toNat &&
  decide (64 ≤ m.e.toNat ∧ m.e.toNat ≤ 65536 ∧ 64 ≤ m.c.toNat ∧ m.c.toNat ≤ 65536) &&
  decide (m.sqbase.toNat % 128 = 0 ∧ m.cqbase.toNat % 64 = 0 ∧ m.hcb.toNat % 64 = 0 ∧ m.dcb.toNat % 64 = 0) &&
  rs.all (fun r => inAperture r.1 r.2) && disjointRanges rs

/-- A host reaches the device through port `p`: what the ports of a lost hub carried goes on through it (R410; log entry 20). -/
def adoptChans (p : Nat) (s : State) : State :=
  let lost (q : Nat) : Bool := !(s.hub (q / 2)).insvc
  { s with
    host := { s.host with chans := s.host.chans.map fun c => if lost c.port then { c with port := p } else c }
    place := { s.place with parts := s.place.parts.map fun q => if lost q.owner then { q with owner := p } else q } }
/-- MGMT_SETUP (R376, R377): a valid message makes an ANNOUNCED port ACTIVE; positions continue after DOWN. -/
def execMgmtSetup (p : Nat) (m : SetupMsg) (s : State) : Out :=
  if 4 ≤ p then .refused .noSuchUnit
  else
    let q := s.port p
    if q.st != .announced && q.st != .active then done s s
    else
      let good := q.st == .announced && setupOk m
      let reply : Vc3 := .setupReply (if good then 0 else 3) s.pkg.bootid
      if !good then done s (s.updPort p fun q => { q with sent := q.sent ++ [reply] })
      else
        let old : Ring := q.ring.getD ⟨0, 0, 0, 0, 64, 64, 0, 0, []⟩
        let g : Ring := { old with
          sqbase := m.sqbase.toNat, cqbase := m.cqbase.toNat, hcb := m.hcb.toNat, dcb := m.dcb.toNat, e := m.e.toNat, c := m.c.toNat }
        let s1 := (s.updPort p fun q =>
          { q with st := .active, since := s.time, wasActive := true, ring := some g, sent := q.sent ++ [reply] }).logAdd
            0x0F 0 0xFF (unitOf 5 p) (b2n q.wasActive) 0 0 0
        hostDone s (adoptChans p s1)

/-! ### Records of a task channel (R384, R387, R391, R404) -/

/-- Whether the next record of a ring may be looked at, with `need` completion entries free (R384, R407, R409, R440). -/
def State.mayTake (s : State) (c : Chan) (lap need : Nat) : Bool :=
  s.portActive c.port && s.minService && c.closing.isNone && lap == lapOf c.ring.taken c.ring.e &&
  (match s.part c.part with | some p => !p.disabled | none => false) && decide (need ≤ s.entriesFree c.num)

/-- The record is consumed, and with it the time its line fired. -/
def takeEntry (r : Nat) (s : State) : State :=
  let s := match s.ring r with
    | some (p, g) =>
      let line := hostPa p (g.sqbase + g.taken % g.e * 128)
      { s with host := { s.host with fires := s.host.fires.filter fun f => f.1 != line } }
    | none => s
  s.updRing r fun g => { g with taken := g.taken + 1 }

/-- A rejected record (R391): EVC57 counts it. -/
def rejectRec (c : Chan) (reason : Nat) (tag : Word) (result : Option Word) (s : State) : State :=
  let x := s.newRec c.num 2 tag (c.ring.taken % c.ring.e)
  let x := { x with reason := BitVec.ofNat 8 reason, result := result.getD x.result }
  (postRec c.num x (takeEntry c.num s)).countPart c.part 57 1

/-- A record of ABORT or NOP breaks R387. -/
def otherBad (r : TaskRec) : Bool := !r.zeroOk || decide (4 ≤ r.flags.toNat) || r.entry != 0

/-- Step 1 of R391: the REJECT reason of a TASK record, if any. -/
def taskBad (p : Part) (r : TaskRec) : Option Nat :=
  if r.op ≠ 1 ∨ !r.zeroOk ∨ 4 ≤ r.flags.toNat ∨ r.entry.toNat % 4 ≠ 0 ∨ r.count = 0 ∨ 128 < r.count.toNat ∨
      r.out0.toNat % 64 ≠ 0 ∨ r.out1.toNat % 64 ≠ 0 ∨ r.olen0.toNat % 64 ≠ 0 ∨ r.olen1.toNat % 64 ≠ 0 ∨
      (r.lwl ≠ 0 ∧ lwlOk r.lwl.toNat = false) ∨ 32 < r.bars.toNat ∨ (p.score = true ∧ r.deadline = 0) then some 1
  else if p.coresMax < r.count.toNat then some 5
  else none

/-- The task that a channel knows under a tag (R391): its sequence number, and whether it was aborted. -/
def State.known (s : State) (c : Chan) (tag : Word) : Option (Nat × Bool) :=
  match s.host.tasks.find? fun t => t.ch == c.num && t.trec.tag == tag with
  | some t => some (t.seq, t.abortReq)
  | none => (c.finished.find? fun f => f.1 == tag).map (·.2)

/-- Channels that go before `c` for the shared remainder (R384): a present TASK entry that needs a shared slot, of the
scoring class before the training class, then in rotation. -/
def State.rivals (s : State) (c : Chan) : Nat :=
  let score (d : Chan) : Bool := match s.part d.part with | some p => p.score | none => false
  let place (d : Chan) : Nat := (d.num + 256 - s.host.rotor % 256) % 256
  (s.host.chans.filter fun d =>
    let pa := hostPa d.port (d.ring.sqbase + d.ring.taken % d.ring.e * 128)
    d.num != c.num && s.mayTake d (s.mem.nat pa 2) 2 && s.mem.get (pa + 2) == 1 && decide (d.credMin ≤ s.held d.num) &&
    decide (s.held d.num < d.credMax) && ((score d && !score c) || (score d == score c && decide (place d < place c)))).length

/-- A slot is free to a channel: one of its own, or of the remainder in turn (R383, R384). -/
def State.slotFree (s : State) (c : Chan) : Bool :=
  decide (s.held c.num < c.credMax) && (decide (s.held c.num < c.credMin) || decide (s.rivals c < s.shared))

/-- Homes for both copies of staging (R395, R440): different stacks; pools on different dies where fewer than two
stacks are in service; a single copy where one die is. -/
def State.stageHomes (s : State) (part origin n : Nat) : Except Nat (List Nat × List Nat) :=
  let tierPlace (t : Nat) : Option (List Nat × List Nat) :=
    let a := s.stackPlace t origin n
    if a.length ≠ n then none else
      let second := a.foldl (fun (got : Option (List Nat)) h =>
        match got, homeOf h with
        | some ls, some (_, st) =>
          ((s.nearStacks origin).filter (· != st)).findSome? fun i =>
            ((s.stackTake t i (n + n)).find? fun x => !a.contains x && !ls.contains x).map fun x => ls ++ [x]
        | _, _ => none) (some [])
      second.map fun b => (a, b)
  let dies := (List.range 8).filter fun d => s.inSvcCores.any fun c => c / 18 == d
  let pool (d : Nat) : List Nat := s.poolPlace (s.inSvcCores.filter fun c => c / 18 == d) n
  let poolPair : Option (List Nat × List Nat) :=
    match dies.filter fun d => (pool d).length == n with
    | a :: b :: _ => some (pool a, pool b)
    | [a] => if dies.length ≤ 1 then some (pool a, []) else none
    | [] => none
  let options : List (Nat × Option (List Nat × List Nat)) :=
    if s.stacksUp.length < 2 then [(0, poolPair)] else [(2, tierPlace 2), (1, tierPlace 1)]
  match options.findSome? fun o => match o.2 with
      | some ab => if s.quotaOk part o.1 (ab.1.length + ab.2.length) then some ab else none
      | none => none with
  | some ab => .ok ab
  | none => .error (if options.any fun o => o.2.isSome then 4 else 3)

/-- Staging is reserved and mapped: the allocation and its address, none for a task without outputs. -/
def reserveStaging (c : Chan) (bytes : Nat) (s : State) : Except Nat (State × Option (Nat × Nat)) :=
  if bytes = 0 then .ok (s, none) else
    let n := pagesIn bytes
    match s.stageHomes c.part (8 + c.port / 2) n, s.pickVa c.part (n * 0x10000) 0x10000 0x20000000000 with
    | .error e, _ => .error e
    | .ok _, none => .error 3
    | .ok (a, b), some va =>
      let id := s.place.nextAlloc
      let tier := match a.head?.bind homeOf with | some (t, _) => t | none => 2
      let al : Alloc := ⟨id, c.part, va, n, false, true, false, false, 2, 0, 15, [], [], tier, b.map some⟩
      let s1 := (a ++ b).foldl (fun s h => s.zeroHome h 0x10000) s
      let s2 := s1.mapPages c.part va id 15 a
      .ok ({ s2 with
        fresh := s.fresh + 1
        place := { s2.place with allocs := s2.place.allocs ++ [al], nextAlloc := id + 1 } }, some (id, va))

/-- Staging addresses of the two outputs (R395). -/
def stageAddrs (r : TaskRec) (va : Option Nat) : Nat × Nat :=
  match va with
  | none => (0, 0)
  | some v => (if r.olen0 = 0 then 0 else v, if r.olen1 = 0 then 0 else v + r.olen0.toNat)

/-- The arrival time of the next record of a channel: when the monitor on its line fired (R412). -/
def State.arrivalOf (s : State) (c : Chan) : Nat :=
  (assoc s.host.fires (hostPa c.port (c.ring.sqbase + c.ring.taken % c.ring.e * 128))).getD s.time

/-- Steps 3 and 4 of R391: slot, staging, sequence number, ACCEPT entry. -/
def acceptTask (c : Chan) (r : TaskRec) (s : State) : State :=
  match reserveStaging c (r.olen0.toNat + r.olen1.toNat) s with
  | .error e => rejectRec c e r.tag none s
  | .ok (s1, st) =>
    let seq := s.host.nextSeq
    let (o0, o1) := stageAddrs r (st.map (·.2))
    let t : Task := ⟨seq, c.num, c.ring.taken, r, .accepted, none, st.map (·.1), o0, o1, s.arrivalOf c, 0, 0, none, 0, 0, false, false,
      none, []⟩
    let rotor := if s.held c.num < c.credMin then s.host.rotor else c.num + 1
    (takeEntry c.num { s1 with host := { s1.host with
      tasks := s1.host.tasks ++ [t], nextSeq := seq + 1, rotor := rotor } }).journal (.accept seq)

/-- TASK_RECORD (R391): the record at the channel's position. -/
def execTaskRecord (ch : Nat) (r : TaskRec) (s : State) : Out :=
  match s.chan ch with
  | none => if 256 ≤ ch then .refused .noSuchUnit else done s s
  | some c =>
    match s.part c.part with
    | none => done s s
    | some p =>
      let task := decide (r.op = 1)
      if r.op = 2 ∨ r.op = 3 ∨ !s.mayTake c r.lap.toNat (if task then 2 else 1) ∨ (task && !s.slotFree c) then done s s
      else match taskBad p r with
        | some e => hostDone s (rejectRec c e r.tag none s)
        | none =>
          match s.known c r.tag with
          | some (seq, _) => hostDone s (rejectRec c 2 r.tag (some (BitVec.ofNat 64 seq)) s)
          | none => hostDone s (acceptTask c r s)

/-- NOP_RECORD (R387, R391): consumed; one that breaks R387 is rejected. -/
def execNopRecord (ch : Nat) (r : TaskRec) (s : State) : Out :=
  match s.chan ch with
  | none => if 256 ≤ ch then .refused .noSuchUnit else done s s
  | some c =>
    if r.op ≠ 3 ∨ !s.mayTake c r.lap.toNat (b2n (otherBad r)) then done s s
    else if otherBad r then hostDone s (rejectRec c 1 r.tag none s)
    else hostDone s (takeEntry ch s)

end Sys2Proof.Machine
end

