-- ==== Sys2Proof/Machine/Tasks.lean ====
section
/-! DEFINITION. Tasks from their start to their final record: pre-emption, ends, commits, aborts, disables (13, R395 to R417). -/

namespace Sys2Proof.Machine

/-! ### Abort (R402 to R404) -/

/-- ABORT_RECORD (R404): an ABORT entry is appended for the target; one appended before its COMMIT stops it. -/
def execAbortRecord (ch : Nat) (r : TaskRec) (s : State) : Out :=
  match s.chan ch with
  | none => if 256 ≤ ch then .refused .noSuchUnit else done s s
  | some c =>
    if r.op ≠ 2 ∨ !s.mayTake c r.lap.toNat 1 then done s s
    else if otherBad r then hostDone s (rejectRec c 1 r.tag none s)
    else
      let ridx := c.ring.taken
      match s.known c r.tag with
      | none =>
        let x := { s.newRec ch 6 r.tag (ridx % c.ring.e) with reason := 3, time := BitVec.ofNat 64 s.time }
        hostDone s (postRec ch x (takeEntry ch s))
      | some (seq, _) =>
        let s1 := (takeEntry ch s).journal (.abort seq ch ridx r.tag)
        match s.task seq with
        | some t =>
          let open_ := match t.st with
            | .accepted => true
            | .queued => true
            | .running => true
            | .ending => true
            | _ => false
          if open_ then hostDone s ((stopTask t s1).updTask seq fun t => { t with st := .aborted, abortReq := true })
          else hostDone s s1
        | none => hostDone s s1

/-! ### Durable entries (R391, R393, R399, R404) -/

/-- FLAGS of a final record (R388, R411). -/
def finalFlags (t : Task) (late : Bool) : BitVec 16 := BitVec.ofNat 16 (2 * b2n t.replayed + 4 * b2n late)
/-- The final record of a task that ends under KIND, with its commit time. -/
def finalRec (t : Task) (kind : Nat) (now : Nat) (s : State) : State :=
  let late := t.trec.deadline ≠ 0 ∧ t.trec.deadline.toNat < now
  let part := match s.chan t.ch with | some c => c.part | none => 0xFF
  let x := s.newRec t.ch kind t.trec.tag 0
  let x := { x with
    ridx := BitVec.ofNat 32 (match s.chan t.ch with | some c => t.ridx % c.ring.e | none => 0)
    seq := BitVec.ofNat 64 t.seq, time := BitVec.ofNat 64 now, start := BitVec.ofNat 64 t.start
    cores := BitVec.ofNat 32 t.cores, flags := finalFlags t late
    result := if kind = 5 then x.result else t.result
    reason := match t.failed with | some r => if kind = 4 then r else x.reason | none => x.reason }
  let s1 := if late then s.countPart part 54 1 else s
  postRec t.ch x (if kind = 3 then s1.countPart part 55 1 else s1)

/-- The consequences of a durable entry. -/
def onDurable (e : JEntry) (s : State) : State :=
  match e.what with
  | .accept seq =>
    match s.task seq with
    | none => s
    | some t =>
      let e := match s.chan t.ch with | some c => c.ring.e | none => 1
      let x := { s.newRec t.ch 1 t.trec.tag (t.ridx % e) with
        seq := BitVec.ofNat 64 seq, time := BitVec.ofNat 64 t.arrival }
      postRec t.ch x (s.updTask seq fun t => if t.st == .accepted then { t with st := .queued } else t)
  | .commit seq =>
    match s.task seq with
    | some t => finalRec t (if t.failed.isSome then 4 else 3) s.time s
    | none => s
  | .abort seq ch ridx tag =>
    let aborted := match s.task seq with
      | some t => t.abortReq
      | none => s.host.chans.any fun c => c.finished.any fun f => f.2.1 == seq && f.2.2
    let s1 := match s.task seq with
      | some t =>
        let posted := t.finalIdx.isSome || (match s.chan ch with
          | some c => c.ring.waiting.any fun x => x.seq == BitVec.ofNat 64 seq && decide (3 ≤ x.kind.toNat ∧ x.kind.toNat ≤ 5)
          | none => true)
        if t.abortReq && !posted then finalRec t 5 s.time s else s
      | none => s
    let n := match s.chan ch with | some c => c.ring.e | none => 1
    postRec ch { s1.newRec ch 6 tag (ridx % n) with
      reason := if aborted then 1 else 2, seq := BitVec.ofNat 64 seq, time := BitVec.ofNat 64 e.time
      result := BitVec.ofNat 64 seq } s1
  | _ => s

/-- JOURNAL_ENTRY_DURABLE (R393, R402): entries become durable in the order in which they were appended, while the lead that
appended them serves. -/
def execJournalEntryDurable (j : Nat) (s : State) : Out :=
  match s.host.journal.find? fun e => !e.durable with
  | none => done s s
  | some e =>
    if e.no ≠ j ∨ s.host.mirrors.isEmpty ∨ (s.hub s.pkg.lead).insvc = false then done s s
    else
      let s1 := { s with host := { s.host with journal := s.host.journal.map fun f => if f.no = j then { f with durable := true } else f } }
      hostDone s (onDurable e s1)

/-! ### The start of a task (R395, R396, R411 to R413, R416) -/

/-- IEN at a task's start (R396): PREEMPT, ERROR_NOTIFY, DRAIN, CALIB, and the causes the S context has descriptors for. -/
def startIen (sdesc : List (Nat × Vector Word 4)) : BitVec 8 :=
  BitVec.ofNat 8 (((List.range 8).filter fun i => i = 0 || decide (5 ≤ i) || sdesc.any fun d => d.1 == 0x20 + i).map (2 ^ ·)).sum

/-- The registers of a member as a task starts (R395, R396); on a pre-empted core those of R416 keep their values. That SRKEY is set
to 0 does not count as its having been written, so that a stochastic store before the task sets it stores free bytes (R136; log
entry 33, DESIGN CHOICE). R396 does not name the form in which the PEs were left (R210, R234): the model starts with none, so that the task's
first pass makes no parade load (log entry 20, DESIGN CHOICE). -/
def Core.startTask (k : Core) (preempted : Bool) (t : Task) (resv : Bool) (ien : BitVec 8) : Core :=
  let z := Core.reset
  let args : List (Reg × Word) := [(10, t.trec.arg), (11, BitVec.ofNat 64 t.out0), (12, BitVec.ofNat 64 t.out1),
    (13, BitVec.ofNat 64 t.seq), (14, t.trec.deadline)]
  let keep {α : Type} (a b : Vector α 16) : Vector α 16 := Vector.ofFn fun i => if preempted && i.val < 8 then a[i] else b[i]
  { z with
    x := args.foldl (fun xs a => xs.set .main a.1 a.2) z.x
    flow := { z.flow with pc := t.trec.entry }
    rsT := ⟨0, 0, 0x8000⟩
    rsS := ⟨0, 0, 0x8000⟩
    rsM := k.rsM
    tr := { z.tr with status := ⟨.t, .main, false, false, false, true⟩, ien := ien, maint := false }
    tm := { k.tm with pend := [], delayed := [] }
    cnt := { cc := keep k.cnt.cc z.cnt.cc
             ccerr := if preempted then k.cnt.ccerr &&& 0xFF else 0
             recs := keep k.cnt.recs z.cnt.recs }
    mon := { z.mon with fired := if preempted then k.mon.fired &&& 0xF else 0 }
    syn := { z.syn with barmask := k.syn.barmask, gens := k.syn.gens, sigq := k.syn.sigq }
    idn := { k.idn with taskseq := BitVec.ofNat 64 t.seq, hide := preempted, resv := resv, wtoDef := z.idn.wtoDef }
    arr := { z.arr with settled := k.arr.settled, bypass := k.arr.bypass, updFree := k.arr.updFree, lastE := k.arr.lastE }
    slots := keep k.slots z.slots
    pw := k.pw }

/-- Whether DISABLE has taken a core or an engine of it away from new tasks (R405). -/
def Core.withheld (k : Core) : Bool := k.pw.disabled || k.pw.disArray || k.pw.disJug || k.pw.disUpd
/-- Whether a core that runs a training task may be pre-empted (R413, R416): its task runs, and no other is displaced there. -/
def State.victim (s : State) (c : Nat) : Bool :=
  let k := s.core c
  k.inSvc && k.idn.resv && !k.idn.cls && k.idn.taskseq != 0 && (s.savedCore c).isNone && !k.pw.stopped && !k.tr.status.resc &&
  !k.withheld
/-- Whether the monitor has brought a pre-empted core to rest (R413): in the handler of PREEMPT, array and update
path empty. -/
def State.atRest (s : State) (c : Nat) : Bool :=
  let k := s.core c
  k.canIssue && k.level == .m && k.bank != .main && (k.tr.save k.bank).ecause.toNat % 256 == 0x20 &&
  k.arr.queue.isEmpty && k.arr.upd.isEmpty

/-- Whether a task may start now (R395, R405, R411, R440). -/
def State.mayStart (s : State) (t : Task) : Bool :=
  let part := (s.chan t.ch).bind fun c => s.part c.part
  t.st == .queued && s.durable (.accept t.seq) && s.minService &&
  (match part with | some p => !p.disabled | none => false) &&
  s.nets.all (fun n => !(n.dirtyNeed && n.waiting == some t.seq)) &&
  (!t.trec.flags.getLsbD 0 || s.host.tasks.all fun u => u.ch != t.ch || decide (t.seq ≤ u.seq) || u.finalIdx.isSome)
/-- Class of a task's partition. -/
def State.taskScore (s : State) (t : Task) : Bool :=
  match (s.chan t.ch).bind fun c => s.part c.part with
  | some p => p.score
  | none => false

/-- Cores for a task, with their windows: free ones first, as many as the guarantees of others leave, then training cores for a
scoring task (R348, R354, R361, R413). -/
def State.coresFor (s : State) (q : GroupAsk) (score : Bool) (coresMax : Nat) : Option (List (Nat × List Nat)) :=
  let n := q.lwl / 0x10000
  let homes := s.affHomes q.part q.aff
  let free := s.freeCores
  let want := min q.count (coresMax - s.coresHeld q.part)
  let got := s.fitCores score n (min want (s.mayTakeCores q.part free.length)) (s.orderCores homes free free) []
  let vict := if score then s.orderCores homes free (allCores.filter fun c => s.victim c && !free.contains c) else []
  let got := s.fitCores score n want vict got
  if got.length < q.need then none else some got

/-- What the monitor saves of a pre-empted core (R413): its registers and tiles as they stand, its protected lines. -/
def saveCore (c : Nat) (s : State) : State × (Nat × Core × Mem) :=
  let s1 := landAll c s
  (s1, (c, s1.core c, s1.protectedCells c))

/-- A task begins on its cores; `vict` of them are pre-empted. -/
def beginTask (t : Task) (p : Part) (q : GroupAsk) (ws : List (Nat × List Nat)) (vict : List Nat) (s : State) : State :=
  let cs := ws.map (·.1)
  let (s1, saved) := vict.foldl (fun (r : State × List (Nat × Core × Mem)) c =>
    let (s', x) := saveCore c r.1
    (s', r.2 ++ [x])) (s, [])
  let queues := vict.map fun c => (c, (s1.core c).syn.sigq)
  match formOn q p.score ws s1 with
  | .error _ => s
  | .ok (s2, g) =>
    let s3 := { s2 with
      place := { s2.place with groups := s2.place.groups.map fun h => if h.num = g.num then { h with task := some t.seq, byTask := true } else h }
      armed := s2.armed.filter fun a => !(cs.contains a.1 && (!vict.contains a.1 || decide (4 ≤ a.2.1))) }
    let s4 := cs.foldl (fun s c =>
      let pre := vict.contains c
      let s := if pre then s.upd c fun k => { k with syn := { k.syn with sigq := (assoc queues c).getD [] } } else s
      installDescs c p.sdesc (s.upd c fun k => k.startTask pre t (!p.score) (startIen p.sdesc))) s3
    (s4.updTask t.seq fun t => { t with
      st := .running, group := some g.num, start := s.time, cores := cs.length, saved := saved }).journal (.start t.seq)

/-- A replayed task whose group was kept starts again on it, the stand-in among its members (R436); a member that has displaced a
training task keeps it displaced (R416). -/
def restartTask (t : Task) (p : Part) (g : Group) (s : State) : State :=
  let s1 := g.live.foldl (fun s m =>
    let pre := (s.savedCore m.2).isSome
    let sigq := (s.core m.2).syn.sigq
    let s : State := { s with armed := s.armed.filter fun a => !(a.1 == m.2 && (!pre || decide (4 ≤ a.2.1))) }
    let s := (joinGroup g p.score m.1 m.2 s).upd m.2 fun k =>
      ({ k with syn := { k.syn with sigq := if pre then sigq.filter fun e => e.group != g.num else [] } }).startTask pre t (!p.score)
        (startIen p.sdesc)
    installDescs m.2 p.sdesc s) s
  (s1.updTask t.seq fun t => { t with st := .running, start := s.time, cores := g.live.length }).journal (.start t.seq)
/-- Whether every member of a kept group is at rest, in the group or in none. -/
def State.groupReady (s : State) (g : Group) : Bool :=
  g.pend.isEmpty && g.live.all fun m =>
    let k := s.core m.2
    k.canIssue && (k.idn.group.toNat == g.num || k.idn.group == 0)

/-! ### Stand-ins (R355, R436) -/

/-- A spare or a free core enters service, or goes on in it: MAINT clear, the monitor's descriptors, its floor voltage. -/
def enterService (n : Nat) (s : State) : State :=
  let f := s.floorMv n
  let s1 := s.upd n fun k =>
    let spare := k.pw.svc == .spare
    let k := { k with
      tr := { k.tr with maint := false }
      pw := { k.pw with svc := .inService, ring := true, volt := max k.pw.volt f, vset := max k.pw.vset f, target := max k.pw.target f } }
    if spare then k.park else k
  installDescs n [] { s1 with pkg := { s1.pkg with mtab := modNth s1.pkg.mtab n fun m => { m with st := 0 } } }
/-- The stand-in for a member (R436): the spare with the fewest hops to the others, else a free core; only one with room for the
window (R361). -/
def State.standIn (s : State) (g : Group) (c : Nat) (others : List Nat) : Option Nat :=
  let key (n : Nat) : Nat := (others.map fun o => s.dieHops (n / 18) (o / 18)).sum
  let score := match s.part g.part with | some p => p.score | none => false
  -- never more than 128 cores in service (R26)
  let spares := if s.inSvcCores.length < 128 then
      sortBy (fun a b => decide (key a < key b ∨ (key a = key b ∧ a ≤ b))) (s.spares.filter (· != c)) else []
  (s.fitCores score (g.lwl / 0x10000) 1 (spares ++ s.freeCores.filter (· != c)) []).head?.map (·.1)
/-- Member `c` of a group is replaced by `n`, which takes its number, window and channels (R355, R436 step 6). One that has lost the
room for the window by then is no stand-in: another is chosen (R361). -/
def replaceMember (num c n : Nat) (s : State) : State :=
  match s.group num with
  | none => s
  | some g =>
    match g.members.idxOf? c with
    | none => s
    | some j =>
      let lwn := g.lwl / 0x10000
      let score := match s.part g.part with | some p => p.score | none => false
      match (s.windowPages n score lwn).bind fun ps => (clearWindow [n] s (n, ps)).map fun s0 => (ps, s0) with
      | none => { s with place := { s.place with groups := s.place.groups.map fun h =>
          if h.num = num then { h with pend := h.pend.filter fun q => q.1 != c } else h } }
      | some (ps, s0) =>
        let g' := { g with
          members := g.members.set j n, wins := g.wins.set j ps, pend := g.pend.filter fun q => q.1 != c }
        let s1 := clearStale g.part { s0 with place := { s0.place with groups := s0.place.groups.map fun h => if h.num = num then g' else h } } (n, ps)
        installDescs n (match s.part g.part with | some p => p.sdesc | none => []) (joinGroup g' score j n s1)
/-- A stand-in is chosen for a member out of service, enters service and is logged (R436 step 4); none where none is free. -/
def chooseStandIn (num c : Nat) (s : State) : State :=
  match s.group num with
  | none => s
  | some g =>
    let others := (g.live.map (·.2)).filter (· != c)
    match s.standIn g c others with
    | none => s
    | some n =>
      let s1 := (enterService n s).logAdd 0x07 2 g.part (coreUnit n) n c num ((g.members.idxOf? c).getD 0xFFF)
      { s1 with place := { s1.place with groups := s1.place.groups.map fun h =>
          if h.num = num then { h with pend := h.pend ++ [(c, n)] } else h } }
/-- Members of a group whose core has left service, with no stand-in chosen yet. -/
def State.vacant (s : State) (g : Group) : List Nat :=
  (g.live.map (·.2)).filter fun c => !(s.core c).inSvc && !g.pend.any fun q => q.1 == c
/-- Every member out of service is given a stand-in, where one is free, and stand-ins take the numbers of the cores they replace
in every group whose nets have been restored (R436 steps 4 to 6). -/
def seatStandIns (s : State) : State :=
  let s := s.place.groups.foldl (fun s g => (s.vacant g).foldl (fun s c => chooseStandIn g.num c s) s) s
  s.place.groups.foldl (fun s g =>
    if g.await.any fun n => s.nets.any fun t => t.num == n && t.dirtyNeed then s
    else g.pend.foldl (fun s q => replaceMember g.num q.1 q.2 s) s) s

/-- TASK_START (R395, R411, R413): on free cores at once; where a scoring task needs training cores, PREEMPT goes to
each first, and the task starts once the monitor has them at rest. -/
def execTaskStart (seq : Nat) (s : State) : Out :=
  match s.task seq with
  | none => done s s
  | some t =>
    match (s.chan t.ch).bind fun c => s.part c.part with
    | none => done s s
    | some p =>
      let before (u : Task) : Bool :=
        s.mayStart u && s.taskScore u && (decide (u.trec.deadline.toNat < t.trec.deadline.toNat) ||
          (u.trec.deadline == t.trec.deadline && decide (u.seq < t.seq)))
      if !s.mayStart t || (p.score && s.host.tasks.any before) then done s s
      else match s.taskGroup t with
      | some g =>
        -- a kept group waits for its stand-ins; one with a member that is disabled is given up for another (R405, R436)
        if g.ungrouped || g.live.any fun m => (s.core m.2).withheld then hostDone s (releaseTask t s)
        else
          let s1 := seatStandIns s
          match s1.group g.num with
          | some g1 => if s1.groupReady g1 then hostDone s (restartTask t p g1 s1) else hostDone s s1
          | none => done s s
      | none =>
        let lwl := if t.trec.lwl = 0 then p.lwlDef else t.trec.lwl.toNat
        let q : GroupAsk := ⟨p.num, t.trec.count.toNat, t.trec.mincount.toNat, t.trec.flags.getLsbD 1, t.trec.aff.toNat, lwl,
          t.trec.bars.toNat⟩
        match s.coresFor q p.score p.coresMax with
        | none => done s s
        | some ws =>
          let vict := (ws.map (·.1)).filter fun c => (s.holder c).isSome
          let wait := vict.filter fun c => !s.atRest c
          if wait.isEmpty then hostDone s (beginTask t p q ws vict s)
          else hostDone s (wait.foldl (fun s c => s.upd c fun k => k.raise 0) s)

/-! ### The end of a task (R397, R399) -/

/-- The running task in whose group a core is a member: the task, the group, the member number. -/
def State.taskOf (s : State) (c : Nat) : Option (Task × Group × Nat) :=
  let g := (s.core c).idn.group.toNat
  match s.group g with
  | none => none
  | some gr =>
    match s.host.tasks.find? fun t => t.group == some g && t.st == .running, gr.live.find? fun p => p.2 == c with
    | some t, some p => some (t, gr, p.1)
    | _, _ => none

/-- A task ends: END is appended and DRAIN goes to the other members. -/
def endTask (t : Task) (g : Group) (c : Nat) (result : Word) (failed : Option (BitVec 8)) (s : State) : State :=
  let s1 := (s.updTask t.seq fun t => { t with st := .ending, result := result, failed := failed, endTime := s.time }).journal (.ending t.seq)
  g.live.foldl (fun s p => if p.2 = c then s else s.updOwner p.2 g.num fun k => k.raise 6) s1

/-- TASK_END (R397): member 0 stands in gate 0xF1. -/
def execTaskEnd (c : Nat) (s : State) : Out :=
  let s := affectPoisoned s
  if 160 ≤ c then .refused .noSuchUnit
  else match s.taskOf c with
    | some (t, g, 0) =>
      if (s.core c).inGate 0xF1 then
        let s1 := arrive c s
        hostDone s (endTask t g c ((s1.core c).rx 10) none s1)
      else done s s
    | _ => done s s

/-- TASK_FAIL (R397): member 0 stands in gate 0xF2, or a member has entered rescue. -/
def execTaskFail (c : Nat) (s : State) : Out :=
  let s := affectPoisoned s
  if 160 ≤ c then .refused .noSuchUnit
  else match s.taskOf c with
    | some (t, g, j) =>
      let k := s.core c
      if k.tr.status.resc && !k.pw.stopped then hostDone s (endTask t g c k.tr.rescue.mrcause (some 2) s)
      else if j = 0 ∧ k.inGate 0xF2 = true then
        let s1 := arrive c s
        hostDone s (endTask t g c ((s1.core c).rx 10) (some 1) s1)
      else done s s
    | none => done s s

/-- Whether a disable in progress covers a task (R402, R405). -/
def State.underDisable (s : State) (t : Task) : Bool :=
  s.host.disables.any fun d =>
    (if d.kind = 4 then (match s.chan t.ch with | some c => c.part == d.index | none => false)
     else match s.taskGroup t with | some g => g.live.any fun p => p.2 == d.index | none => false)

/-- COMMIT_APPEND (R397, R399, R402): every member's counted work has completed and the monitor has it, or the partition's disable
timeout has passed and what remains is fenced. The cores go back. -/
def execCommitAppend (seq : Nat) (s : State) : Out :=
  let s := affectPoisoned s
  match s.task seq with
  | none => done s s
  | some t =>
    match s.taskGroup t, (s.chan t.ch).bind fun c => s.part c.part with
    | some g, some p =>
      let idle := g.live.all fun q => s.memberIdle q.2 g.num && ((s.core q.2).level == .m || (s.core q.2).idn.group.toNat != g.num)
      if t.st != .ending || s.underDisable t || (!idle && decide (s.time < t.endTime + p.disTimeout)) then done s s
      else
        let s1 := g.live.foldl (fun s q => fenceMember q.2 g.num s) s
        let s2 := (s1.updTask seq fun t => { t with st := .committed }).journal (.commit seq)
        hostDone s (releaseTask t s2)
    | _, _ => done s s

/-! ### Disables (R405 to R408) -/

/-- Tasks that run on a target: of a partition, or with a member on a core. -/
def State.tasksOn (s : State) (kind index : Nat) : List Task :=
  s.host.tasks.filter fun t => (t.st == .running || t.st == .ending) &&
    (if kind = 4 then (match s.chan t.ch with | some c => c.part == index | none => false)
     else match s.taskGroup t with | some g => g.live.any fun p => p.2 == index | none => false)
/-- Cores that a disable concerns. -/
def State.coresOn (s : State) (kind index : Nat) : List Nat :=
  ((if kind = 4 then (s.place.groups.filter fun g => g.part == index).flatMap fun g => g.live.map (·.2) else [index]) ++
    (s.tasksOn kind index).flatMap fun t => match s.taskGroup t with | some g => g.live.map (·.2) | none => []).eraseDups

/-- A target's disable flag. -/
def setDisabled (kind index : Nat) (b : Bool) (s : State) : State :=
  match kind with
  | 0 => s.upd index fun k => { k with pw := { k.pw with disabled := b } }
  | 1 => s.upd index fun k => { k with pw := { k.pw with disArray := b } }
  | 2 => s.upd index fun k => { k with pw := { k.pw with disJug := b } }
  | 3 => s.upd index fun k => { k with pw := { k.pw with disUpd := b } }
  | _ => s.updPart index fun p => { p with disabled := b }

/-- What remains on a target is fenced (R226, R275, R309, R405). -/
def fenceTarget (kind index : Nat) (s : State) : State :=
  match kind with
  | 0 => fenceWorks index (fun _ => true) (fenceStreams index (fun _ => true) (fenceArray index s))
  | 1 => fenceArray index s
  | 2 => fenceStreams index (fun _ => true) s
  | 3 => fenceUpdates index s
  | _ => (s.coresOn 4 index).foldl (fun s c =>
      fenceWorks c (fun w => w.part == index) (fenceStreams c (fun sl => sl.part == index)
        (if (s.core c).idn.part.toNat = index then fenceArray c s else s))) s
/-- Whether work remains on a target. -/
def State.workOn (s : State) (kind index : Nat) : Bool :=
  (s.coresOn kind index).any fun c =>
    let k := s.core c
    (s.works.any fun w => w.core == c && decide (w.cc < 16)) || k.slots.toList.any (fun sl => sl.st != SlotSt.free) ||
      !k.arr.queue.isEmpty || !k.arr.upd.isEmpty

end Sys2Proof.Machine
end

