-- ==== Sys2Proof/Machine/Mgmt.lean ====
section
/-! DEFINITION. Management records: partitions, channels, host memory, placement for a host, disables, the log (13, R348 to R350, R383, R389, R390, R405, R515, R534). -/

namespace Sys2Proof.Machine

/-- The operations of R389. -/
def mgmtOps : List Nat := [0x10, 0x11, 0x12, 0x18, 0x19, 0x1A, 0x20, 0x21, 0x28, 0x30, 0x31, 0x38]
/-- Whether a header is one of operation `op`, its unlisted bytes zero (R534). -/
def hdrOk (h : MgmtHdr) (op : Nat) : Bool := h.zeroOk && decide (h.op.toNat = op)
/-- The management ring of a port whose next record carries a header of operation `op`, or of an unassigned one, with `need`
completion entries free (R386, R390, R534). -/
def State.mgmtRing (s : State) (p : Nat) (h : MgmtHdr) (op need : Nat) : Option Ring :=
  match s.ring (256 + p) with
  | none => none
  | some (_, g) =>
    if (decide (h.op.toNat = op) || !mgmtOps.contains h.op.toNat) && s.portActive p && s.minService && h.lap.toNat == lapOf g.taken g.e && decide (need ≤ s.entriesFree (256 + p)) then some g
    else none

/-- The MGMT_REPLY of a record (R388): STATUS in REASON, the output value in RESULT. -/
def replyMgmt (p : Nat) (h : MgmtHdr) (ridx st : Nat) (out : Option Word) (s : State) : State :=
  let x := s.newRec (256 + p) 7 h.tag ridx
  postRec (256 + p) { x with reason := BitVec.ofNat 8 st, result := out.getD x.result } s

/-- What an operation answers: the state, STATUS, the output value. -/
abbrev MgmtOut := State × Nat × Option Word

/-- A management record of operation `op` (R389, R534): a status other than DONE changes nothing. -/
def mgmt (p : Nat) (h : MgmtHdr) (op : Nat) (f : State → MgmtOut) (s : State) : Out :=
  if 4 ≤ p then .refused .noSuchUnit
  else match s.mgmtRing p h op 1 with
    | none => done s s
    | some g =>
      let s1 := takeEntry (256 + p) s
      let (s2, st, out) := if hdrOk h op then f s1 else (s1, 3, none)
      hostDone s (replyMgmt p h (g.taken % g.e) st (if st = 0 then out else none) (if st = 0 then s2 else s1))

/-- Whether a port may name a partition: 3 BADREQ past 63, 5 NOTFOUND, 7 DENIED (R348, R389, R534). -/
def State.ownStatus (s : State) (p part : Nat) : Nat :=
  if 64 ≤ part then 3 else match s.part part with
  | none => 5
  | some q => if q.owner = p then 0 else 7

/-! ### Partitions (R348 to R350, R534) -/

/-- The descriptor image at SDESC: the entries with VALID 1, or none where one breaks R534. -/
def State.readSdesc (s : State) (p : Nat) (a : Nat) : Option (List (Nat × Vector Word 4)) :=
  if a = 0 then some [] else
    (List.range 256).foldl (fun (r : Option (List (Nat × Vector Word 4))) n =>
      r.bind fun l =>
        let w (i : Nat) : Nat := s.mem.nat (hostPa p (a + 32 * n + 8 * i)) 8
        let d : Desc := ⟨w 0, w 1, w 2, w 3⟩
        if !bitOf d.flags 0 then some l
        else if !d.valid n || d.tpriv != 1 || [0x1E, 0x1F, 0x20, 0x26, 0x27].contains n || decide (0xF0 ≤ n) then none
        else some (l ++ [(n, Vector.ofFn fun i => BitVec.ofNat 64 (w i.val))])) (some [])

/-- Ranges of the attributes of R348 and R534 of a partition. -/
def partRanges (q : Part) : Bool :=
  decide (q.coresMin ≤ 128 ∧ q.coresMin ≤ q.coresMax ∧ q.coresMax ≤ 128) &&
  decide (0x10000 ≤ q.lwlDef ∧ q.lwlDef ≤ 0x2000000 ∧ q.lwlDef % 0x10000 = 0) &&
  decide (q.qStore % 0x10000 = 0 ∧ q.qSram % 0x10000 = 0 ∧ q.qDram % 0x10000 = 0 ∧ q.sentry.toNat % 4 = 0)

/-- The attributes of a record that a mask names put on a partition, or none where one is out of range. -/
def State.applyAttrs (s : State) (p : Nat) (a : PartParams) (mask : Nat) (q : Part) : Option Part :=
  let on (i : Nat) : Bool := bitOf mask i
  let sdescOk := !on 8 || (decide (a.sdesc.toNat % 64 = 0) && inAperture a.sdesc.toNat 0x2000)
  match (if on 8 then s.readSdesc p a.sdesc.toNat else some q.sdesc) with
  | none => none
  | some sd =>
    let q' : Part := { q with
      score := if on 0 then a.cls == 1 else q.score
      coresMin := if on 1 then a.coresMin.toNat else q.coresMin
      coresMax := if on 2 then a.coresMax.toNat else q.coresMax
      lwlDef := if on 3 then a.lwlDef.toNat else q.lwlDef
      qStore := if on 4 then a.qStore.toNat else q.qStore
      qSram := if on 5 then a.qSram.toNat else q.qSram
      qDram := if on 6 then a.qDram.toNat else q.qDram
      sentry := if on 7 then a.sentry else q.sentry
      sdesc := sd }
    if sdescOk && (!on 0 || decide (a.cls.toNat ≤ 1)) && partRanges q' then some q' else none

/-- Guaranteed cores of all partitions but one (R349). -/
def State.minSum (s : State) (but : Nat) : Nat := ((s.place.parts.filter fun q => q.num != but).map (·.coresMin)).sum

/-- A partition of owner `p` with no attribute set. -/
def Part.blank (p : Nat) : Part := ⟨0, p, false, 0, 0, 0, 0, 0, 0, 0, [], Vector.replicate 16 0, Vector.replicate 4 0, false, 100000⟩
/-- PART_CREATE (R348, R349, R534). -/
def execPartCreate (p : Nat) (h : MgmtHdr) (a : PartParams) (s : State) : Out :=
  mgmt p h 0x10 (fun s =>
    match s.applyAttrs p a 0x1FF (Part.blank p) with
    | none => (s, 3, none)
    | some q =>
      if a.part ≠ 0 ∨ a.mask ≠ 0 then (s, 3, none)
      else match lowestFree 64 1 (s.place.parts.map (·.num)) with
        | [] => (s, 1, none)
        | num :: _ =>
          if s.inSvcCores.length < s.minSum 64 + q.coresMin then (s, 4, none)
          else ({ s with place := { s.place with parts := s.place.parts ++ [{ q with num := num }] } }, 0,
            some (BitVec.ofNat 64 num))) s

/-- Whether a partition holds a slot or a channel: a slot belongs to a channel. -/
def State.hasChannel (s : State) (part : Nat) : Bool := s.host.chans.any fun c => c.part == part

/-- The descriptors of a partition's S context on every core that serves it, a displaced task's saved table among them (R534). -/
def serveDescs (num : Nat) (sdesc : List (Nat × Vector Word 4)) (s : State) : State :=
  let here := (s.place.groups.filter fun g => g.part == num).flatMap fun g =>
    (g.live.map (·.2)).filter fun c => (s.core c).idn.group.toNat == g.num
  let s1 := here.foldl (fun s c => installDescs c sdesc s) s
  let base (c : Nat) : Nat := sliceBase c + 0x3FE0000
  let redo (q : Nat × Core × Mem) : Nat × Core × Mem :=
    if q.2.1.idn.part.toNat = num then
      (q.1, q.2.1, (installDescs q.1 sdesc { s with mem := s.mem.putWindow (base q.1) 0x20000 q.2.2 }).protectedCells q.1)
    else q
  s1.mapSaved redo
/-- PART_CHANGE (R349, R350, R534). -/
def execPartChange (p : Nat) (h : MgmtHdr) (a : PartParams) (s : State) : Out :=
  mgmt p h 0x11 (fun s =>
    let num := a.part.toNat
    -- the ranges of the fields by themselves come before what the record names
    let wide : Part := { Part.blank p with coresMax := 128, lwlDef := 0x10000 }
    if 64 ≤ num ∨ 512 ≤ a.mask.toNat ∨ (s.applyAttrs p a a.mask.toNat wide).isNone = true then (s, 3, none)
    else match s.part num with
    | none => (s, 5, none)
    | some q =>
      if q.owner ≠ p then (s, 7, none)
      else match s.applyAttrs p a a.mask.toNat q with
        | none => (s, 3, none)
        | some q' =>
          let busy := s.hasChannel num || (s.place.groups.any fun g => g.part == num) || s.nets.any fun n => n.part == num
          if q'.score != q.score && busy then (s, 6, none)
          else if s.inSvcCores.length < s.minSum num + q'.coresMin then (s, 4, none)
          else
            let s1 := s.updPart num fun _ => q'
            (if a.mask.getLsbD 8 then serveDescs num q'.sdesc s1 else s1, 0, none)) s

/-- PART_REMOVE (R389): its groups, nets, allocations and attachments go with it. -/
def execPartRemove (p : Nat) (h : MgmtHdr) (part : BitVec 8) (s : State) : Out :=
  mgmt p h 0x12 (fun s =>
    let num := part.toNat
    let st := s.ownStatus p num
    if st ≠ 0 then (s, st, none)
    else if s.hasChannel num then (s, 6, none)
    else
      let s1 := (s.place.groups.filter fun g => g.part == num).foldl (fun s g =>
        let s := g.live.foldl (fun s m => toMonitor m.2 (fenceMember m.2 g.num s)) s
        releaseMembers g.num (List.range g.members.length) s) s
      let s2 := (s1.place.allocs.filter fun a => a.part == num).foldl (fun s a => s.dropAlloc a.id) s1
      ({ s2 with
        nets := s2.nets.filter fun n => n.part != num
        place := { s2.place with
          parts := s2.place.parts.filter fun q => q.num != num
          pages := s2.place.pages.filter fun q => q.part != num
          allocs := s2.place.allocs.map fun a => { a with
            att := a.att.filter fun t => t.2.1 != num, grants := a.grants.filter fun t => t.2.1 != num } } }, 0, none)) s

/-! ### Channels (R383, R385, R389) -/

/-- Reserved slots of all channels but one. -/
def State.credSum (s : State) (but : Nat) : Nat := ((s.host.chans.filter fun c => c.num != but).map (·.credMin)).sum
/-- Ring rules of R385. -/
def chanOk (a : ChanParams) : Bool :=
  let e := a.e.toNat
  let c := a.c.toNat
  isPow2 e && isPow2 c && decide (64 ≤ e ∧ e ≤ 65536 ∧ 2 * a.credMax.toNat + 2 ≤ c) &&
  decide (1 ≤ a.credMax.toNat ∧ a.credMin.toNat ≤ a.credMax.toNat) &&
  decide (a.sqbase.toNat % 128 = 0 ∧ a.cqbase.toNat % 64 = 0 ∧ a.hcb.toNat % 64 = 0 ∧ a.dcb.toNat % 64 = 0) &&
  inAperture a.sqbase.toNat (128 * e) && inAperture a.cqbase.toNat (64 * c) && inAperture a.hcb.toNat 64 && inAperture a.dcb.toNat 64

/-- CHAN_OPEN (R383, R385, R534). -/
def execChanOpen (p : Nat) (h : MgmtHdr) (a : ChanParams) (s : State) : Out :=
  mgmt p h 0x18 (fun s =>
    let st := s.ownStatus p a.part.toNat
    if !chanOk a then (s, 3, none)
    else if st ≠ 0 then (s, st, none)
    else if 8192 < s.credSum 256 + a.credMin.toNat then (s, 2, none)
    else match lowestFree 256 1 (s.host.chans.map (·.num)) with
      | [] => (s, 1, none)
      | num :: _ =>
        let g : Ring := ⟨a.sqbase.toNat, a.cqbase.toNat, a.hcb.toNat, a.dcb.toNat, a.e.toNat, a.c.toNat, 0, 0, []⟩
        let c : Chan := ⟨num, a.part.toNat, p, g, a.credMin.toNat, a.credMax.toNat, [], none⟩
        ({ s with host := { s.host with chans := s.host.chans ++ [c] } }, 0, some (BitVec.ofNat 64 num))) s

/-- An open channel that a port may name: BADREQ past 255, NOTFOUND, DENIED. -/
def State.chanStatus (s : State) (p n : Nat) : Nat :=
  if 256 ≤ n then 3 else
    match s.chan n with
    | none => 5
    | some c => if c.port = p then 0 else 7

/-- CHAN_CLOSE (R389): no further records are taken; the reply follows the last final record. -/
def execChanClose (p : Nat) (h : MgmtHdr) (ch : BitVec 16) (s : State) : Out :=
  if 4 ≤ p then .refused .noSuchUnit
  else match s.mgmtRing p h 0x19 1 with
    | none => done s s
    | some g =>
      let n := ch.toNat
      let s1 := takeEntry (256 + p) s
      let closing := match s.chan n with | some c => c.closing.isSome | none => false
      let st := if !hdrOk h 0x19 then 3 else if s.chanStatus p n ≠ 0 then s.chanStatus p n else if closing then 6 else 0
      if st ≠ 0 then hostDone s (replyMgmt p h (g.taken % g.e) st none s1)
      else hostDone s (s1.updChan n fun c => { c with closing := some (h, g.taken % g.e) })

/-- CHAN_CREDIT (R389, R534): slots held are kept. -/
def execChanCredit (p : Nat) (h : MgmtHdr) (ch : BitVec 16) (credMin credMax : BitVec 32) (s : State) : Out :=
  mgmt p h 0x1A (fun s =>
    let n := ch.toNat
    let st := s.chanStatus p n
    let c := match s.chan n with | some c => c.ring.c | none => 0
    if credMax = 0 ∨ credMax.toNat < credMin.toNat then (s, 3, none)
    else if st ≠ 0 then (s, st, none)
    else if c < 2 * credMax.toNat + 2 then (s, 3, none)
    else if 8192 < s.credSum n + credMin.toNat then (s, 2, none)
    else (s.updChan n fun c => { c with credMin := credMin.toNat, credMax := credMax.toNat }, 0, none)) s

/-! ### Host memory (R352, R363, R367, R389) -/

/-- HOST_REG. -/
def execHostReg (p : Nat) (h : MgmtHdr) (part rights : BitVec 8) (haddr length vaddr : Word) (s : State) : Out :=
  mgmt p h 0x20 (fun s =>
    let st := s.ownStatus p part.toNat
    let n := length.toNat / 0x10000
    if haddr.toNat % 0x10000 ≠ 0 ∨ length.toNat % 0x10000 ≠ 0 ∨ vaddr.toNat % 0x10000 ≠ 0 ∨ n = 0 ∨ 16 ≤ rights.toNat ∨
        inAperture haddr.toNat length.toNat = false ∨ 2 ^ 48 < vaddr.toNat + length.toNat then (s, 3, none)
    else if st ≠ 0 then (s, st, none)
    else if s.vaFree part.toNat vaddr.toNat length.toNat = false then (s, 8, none)
    else
      let id := s.place.nextAlloc
      let al : Alloc := ⟨id, part.toNat, vaddr.toNat, n, true, false, false, false, 0, 0, rights.setWidth 4, [], [], 3, []⟩
      let s1 := s.mapPages part.toNat vaddr.toNat id (rights.setWidth 4) ((List.range n).map fun i => hostPa p (haddr.toNat + i * 0x10000))
      ({ s1 with place := { s1.place with allocs := s1.place.allocs ++ [al], nextAlloc := id + 1 } }, 0, none)) s

/-- HOST_UNREG: while accesses at the range have still to complete it waits, or completes with BUSY (R362, R363; log entry 19). -/
def execHostUnreg (p : Nat) (h : MgmtHdr) (part : BitVec 8) (vaddr : Word) (s : State) : Out :=
  let busy := s.place.allocs.any fun a => a.host && a.part == part.toNat && a.vaddr == vaddr.toNat &&
    s.rangeBusy a.part a.vaddr (a.pages * 0x10000)
  if busy && !Config.freeBool s.fresh then done s s.draw
  else mgmt p h 0x21 (fun s =>
    let st := s.ownStatus p part.toNat
    if st ≠ 0 then (s, st, none)
    else match s.place.allocs.find? fun a => a.host && a.part == part.toNat && a.vaddr == vaddr.toNat with
      | none => (s, 5, none)
      | some a => if busy then (s.draw, 6, none) else (s.dropAlloc a.id, 0, none)) s

/-! ### PLACE (R368, R390) -/

/-- PLACE: the reply and the MGMT_DATA take two entries together. One that has to wait waits on, or completes with BUSY (R362, R363). -/
def execPlace (p : Nat) (h : MgmtHdr) (part : BitVec 8) (r : PlaceRec) (s : State) : Out :=
  if 4 ≤ p then .refused .noSuchUnit
  else if !mgmtOps.contains h.op.toNat then mgmt p h 0x28 (fun s => (s, 3, none)) s
  else match s.mgmtRing p h 0x28 2 with
    | none => done s s
    | some g =>
      let a : Asker := ⟨none, 8 + p / 2, part.toNat⟩
      let own := s.ownStatus p part.toNat
      let wait := h.zeroOk && own == 0 && r.zeroOk && s.freeWaits a r
      if wait && !Config.freeBool s.fresh then done s s.draw
      else
        let s1 := takeEntry (256 + p) (if wait then s.draw else s)
        let (s2, st, r') := if !h.zeroOk then (s1, 3, r) else if own ≠ 0 then (s1, own, r) else if wait then (s1, 6, r) else
          placeOp a r s1
        let bs := placeBytes { r' with status := BitVec.ofNat 8 st }
        let s3 := replyMgmt p h (g.taken % g.e) st (some (BitVec.ofNat 64 (field bs 0 8))) s2
        hostDone s (postRec (256 + p)
          { s3.newRec (256 + p) 8 0 0 with reason := 0, data := some (bs.drop 8) } s3)

/-! ### DISABLE and ENABLE (R405, R407) -/

/-- Status of a disable target: BADREQ out of range, NOTFOUND, DENIED for another port's partition. -/
def State.targetStatus (s : State) (p kind index : Nat) : Nat :=
  if 4 < kind then 3
  else if kind = 4 then (if 64 ≤ index then 3 else s.ownStatus p index)
  else if 144 ≤ index then 3
  else if (s.core index).inSvc then 0 else 5

/-- A target's disable flag. -/
def State.isDisabled (s : State) (kind index : Nat) : Bool :=
  let w := (s.core index).pw
  match kind with
  | 0 => w.disabled
  | 1 => w.disArray
  | 2 => w.disJug
  | 3 => w.disUpd
  | _ => match s.part index with | some p => p.disabled | none => false
/-- DISABLE (R405): the DISABLE entry, the flag, DRAIN to every core concerned. -/
def execDisable (p : Nat) (h : MgmtHdr) (kind : BitVec 8) (index : BitVec 16) (timeout : Word) (s : State) : Out :=
  if 4 ≤ p then .refused .noSuchUnit
  else match s.mgmtRing p h 0x30 1 with
    | none => done s s
    | some g =>
      let s1 := takeEntry (256 + p) s
      let t := timeout.toNat
      let st := if !hdrOk h 0x30 || (t != 0 && (decide (t < 1000) || decide (10 ^ 9 < t))) then 3
        else s.targetStatus p kind.toNat index.toNat
      if st ≠ 0 then hostDone s (replyMgmt p h (g.taken % g.e) st none s1)
      else
        let due := s.time + (if t = 0 then 100000 else t)
        let op : DisableOp := ⟨s.host.nextDis, p, h, g.taken % g.e, kind.toNat, index.toNat, due⟩
        let s2 := (setDisabled kind.toNat index.toNat true s1).journal
          (.disable op.id p g.taken kind.toNat index.toNat (s.isDisabled kind.toNat index.toNat))
        let s3 := (s2.coresOn kind.toNat index.toNat).foldl (fun s c => s.upd c fun k => k.raise 6) s2
        hostDone s { s3 with host := { s3.host with disables := s3.host.disables ++ [op], nextDis := op.id + 1 } }

/-- ENABLE (R389). -/
def execEnable (p : Nat) (h : MgmtHdr) (kind : BitVec 8) (index : BitVec 16) (s : State) : Out :=
  mgmt p h 0x31 (fun s =>
    let st := s.targetStatus p kind.toNat index.toNat
    if st ≠ 0 then (s, st, none)
    else if s.host.disables.any fun d => d.kind == kind.toNat && d.index == index.toNat then (s, 6, none)
    else (setDisabled kind.toNat index.toNat false s, 0, none)) s

/-! ### LOG_READ (R513, R515) -/

/-- The 64 bytes of a log entry (R513). -/
def logBytes (e : LogEntry) : List Byte :=
  leBytes 8 e.seq ++ leBytes 8 e.time ++ leBytes 8 e.bootid.toNat ++ leBytes 2 e.code ++ leBytes 1 e.sev ++ leBytes 1 e.part ++
  leBytes 2 e.unit ++ leBytes 2 0 ++ leBytes 8 e.d0.toNat ++ leBytes 8 e.d1.toNat ++ leBytes 8 e.d2.toNat ++ leBytes 8 e.d3.toNat

/-- LOG_READ (R515): the newest entries, oldest first. -/
def execLogRead (p : Nat) (h : MgmtHdr) (addr length : Word) (s : State) : Out :=
  mgmt p h 0x38 (fun s =>
    let es := (s.log.ring.take (length.toNat / 64)).reverse
    if addr.toNat % 64 ≠ 0 ∨ inAperture addr.toNat length.toNat = false then (s, 3, none)
    else (s.writePhys (hostPa p addr.toNat) (es.flatMap logBytes), 0, es.head?.map fun e => BitVec.ofNat 64 e.seq)) s

end Sys2Proof.Machine
end

