-- ==== Sys2Proof/Machine/Net.lean ====
section
/-! DEFINITION. Safety Net: nets, rendezvous, capture and restore (14, R418 to R434). -/

namespace Sys2Proof.Machine

/-! ### Bytes of a net (R418, R426) -/

def Net.chunkCount (t : Net) : Nat := chunksOf t.bytes
/-- The bytes of chunk `i` as they stand. -/
def State.chunkNow (s : State) (t : Net) (i : Nat) : Mem :=
  ((t.chunkPages i).zipIdx).foldl (fun m p =>
    match s.netPage t p.1 with
    | some q => m.putWindow (p.2 * 0x10000) 0x10000 (s.mem.window q.home 0x10000)
    | none => m) []
/-- Length of chunk `i`. -/
def Net.chunkLen (t : Net) (i : Nat) : Nat := (t.chunkPages i).length * 0x10000
/-- Whether a chunk has a page with its dirty bit for a slot set. -/
def State.chunkDirty (s : State) (t : Net) (slotB : Bool) (i : Nat) : Bool :=
  (t.chunkPages i).any fun va => match s.netPage t va with
    | some q => if slotB then q.dirtyB else q.dirtyA
    | none => true
/-- Dirty bits of every page among `vas` of a net's partition. -/
def State.setDirty (s : State) (t : Net) (vas : List Nat) (slotB v : Bool) : State :=
  { s with place := { s.place with pages := s.place.pages.map fun q =>
      if q.part = t.part ∧ vas.contains (q.vpage * 0x10000) then
        (if slotB then { q with dirtyB := v } else { q with dirtyA := v }) else q } }
/-- The doubleword of a net's partition at an address. -/
def State.netWord (s : State) (t : Net) (va : Nat) : Word :=
  match s.netPage t va with
  | some q => BitVec.ofNat 64 (s.mem.nat (q.home + va % 0x10000) 8)
  | none => 0

/-! ### Generations (R422 to R430) -/

/-- The latest complete generation. -/
def Net.latest (t : Net) : Option Gen :=
  match t.genA, t.genB with
  | some a, some b => if a.no < b.no then some b else some a
  | some a, none => some a
  | none, b => b
/-- Whether some chunk of a generation has fewer than two usable replicas, or its two share a stack (R437). -/
def Gen.isSingle (g : Gen) : Bool :=
  g.reps.any fun r => match r with
    | (some a, some b) => a == b
    | _ => true
/-- A generation being written is discarded; its slot holds none and every page's bit for it is set (R430). -/
def discardCapture (n : Nat) (s : State) : State :=
  match s.net n with
  | none => s
  | some t =>
    match t.cap with
    | none => s
    | some c =>
      (s.updNet n fun t => { t with cap := none, genA := if c.slotB then t.genA else none, genB := if c.slotB then none else t.genB }).setDirty
        t t.pages c.slotB true

/-- Two stacks for the replicas of chunk `i`, in rotation (R428; log entry 21). -/
def State.replicaStacks (s : State) (i : Nat) : Option Nat × Option Nat :=
  let up := s.stacksUp
  (up[i % max 1 up.length]?, up[(i + 1) % max 1 up.length]?)

/-- Every write of a partition that is still in flight, done: far work, stores of tiles, semaphore operations, stream pieces, and
the updates of the array (R425). -/
def landWrites (p : Nat) (s : State) : State :=
  let s1 := allCores.foldl (fun s c =>
    let k := s.core c
    if k.idn.part.toNat ≠ p ∨ (k.arr.queue.isEmpty ∧ k.arr.upd.isEmpty) then s else arrayUpTo c (k.tm.step + 2 ^ 20) 64 s) s
  let s2 := s1.works.foldl (fun s w => if w.part = p ∧ w.open = true ∧ w.isWrite = true then applyWork w .none s else s) s1
  allCores.foldl (fun s c => (s.core c).slots.toList.foldl (fun s sl =>
    if sl.part = p then
      sl.prog.pieces.foldl (fun s q => if q.data.isEmpty then s else (s.writeVa p sl.priv q.addr.toNat q.data).1) s
    else s) s) s2
/-- What memory holds at the capture point where writes are in flight: each naturally aligned element its old value or the one it
will have, as free values say; the size of an element is one too (R425; log entry 21). -/
def State.seenMem (s : State) (t : Net) : Mem :=
  let late := (landWrites t.part s).mem
  let unit := 2 ^ ((Config.freeWord s.fresh).toNat % 4)
  t.pages.foldl (fun m va => match s.netPage t va with
    | some q => ((late.window q.home 0x10000 ++ s.mem.window q.home 0x10000).map fun x => q.home + x.1).foldl (fun m a =>
        if late.get a ≠ s.mem.get a ∧ Config.freeBool (s.fresh + 1 + a / unit) = true then m.put a [late.get a] else m) m
    | none => m) s.mem

/-- The doubleword at an address of a net in captured chunks (R429). -/
def Net.captured (t : Net) (chunks : List Mem) (va : Nat) : Word :=
  let i := t.pages.idxOf (va / 0x10000 * 0x10000)
  BitVec.ofNat 64 (((chunks[i / 16]?).getD []).nat (i % 16 * 0x10000 + va % 0x10000) 8)
/-- What a stream holds at the capture point: key and counter (R425, R429). -/
def State.streamNow (s : State) (t : Net) (g : Group) (chunks : List Mem) (x : NetStream) : Word × Word :=
  if x.kind then (t.captured chunks x.vaddr, t.captured chunks (x.vaddr + 8))
  else match g.members[x.member]? with
    | some c => ((s.core c).arr.srkey, (s.core c).arr.srctr)
    | none => (0, 0)

/-- The manifest of a generation (R429); the entries of streams that the net does not have are zero (log entry 21). -/
def Net.manifest (t : Net) (g : Gen) : List Byte :=
  let body := leBytes 4 t.num ++ leBytes 4 g.chunks.length ++ leBytes 8 g.no ++ leBytes 8 g.step ++ leBytes 8 g.time ++ g.posrec ++
    ((List.range 16).flatMap fun i =>
      let x := (g.streams[i]?).getD (0, 0)
      leBytes 8 x.1.toNat ++ leBytes 8 x.2.toNat) ++ g.digests.flatten
  body ++ Config.sha512 body

/-- A capture begins (R425, R426): the generation as of this instant, the chunks to copy under hold. -/
def beginCapture (n step : Nat) (g : Group) (s : State) : State :=
  match s.net n with
  | none => s
  | some t =>
    let slotB := match t.genA, t.genB with
      | some a, some b => decide (a.no > b.no)
      | some _, none => true
      | none, _ => false
    let todo := (List.range t.chunkCount).filter fun i => s.chunkDirty t slotB i
    let prev := if slotB then t.genB else t.genA
    let seen : State := { s with mem := s.seenMem t }
    let chunks := (List.range t.chunkCount).map fun i =>
      if todo.contains i then seen.chunkNow t i else ((prev.bind fun p => p.chunks[i]?).getD (seen.chunkNow t i))
    let digests := (chunks.zipIdx).map fun p => Config.sha512 (p.1.bytes 0 (t.chunkLen p.2))
    let reps := (List.range t.chunkCount).map fun i =>
      if todo.contains i then s.replicaStacks i else ((prev.bind fun p => p.reps[i]?).getD (s.replicaStacks i))
    let bare : Gen := ⟨t.nextGen, step, s.time, t.posrec, t.streams.map (s.streamNow t g chunks), chunks, digests, [], reps⟩
    let gen : Gen := { bare with manifest := t.manifest bare }
    let s1 := { s with fresh := s.fresh + 2 ^ 50 }.setDirty t (todo.flatMap t.chunkPages) slotB false
    s1.updNet n fun t => { t with
      nextGen := t.nextGen + 1, deferred := false, cap := some ⟨slotB, gen, todo, [], [0, 1].filter fun h => (s.hub h).insvc⟩
      genA := if slotB then t.genA else none, genB := if slotB then none else t.genB }

/-! ### The gate (R422, R423) -/

/-- The request record at x10 of a core in gate 0xF3: its bytes, or none. -/
def State.netRec (s : State) (c : Nat) : Option (List Byte) :=
  let k := s.core c
  match s.readVa k.idn.part.toNat .m true (k.rx 10).toNat 64 with
  | .ok bs => some bs
  | .error _ => none
/-- Ringmaster answers a core in gate 0xF3: output fields, STATUS where the record has that byte, and STATUS in x10 (R422). -/
def netReply (c st : Nat) (outs : List (Nat × List Byte)) (s : State) : State :=
  let k := s.core c
  let a := (k.rx 10).toNat
  let status (s : State) : State := (s.writeVa k.idn.part.toNat .m (a + 1) [BitVec.ofNat 8 st]).1
  let s1 := match s.netRec c with
    | some bs =>
      if (k.rx 11).toNat = 64 ∧ (st = 0 ∨ st = 9) then
        (s.writeVa k.idn.part.toNat .m a (splice (outs.foldl (fun bs o => splice bs o.1 o.2) bs) 1 [BitVec.ofNat 8 st])).1
      else if 2 ≤ (k.rx 11).toNat then status s else s
    | none => if 2 ≤ (k.rx 11).toNat then status s else s
  (gateAnswer c st s1).upd c fun k => { k with wait := none }

/-- Output fields of the latest generation: GEN, SINGLE, TIME. -/
def genOuts (g : Option Gen) : List (Nat × List Byte) :=
  match g with
  | some g => [(32, leBytes 8 g.no), (44, leBytes 4 (b2n g.isSingle)), (48, leBytes 8 g.time)]
  | none => [(32, leBytes 8 0), (44, leBytes 4 0), (48, leBytes 8 0)]

/-- The caller's level at gate 0xF3. -/
def Core.callerPriv (k : Core) : Priv := Priv.dec (k.tr.save k.bank).estat.ceil.toNat

/-- A request through gate 0xF3 (R422): Ringmaster carries out the record at x10 when its OP is `op`; BADREQ for a length
other than 64, bytes not zero, an unassigned OP. -/
def netService (c op : Nat) (f : List Byte → State → State) (s : State) : Out :=
  if 160 ≤ c then .refused .noSuchUnit
  else if !(s.core c).inGate 0xF3 then done s s
  else
    let s1 := arrive c s
    if ((s1.core c).rx 11).toNat ≠ 64 then hostDone s (netReply c 3 [] s1)
    else match s1.netRec c with
      | none => hostDone s (netReply c 3 [] s1)
      | some bs =>
        let o := field bs 0 1
        if o = 0 ∨ 5 < o ∨ (o = op ∧ (field bs 2 2 ≠ 0 ∨ field bs 56 8 ≠ 0)) then hostDone s (netReply c 3 [] s1)
        else if o = op then hostDone s (f bs s1)
        else done s s

/-! ### NET_CREATE and NET_DROP (R419, R420, R423) -/

/-- The regions of a descriptor: address and length. -/
def descRegions (d : List Byte) : List (Nat × Nat) :=
  (List.range (field d 0 1)).map fun i => (field d (64 + 16 * i) 8, field d (72 + 16 * i) 8)
/-- Byte offset of stream entry `i`. -/
def strOfs (d : List Byte) (i : Nat) : Nat := 64 + 16 * field d 0 1 + 32 * i
def descStreams (d : List Byte) : List NetStream :=
  (List.range (field d 1 1)).map fun i =>
    let o := strOfs d i
    ⟨field d o 1 == 1, field d (o + 2) 2, field d (o + 4) 4, BitVec.ofNat 64 (field d (o + 8) 8), BitVec.ofNat 64 (field d (o + 16) 8),
      field d (o + 24) 8⟩
/-- The form of a descriptor (R420). -/
def netDescOk (d : List Byte) (len : Nat) : Bool :=
  let nreg := field d 0 1
  let nstr := field d 1 1
  let rs := descRegions d
  decide (1 ≤ nreg ∧ nreg ≤ 64 ∧ nstr ≤ 16 ∧ len = 64 + 16 * nreg + 32 * nstr) &&
  decide (field d 2 2 = 0 ∧ 1 ≤ field d 4 4 ∧ field d 4 4 ≤ 65535 ∧ field d 8 56 = 0) &&
  rs.all (fun r => decide (r.1 % 0x10000 = 0 ∧ r.2 % 0x10000 = 0 ∧ r.2 ≠ 0)) && disjointRanges rs &&
  decide ((rs.map (·.2)).sum ≤ 0x1000000000) &&
  (List.range nstr).all fun i =>
    let o := strOfs d i
    decide (field d o 1 ≤ 1) && field d (o + 1) 1 == 0 &&
    (if field d o 1 = 1 then
       field d (o + 2) 2 == 0 && decide (field d (o + 24) 8 % 8 = 0) &&
         rs.any fun r => decide (r.1 ≤ field d (o + 24) 8 ∧ field d (o + 24) 8 + 16 ≤ r.1 + r.2)
     else field d (o + 24) 8 == 0)

/-- Where a region lies (R419): 3 BADREQ outside placed allocations, 7 DENIED in one attached from another partition and where
another partition may write it. -/
def State.regionStatus (s : State) (part : Nat) (r : Nat × Nat) : Nat :=
  let at_ (va : Nat) : Option Alloc :=
    (s.page part va).bind fun q => s.place.allocs.find? fun a => a.id == q.alloc && !a.host
  let as := (List.range (r.2 / 0x10000)).map fun i => at_ (r.1 + i * 0x10000)
  if as.any (·.isNone) then 3
  else if as.any fun a => match a with
    | some a => a.part != part || (a.grants.any fun g => g.2.1 != part && (g.2.2.getLsbD 1 || g.2.2.getLsbD 3)) ||
        (s.place.pages.any fun q => q.alloc == a.id && q.part != part && (q.rights.getLsbD 1 || q.rights.getLsbD 3))
    | none => false then 7
  else 0

/-- DRAM pages open to placement over all stacks. -/
def State.dramFree (s : State) : Nat :=
  (s.stacksUp.map fun n => s.stackLim 2 - (s.stackUsed 2 n).length).sum

/-- NET_CREATE (R419, R420, R423). -/
def netCreate (c : Nat) (bs : List Byte) (s : State) : State :=
  let k := s.core c
  let part := k.idn.part.toNat
  let len := field bs 16 8
  let fail (st : Nat) : State := netReply c st [] s
  match s.part part, (if len ≤ 64 + 16 * 64 + 32 * 16 then s.readVa part .m false (field bs 8 8) len else .error 0) with
  | some p, .ok d =>
    let rs := descRegions d
    let st := rs.foldl (fun st r => if st ≠ 0 then st else s.regionStatus part r) 0
    let others := (s.nets.filter fun t => t.part == part).flatMap (·.regions)
    let bytes := (rs.map (·.2)).sum
    if k.callerPriv == .t then fail 7
    else if p.score || !netDescOk d len || !disjointRanges (rs ++ others) then fail 3
    else if st ≠ 0 then fail st
    else if s.stacksUp.isEmpty || decide (s.dramFree < netReserve bytes) then fail 1
    else if !s.quotaOk part 2 (netReserve bytes) then fail 2
    else match lowestFree 64 1 (s.nets.map (·.num)) with
      | [] => fail 1
      | num :: _ =>
        let t : Net := ⟨num, part, rs, descStreams d, field d 4 4, 0, false, List.replicate 64 0, none, none, 1, none, false, none,
          [], none, [], false, false, none⟩
        netReply c 0 [(4, leBytes 4 num), (24, leBytes 8 0), (32, leBytes 8 0), (44, leBytes 4 0), (48, leBytes 8 0)]
          ({ s with nets := s.nets ++ [t] }.setDirty t t.pages false true |>.setDirty t t.pages true true)
  | _, _ => fail 3

/-- NET_CREATE. -/
def execNetCreate (c : Nat) (s : State) : Out := netService c 1 (netCreate c) s

/-- The net a record names, where it belongs to the caller's partition. -/
def State.recNet (s : State) (c : Nat) (bs : List Byte) : Option Net :=
  (s.net (field bs 4 4)).bind fun t => if t.part = (s.core c).idn.part.toNat then some t else none

/-- NET_QUERY (R423). -/
def execNetQuery (c : Nat) (s : State) : Out :=
  netService c 4 (fun bs s =>
    match s.recNet c bs with
    | none => netReply c 5 [] s
    | some t => netReply c 0 ((24, leBytes 8 t.lastStep) :: (40, leBytes 4 (b2n t.cap.isSome)) :: genOuts t.latest) s) s

/-- NET_DROP (R423): GEN, SINGLE and TIME tell of the generation dropped; members that wait to attach the net find it gone (log
entry 21). -/
def execNetDrop (c : Nat) (s : State) : Out :=
  netService c 5 (fun bs s =>
    match s.recNet c bs with
    | none => netReply c 5 [] s
    | some t =>
      if (s.core c).callerPriv == .t then netReply c 7 [] s
      else if t.bound.isSome || t.cap.isSome || t.dirtyNeed then netReply c 6 [] s
      else
        let s1 := t.calls.foldl (fun s x => netReply x.core 5 [] s) { s with nets := s.nets.filter fun u => u.num != t.num }
        netReply c 0 (genOuts t.latest) s1) s

/-! ### Rendezvous (R423, R424, R433) -/

/-- Every waiting member of a net is answered. -/
def answerAll (t : Net) (calls : List NetCall) (st : Nat) (outs : List (Nat × List Byte)) (s : State) : State :=
  (calls.foldl (fun s x => netReply x.core st outs s) s).updNet t.num fun t =>
    { t with calls := t.calls.filter fun y => !(calls.any fun x => x.core == y.core) }

/-- What makes a rendezvous BADREQ for all (R423): kind-0 members past the group, differing steps, an address from
another member, a bad address from member 0. -/
def rendezvousBad (s : State) (t : Net) (g : Group) (calls : List NetCall) (attach : Bool) : Bool :=
  let lead := calls.find? fun x => g.members[0]? == some x.core
  (t.streams.any fun x => !x.kind && decide (g.members.length ≤ x.member)) ||
  (!attach && calls.any fun x => calls.any fun y => x.step != y.step) ||
  (calls.any fun x => g.members[0]? != some x.core && x.addr != 0) ||
  (match lead with
   | some x => decide (x.addr.toNat % 64 ≠ 0) || !(s.core x.core).inWindow x.addr.toNat 64
   | none => true)

/-- key(t) (R421). -/
def streamKey (x : NetStream) (step : Nat) : Word := x.key0 ^^^ BitVec.ofNat 64 (step * 0xA24BAED4963EE407 % 2 ^ 64)
/-- The counter expected at a boundary with a position record (R421). -/
def streamExpected (x : NetStream) (posrec : List Byte) : Word :=
  BitVec.ofNat 64 ((x.cbase.toNat + field posrec 0 8 * x.dps) % 2 ^ 64)

/-- NET_ATTACH with every member there (R433). -/
def attachNow (t : Net) (g : Group) (calls : List NetCall) (s : State) : State :=
  let lead := g.members[0]?.getD 0
  let addr := ((calls.find? fun x => x.core == lead).map (·.addr)).getD 0
  -- members of another group that wait for the same net are turned away (R423)
  let bind (s : State) : State :=
    answerAll t (t.calls.filter fun x => x.attach && !(g.live.any fun p => p.2 == x.core)) 7 []
      (s.updNet t.num fun t => { t with bound := some g.num, restored := none, restKeys := [] })
  let gen := match t.restored with
    | some n => [t.genA, t.genB].findSome? fun q => q.bind fun q => if q.no = n then some q else none
    | none => t.latest
  let putRec (s : State) : State := s.storeLocal (s.windowPa lead addr.toNat) t.posrec
  if t.lost then bind (answerAll t calls 9 [(24, leBytes 8 t.lastStep), (32, leBytes 8 0), (44, leBytes 4 0), (48, leBytes 8 0)] s)
  else if !t.stepped then bind (answerAll t calls 0 ((24, leBytes 8 0) :: genOuts none) s)
  else
    let s1 := t.restKeys.foldl (fun s x => match g.members[x.1]? with
      | some c => s.upd c fun k => { k with arr := { k.arr with srkey := x.2.1, srctr := x.2.2, srSet := true } }
      | none => s) (putRec s)
    bind (answerAll t calls 0 ((24, leBytes 8 t.lastStep) :: genOuts gen) s1)

/-- NET_STEP with every member there (R423, R424). -/
def stepNow (t : Net) (g : Group) (calls : List NetCall) (s : State) : State :=
  let lead := g.members[0]?.getD 0
  let call := calls.find? fun x => x.core == lead
  let step := (call.map (·.step)).getD 0
  let addr := (call.map (·.addr)).getD 0
  if (if t.stepped then step != t.lastStep + 1 else step == 0) then answerAll t calls 10 [] s
  else
    let rec64 := s.mem.bytes (s.windowPa lead addr.toNat) 64
    let s1 := (s.updNet t.num fun t => { t with lastStep := step, stepped := true, posrec := rec64 }).journal
      (.netStep t.num t.lastStep t.stepped t.posrec)
    let due := decide (step % t.interval = 0) || t.deferred
    let take := due && t.cap.isNone && !s.stacksUp.isEmpty
    let s2 :=
      if take then beginCapture t.num step g s1
      else if due && t.cap.isSome && !t.deferred then
        (s1.updNet t.num fun t => { t with deferred := true }).logAdd 0x16 0 t.part (unitOf 6 t.num) t.num step 0 0
      else s1
    answerAll t calls 0 ((40, leBytes 4 (b2n take)) :: genOuts t.latest) s2

/-- A member enters a rendezvous; with the last one the operation is carried out. -/
def netCall (c : Nat) (attach : Bool) (bs : List Byte) (s : State) : State :=
  let k := s.core c
  let gnum := k.idn.group.toNat
  match s.recNet c bs, s.group gnum with
  | some t, some g =>
    let denied := match t.bound with
      | some b => b != gnum
      | none => !attach
    if denied then netReply c 7 [] s
    else
      let call : NetCall := ⟨c, attach, field bs 24 8, BitVec.ofNat 64 (field bs 8 8), s.time⟩
      let s1 := (s.updNet t.num fun t => { t with calls := t.calls ++ [call] }).upd c fun k =>
        { k with wait := some ⟨.netGate t.num, 0, s.time, s.time + k.idn.wtoDef.toNat, false, false, false, 0, false⟩ }
      let calls := (t.calls ++ [call]).filter fun x => x.attach == attach && g.live.any fun p => p.2 == x.core
      if g.live.any (fun p => !(calls.any fun x => x.core == p.2)) then s1
      else if rendezvousBad s1 t g calls attach then answerAll t calls 3 [] s1
      else if attach then attachNow t g calls s1
      else stepNow t g calls s1
  | some _, none => netReply c 3 [] s
  | none, _ => netReply c 5 [] s

/-- Whether the net a core names is being restored: no operation but NET_QUERY completes (R434). -/
def State.netHeld (s : State) (c : Nat) : Bool :=
  match (s.netRec c).bind (s.recNet c) with
  | some t => t.dirtyNeed
  | none => false

/-- NET_ATTACH (R433). -/
def execNetAttach (c : Nat) (s : State) : Out :=
  let s := affectPoisoned s
  if (s.core c).inGate 0xF3 && s.netHeld c then done s s else netService c 2 (netCall c true) s
/-- NET_STEP (R424). -/
def execNetStep (c : Nat) (s : State) : Out :=
  let s := affectPoisoned s
  if (s.core c).inGate 0xF3 && s.netHeld c then done s s else netService c 3 (netCall c false) s

/-- NET_RENDEZVOUS_TIMEOUT (R423): WTO_DEF after the first member's call, every waiting member of its group returns BUSY; not
while the net is being restored (R434). -/
def execNetRendezvousTimeout (net : Nat) (s : State) : Out :=
  match s.net net with
  | none => if 64 ≤ net then .refused .noSuchUnit else done s s
  | some t =>
    match (if t.dirtyNeed then [] else t.calls) with
    | [] => done s s
    | x :: _ =>
      let s1 := s.tickTo (x.since + (s.core x.core).idn.wtoDef.toNat)
      let of (c : Nat) : BitVec 32 := (s.core c).idn.group
      hostDone s (answerAll t (t.calls.filter fun y => of y.core == of x.core) 6 [] s1)

/-! ### The engine (R427, R428) -/

/-- Chunks under hold for which a write waits: their reads stand at the head of the engine's queue (R427). -/
def State.urgentChunks (s : State) : List (Nat × Nat) :=
  ((s.works.filter fun w => w.stage == Stage.going).flatMap s.heldWork) ++
  allCores.flatMap fun c => (s.core c).slots.toList.flatMap fun sl => sl.prog.pieces.flatMap fun p =>
    if p.data.isEmpty then [] else s.heldRange sl.part sl.priv p.addr.toNat p.len
/-- CHUNK_READ_DONE (R427): the hold on a chunk ends; one for which a write waits comes before the others. -/
def execChunkReadDone (net chunk : Nat) (s : State) : Out :=
  if 64 ≤ net then .refused .noSuchUnit
  else if !s.urgentChunks.isEmpty && !s.urgentChunks.contains (net, chunk) then done s s
  else
    let take (c : Capture) : Capture :=
      if c.todo.contains chunk then { c with todo := c.todo.filter (· != chunk), copied := c.copied ++ [chunk] } else c
    done s (s.updNet net fun t => { t with cap := t.cap.map take })

/-- GENERATION_COMPLETE (R428): every chunk is written; the generation takes its slot, COMPLETE is appended, EVC58 counts. -/
def execGenerationComplete (net : Nat) (s : State) : Out :=
  match s.net net with
  | none => if 64 ≤ net then .refused .noSuchUnit else done s s
  | some t =>
    match t.cap with
    | none => done s s
    | some c =>
      if !c.todo.isEmpty then done s s else
        let s1 := s.updNet net fun t => { t with
          cap := none, lost := false
          genA := if c.slotB then t.genA else some c.gen, genB := if c.slotB then some c.gen else t.genB }
        done s ((s1.journal (.complete net c.gen.no)).countPart t.part 58 1)

/-! ### Restore (R431, R432, R434, R435) -/

/-- Usable replicas of chunk `i` of a generation: the stack serves and the digest matches. `bad` lists those whose
hash failed: slot, chunk, replica. -/
def State.usable (s : State) (g : Gen) (slot i : Nat) (bad : List (Nat × Nat × Nat)) : Bool × Bool :=
  let r := (g.reps[i]?).getD (none, none)
  let ok (x : Option Nat) (j : Nat) : Bool :=
    (match x with | some n => (s.stack n).insvc | none => false) && !bad.contains (slot, i, j)
  (ok r.1 0, ok r.2 1)
/-- Whether a generation's manifests and chunks verify (R431). A manifest copy goes by the number of chunks; as replica 2 of it `bad`
names two copies that both verify and are not identical. -/
def State.genOk (s : State) (g : Gen) (slot : Nat) (bad : List (Nat × Nat × Nat)) : Bool :=
  let n := g.chunks.length
  !(bad.contains (slot, n, 0) && bad.contains (slot, n, 1)) &&
  (bad.contains (slot, n, 0) || bad.contains (slot, n, 1) || !bad.contains (slot, n, 2)) && !s.stacksUp.isEmpty &&
  (List.range n).all fun i => let u := s.usable g slot i bad; u.1 || u.2
/-- How far a stream's captured counter stands from the expected one (R432). -/
def streamDelta (x : NetStream) (g : Gen) (i : Nat) : Word :=
  ((g.streams[i]?).getD (0, 0)).2 - streamExpected x g.posrec
/-- The streams whose counters make a generation unusable, with their numbers (R432). -/
def Net.badStreams (t : Net) (g : Gen) : List (NetStream × Nat) :=
  t.streams.zipIdx.filter fun p => let d := streamDelta p.1 g p.2; d != 0 && d != 1

/-- The generation a restore uses: complete ones, the latest first; RNG_MISMATCH is logged for each bad stream of one it turns down. -/
def chooseGen (t : Net) (bad : List (Nat × Nat × Nat)) : List (Nat × Gen) → State → State × Option (Nat × Gen)
  | [], s => (s, none)
  | (slot, g) :: rest, s =>
    if !s.genOk g slot bad then chooseGen t bad rest s
    else match t.badStreams g with
      | [] => (s, some (slot, g))
      | xs => chooseGen t bad rest (xs.foldl (fun s p =>
          s.logAdd 0x18 2 t.part (unitOf 6 t.num) p.2 ((g.streams[p.2]?).getD (0, 0)).2.toNat (streamExpected p.1 g.posrec).toNat g.no) s)

/-- The chosen generation is written (R431, R432): pages, streams, position. -/
def writeGen (t : Net) (slot : Nat) (g : Gen) (bad : List (Nat × Nat × Nat)) (s : State) : State :=
  let n := g.chunks.length
  let s1 := (List.range n).foldl (fun s i =>
    -- a replica that is there and fails its digest; one lost with its stack is no bad one (R437)
    let r := (g.reps[i]?).getD (none, none)
    ([(0, r.1), (1, r.2)]).foldl (fun s x => match x.2 with
      | some n => if (s.stack n).insvc && bad.contains (slot, i, x.1) then s.logAdd 0x19 1 t.part (unitOf 6 t.num) i g.no n 0 else s
      | none => s) s) s
  let s2 := (t.pages.zipIdx).foldl (fun s p =>
    match s.netPage t p.1, g.chunks[p.2 / 16]? with
    | some q, some m =>
      let s' := s.fireOn q.home 0x10000 160
      { s' with
        mem := s'.mem.putWindow q.home 0x10000 (m.window (p.2 % 16 * 0x10000) 0x10000)
        poison := s'.poison.filter fun u => decide (u < q.home ∨ q.home + 0x10000 ≤ u)
        place := { s'.place with pages := s'.place.pages.map fun r => if r.home = q.home then { r with lost := false } else r } }
    | _, _ => s) s1
  let s3 := (t.streams.zipIdx).foldl (fun s p =>
    let x := p.1
    let exp := streamExpected x g.posrec
    let cap := ((g.streams[p.2]?).getD (0, 0)).2
    let s := if cap = exp then s else s.logAdd 0x17 0 t.part (unitOf 6 t.num) p.2 cap.toNat exp.toNat g.no
    if x.kind then
      [(x.vaddr, streamKey x (g.step + 1)), (x.vaddr + 8, exp)].foldl (fun s (p : Nat × Word) =>
        match s.netPage t p.1 with
        | some q => { s with mem := s.mem.put (q.home + p.1 % 0x10000) (leBytes 8 p.2.toNat) }
        | none => s) s
    else s) s2
  let s4 := (s3.setDirty t t.pages (slot == 1) false).setDirty t t.pages (slot != 1) true
  s4.updNet t.num fun t => { t with
    lastStep := g.step, stepped := true, posrec := g.posrec, restored := some g.no, lost := false
    restKeys := (t.streams.filter fun x => !x.kind).map fun x => (x.member, streamKey x (g.step + 1), streamExpected x g.posrec) }

/-- RE_REPLICATION (R437): a chunk of a slot left with one replica is copied to a stack in service. -/
def execReReplication (net slot chunk : Nat) (stack : Nat) (s : State) : Out :=
  if 64 ≤ net || 8 ≤ stack || 2 ≤ slot then .refused .noSuchUnit else
    let fix (g : Gen) : Gen :=
      { g with reps := modNth g.reps chunk fun r =>
          match r with
          | (some a, none) => if a ≠ stack ∨ s.stacksUp = [stack] then (some a, some stack) else r
          | (none, some b) => if b ≠ stack ∨ s.stacksUp = [stack] then (some stack, some b) else r
          | _ => r }
    if !(s.stack stack).insvc then done s s
    else done s (s.updNet net fun t =>
      if slot = 0 then { t with genA := t.genA.map fix } else { t with genB := t.genB.map fix })

end Sys2Proof.Machine
end

