-- ==== Sys2Proof/Machine/Faults.lean ====
section
/-! DEFINITION. Failures of parts: cores, stacks, links, hubs; planned retirements and the end of a disable (R23, R24, R28, R31, R349,
R364, R405, R435 to R439, R467, R469). -/

namespace Sys2Proof.Machine

/-! ### Guaranteed cores (R349) -/

/-- CORES_MIN is lowered by what the sum exceeds the cores in service: partitions in the order given. -/
def lowerMinsOf : List Nat → State → State
  | [], s => s
  | p :: ps, s =>
    let excess := s.minSum 64 - s.inSvcCores.length
    match s.part p with
    | some q =>
      if excess = 0 ∨ q.coresMin = 0 then lowerMinsOf ps s else
        let new := q.coresMin - excess
        lowerMinsOf ps ((s.updPart p fun q => { q with coresMin := new }).logAdd 0x1D 0 p (unitOf 15 0) q.coresMin new 0 0)
    | none => lowerMinsOf ps s
/-- Training partitions first, the highest number first; then scoring partitions (R349). -/
def lowerMins (s : State) : State :=
  let nums (score : Bool) : List Nat :=
    sortBy (fun a b => decide (b ≤ a)) ((s.place.parts.filter fun q => q.score == score).map (·.num))
  lowerMinsOf (nums false ++ nums true) s

/-! ### Pages whose home is lost (R28, R346, R364, R395) -/

/-- The takes parked at a lost home fail, each finding its line poisoned (R323, R353, R514). -/
def failLost (h : Nat) (s : State) : State :=
  failTakes [h] ((s.takes.filter fun t => decide (h ≤ t.addr ∧ t.addr < h + 0x10000)).foldl (fun s t =>
    match s.work t.id with
    | some w => noteUE w.core t.addr 0x52 w.pc s
    | none => s) s)
/-- A page whose contents are lost gets a new home, as its hints place it, poisoned; its partitions get ERROR_NOTIFY and the takes
parked there fail. Where no home is free, and where it is pinned and so never moves, it is mapped onto none, and every access finds
it poisoned (R346, R364, R532; log entry 19). Only a move out of a slice counts as one (R532). -/
def spillHome (h : Nat) (q : Page) (s : State) : State :=
  match (if s.isPinned q then none else s.rehome q false []) with
  | some new =>
    let s1 := s.movePage h new
    failLost new (losePage new (if (homeOf h).map (·.1) = some 0 then s1.countMove q.part h new else s1))
  | none =>
    let gone := 2 ^ 48 + h
    let move (r : Page) : Page := if r.home = h then { r with home := gone, moving := none } else r
    failLost h (losePage gone { s with place := { s.place with pages := s.place.pages.map move } })
/-- A page whose home is lost: a staging page goes on from its second copy, where it has one (R395, R403). -/
def loseHome (h : Nat) (s : State) : State :=
  match s.pageAt h with
  | none => s
  | some q =>
    match s.place.allocs.find? fun a => a.id == q.alloc && a.staging with
    | none => spillHome h q s
    | some a =>
      let i := q.vpage - a.vaddr / 0x10000
      match (a.copy2[i]?).join with
      | none => spillHome h q s
      | some new =>
        let s1 := s.movePage h new
        { s1 with
          poison := s1.poison.filter fun u => decide (u < new ∨ new + 0x10000 ≤ u)
          place := { s1.place with
            pages := s1.place.pages.map fun r => if r.home = new then { r with lost := false } else r
            allocs := s1.place.allocs.map fun b =>
            if b.id = a.id then { b with copy2 := modNth b.copy2 i fun _ => none } else b } }
/-- Every page homed in a range loses it; second copies there are lost, each for itself (R395). -/
def loseRange (base n : Nat) (s : State) : State :=
  let there (h : Nat) : Bool := decide (base ≤ h ∧ h < base + n)
  let homes := ((s.place.pages.map (·.home)).filter there).eraseDups
  let keep (o : Option Nat) : Option Nat := o.filter fun h => !there h
  let s1 := { s with place := { s.place with
    allocs := s.place.allocs.map fun a => { a with copy2 := a.copy2.map keep }
    pages := s.place.pages.map fun q => { q with moving := keep q.moving } } }
  homes.foldl (fun s h => loseHome h s) s1

/-! ### Cores leave service (R303, R326, R334, R436) -/

/-- A core's peers in streams lose it: a sender drops it, the receivers of its own streams lose their sender, their pieces on the
way still drain (R302, R303). -/
def dropPeers (c : Nat) (s : State) : State :=
  (allCores.filter (· != c)).foldl (fun s t =>
    (List.range 16).foldl (fun s i =>
      let sl := s.slot t i
      let on (r : Rcv) : Bool := s.memberCore sl.idn.group.toNat r.member.toNat == some c
      match sl.st, sl.sender with
      | .free, _ => s
      | .sender, _ =>
        match sl.rcvs.find? fun r => r.live && on r with
        | some r => s.updSlot t i fun sl => { sl with
            err := sl.err.orElse fun _ => some ⟨sl.pc, r.member.setWidth 64, 0x32⟩
            rcvs := sl.rcvs.map fun r => if on r then { r with live := false } else r }
        | none => s
      | _, some (sc, ss) =>
        if sc = c then
          dropReceiver t i (s.slot sc ss).prog.pieces (some (dropRec s t i ((s.slot sc ss).idn.member.setWidth 64) 0x32)) s
        else s
      | _, none => s) s) s
/-- Signals on their way to a core that leaves service fail (R326). -/
def failSignals (c : Nat) (s : State) : State :=
  let lost (w : Work) : Bool := match w.kind, w.stage with
    | .sig m _, .going => decide (w.addr.toNat < 4096) && s.liveMember w.group m.toNat == some c
    | _, _ => false
  { s with works := s.works.map fun w => if lost w then w.fail w.addr 0x32 else w }
/-- A core stops and is out of service for good; what it had in flight fails with it. -/
def leaveService (c : Nat) (st : CoreSvc) (s : State) : State :=
  let s1 := removeBars c (clearTake c s)
  let s2 := { s1 with
    works := s1.works.filter fun w => w.core != c
    armed := s1.armed.filter fun a => a.1 != c }
  let s3 := s2.upd c fun k => { k with
    wait := none
    slots := Core.reset.slots
    arr := { k.arr with queue := [], upd := [] }
    cnt := { k.cnt with cc := Vector.replicate 16 0 }
    pw := { k.pw with svc := st, ring := false, volt := 0, vset := 0, target := 0, boostTill := none, hotSince := none } }
  if isHub c then s3 else
    { s3 with pkg := { s3.pkg with mtab := modNth s3.pkg.mtab c fun m => { m with st := 2 } } }
/-- What a core has in flight completes or fails, as free truth values say: what completes is in memory (R23, R436; log entry 34). -/
def settleInFlight (c : Nat) (s : State) : State :=
  let s1 := (s.works.filter fun w => w.core == c && w.stage == .going && w.isWrite).foldl (fun s w =>
    if Config.freeBool s.fresh = true then applyWork w .none s.draw else s.draw) s
  (s.core c).slots.toList.foldl (fun s sl =>
    sl.prog.pieces.foldl (fun s q =>
      if q.data.isEmpty then s
      else if Config.freeBool s.fresh = true then (s.draw.writeVa sl.part sl.priv q.addr.toNat q.data).1
      else s.draw) s) s1
/-- Step 1 of R436: the core stops, its peers and the signals to it fail, its own work completes or fails. -/
def loseCore (c : Nat) (st : CoreSvc) (s : State) : State :=
  let gs := (s.place.groups.filter fun g => g.live.any fun p => p.2 == c).map (·.num)
  leaveService c st (gs.foldl (fun s g => fenceMember c g s) (dropPeers c (failSignals c (settleInFlight c s))))

/-- A running task stops with its group kept for the replay; a member where another task has displaced it is left to that one
(R416, R436 step 2). -/
def requeueKept (t : Task) (g : Group) (s : State) : State :=
  let s1 := g.live.foldl (fun s p => fenceMember p.2 g.num s) s
  let s2 := g.live.foldl (fun s p =>
    if (s.core p.2).idn.group.toNat = g.num then
      (toMonitor p.2 s).upd p.2 fun k => { k with idn := { k.idn with taskseq := 0 } }
    else dropSaved p.2 g.num s) s1
  (clearStaging t s2).updTask t.seq fun t =>
    { t with st := .queued, replayed := true, result := 0, failed := none, start := 0, cores := 0
             saved := t.saved.filter fun q => (s2.core q.1).inSvc }
/-- A group with members out of service: its task goes back to QUEUED with the group kept, and its nets are to be restored (R435,
R436 steps 2 and 5). A choice made of a stand-in that is itself lost is undone. -/
def haltGroup (eseq num : Nat) (s : State) : State :=
  match s.group num with
  | none => s
  | some g =>
    let nets := s.nets.filter fun n => n.bound == some num
    let s1 := match s.host.tasks.find? fun t => t.group == some num && (t.st == .running || t.st == .ending) with
      | some t =>
        -- an ungrouped group takes no task again: its members are released with the run that ends here (R360)
        if g.ungrouped then replayTask t 0x06 eseq s
        else ((requeueKept t g s).countPart g.part 56 1).logAdd 0x1F 3 g.part (unitOf 15 0) t.seq t.ch 0x06 eseq
      | none => s
    let holder := (s.host.tasks.find? fun t => t.group == some num).map (·.seq)
    let s2 := nets.foldl (fun s n => (affectNets 0x06 eseq [n] s).updNet n.num fun u =>
      { u with waiting := holder.orElse fun _ => u.waiting }) s1
    { s2 with place := { s2.place with groups := s2.place.groups.map fun h =>
        if h.num = num then { h with
          await := (h.await ++ nets.map (·.num)).eraseDups
          pend := h.pend.filter fun q => (s2.core q.2).inSvc } else h } }

/-- A spare comes in for a core that served no group (R26; log entry 34, DESIGN CHOICE). -/
def spareIn (c : Nat) (s : State) : State :=
  match (s.spares.filter (· != c)).head? with
  | some n => (enterService n s).logAdd 0x07 2 0xFF (coreUnit n) n c 0 0xFFF
  | none => s

/-- A core that leaves service is logged with the figures of its margin domain, a supervisor core's hub (R475, R514). -/
def noteRetired (c : Nat) (planned : Bool) (s : State) : State :=
  let m := s.margin (if isHub c then 152 + dieOf c else c)
  s.logAdd 0x06 3 (s.core c).logPart (coreUnit c) (b2n planned) m.slack m.vofs m.xtaps
/-- The recovery of R436 for cores that fail together; `planned` for R469. Each is one change of FEAT3 (R92). -/
def coreFaults (cs : List Nat) (planned : Bool) (s : State) : State :=
  let grouped (c : Nat) : Bool := s.place.groups.any fun g => g.live.any (fun p => p.2 == c) || g.pend.any fun q => q.2 == c
  -- step 1; each group goes by the entry of its first core lost
  let stop (r : State × List (Nat × Nat)) (c : Nat) : State × List (Nat × Nat) :=
    let hit := (s.place.groups.filter fun g => g.live.any (fun p => p.2 == c) || g.pend.any fun q => q.2 == c).map (·.num)
    let s1 := noteRetired c planned r.1
    ((loseCore c .retired s1).chg, r.2 ++ (hit.filter fun g => !r.2.any fun x => x.1 == g).map fun g => (g, r.1.log.next))
  let (s1, hit) := cs.foldl stop (s, [])
  let s2 := hit.foldl (fun s x => haltGroup x.2 x.1 s) s1
  let s3 := cs.foldl (fun s c => loseRange (sliceBase c) Config.sliceBytes s) s2
  let s4 := (cs.filter fun c => !grouped c).foldl (fun s c => spareIn c s) s3
  lowerMins (seatStandIns s4)
/-- The recovery of R436 for core `c`. -/
def coreFault (c : Nat) (planned : Bool) (s : State) : State := coreFaults [c] planned s

/-- CORE_HARD_FAULT (R116, R435, R436). A hub supervisor core leaves service alone; a spare is spent. -/
def execCoreHardFault (c : Nat) (s : State) : Out :=
  if 160 ≤ c then .refused .noSuchUnit
  else match (s.core c).pw.svc with
    | .inService => if isHub c then hostDone s (loseCore c .failed (noteRetired c false s)) else hostDone s (coreFault c false s)
    | .spare => if isHub c then done s s else hostDone s (leaveService c .failed (noteRetired c false s)).chg
    | _ => done s s

/-- Whether a recovery is in progress, a planned retirement among them (R439, R469). -/
def State.recoveringNow (s : State) : Bool := s.nets.any (·.dirtyNeed) || s.host.disables.any fun d => d.port == 4

/-- The disable of core `c` and its group that a planned retirement begins with, to the partition's disable timeout (R405, R469). Its
port is 4: no host asked for it. -/
def beginRetire (c : Nat) (ts : List Task) (s : State) : State :=
  let limit := ((ts.filterMap fun t => ((s.chan t.ch).bind fun ch => s.part ch.part).map (·.disTimeout)).foldl max 0)
  let op : DisableOp := ⟨s.host.nextDis, 4, ⟨0x30, 0, 0, true⟩, 0, 0, c, s.time + limit⟩
  let s1 := (s.coresOn 0 c).foldl (fun s d => s.upd d fun k => k.raise 6) (setDisabled 0 c true s)
  { s1 with host := { s1.host with disables := s1.host.disables ++ [op], nextDis := op.id + 1 } }
/-- That disable has ended: the core leaves service, its group is halted for its stand-in (R436 from step 3, R469). -/
def endRetire (o : DisableOp) (s : State) : State :=
  let s1 := (s.coresOn 0 o.index).foldl (fun s c => s.upd c fun k => k.raise 5) s
  let s2 := setDisabled 0 o.index false
    { s1 with host := { s1.host with disables := s1.host.disables.filter fun q => q.id != o.id } }
  if (s2.core o.index).inSvc then coreFault o.index true s2 else s2

/-- A planned retirement (R469): pages off the pool, a disable of the core and its group to its timeout where a task runs there, then
R436. While another recovery is in progress it waits for its end (R439). -/
def planRetire (c : Nat) (s : State) : State :=
  if !(s.core c).inSvc then s
  else if s.recoveringNow then
    if s.pkg.retireWait.contains c then s else { s with pkg := { s.pkg with retireWait := s.pkg.retireWait ++ [c] } }
  else
    let base := sliceBase c
    let homes := ((s.place.pages.filter fun q => decide (base ≤ q.home ∧ q.home < base + Config.sliceBytes) && !s.isPinned q).map
      (·.home)).eraseDups
    let s1 := homes.foldl (fun s h =>
      match s.pageAt h with
      | some q => (match s.rehome q false [c] with
        | some new => (s.movePage h new).countMove q.part h new
        | none => s)
      | none => s) s
    match s1.tasksOn 0 c with
    | [] => coreFault c true s1
    | ts => beginRetire c ts s1
/-- A recovery may have ended: the planned retirements that waited for that begin, one at a time (R469). -/
def nextRetires : Nat → State → State
  | 0, s => s
  | n + 1, s =>
    match s.pkg.retireWait with
    | c :: cs => if s.recoveringNow then s else nextRetires n (planRetire c { s with pkg := { s.pkg with retireWait := cs } })
    | [] => s
def nextRetire (s : State) : State := nextRetires s.pkg.retireWait.length s
/-- DISABLE_TIMEOUT (R405, R408): the timeout of disable `d` has passed, or its work has completed before; the rest is
fenced, tasks go back to QUEUED with ERROR_NOTIFY, and the MGMT_REPLY follows. The entry has become durable: what is answered
stands (R402; log entry 20). The disable of a planned retirement has neither entry nor reply: the core leaves service then (R469). -/
def execDisableTimeout (d : Nat) (s : State) : Out :=
  match s.host.disables.find? fun o => o.id == d with
  | none => done s s
  | some o =>
    if o.port = 4 then hostDone s (nextRetire (endRetire o (if s.workOn 0 o.index then s.tickTo o.due else s))) else
    if !s.host.journal.any (fun e => e.durable && (match e.what with | .disable i _ _ _ _ _ => i == d | _ => false)) then done s s
    else
    let s0 := if s.workOn o.kind o.index then s.tickTo o.due else s
    let tasks := s0.tasksOn o.kind o.index
    let cores := s0.coresOn o.kind o.index
    let s1 := fenceTarget o.kind o.index s0
    -- a core that a disable fences leaves its barriers (R334)
    let fenced := if o.kind = 0 then [o.index] else if o.kind = 4 then s0.coresOn 4 o.index else []
    let s1 := fenced.foldl (fun s c => removeBars c s) s1
    let s2 := cores.foldl (fun s c => s.upd c fun k => k.raise 5) s1
    let s3 := tasks.foldl (fun s t => requeue t false s) s2
    let s4 := { s3 with host := { s3.host with disables := s3.host.disables.filter fun q => q.id != d } }
    let x := { s4.newRec (256 + o.port) 7 o.hdr.tag o.ridx with reason := 0 }
    hostDone s (postRec (256 + o.port) x s4)
/-- PLANNED_RETIREMENT (R469). -/
def execPlannedRetirement (c : Nat) (s : State) : Out :=
  if 144 ≤ c then .refused .noSuchUnit else hostDone s (planRetire c s)

/-! ### Stacks (R31, R435, R437) -/

/-- The state that the margin table shows of a domain (R488). -/
def setMtab (d : Nat) (st : BitVec 2) (s : State) : State :=
  { s with pkg := { s.pkg with mtab := modNth s.pkg.mtab d fun m => { m with st := st } } }
/-- The last journal mirror is lost, and the durable entries with it: the device holds no task any more (R439). -/
def loseJournal (s : State) : State :=
  let s1 := s.host.tasks.foldl (fun s t => freeStaging t (stopTask t s)) s
  { s1 with host := { s1.host with tasks := [], journal := [] } }
/-- A stack leaves service. -/
def stackLoss (n : Nat) (s : State) : State :=
  let s1 := (setMtab (154 + n) 2 ((s.updStack n fun k => { k with insvc := false }).chg)).logAdd 0x09 2 0xFF (unitOf 3 n) (Config.unitTest 7).toNat 1 0 0
  let mirrors := s1.host.mirrors.filter (· != 16 + n)
  let spareStack := (s1.stacksUp.filter fun i => !mirrors.contains (16 + i)).head?
  let mirrors' := if s.host.mirrors.contains (16 + n) then
      (match mirrors, spareStack with | _ :: _, some i => mirrors ++ [16 + i] | _, _ => mirrors) else mirrors
  let lost (g : Gen) : Gen :=
    { g with reps := g.reps.map fun (r : Option Nat × Option Nat) =>
        (if r.1 = some n then none else r.1, if r.2 = some n then none else r.2) }
  let s2 := { s1 with host := { s1.host with mirrors := mirrors' } }
  let s2 := if mirrors'.isEmpty && !s.host.mirrors.isEmpty then loseJournal s2 else s2
  let s3 := (s2.nets.filter fun t => match t.cap with
      | some c => c.gen.reps.any fun r => r.1 == some n || r.2 == some n
      | none => false).foldl (fun s t => discardCapture t.num s) s2
  let after (t : Net) : Net :=
    { t with genA := t.genA.map lost, genB := t.genB.map lost, lost := t.lost || s1.stacksUp.isEmpty }
  let s4 := { s3 with nets := s3.nets.map after }
  let hit (t : Net) : Bool := t.pages.any fun va => match s.netPage t va with
    | some q => homeOf q.home == some (1, n) || homeOf q.home == some (2, n)
    | none => false
  let s5 := affectNets 0x09 s1.log.next.pred (s4.nets.filter hit) s4
  loseRange (stackBase 2 n) 0xC00000000 (loseRange (stackBase 1 n) 0x10000000 s5)

/-- STACK_LOSS (R435). -/
def execStackLoss (n : Nat) (s : State) : Out :=
  if 8 ≤ n then .refused .noSuchUnit
  else if (s.stack n).insvc then hostDone s (stackLoss n s) else done s s

/-! ### Links (R22, R24, R435, R467) -/

/-- The two ends of a link as die codes (R22, R514). -/
def linkDies (l : LinkId) : Nat × Nat :=
  match l with
  | .row n => if n < 3 then (n, n + 1) else (n + 1, n + 2)
  | .column n => (n, n + 4)
  | .stack n => (16 + n, n)
  | .bypass n => (16 + n, if n % 2 = 0 then n + 1 else n - 1)
  | .hub 0 => (8, 0)
  | .hub 1 => (8, 4)
  | .hub 2 => (9, 3)
  | .hub _ => (9, 7)
  | .bridge => (8, 9)
  | .tightrope n => (n % 8, 8 + n / 8)
/-- Links the part has. -/
def linkExists (l : LinkId) : Bool :=
  match l with
  | .row n => decide (n < 6)
  | .column n => decide (n < 4)
  | .stack n => decide (n < 8)
  | .bypass n => decide (n < 8)
  | .hub n => decide (n < 4)
  | .bridge => true
  | .tightrope n => decide (n < 16)
/-- Spare lanes of a link (R22). -/
def spareLanes (l : LinkId) : Nat :=
  match l with
  | .row _ => 64
  | .column _ => 64
  | .stack _ => 64
  | .bypass _ => 8
  | .hub _ => 32
  | .bridge => 8
  | .tightrope _ => 4
/-- Data lanes of a link (R22): row and column 4,096, stack 2,048, bypass 256, hub 1,024, bridge 128, Tightrope 32 and 32 return wires. -/
def dataLanes (l : LinkId) : Nat :=
  match l with
  | .row _ => 4096
  | .column _ => 4096
  | .stack _ => 2048
  | .bypass _ => 256
  | .hub _ => 1024
  | .bridge => 128
  | .tightrope _ => 64
def linkWord (l : LinkId) : Nat := (Config.linkEnds (linkDies l).1 (linkDies l).2).toNat

/-- Whether a stack is reached over a link and its router (R22). -/
def State.stackReached (s : State) (n : Nat) : Bool :=
  let up (l : LinkId) (d : Nat) : Bool := !s.pkg.linksDown.contains l && s.pkg.routers.getLsbD d
  up (.stack n) n || up (.bypass n) (if n % 2 = 0 then n + 1 else n - 1)
/-- Whether a compute die has a mesh or hub link in service, to a router in service (R435). -/
def State.dieLinked (s : State) (d : Nat) : Bool :=
  let up (l : LinkId) : Bool := !s.pkg.linksDown.contains l &&
    (((linkDies l).1 == d && s.nodeUp (linkDies l).2) || ((linkDies l).2 == d && s.nodeUp (linkDies l).1))
  ((List.range 6).any fun n => up (.row n)) || ((List.range 4).any fun n => up (.column n)) || (List.range 4).any fun n => up (.hub n)

/-- A compute die is lost with its router (R23, R435, R470, R522): every position leaves service, its spares first, so that none stands
in, each as one change of FEAT3 (R92), and so do the stacks that the router alone reached (R31). -/
def loseDie (d : Nat) (s : State) : State :=
  let cs := (List.range 18).map (18 * d + ·)
  let s0 : State := setMtab (144 + d) 2
    { s with pkg := { s.pkg with routers := s.pkg.routers &&& ~~~(BitVec.ofNat 8 (2 ^ d)) } }
  let s1 := (cs.filter fun c => (s.core c).pw.svc == .spare).foldl (fun s c => (leaveService c .failed (noteRetired c false s)).chg) s0
  let s2 := coreFaults (cs.filter fun c => (s.core c).inSvc) false s1
  (s2.stacksUp.filter fun n => s.stackReached n && !s2.stackReached n).foldl (fun s n => stackLoss n s) s2
/-- A die left with no link in service is handled as lost, one after another (R435). `was`: the dies that had one before. -/
def dropCutOff (was : List Nat) : Nat → State → State
  | 0, s => s
  | n + 1, s =>
    match was.find? fun d => s.nodeUp d && !s.dieLinked d with
    | some d => dropCutOff was n (loseDie d s)
    | none => s
def State.linkedDies (s : State) : List Nat := (List.range 8).filter s.dieLinked
/-- The loss of a die, with the dies that it cuts off. -/
def dieLoss (d : Nat) (s : State) : State := dropCutOff s.linkedDies 8 (loseDie d s)

/-- A link is out of service as a whole, logged by its two ends (R24). -/
def linkOut (l : LinkId) (s : State) : State :=
  { s with pkg := { s.pkg with linksDown := s.pkg.linksDown ++ [l] } }.logAdd 0x0B 2 0xFF (unitOf 4 0) (linkWord l) 0 0 0
/-- A link leaves service (R24, R31, R435): stacks and dies it alone reached go with it. -/
def linkDown (l : LinkId) (s : State) : State :=
  if s.pkg.linksDown.contains l then s else
    let s1 := linkOut l s
    let s2 := (s1.stacksUp.filter fun n => !s1.stackReached n).foldl (fun s n => stackLoss n s) s1
    dropCutOff s.linkedDies 8 s2

/-- LINK_DOWN (R24). -/
def execLinkDown (l : LinkId) (s : State) : Out :=
  if !linkExists l then .refused .noSuchUnit else hostDone s (linkDown l s)

/-- Spare lanes a link has used. -/
def State.sparesOf (s : State) (l : LinkId) : Nat := (s.pkg.steered.filter fun p => p.1 == l).length
/-- A spare lane takes a lane's place (R467). -/
def steer (l : LinkId) (lane : Nat) (s : State) : State :=
  { s with pkg := { s.pkg with steered := s.pkg.steered ++ [(l, lane)] } }.logAdd
    0x0A 1 0xFF (unitOf 4 0) (linkWord l) lane (spareLanes l - s.sparesOf l - 1) 0
/-- LANE_STEERED (R467; data lanes first, then the spares): a spare takes the lane's place; with none left the link leaves service (R24). -/
def execLaneSteered (l : LinkId) (lane : Nat) (s : State) : Out :=
  if !linkExists l || decide (dataLanes l + spareLanes l ≤ lane) then .refused .noSuchUnit
  else if s.pkg.linksDown.contains l then done s s
  else if spareLanes l ≤ s.sparesOf l then hostDone s (linkDown l s)
  else done s (steer l lane s)

/-! ### Hubs (R29, R402, R410, R438) -/

/-- A port of a hub that is lost goes DOWN (R376, R410); one that was TRAINING too, with its entry. -/
def portOut (p : Nat) (s : State) : State :=
  let cause := (Config.freeWord s.fresh).toNat % 4
  let s1 := portDown p cause s.draw
  if (s1.port p).st = .training then
    (s1.updPort p fun q => { q with st := .down, since := s1.time }).logAdd 0x0E 2 0xFF (unitOf 5 p) cause 0 0 0
  else s1
/-- A hub leaves service with its supervisor cores and its two ports. FEAT3.CHG counts the hub and each of its ports in service as
a change of its own (R92; log entry 34, DESIGN CHOICE). -/
def hubOut (h : Nat) (s : State) : State :=
  if !(s.hub h).insvc then s else
    let s1 := setMtab (152 + h) 2 ((s.updHub h fun q => { q with insvc := false }).chg)
    let s2 := ((List.range 8).map (144 + 8 * h + ·)).foldl (fun s c =>
      loseCore c .failed (if (s.core c).inSvc then noteRetired c false s else s)) s1
    let mirrors := s2.host.mirrors.filter (· != h)
    let s3 := { s2 with host := { s2.host with mirrors := mirrors } }
    let s3 := if mirrors.isEmpty && !s2.host.mirrors.isEmpty then loseJournal s3 else s3
    let s4 := ([2 * h, 2 * h + 1]).foldl (fun s p => portOut p s) s3
    (s4.nets.filter fun t => match t.cap with | some c => c.engines.contains h | none => false).foldl (fun s t => discardCapture t.num s) s4

/-- A task returns to the state the durable entries give it (R402). -/
def undoEntry (e : JEntry) (s : State) : State :=
  let back (ch ridx : Nat) (s : State) : State := s.updRing ch fun g => { g with taken := min g.taken ridx }
  match e.what with
  | .accept seq =>
    match s.task seq with
    | some t =>
      let s1 := back t.ch t.ridx (freeStaging t (stopTask t s))
      { s1 with host := { s1.host with tasks := s1.host.tasks.filter fun u => u.seq != seq } }
    | none => s
  | .abort seq ch ridx _ =>
    let s1 := back ch ridx s
    match s.task seq with
    | some t =>
      -- an abort appended before this one stands, or is itself undone in its turn (R402, R404)
      let first := !s.host.journal.any fun f => decide (f.no < e.no) && (match f.what with | .abort q _ _ _ => q == seq | _ => false)
      if t.abortReq && t.finalIdx.isNone && first then
        -- one that had run was stopped: it is replayed, its staging discarded (R403)
        let ran := t.cores != 0
        (if ran then clearStaging t s1 else s1).updTask seq fun t => { t with
          st := .queued, abortReq := false, replayed := t.replayed || ran, result := 0, failed := none, start := 0, cores := 0 }
      else s1
    | none => s1
  | .commit seq =>
    match s.task seq with
    | some t => if t.st == .committed then requeue t true s else s
    | none => s
  | .ending seq => s.updTask seq fun t => if t.st == .ending then { t with st := .running, failed := none, result := 0 } else t
  | .complete net gen =>
    match s.net net with
    | some t =>
      let isA := match t.genA with | some g => g.no == gen | none => false
      let isB := match t.genB with | some g => g.no == gen | none => false
      if isA then (s.updNet net fun t => { t with genA := none }).setDirty t t.pages false true
      else if isB then (s.updNet net fun t => { t with genB := none }).setDirty t t.pages true true
      else s
    | none => s
  | .disable id port ridx kind index was =>
    -- as though the DISABLE had not been read: its flag, its operation and its entry's place in the ring (R405)
    let s1 := back (256 + port) ridx (setDisabled kind index was s)
    { s1 with host := { s1.host with disables := s1.host.disables.filter fun d => d.id != id } }
  | .netStep net last stepped posrec =>
    -- a capture that the step began is given up with it (R424, R430)
    let began := match s.net net with | some t => (match t.cap with | some c => c.gen.step == t.lastStep | none => false) | none => false
    (if began then discardCapture net s else s).updNet net fun t => { t with lastStep := last, stepped := stepped, posrec := posrec }
  | .start _ => s
  | .published _ => s

/-- The new lead takes its mirror as the journal: entries not durable do not exist, the latest undone first (R402, R438). -/
def dropNonDurable (s : State) : State :=
  let gone := (s.host.journal.filter fun e => !e.durable).reverse
  let s1 := gone.foldl (fun s e => undoEntry e s) s
  let keep := s.host.journal.filter fun e => e.durable
  let last := (keep.map fun e => match e.what with | .accept seq => seq | _ => 0).foldl max 0
  { s1 with host := { s1.host with journal := keep, nextSeq := last + 1 } }

/-- HUB_HEARTBEAT (R438): a hub in service is heard. -/
def execHubHeartbeat (hub : Nat) (s : State) : Out :=
  if 2 ≤ hub then .refused .noSuchUnit
  else if (s.hub hub).insvc then done s (s.updHub hub fun q => { q with lastBeat := s.time }) else done s s

/-- HUB_TAKEOVER (R410, R438): a follower that has heard nothing for 100 µs leads. -/
def execHubTakeover (hub : Nat) (s : State) : Out :=
  if 2 ≤ hub then .refused .noSuchUnit
  else if !(s.hub hub).insvc || s.pkg.lead == hub then done s s
  else
    let old := s.pkg.lead
    let s0 := s.tickTo ((s.hub old).lastBeat + 100000)
    let last := s0.log.next - 1
    -- the new lead's telemetry ring holds nothing yet (R516)
    let s1 := dropNonDurable { s0 with
      pkg := { s0.pkg with lead := hub }
      log := { s0.log with telRing := [], telCount := 0, telrd := 0, telPend := [] } }
    let s2 := (hubOut old s1).logAdd 0x10 2 0xFF (unitOf 2 hub) old last 0 0
    hostDone s (nextRetire s2)

/-! ### Restores (R431 to R435) -/

/-- NET_RESTORE (R431 to R435): a net that a failure has affected, or one with a poisoned page, is restored from the
latest generation that verifies; with none it is LOST. -/
def execNetRestore (net : Nat) (bad : List (Nat × Nat × Nat)) (s : State) : Out :=
  match s.net net with
  | none => if 64 ≤ net then .refused .noSuchUnit else done s s
  | some t0 =>
    if !t0.dirtyNeed && !s.netPoisoned t0 then done s s
    else
      let s1 := discardCapture net (if t0.dirtyNeed then s else affectNets 0x02 (s.log.next - 1) [t0] s)
      match s1.net net with
      | none => done s s
      | some t =>
        let gens := (t.genA.toList.map fun g => (0, g)) ++ t.genB.toList.map fun g => (1, g)
        let order := sortBy (fun (a b : Nat × Gen) => decide (b.2.no ≤ a.2.no)) gens
        let (s2, pick) := chooseGen t bad order s1
        let s3 := match pick with
          | some (slot, g) => writeGen t slot g bad s2
          | none => (s2.updNet net fun t => { t with lost := true }).logAdd 0x1A 3 t.part (unitOf 6 net) net t.lastStep 0 0
        hostDone s (nextRetire (seatStandIns (s3.updNet net fun t => { t with dirtyNeed := false, waiting := none })))

end Sys2Proof.Machine
end

