-- ==== Sys2Proof/Machine/Flash.lean ====
section
/-! DEFINITION. What stands in a hub's flash device: its layout, the SFDP tables, firmware slots, hint records and certificate chains
(R494 to R500). -/

namespace Sys2Proof.Machine

/-! ### The device (R494, R495) -/

/-- Bytes `ofs` to `ofs + n - 1` of an area; what its list does not reach is erased. -/
def areaBytes (l : List Byte) (ofs n : Nat) : List Byte :=
  let x := (l.drop ofs).take n
  x ++ List.replicate (n - x.length) 0xFF
/-- The areas of a device: offset, size, contents (R495). The area from 0x0310_0000 is never read. -/
def flashAreas (f : Flash) : List (Nat × Nat × List Byte) :=
  [(0x00000000, 0x10000, f.board), (0x00010000, 0x10000, f.helper), (0x00020000, 0x20000, f.certs), (0x00040000, 0x40000, f.hint0),
   (0x00080000, 0x40000, f.hint1), (0x000C0000, 0x40000, []), (0x00100000, 0x1800000, f.fwA), (0x01900000, 0x1800000, f.fwB)]
/-- Bytes of a device from an offset, within one area. -/
def flashRead (f : Flash) (ofs n : Nat) : List Byte :=
  match (flashAreas f).find? fun a => decide (a.1 ≤ ofs ∧ ofs + n ≤ a.1 + a.2.1) with
  | some a => areaBytes a.2.2 (ofs - a.1) n
  | none => List.replicate n 0xFF

def asciiIs (bs : List Byte) (text : List Nat) : Bool := bs.map (·.toNat) == text
/-- Whether a device has a valid SFDP header with the Basic Flash Parameter Table first (JESD216; log entry 24). -/
def sfdpValid (f : Flash) : Bool :=
  asciiIs (areaBytes f.sfdp 0 4) [0x53, 0x46, 0x44, 0x50] && decide (field (areaBytes f.sfdp 8 1) 0 1 = 0) &&
    decide (field (areaBytes f.sfdp 15 1) 0 1 = 0xFF)
/-- Doubleword `i` of the Basic Flash Parameter Table, from 1. -/
def bfpt (f : Flash) (i : Nat) : Nat := field (areaBytes f.sfdp (field (areaBytes f.sfdp 12 3) 0 3 + 4 * (i - 1)) 4) 0 4
/-- Density, address mode, erase sizes and the read that the table advertises (R494). -/
def flashGeom (f : Flash) : FlashGeom :=
  let d := bfpt f 2
  let erase (v : Nat) : List Nat := if v % 256 = 0 then [] else [2 ^ (v % 256)]
  { bytes := if bitOf d 31 then 2 ^ (d % 2 ^ 31) / 8 else (d + 1) / 8
    addrMode := bfpt f 1 / 2 ^ 17 % 4
    erases := erase (bfpt f 8) ++ erase (bfpt f 8 / 2 ^ 16) ++ erase (bfpt f 9) ++ erase (bfpt f 9 / 2 ^ 16)
    quad := bitOf (bfpt f 1) 22 }

/-- The board record's package limit, W; 3,200 where it holds none in range (R487, R495). -/
def flashPlimit (f : Flash) : Nat :=
  let w := field (flashRead f 8 2) 0 2
  if 1500 ≤ w ∧ w ≤ 3600 then w else 3200

/-! ### Firmware slots (R496) -/

/-- A firmware image: SVN, header bytes 0 to 127 with the body. -/
structure FwImage where
  svn   : Word
  bytes : List Byte
deriving DecidableEq, Repr

/-- The order of the group of Ed25519 (RFC 8032). -/
def ed25519Order : Nat := 2 ^ 252 + 27742317777372353535851937790883648493
/-- Whether a signature of RFC 8032 verifies; one whose S value is not below the group order does not. -/
def sigOk (key msg sig : List Byte) : Bool := decide (field sig 32 32 < ed25519Order) && Config.ed25519Verify key msg sig
/-- SVN of a slot, as its header has it. -/
def slotSvn (f : Flash) (base : Nat) : Nat := field (flashRead f (base + 16) 8) 0 8
/-- The image of a slot whose header and signature hold. -/
def fwImage (f : Flash) (base : Nat) : Option FwImage :=
  let head := flashRead f base 256
  let len := field head 24 8
  if asciiIs (head.take 8) [0x48, 0x42, 0x58, 0x5A, 0x34, 0x38, 0x46, 0x57] && decide (field head 8 4 = 1) &&
      decide (field head 12 4 < 2) && decide (len % 64 = 0 ∧ len ≤ 0x1800000 - 256) &&
      decide (field head 32 8 % 4 = 0 ∧ field head 32 8 < len) &&
      decide (field head 40 88 = 0 ∧ field head 192 64 = 0) then
    let signed := head.take 128 ++ flashRead f (base + 256) len
    if sigOk (Config.vendorKey (field head 12 4)) (Config.sha512 signed) ((head.drop 128).take 64) then
      some ⟨BitVec.ofNat 64 (field head 16 8), signed⟩
    else none
  else none
/-- The firmware slot that runs: the higher SVN first, A on a tie, the other where it fails; true for B. -/
def pickFw (f : Flash) : Option (Bool × FwImage) :=
  let slot (b : Bool) : Option (Bool × FwImage) := (fwImage f (if b then 0x1900000 else 0x100000)).map fun x => (b, x)
  let first := decide (slotSvn f 0x100000 < slotSvn f 0x1900000)
  (slot first).orElse fun _ => slot !first

/-! ### Certificate chains and identity (R498, R500) -/

/-- Chain `h` of the certificate area: chain 0 stands first, and each begins with its length (SPDM 1.2; log entry 7). -/
def certChain (f : Flash) (h : Nat) : List Byte :=
  let len0 := field (flashRead f 0x20000 2) 0 2
  if h = 0 then flashRead f 0x20000 len0
  else flashRead f (0x20000 + len0) (field (flashRead f (0x20000 + len0) 2) 0 2)
/-- The DER certificates that follow one another in a list, each a sequence with a length of two bytes. -/
def derCerts : Nat → List Byte → List (List Byte)
  | 0, _ => []
  | n + 1, bs =>
    match bs with
    | t :: l :: hi :: lo :: _ =>
      if t.toNat = 0x30 ∧ l.toNat = 0x82 then
        let m := 4 + hi.toNat * 256 + lo.toNat
        bs.take m :: derCerts n (bs.drop m)
      else []
    | _ => []
/-- The certificates of a chain: device root, intermediate, leaf; they follow length, reserved bytes and root hash. -/
def chainCerts (chain : List Byte) : List (List Byte) := derCerts 3 (chain.drop 68)
/-- What stands before an Ed25519 public key in a certificate (RFC 8410; log entry 7). -/
def keyPrefix : List Byte := [0x30, 0x2A, 0x30, 0x05, 0x06, 0x03, 0x2B, 0x65, 0x70, 0x03, 0x21, 0x00]
/-- The 32 bytes that follow the first place where `p` stands in a list. -/
def after (p : List Byte) : List Byte → Option (List Byte)
  | [] => none
  | b :: bs => if (b :: bs).take p.length = p then some (((b :: bs).drop p.length).take 32) else after p bs
/-- The public key in the leaf certificate of hub `h`. -/
def leafKey (f : Flash) (h : Nat) : Option (List Byte) := ((chainCerts (certChain f h))[2]?).bind (after keyPrefix)
/-- Whether a chain is as R500 has it: its length, the SHA-512 hash of its root, three certificates, and a leaf with the part number, the
device serial and the hub number (their places in the leaf are not given; log entry 7). -/
def chainForm (chain serial : List Byte) (h : Nat) : Bool :=
  let has (x : List Byte) (leaf : List Byte) : Bool := (List.range (leaf.length + 1)).any fun i => (leaf.drop i).take x.length == x
  match chainCerts chain with
  | [root, _, leaf] => decide (field chain 0 2 = chain.length) && (chain.drop 4).take 64 == Config.sha512 root &&
      has Config.partNumber leaf && has serial leaf && has [BitVec.ofNat 8 h] leaf
  | _ => false

/-- The identity of hub `h` (R498): the seed of the first of at most three attempts whose public key is that of its leaf. -/
def deriveKey (h : Nat) (f : Flash) (puf : List (List Byte)) : Option (List Byte) :=
  ((puf.take 3).map fun r => Config.pufSeed r (flashRead f 0x10000 0x10000)).find? fun seed =>
    leafKey f h == some (Config.ed25519Public seed)

/-! ### Hint records (R464, R497) -/

def hintMagic : List Byte := [0x48, 0x42, 0x58, 0x5A, 0x34, 0x38, 0x52, 0x48]
/-- The bytes of a hint: header, signature with the seed of the hub that KEYHUB names, body. -/
def hintRecord (seq : Word) (starts key : Nat) (seed body : List Byte) : List Byte :=
  let head := hintMagic ++ leBytes 8 seq.toNat ++ leBytes 4 starts ++ leBytes 1 key ++ leBytes 3 0 ++
    leBytes 4 body.length ++ leBytes 36 0
  head ++ Config.ed25519Sign seed (Config.sha512 (head ++ body)) ++ body

/-- A hint slot as the ROM reads it: the record's fields, and the record with its body as LEN bounds it. -/
structure HintSlot where
  magic  : Bool
  seq    : Word
  starts : Nat
  keyhub : Nat
  form   : Bool
  bytes  : List Byte
deriving DecidableEq, Repr
/-- The slot at an offset. The format is known where the zero bytes are zero and the body, of at most 256 KiB less 128 bytes, is a repair map
of whole records before the margin table (log entry 24). -/
def hintSlot (f : Flash) (base : Nat) : HintSlot :=
  let head := flashRead f base 128
  let len := field head 24 4
  let fits := decide (len ≤ 0x40000 - 128)
  { magic := head.take 8 == hintMagic
    seq := BitVec.ofNat 64 (field head 8 8)
    starts := field head 16 4
    keyhub := field head 20 1
    form := fits && decide (field head 21 3 = 0 ∧ field head 28 36 = 0) && decide (1296 ≤ len ∧ (len - 1296) % 16 = 0)
    bytes := if fits then flashRead f base (128 + len) else head }
def hintSlots (f : Flash) : List (Bool × HintSlot) := [(false, hintSlot f 0x40000), (true, hintSlot f 0x80000)]
/-- Whether hub `h` verifies a record: under the key of the hub that KEYHUB names, its own only where it has an identity (R497, R498). -/
def hintVerified (h : Nat) (own : Bool) (f : Flash) (x : HintSlot) : Bool :=
  x.magic && decide (x.keyhub < 2) && (x.keyhub != h || own) &&
    (match leafKey f x.keyhub with
     | some key => sigOk key (Config.sha512 (x.bytes.take 64 ++ x.bytes.drop 128)) ((x.bytes.drop 64).take 64)
     | none => false)
/-- Of two records with their slots, the one with the higher SEQ. -/
def higherSeq (l : List (Bool × HintSlot)) : Option (Bool × HintSlot) :=
  match l with
  | [p, q] => if p.2.seq.toNat < q.2.seq.toNat then some q else some p
  | [p] => some p
  | _ => none
/-- How the hint comes out (R464, R497): the HINT field, the reason of a rejection, the record. Where no record is
verified, one with the right MAGIC is rejected, for its signature or for its key (log entry 24). -/
def judgeHint (h : Nat) (own : Bool) (f : Flash) : Nat × Option (Nat × Word) × Option (Bool × HintSlot) :=
  match higherSeq ((hintSlots f).filter fun p => hintVerified h own f p.2) with
  | some (sl, x) =>
    if !x.form then (2, some (2, x.seq), some (sl, x))
    else if 32 ≤ x.starts then (2, some (3, x.seq), some (sl, x))
    else (1, none, some (sl, x))
  | none =>
    match higherSeq ((hintSlots f).filter fun p => p.2.magic) with
    | some (_, x) => (2, some (if 2 ≤ x.keyhub then 1 else 0, x.seq), none)
    | none => (0, none, none)

/-! ### The repair map (R461, R464, R497; its layout is the model's, log entry 24) -/

def kindNo : RepairKind → Nat
  | .peRow => 0
  | .sliceRow => 1
  | .bond => 2
  | .lane => 3
  | .stackRow => 4
  | .dramRow => 5
  | .dramCols => 6
  | .tsv => 7
  | .tsufy => 8
def kindAt (n : Nat) : Option RepairKind :=
  [RepairKind.peRow, .sliceRow, .bond, .lane, .stackRow, .dramRow, .dramCols, .tsv, .tsufy][n]?
/-- A repair in 16 bytes. -/
def repairBytes (r : Repair) : List Byte := leBytes 4 (kindNo r.kind) ++ leBytes 4 r.unit ++ leBytes 4 r.bank ++ leBytes 4 r.elem
def repairAt (bs : List Byte) : Option Repair :=
  (kindAt (field bs 0 4)).map fun k => ⟨k, field bs 4 4, field bs 8 4, field bs 12 4⟩
/-- The repairs that `n` records hold. -/
def repairsIn : Nat → List Byte → List Repair
  | 0, _ => []
  | n + 1, bs => (repairAt bs).toList ++ repairsIn n (bs.drop 16)

/-- A link by its number in the order of R22, and the number. -/
def linkNo : LinkId → Nat
  | .row n => n
  | .column n => 6 + n
  | .stack n => 10 + n
  | .bypass n => 18 + n
  | .hub n => 26 + n
  | .bridge => 30
  | .tightrope n => 31 + n
def linkAt (i : Nat) : LinkId :=
  if i < 6 then .row i else if i < 10 then .column (i - 6) else if i < 18 then .stack (i - 10)
  else if i < 26 then .bypass (i - 18) else if i < 30 then .hub (i - 26) else if i = 30 then .bridge else .tightrope (i - 31)

end Sys2Proof.Machine
end

