-- ==== Sys2Proof/Machine/Power.lean ====
section
/-! DEFINITION. Voltages, plans and throttles of the power manager, and long waits that lower a core (R36 to R41, R338 to R340, R470 to R487). -/

namespace Sys2Proof.Machine

/-! ### Moves (R40, R480) -/

/-- Whether a core position is powered: in service or a spare. -/
def Core.powered (k : Core) : Bool := k.pw.svc == .inService || k.pw.svc == .spare
def dieCores (d : Nat) : List Nat := (List.range 18).map fun i => 18 * d + i
/-- The setting of a compute die's rail: the highest setting on the die, or voltage still in force, plus 60 mV; 0 with
no powered core (R480). -/
def State.railNeed (s : State) (d : Nat) : Nat :=
  let vs := ((dieCores d).filter fun c => (s.core c).powered).map fun c => max (s.core c).pw.vset (s.core c).pw.volt
  if vs.foldl max 0 = 0 then 0 else vs.foldl max 0 + 60
/-- Whether a lowering that frees budget is still in progress: a core on its way to retention has freed it once below its floor (R483). -/
def State.lowering (s : State) : Bool := allCores.any fun c =>
  (s.core c).powered && decide ((s.core c).pw.vset < (s.core c).pw.volt) && decide (s.floorMv c ≤ (s.core c).pw.volt)
/-- The PMBus address of a rail's regulator (R523). -/
def pmbusAddr : Rail → Nat
  | .vstk => 0x40
  | .vhub => 0x41
  | .vphy => 0x42
  | .vio => 0x43
  | .vcore n => 0x48 + n
/-- The rails that a hub commands on and off, in the order of R489. -/
def commanded : List Rail := .vstk :: (List.range 8).map .vcore
/-- Whether the last command to a rail's regulator turned it on. -/
def PowerMgr.railOn (m : PowerMgr) (r : Rail) : Bool := m.pmbus.contains (pmbusAddr r, true)
/-- Moves that may begin begin (R480): lowerings at once; a raise once its rail has settled and, but for a scoring
core, once the lowerings that free its budget have ended. The lead's manager sets the rails to what their die needs (R482, R523). -/
def launch (s : State) : State :=
  let low := s.lowering
  let power := s.pkg.power
  let rails := power.rails
  let s1 := { s with pkg := { s.pkg with power := { power with
    railTo := if s.leadUp then Vector.ofFn fun (d : Fin 8) => if power.railOn (.vcore d.val) then s.railNeed d.val else 0
      else power.railTo } } }
  allCores.foldl (fun s c =>
    let k := s.core c
    if !k.powered then s
    else if k.pw.vset ≤ k.pw.volt then s.upd c fun k => { k with pw := { k.pw with target := k.pw.vset } }
    else if k.pw.vset + 60 ≤ vget rails (dieOf c) 0 && (k.idn.cls || !low) then
      s.upd c fun k => { k with pw := { k.pw with target := k.pw.vset } }
    else s.upd c fun k => { k with pw := { k.pw with target := max k.pw.volt (min k.pw.target k.pw.vset) } }) s1

/-- A core's ring starts at its floor (R40), and a wait satisfied meanwhile ends (R340). -/
def startRing (c : Nat) (s : State) : State :=
  let s1 := s.upd c fun k => { k with pw := { k.pw with ring := true, volt := max k.pw.volt (s.floorMv c) } }
  endWait c s1
/-- A core is above 0.85 V + VOFS no longer: after 10 ms there it is not granted that level for 10 ms (R479). -/
def Core.cooled (now : Nat) (k : Core) : Core :=
  { k with pw := { k.pw with
    hotSince := none
    noHotTill := match k.pw.hotSince with
      | some t => if t + 10000000 ≤ now then now + 10000000 else k.pw.noHotTill
      | none => k.pw.noHotTill } }
/-- A core's ring stops as its voltage passes below its floor (R40): the steps its wait has lasted are behind it (R41). -/
def stopRing (c : Nat) (s : State) : State :=
  let s := if (s.core c).pw.ring && (s.core c).wait.isSome then idleSteps c (s.causeNow c) s else s
  s.upd c fun k => ({ k with pw := { k.pw with ring := false, volt := min k.pw.volt (s.floorMv c - 5) } } : Core).cooled s.time

/-- RING_STOP (R40): a falling core passes below its floor. -/
def execRingStop (c : Nat) (s : State) : Out :=
  if 144 ≤ c then .refused .noSuchUnit
  else
    let k := s.core c
    if k.powered && k.pw.ring && decide (k.pw.target < s.floorMv c) then done s (launch (stopRing c s)) else done s s
/-- RING_START (R40): a rising core reaches its floor. -/
def execRingStart (c : Nat) (s : State) : Out :=
  if 144 ≤ c then .refused .noSuchUnit
  else
    let k := s.core c
    if k.inSvc && !k.pw.ring && decide (s.floorMv c ≤ k.pw.target) then done s (launch (startRing c s)) else done s s

/-- VOLTAGE_MOVE_END (R480): a core or a die's rail is at its setting. -/
def execVoltageMoveEnd (m : MoveUnit) (s : State) : Out :=
  match m with
  | .core c =>
    if 144 ≤ c then .refused .noSuchUnit
    else
      let k := s.core c
      if !k.powered || k.pw.volt = k.pw.target then done s s
      else
        let t := k.pw.target
        let s1 := if t < s.floorMv c then stopRing c s else if k.inSvc && !k.pw.ring then startRing c s else s
        let hot := decide (850 + 5 * (s.margin c).vofs < t)
        let s2 := s1.upd c fun k => { k with pw := { k.pw with
          volt := t
          hotSince := if hot then k.pw.hotSince.orElse (fun _ => some s.time) else k.pw.hotSince } }
        done s (launch (if hot then s2 else s2.upd c (Core.cooled s.time)))
  | .rail n =>
    if 8 ≤ n then .refused .noSuchUnit
    else done s (launch { s with pkg := { s.pkg with power := { s.pkg.power with
      rails := vset s.pkg.power.rails n (vget s.pkg.power.railTo n 0) } } })

/-! ### Long waits (R338 to R340, R483, R484) -/

/-- LONG_WAIT_LOWER (R338, R339): a long wait of a training core has lasted LWMIN. -/
def execLongWaitLower (c : Nat) (s : State) : Out :=
  if 160 ≤ c then .refused .noSuchUnit
  else
    let k := s.core c
    match k.wait with
    | none => done s s
    | some w =>
      let s1 := s.tickTo (w.start + k.syn.lwmin.toNat)
      let t := s1.time
      if isHub c || !w.long || w.lowered || k.idn.cls || !k.inSvc || !s.leadUp || decide (w.deadline ≤ t) || waitEnd s1 c w != .keep then
        done s s
      else
        let v := if s1.noRetention c then s1.floorMv c else s1.retMv c
        done s (launch (s1.upd c fun k =>
          let k := k.count 26 1
          { k with
            wait := some { w with lowered := true }
            pw := { k.pw with share := k.pw.vset, vset := v, boostTill := none, pstate := 0 } }))

/-- CORE_RESUME (R41, R340, R484): the wake event of a core at retention has come: its wait's end, an interrupt that
would be taken, or a task given to it. -/
def execCoreResume (c : Nat) (s : State) : Out :=
  if 160 ≤ c then .refused .noSuchUnit
  else
    let k := s.core c
    let wake := match k.wait with
      | some w => waitEnd s c w != .keep || decide (w.deadline ≤ s.time) || (readyInterrupt s c).isSome
      | none => k.idn.count != 0 || (readyInterrupt s c).isSome
    if isHub c || !k.inSvc || k.pw.ring || !wake then done s s
    else
      let s1 := resumeRing c s
      done s (launch (endWait c s1))

/-! ### Budget figures (R476) -/

/-- The figure of a core at a voltage in mV, in units of 1/28,000 W: straight lines between the table's rows. -/
def figure (v : Nat) : Nat :=
  if v < 450 then 0
  else if v < 550 then 5600 + (v - 450) * 1764
  else if v < 650 then 182000 + (v - 550) * 1400
  else if v < 700 then 322000 + (v - 650) * 1960
  else if v < 780 then 420000 + (v - 700) * 2415
  else if v < 850 then 613200 + (v - 780) * 2680
  else 800800 + (v - 850) * 3136
/-- One watt in those units. -/
def wattUnit : Nat := 28000

def Core.isLowered (k : Core) : Bool := match k.wait with | some w => w.lowered | none => false
/-- What a core outside the division is charged: lowered cores their full figure until they have reached the floor, then the
floor reserve; spares and cores with no task 0.2 W (R338, R478, R483). -/
def State.fixedCharge (s : State) (c : Nat) : Nat :=
  let k := s.core c
  let floor := figure (s.floorMv c)
  if k.isLowered then (if k.pw.volt ≤ s.floorMv c then floor else max (figure k.pw.share) floor)
  else if s.noRetention c then floor else 5600
/-- Cores that share the budget: in service, with a task, not lowered. -/
def State.working (s : State) (c : Nat) : Bool := (s.core c).inSvc && (s.core c).idn.count != 0 && !(s.core c).isLowered
/-- Budget that lowered cores have freed (R483). -/
def State.lent (s : State) : Nat :=
  ((allCores.filter fun c => (s.core c).isLowered && decide ((s.core c).pw.volt ≤ s.floorMv c)).map fun c =>
    figure (s.core c).pw.share - figure (s.floorMv c)).sum

/-! ### The division (R478) -/

/-- A core's place in a plan: its setting so far and the highest it may have. -/
structure Share where
  core : Nat
  mv   : Nat
  nom  : Nat
  top  : Nat
deriving DecidableEq, Repr

def sumFig (l : List Share) : Nat := (l.map fun x => figure x.mv).sum
def Share.raise (x : Share) (lim r : Nat) : Share := { x with mv := max x.mv (min (x.mv + r) lim) }

/-- One step of the order: all cores raised equally within `budget` (their own figures included) up to the limit `lim`
gives; then single raises of 5 mV in the order of `turn`. Answers the settings, the last core raised singly, the equal raise. -/
def raiseStep (budget : Nat) (lim : Share → Nat) (turn : List Share → List Share) (l : List Share) : List Share × Option Nat × Nat :=
  let up (r : Nat) : List Share := l.map fun x => x.raise (lim x) r
  let r := (((List.range 71).map fun i => 350 - 5 * i).find? fun r => sumFig (up r) ≤ budget).getD 0
  let base := up r
  (turn base).foldl (fun (acc : List Share × Option Nat × Nat) x =>
    let more := acc.1.map fun y => if y.core = x.core then { y with mv := y.mv + 5 } else y
    if x.mv + 5 ≤ lim x ∧ sumFig more ≤ budget then (more, some x.core, r) else acc) (base, none, r)

/-- Whether every core of a step has reached its limit. -/
def allAt (lim : Share → Nat) (l : List Share) : Bool := l.all fun x => decide (lim x ≤ x.mv)

/-- Rotation by table index from the rotor, members of groups that hold a lowered member first (R478). -/
def State.turn (s : State) (rotor : Nat) (l : List Share) : List Share :=
  let key (x : Share) : Nat := (x.core + 144 - rotor) % 144
  let sorted := sortBy (fun a b => decide (key a ≤ key b)) l
  let low := (allCores.filter fun c => (s.core c).isLowered).map fun c => (s.core c).idn.group
  let first (x : Share) : Bool := low.contains (s.core x.core).idn.group
  sorted.filter first ++ sorted.filter fun x => !first x

/-- Settings of the working cores within a budget, the last core raised singly, and the level reached (R478). -/
def State.divide (s : State) (rotor budget : Nat) : List Share × Option Nat × Nat :=
  let share (c : Nat) : Share :=
    let cap := if (match (s.core c).pw.hotSince with | some t => decide (t + 10000000 ≤ s.time) | none => false) ||
        decide (s.time < (s.core c).pw.noHotTill) then 850 + 5 * (s.margin c).vofs else 900
    ⟨c, s.floorMv c, s.nomMv c, min cap 900⟩
  let of (score : Bool) : List Share := (allCores.filter fun c => s.working c && (s.core c).idn.cls == score).map share
  let nom (x : Share) : Nat := x.nom
  let top (x : Share) : Nat := x.top
  let turn := s.turn rotor
  let t0 := of false
  let (s3, l3, r3) := raiseStep (budget - sumFig t0) nom turn (of true)
  if !allAt nom s3 then (s3 ++ t0, l3, 3000 + r3) else
    let (t4, l4, r4) := raiseStep (budget - sumFig s3) nom turn t0
    if !allAt nom t4 then (s3 ++ t4, l4, 4000 + r4) else
      let (s5, l5, r5) := raiseStep (budget - sumFig t4) top turn s3
      if !allAt top s5 then (s5 ++ t4, l5, 5000 + r5) else
        let (t6, l6, r6) := raiseStep (budget - sumFig s5) top turn t4
        (s5 ++ t6, l6, 6000 + r6)

/-! ### Throttles (R481) -/

/-- Whether a throttle covers a core. -/
def throttleCovers (w : ThrottleWhy) (c : Nat) : Bool :=
  match w with
  | .power => true
  | .thermal d => if d < 8 then dieOf c == d else true
  | .vrfault n => dieOf c == n
def railThrottle (w : ThrottleWhy) : Bool := match w with | .vrfault _ => true | _ => false
/-- Setting of a core under a throttle that has lowered it by `n` steps. -/
def lowerBy (floor v n : Nat) : Nat := max (min v floor) (v - 5 * n)

/-- The cores that a plan lowers by one step more for one throttle: boost grants first, then training-class cores above
their floor, then scoring-class cores. -/
def State.throttleNext (s : State) (shares : List Share) (w : ThrottleWhy) : List Nat :=
  let mine := shares.filter fun x => throttleCovers w x.core
  let now (x : Share) : Nat := lowerBy (s.floorMv x.core) x.mv (s.core x.core).pw.thr
  let above (l : List Share) : List Nat := (l.filter fun x => decide (s.floorMv x.core < now x)).map (·.core)
  let boost := (mine.filter fun x => decide (x.nom < now x)).map (·.core)
  let train := above (mine.filter fun x => !(s.core x.core).idn.cls)
  if railThrottle w then [] else if !boost.isEmpty then boost else if !train.isEmpty then train else above mine

/-! ### Commands of the power manager -/

/-- What `launch` leaves to do after new settings. -/
def State.withPower (s : State) (f : PowerMgr → PowerMgr) : State := { s with pkg := { s.pkg with power := f s.pkg.power } }

/-- POWER_PLAN (R477 to R481, R485): `noncore` is the highest average of the draw not charged to a core, `avg` and
`peak` the package's measured draw, in W. -/
def execPowerPlan (noncore avg peak : Nat) (s : State) : Out :=
  if !s.leadUp then done s s
  else
    let pm := s.pkg.power
    let n := noncore + 25
    let fixed := ((allCores.filter fun c => (s.core c).powered && !s.working c).map s.fixedCharge).sum
    let budget := (pm.plimit - n) * wattUnit - fixed
    let lent := s.lent
    let turnAt (rotor : Nat) : List Share × Option Nat × Nat := s.divide rotor budget
    -- the rotation moves on when the level of the equal raises changes (log entry 22)
    let rotor := if (turnAt pm.rotor).2.2 = pm.level then pm.rotor else pm.rotorNext
    let (shares, last, level) := turnAt rotor
    let without := (s.divide rotor (budget - lent)).1
    let lower := pm.active.flatMap fun w => s.throttleNext shares w
    let s1 := shares.foldl (fun s x =>
      let floor := s.floorMv x.core
      let cover := pm.active.filter fun w => throttleCovers w x.core
      s.upd x.core fun k =>
        let thr := if cover.isEmpty then 0 else k.pw.thr + Bool.toNat (lower.contains x.core)
        let v := if cover.any railThrottle then min x.mv floor else lowerBy floor x.mv thr
        let boost := decide (x.nom < v)
        let raised := without.any fun y => y.core == x.core && decide (y.mv < x.mv)
        { k with pw := { k.pw with
          vset := v, thr := thr
          boostTill := if boost then some (s.time + 1000000) else none
          noHotTill := match k.pw.hotSince with
            | some t => if t + 10000000 ≤ s.time then s.time + 10000000 else k.pw.noHotTill
            | none => k.pw.noHotTill
          pstate := if v < x.mv then 2 else if boost then 1 else if raised then 3 else 0 } }) s
    let s2 := (allCores.filter fun c => (s.core c).powered && !s.working c && !(s.core c).isLowered).foldl (fun s c =>
      let v := if s.noRetention c then s.floorMv c else s.retMv c
      s.upd c fun k => { k with pw := { k.pw with vset := v, boostTill := none, pstate := 0, thr := 0 } }) s1
    let s3 := (allCores.filter fun c => (s.core c).isLowered).foldl (fun s c => fallOn c s) s2
    done s (launch (s3.withPower fun m => { m with
      noncore := n, avg := avg, peak := peak, plent := lent / wattUnit
      rotor := rotor, rotorNext := (last.map fun c => (c + 1) % 144).getD m.rotorNext, level := level }))

/-- BOOST_GRANT_LAPSE (R479, R482): a grant has not been renewed for 1 ms. -/
def execBoostGrantLapse (c : Nat) (s : State) : Out :=
  if 144 ≤ c then .refused .noSuchUnit
  else
    match (s.core c).pw.boostTill with
    | none => done s s
    | some t =>
      let s1 := s.tickTo t
      done s (launch (s1.upd c fun k => { k with pw := { k.pw with
        vset := min k.pw.vset (s.nomMv c), boostTill := none, pstate := 0 } }))

/-- DATA of a THROTTLE entry (R514): the reason and the die or rail. -/
def throttleData : ThrottleWhy → Nat × Nat
  | .power => (1, 0)
  | .thermal d => (2, d)
  | .vrfault n => (3, n)
/-- Whether a throttle names something the part has: die codes, rails 0 to 7 for VCORE_CDn, 8 VSTK, 9 VHUB, 10 VPHY, 11 VIO. -/
def throttleExists (w : ThrottleWhy) : Bool :=
  match w with
  | .power => true
  | .thermal d => decide (d < 10) || decide (16 ≤ d ∧ d < 24)
  | .vrfault n => decide (n < 12)
/-- PDRAW (R487). -/
def PowerMgr.pdraw (m : PowerMgr) : Nat := min m.peak 4095 * 2 ^ 32 + min m.avg 4095
/-- A throttle is counted and logged (R481). -/
def noteThrottle (w : ThrottleWhy) (s : State) : State :=
  let m := s.pkg.power
  let s1 := s.withPower fun m => { m with thr := m.thr + 1, thrOvf := m.thrOvf || m.thr == BitVec.allOnes 48 }
  s1.logAdd 0x1B 0 0xFF (unitOf 15 0) (throttleData w).1 m.pdraw (throttleData w).2 0

/-- A throttle not yet in force begins (R481, R482). VRFAULT sets every core on the rail to its floor, with the lead in service; the
others act plan by plan. -/
def beginThrottle (w : ThrottleWhy) (s : State) : State :=
  if s.pkg.power.active.contains w then s
  else
    let s1 := (noteThrottle w s).withPower fun m => { m with active := m.active ++ [w] }
    let cs := if railThrottle w && s.leadUp then allCores.filter fun c => throttleCovers w c && (s.core c).inSvc else []
    launch (cs.foldl (fun s c => s.upd c fun k => { k with pw := { k.pw with
      vset := min k.pw.vset (s.floorMv c), boostTill := none, pstate := if s.floorMv c < k.pw.vset then 2 else k.pw.pstate } }) s1)

/-- The temperatures of R528, °C: above the first a die throttles, below the second it is released, at the third it trips. Codes from 16
are a stack's base and DRAM dies. -/
def throttleAt (d : Nat) : Nat := if d < 16 then 95 else 92
def releaseAt (d : Nat) : Nat := throttleAt d - 3
def tripAt (d : Nat) : Nat := if d < 16 then 110 else 100
/-- The highest temperature that a stack's DRAM dies last reported, 0 for another die. -/
def State.heldTemp (s : State) (d : Nat) : Nat := if d < 16 then 0 else (s.stack (d - 16)).temps.toList.foldl max 0
/-- Whether a measurement is a trigger of R481. -/
def State.triggers (s : State) : ThrottleSense → Bool
  | .power avg peak => decide (s.pkg.power.plimit < avg) || decide (11 * s.pkg.power.plimit < 10 * peak)
  | .thermal d t => decide (throttleAt d < t)
  | .vrfault _ => true
/-- Whether a measurement releases a throttle (R481): below 0.95 of PLIMIT for 1 ms is the highest 10 µs average of that 1 ms below it,
and every die of a stack is below its release temperature (log entry 22). -/
def State.releases (s : State) : ThrottleSense → Bool
  | .power _ peak => decide (100 * peak < 95 * s.pkg.power.plimit)
  | .thermal d t => decide (max t (s.heldTemp d) < releaseAt d)
  | .vrfault _ => true

/-- THROTTLE (R481, R482, R528): a throttle begins where what was measured is its trigger. -/
def execThrottle (m : ThrottleSense) (s : State) : Out :=
  if !throttleExists m.why then .refused .noSuchUnit
  else if s.triggers m then done s (beginThrottle m.why s) else done s s

/-- THROTTLE_RELEASE (R481, R528): a throttle ends where what was measured releases it. -/
def execThrottleRelease (m : ThrottleSense) (s : State) : Out :=
  if !throttleExists m.why then .refused .noSuchUnit
  else if s.releases m then done s (s.withPower fun p => { p with active := p.active.filter (· != m.why) }) else done s s

/-- A write of PLIMIT (R487). -/
def setPlimit (v : Nat) (s : State) : State :=
  let w := v % 2 ^ 12
  if 1500 ≤ w ∧ w ≤ 3600 then s.withPower fun m => { m with plimit := w } else s.withPower fun m => { m with badlim := true }
/-- PLIMIT_WRITE (R487): through either hub's block. -/
def execPlimitWrite (hub : Nat) (v : Word) (s : State) : Out :=
  if 2 ≤ hub then .refused .noSuchUnit
  else if (s.hub hub).insvc then done s (setPlimit v.toNat s) else done s s

end Sys2Proof.Machine
end

