-- ==== Sys2Proof/Machine/LineCode.lean ====
section
/-! DEFINITION. The line code of the stacks and the word code of the core stores (R445, R447, R450). -/

namespace Sys2Proof.Machine

/-- Multiplication by x in GF(256) with polynomial x^8 + x^4 + x^3 + x^2 + 1 (R445). -/
def gfX (a : Byte) : Byte := if a.getLsbD 7 then (a <<< 1) ^^^ 0x1D else a <<< 1
def gfMulN : Nat → Byte → Byte → Byte
  | 0, _, _ => 0
  | n + 1, a, b => (if b.getLsbD 0 then a else 0) ^^^ gfMulN n (gfX a) (b >>> 1)
/-- The product in GF(256). -/
def gfMul (a b : Byte) : Byte := gfMulN 8 a b
/-- `α^n`, α = x. -/
def gfPow : Nat → Byte
  | 0 => 1
  | n + 1 => gfX (gfPow n)
/-- The value at `v` of the polynomial whose coefficients are `cs`, lowest first. -/
def gfEval (v : Byte) : List Byte → Byte
  | [] => 0
  | c :: cs => c ^^^ gfMul v (gfEval v cs)

/-- One step of division: the remainder of `x * r + c` by the monic polynomial whose lower coefficients are `g`. -/
def gfStep (g r : List Byte) (c : Byte) : List Byte :=
  let top := r.getLastD 0
  List.zipWith (fun a b => a ^^^ gfMul top b) (c :: r.dropLast) g
/-- Lower coefficients of `(x - α^0) … (x - α^(n-1))`, lowest first. -/
def gfGen : Nat → List Byte
  | 0 => []
  | n + 1 =>
    let g := gfGen n
    let m := gfPow n
    List.zipWith (fun a b => a ^^^ b) (0 :: g) ((g.map (gfMul m)) ++ [m])
/-- Check symbols of data bytes: the coefficients of the remainder, lowest first (R445, R450). -/
def checkSyms (n : Nat) (data : List Byte) : List Byte :=
  data.reverse.foldl (gfStep (gfGen n)) (List.replicate n 0) |> fun r =>
    (List.range n).foldl (fun r _ => gfStep (gfGen n) r 0) r

/-- A codeword as symbols: the data bytes, then the check symbols (R442, R445). -/
def codeword (n : Nat) (data : List Byte) : List Byte := data ++ checkSyms n data
/-- Symbols in which a read differs from what is stored. -/
def flipSyms (w : List Byte) (err : List (Nat × Byte)) : List Byte :=
  err.foldl (fun w e => modNth w e.1 (· ^^^ e.2)) w
/-- Coefficients, lowest first: the check symbols, then the data. -/
def coeffs (n : Nat) (w : List Byte) : List Byte := w.drop (w.length - n) ++ w.take (w.length - n)
/-- Symbol that stands at a coefficient. -/
def symAt (n len p : Nat) : Nat := if p < n then len - n + p else p - n

/-- What a decoder answers: the data as read, a symbol corrected, the poison pattern, or an error beyond correction (R446). -/
inductive LineOut
  | clean (data : List Byte)
  | fixed (data : List Byte) (sym : Nat)
  | poisoned
  | bad
deriving DecidableEq, Repr

/-- Correct at most one symbol (R445, R450). -/
def decodeSyms (n : Nat) (w : List Byte) : LineOut :=
  let syn := (List.range n).map fun j => gfEval (gfPow j) (coeffs n w)
  if syn.all (· == 0) then .clean (w.take (w.length - n)) else
    let e := syn.headD 0
    match (List.range w.length).find? fun p =>
        (e != 0) && (syn.zipIdx.all fun q => q.1 == gfMul e (gfPow (p * q.2))) with
    | some p =>
      let i := symAt n w.length p
      .fixed ((modNth w i (· ^^^ e)).take (w.length - n)) i
    | none => .bad

/-- A poisoned line (R447). -/
def poisonLine : List Byte := List.replicate 64 0 ++ [0xA5, 0x5A, 0xC3, 0x00]
/-- A line as the controller reads it: the poison test precedes correction (R447). -/
def readLine (stored : List Byte) (poisoned : Bool) (err : List (Nat × Byte)) : LineOut :=
  let w := flipSyms (if poisoned then poisonLine else codeword 4 stored) err
  if ((List.zipWith (fun a b => b2n (a != b)) w poisonLine).sum) ≤ 1 then .poisoned else decodeSyms 4 w
/-- A core-store word (R450): 32 data bytes, 3 check symbols, and the three copies of the poison tag in the low
bits of symbol 35, read by majority. -/
def readWord (stored : List Byte) (poisoned : Bool) (err : List (Nat × Byte)) : LineOut :=
  let tag := (flipSyms (List.replicate 35 0 ++ [if poisoned then 7 else 0]) err).getLastD 0
  if 2 ≤ b2n (tag.getLsbD 0) + b2n (tag.getLsbD 1) + b2n (tag.getLsbD 2) then .poisoned
  else decodeSyms 3 ((flipSyms (codeword 3 stored ++ [0]) err).take 35)

/-- A store word whose read ends in an uncorrectable error (R450, R451): the code's, or a tag read as set. -/
def LineOut.lost : LineOut → Bool
  | .poisoned => true
  | .bad => true
  | _ => false

end Sys2Proof.Machine
end

