-- ==== Sys2Proof/Machine/Stack.lean ====
section
/-! DEFINITION. The stack controllers: lines and their code, refresh, scrub, sparing, stack calibration (R441 to R459). -/

namespace Sys2Proof.Machine

/-- The line that a scrub of a bank reads at place `i` in row and column order (R443, R453). -/
def scrubLine (sram : Bool) (bank i : Nat) : Nat := if sram then i * 64 + bank else dramLine bank (i / 32) (i % 32)
/-- Banks of a stack, and lines of one. -/
def bankCount (sram : Bool) : Nat := if sram then 64 else 1536
def bankLines (sram : Bool) : Nat := if sram then 0x10000 else 0x80000
/-- Time in which a scrub pass over a bank is aimed to finish, ns (R453). -/
def scrubAim (sram : Bool) : Nat := if sram then 540000000000 else 39600000000000
/-- What the controller reads from a line, `err` being the symbols that differ from what is stored. -/
def State.lineAt (s : State) (n : Nat) (sram : Bool) (line : Nat) (err : List (Nat × Byte)) : LineOut :=
  let pa := linePa n sram line
  readLine (s.mem.bytes pa 64) (s.isPoisoned pa 64) err

/-- The controller's own action on each outcome of a read (R446). -/
def lineSeen (n : Nat) (sram : Bool) (line source : Nat) (pc : Word) (o : LineOut) (s : State) : State :=
  match o with
  | .clean _ => s
  | .fixed _ sym => lineCE n sram line sym source s
  | .poisoned => linePoisoned n sram line source pc s
  | .bad => lineUE n sram line source pc s

/-! ### Requests of counted work -/

/-- Work that the controller may serve now for a line: on its way, nothing before it on its lines, and granted (R444). -/
def State.servable (s : State) (w : Work) (u : Nat) : Bool :=
  w.stage == .going && !s.behind w && s.granted w.id (12 * w.time) [u]
/-- The part of a line that work covers, and whether it covers nothing else. -/
def coversLine (rs : List (Nat × Nat)) (pa : Nat) : Bool := rs.any fun r => decide (r.1 < pa + 64 ∧ pa < r.1 + r.2)
def onlyLine (rs : List (Nat × Nat)) (pa : Nat) : Bool := rs.all fun r => decide (pa ≤ r.1 ∧ r.1 + r.2 ≤ pa + 64)
def fullLine (rs : List (Nat × Nat)) (pa : Nat) : Bool := rs.any fun r => decide (r.1 ≤ pa ∧ pa + 64 ≤ r.1 + r.2)
def WorkKind.isSem : WorkKind → Bool
  | .semAdd _ _ _ => true
  | .semTake _ _ _ _ => true
  | _ => false
/-- Why a read as it came out fails, if it does (R446). -/
def LineOut.failure : LineOut → Option Byte
  | .clean _ => none
  | .fixed _ _ => none
  | .poisoned => some 0x52
  | .bad => some 0x54
/-- The data of a read that did not fail. -/
def LineOut.data? : LineOut → Option (List Byte)
  | .clean bs => some bs
  | .fixed bs _ => some bs
  | _ => none

/-- A line has been read for counted work (R446, R448): the controller's own action, and what came out is noted for the work, which is
applied where it needs no other line. A read gets the line as the decoder gives it. -/
def serveLine (w : Work) (n : Nat) (sram : Bool) (line source : Nat) (o : LineOut) (s : State) : State :=
  let pa := linePa n sram line
  let w := { w with seen := w.seen ++ [(pa, o.failure)] }
  let s1 := (lineSeen n sram line source w.pc o s).setWork w
  if onlyLine (s.workPas w) pa then
    match source, o.data? with
    | 1, some bs => { applyWork w .none { s1 with mem := s1.mem.put pa bs } with mem := s1.mem }
    | _, _ => applyWork w .none s1
  else s1

/-- STACK_LINE_READ (R446): a line is read for work `id`, or for another requester. -/
def execStackLineRead (n : Nat) (sram : Bool) (line : Nat) (err : List (Nat × Byte)) (id : Option Nat) (s : State) : Out :=
  if 8 ≤ n then .refused .noSuchUnit
  else if lineCount sram ≤ line then .fault (.noSuchPlace (linePa n sram line))
  else if !(s.stack n).insvc then done s s
  else
    let o := s.lineAt n sram line err
    match id with
    | none => done s (lineSeen n sram line 1 0 o s)
    | some i =>
      match s.work i with
      | none => done s s
      | some w =>
        let pa := linePa n sram line
        if w.isWrite || w.kind.isSem || !s.servable w pa || !coversLine (s.workPas w) pa || w.seen.any (·.1 == pa) then done s s
        else done s (serveLine w n sram line 1 o s)

/-- STACK_LINE_WRITE (R448): a whole line is written, or part of one by a read, a merge and a write. A chunk under hold that another
agent's bytes reach is read first (R427). -/
def execStackLineWrite (n : Nat) (sram : Bool) (line : Nat) (err : List (Nat × Byte)) (src : LineSrc) (s : State) : Out :=
  if 8 ≤ n then .refused .noSuchUnit
  else if lineCount sram ≤ line then .fault (.noSuchPlace (linePa n sram line))
  else if !(s.stack n).insvc then done s s
  else
    let pa := linePa n sram line
    let o := s.lineAt n sram line err
    match src with
    | .bytes off data =>
      if data.isEmpty || 64 < off + data.length then done s s
      else
        let s0 := readHeld (s.heldChunks pa 64) s
        if data.length = 64 then done s (dropWriteback pa (s0.storeFar pa data).1)
        else
          let s1 := lineSeen n sram line 2 0 o s0
          match o.failure with
          | none => done s (dropWriteback pa (s1.storeFar (pa + off) data).1)
          | some _ => done s (s1.setPoison pa)
    | .work i =>
      match s.work i with
      | none => done s s
      | some w =>
        let rs := s.workPas w
        if !w.isWrite || w.kind.isSem || !s.servable w pa || !coversLine rs pa || w.seen.any (·.1 == pa) then done s s
        else if fullLine rs pa then done s (if onlyLine rs pa then applyWork w .none s else s)
        else done s (serveLine w n sram line 2 o s)

/-! ### Refresh (R452) -/

/-- REFRESH_DUE: the next 8 rows of a bank are refreshed. -/
def execRefreshDue (n die ch bank : Nat) (s : State) : Out :=
  if 8 ≤ n || 12 ≤ die || 32 ≤ ch || 4 ≤ bank then .refused .noSuchUnit
  else if !(s.stack n).insvc then done s s
  else
    let b := (die * 32 + ch) * 4 + bank
    done s (s.updStack n fun k => { k with refreshed := assocSet k.refreshed b ((assoc k.refreshed b).getD 0 + 1) })

/-! ### Scrub and correcting write-backs (R453 to R455) -/

/-- Place of the scrub of a bank: the next line and the start of the pass. -/
def Stack.scrubAt (k : Stack) (sram : Bool) (bank : Nat) : Nat × Nat :=
  match k.scrub.find? fun e => e.1 == sram && e.2.1 == bank with
  | some e => (e.2.2.1, e.2.2.2)
  | none => (0, k.upAt)
/-- Whether a bank is behind schedule (R453). -/
def Stack.behindAt (k : Stack) (now : Nat) (sram : Bool) (bank : Nat) : Bool :=
  let (i, t) := k.scrubAt sram bank
  decide (i * scrubAim sram < (now - t) * bankLines sram)

/-- SCRUB_READ (R453, R455): the next line of a bank, with the outcomes of R446 and no requester. -/
def execScrubRead (n : Nat) (sram : Bool) (bank : Nat) (err : List (Nat × Byte)) (s : State) : Out :=
  if 8 ≤ n || bankCount sram ≤ bank then .refused .noSuchUnit
  else if !(s.stack n).insvc then done s s
  else
    let (i, t) := (s.stack n).scrubAt sram bank
    let line := scrubLine sram bank i
    let entry := if i + 1 = bankLines sram then (sram, bank, 0, s.time) else (sram, bank, i + 1, t)
    let s1 := s.updStack n fun k => { k with
      scrub := (k.scrub.filter fun e => !(e.1 == sram && e.2.1 == bank)) ++ [entry] }
    done s (lineSeen n sram line 3 0 (s.lineAt n sram line err) s1)

/-- CORRECTING_WRITEBACK (R455): a line that waits for it is written back as it now is; what the controller then reads of it ends as
R446 says, with source 5 (R459). -/
def execCorrectingWriteback (n : Nat) (sram : Bool) (r : LineRead) (s : State) : Out :=
  if 8 ≤ n then .refused .noSuchUnit
  else if lineCount sram ≤ r.line then .fault (.noSuchPlace (linePa n sram r.line))
  else if !(s.stack n).wbs.contains (sram, r.line) then done s s
  else
    let s1 := lineSeen n sram r.line 5 0 (s.lineAt n sram r.line r.err) s
    done s (s1.updStack n fun k => { k with wbs := k.wbs.filter (· != (sram, r.line)) })

/-- The next word of a slice is scrubbed (R451, R454, R455): a correctable error is corrected, counted and logged, an uncorrectable
one, and a poison tag that comes to be read as set, sets the tag and is notified. -/
def scrubWord (c : Nat) (o : Option LineOut) (s : State) : State :=
  let pa := sliceBase c + 32 * (s.core c).pw.scrubPos
  let s1 := s.upd c fun k => { k with pw := { k.pw with scrubPos := (k.pw.scrubPos + 1) % 0x200000 } }
  let lost (reason : Nat) : State :=
    notifyLine pa ((s1.setPoison pa).logAdd 0x02 3 (s.partOf pa) (unitOf 0 c) pa reason 3 0)
  match o with
  | some (.fixed _ sym) => noteCE c pa sym s1 3
  | some .poisoned => if s.isPoisoned pa 32 then s1 else lost 0x52
  | some .bad => lost 0x54
  | _ => s1

/-- CORE_STORE_SCRUB (R454, R451, R455): the next word of a slice is read in its maintenance slot. -/
def execCoreStoreScrub (c : Nat) (err : List (Nat × Byte)) (s : State) : Out :=
  if 144 ≤ c then .refused .noSuchUnit
  else
    let k := s.core c
    if k.pw.svc == .retired || k.pw.svc == .failed then done s s else
      let pa := sliceBase c + 32 * k.pw.scrubPos
      done s (scrubWord c (some (readWord (s.mem.bytes pa 32) (s.isPoisoned pa 32) err)) s)

/-- SCRUB_BURST (R454): a slice at retention is taken to the floor and scrubbed whole, and goes back; nothing issues and
STEPS holds. A burst starts anew from word 0. One that a wake event interrupts has done its first `cut` words: the rest follows in the
maintenance slots (CORE_STORE_SCRUB). A poisoned word stays so, whatever is in error in it. -/
def execScrubBurst (b : BurstOp) (s : State) : Out :=
  let c := b.core
  if 144 ≤ c then .refused .noSuchUnit
  else
    let k := s.core c
    if k.pw.svc == .retired || k.pw.svc == .failed || k.pw.ring then done s s
    else
      let n := min (b.cut.getD 0x200000) 0x200000
      let pos (p : Nat) (s : State) : State := s.upd c fun k => { k with pw := { k.pw with scrubPos := p } }
      let word (s : State) (q : Nat × WordErr) : State :=
        let out : Option LineOut := match q.2 with
          | .clean => none
          | .fixed sym => some (.fixed [] sym)
          | .bad => some .bad
        if n ≤ q.1 || s.isPoisoned (sliceBase c + 32 * q.1) 32 then s else scrubWord c out (pos q.1 s)
      let s1 : State := { pos (n % 0x200000) (b.errs.foldl word s) with time := s.time + 7800 * n / 0x200000 }
      done s (s1.upd c fun k => { k with pw := { k.pw with burst := if b.cut.isNone then some s1.time else none } })

/-! ### Row sparing (R456) -/

/-- ROW_COPY_FORCE: a copy that has not finished within 1 s takes forced slots. -/
def execRowCopyForce (n : Nat) (s : State) : Out :=
  if 8 ≤ n then .refused .noSuchUnit
  else
    match (s.stack n).copy with
    | none => done s s
    | some c =>
      done s ((s.tickTo (c.begun + 1000000000)).updStack n fun k => { k with copy := some { c with forced := true } })

/-- The next row that waits for the copy buffer; one of a bank that has no spare row left by then is only logged. -/
def startNext (n : Nat) : List (Nat × Nat) → State → State
  | [], s => s.updStack n fun k => { k with copyQ := [] }
  | q :: qs, s =>
    let s1 := beginSparing n q.1 q.2 (s.updStack n fun k => { k with copyQ := qs })
    if (s1.stack n).copy.isSome then s1 else startNext n qs s1
/-- ROW_SWITCH: the row is in its spare. `errs`: what the copy's read met, by column: a line is corrected and counted, or, uncorrectable,
stands in the spare as poisoned. The phases of the copy end in this one command: while it lasts the row, the buffer and the spare hold
the same bytes of each line already copied (log entry 35). -/
def execRowSwitch (n : Nat) (errs : List (Nat × WordErr)) (s : State) : Out :=
  if 8 ≤ n then .refused .noSuchUnit
  else
    match (s.stack n).copy with
    | none => done s s
    | some c =>
      let read (s : State) (q : Nat × WordErr) : State :=
        let line := dramLine c.bank c.row q.1
        if 32 ≤ q.1 || s.isPoisoned (linePa n false line) 64 then s else
          match q.2 with
          | .clean => s
          | .fixed sym => lineCE n false line sym 4 s
          | .bad => lineUE n false line 4 0 s
      let s1 := errs.foldl read s
      let s2 := s1.updStack n fun k => { k with
        copy := none
        spares := assocSet k.spares c.bank (c.spare + 1)
        rows := if k.rows.contains (c.bank, c.row) then k.rows else k.rows ++ [(c.bank, c.row)]
        marks := k.marks.filter fun m => !(m.1 == c.bank && m.2.1 == c.row) }
      let s3 := s2.logAdd 0x0C 1 0xFF (unitOf 3 n) (dramLine c.bank c.row 0 * 64) c.bank (spareRows - c.spare - 1) 0
      done s (startNext n (s3.stack n).copyQ s3)

/-! ### Calibration of a stack base (R457) -/

/-- Whether a channel of a stack has a request of a foreground operation queued: far work, a stream's piece, a migration or Safety Net
copy, which reach every channel with each page (R441, R457). -/
def State.chanBusy (s : State) (n ch : Nat) : Bool :=
  let here (pa : Nat) : Bool := homeOf pa == some (2, n) && dramChan ((pa - stackBase 2 n) / 64) == ch
  let lines (r : Nat × Nat) : List Nat := unitsOf r.1 r.2
  let dram (pa : Nat) : Bool := homeOf pa == some (2, n)
  (s.works.any fun w => w.stage == .going && (s.workPas w).any fun r => (lines r).any here) ||
  (allCores.any fun c => (s.core c).slots.toList.any fun sl => sl.prog.pieces.any fun p =>
    (pagesOf p.addr.toNat p.len).any fun q => match s.translate sl.part sl.priv p.data.isEmpty (!p.data.isEmpty) q.1 with
      | .ok pa => (lines (pa, q.2)).any here
      | .error _ => false) ||
  (s.place.pages.any fun q => match q.moving with | some h => dram q.home || dram h | none => false) ||
  s.nets.any fun t => match t.cap with
    | some c => c.todo.any fun i => (t.chunkPages i).any fun va => (s.page t.part va).any fun q => dram q.home
    | none => false
/-- STACK_CALIBRATION: one channel at a time is borrowed for 2 µs while nothing is queued for it, or forcibly once 60 s have passed since it
last was. -/
def execStackCalibration (n ch : Nat) (forced : Bool) (s : State) : Out :=
  if 8 ≤ n || 32 ≤ ch then .refused .noSuchUnit
  else
    let k := s.stack n
    let since := (assoc k.calib ch).getD k.upAt
    let now := if forced then s.tickTo (since + 60000000000) else s
    if !k.insvc || k.calib.any (fun q => decide (now.time < q.2 + 2000)) || (!forced && s.chanBusy n ch) then done s s
    else done s (now.updStack n fun k => { k with calib := assocSet k.calib ch now.time })

end Sys2Proof.Machine
end

