-- ==== Sys2Proof/Machine/Repair.lean ====
section
/-! DEFINITION. Margins, calibration borrows, spare PE rows and the repair hint (R464 to R475, R488, R497). -/

namespace Sys2Proof.Machine

/-! ### Margin domains (R470 to R475) -/

/-- Canary chains of a domain. -/
def chainsOf (d : Nat) : Nat := if d < 144 then 8 else if d < 152 then 4 else if d < 154 then 16 else 8
/-- UNIT of a domain (R513). -/
def domainUnit (d : Nat) : Nat :=
  if d < 144 then unitOf 0 d else if d < 152 then unitOf 1 (d - 144) else if d < 154 then unitOf 2 (d - 152) else unitOf 3 (d - 154)
/-- Whether a domain is there to be measured: in service, or a spare core. -/
def State.domainUp (s : State) (d : Nat) : Bool :=
  if d < 144 then (s.core d).powered
  else if d < 152 then s.pkg.routers.getLsbD (d - 144)
  else if d < 154 then (s.hub (d - 152)).insvc
  else (s.stack (d - 154)).insvc
def State.updMargin (s : State) (d : Nat) (f : Margin → Margin) : State :=
  { s with pkg := { s.pkg with mtab := modNth s.pkg.mtab d f } }

/-- A domain is retired (R475): `planned` where its margins are used up. -/
def retireDomain (d : Nat) (planned : Bool) (s : State) : State :=
  let m := s.margin d
  let s1 := if d < 144 then s else
    (s.logAdd 0x06 3 0xFF (domainUnit d) (b2n planned) m.slack m.vofs m.xtaps).updMargin d fun m => { m with st := 2 }
  if d < 144 then (if planned then planRetire d s1 else coreFault d false s1)
  else if d < 152 then dieLoss (d - 144) s1
  else if d < 154 then hubOut (d - 152) s1
  else stackLoss (d - 154) s1

/-- The voltage of a domain that no core register shows: a hub die runs at 0.80 V, a router and a stack base at a point of their own,
each with its VOFS, none above 0.90 V (R36, R474; log entry 22). -/
def State.domainMv (s : State) (d : Nat) : Nat :=
  let point := if d < 152 then Config.routerPoint else if d < 154 then 800 else Config.stackPoint
  min 900 (point + 5 * (s.margin d).vofs)
/-- The supervisor cores of a hub run at their hub's voltage. -/
def hubVolts (h : Nat) (s : State) : State :=
  let v := s.domainMv (152 + h)
  (List.range 8).foldl (fun s k => s.upd (144 + 8 * h + k) fun k =>
    if k.inSvc then { k with pw := { k.pw with volt := v, vset := v, target := v } } else k) s
/-- A domain's offset voltage has grown by 5 mV: so do the settings of a core, which then moves as R480 says (R474). -/
def raiseOffset (d : Nat) (s : State) : State :=
  if d < 144 then
    launch (s.upd d fun k => { k with pw := { k.pw with vset := if k.pw.vset = 0 then 0 else min 900 (k.pw.vset + 5) } })
  else if d < 152 then s
  else if d < 154 then hubVolts (d - 152) s
  else s

/-! ### Measurements (R471 to R473, R475) -/

/-- Whether a core may be borrowed: during a wait, or at a pass boundary with its array empty (R457, R472). -/
def State.borrowable (s : State) (c : Nat) : Bool :=
  let k := s.core c
  !isHub c && k.inSvc && k.pw.ring && !k.pw.stopped && (k.wait.isSome || k.arr.queue.isEmpty)
/-- The borrow that a measurement of a domain takes, none where it cannot be had now (R471, R472). A core at retention is measured at the end
of its slice's scrub burst, unless a wake event cut that; one in the same instant as a borrow shares it. The ports of a router are held in
turn, a stack's channels while none is borrowed: both show as variable latency alone. -/
def borrowDomain (d : Nat) (s : State) : Option State :=
  if d < 144 then
    let k := s.core d
    if !k.pw.ring then (if k.pw.burst = some s.time then some s else none)
    else if k.pw.lastCal = s.time ∧ 0 < s.time then some s
    else
      let s1 := arrive d s
      if s1.borrowable d then some (borrow d s1) else none
  else if d < 154 then some s
  else if (s.stack (d - 154)).calib.any fun q => decide (s.time < q.2 + 2000) then none
  else some s

/-- What a measured SLACK has come (R473, R475). `tapOk`: with one tap more the domain's step rates would still meet R37. While the lead is
lost no setting changes (R482). -/
def replan (d slack : Nat) (tapOk : Bool) (s1 : State) : Out :=
  let m := s1.margin d
  if d < 144 ∧ (s1.core d).pw.svc = .spare then
    if slack < 4 then
      hostDone s1 ((leaveService d .failed (noteRetired d (decide (2 ≤ slack)) s1)).updMargin d fun m => { m with st := 3 }).chg
    else done s1 s1
  else if slack < 2 then hostDone s1 (retireDomain d false s1)
  else if 6 ≤ slack then done s1 (s1.updMargin d fun m => { m with replan := false })
  else if slack < 4 ∨ m.replan then
    if !s1.leadUp then done s1 s1
    else if m.vofs < 8 then
      let s2 := s1.updMargin d fun m => { m with vofs := m.vofs + 1, replan := true }
      done s1 ((raiseOffset d s2).logAdd 0x1C 0 0xFF (domainUnit d) slack (m.vofs + 1) m.xtaps 0)
    else if m.xtaps < 4 ∧ tapOk then
      let s2 := s1.updMargin d fun m => { m with xtaps := m.xtaps + 1, replan := true }
      done s1 (s2.logAdd 0x1C 0 0xFF (domainUnit d) slack m.vofs (m.xtaps + 1) 0)
    else if slack < 4 then hostDone s1 (retireDomain d true s1)
    else done s1 s1
  else done s1 s1

/-- CANARY_MEASUREMENT (R471 to R473, R475): the slack of each chain of a domain, at most the 32 taps of its element. -/
def execCanaryMeasurement (d : Nat) (slacks : List Nat) (tapOk : Bool) (s : State) : Out :=
  if 162 ≤ d then .refused .noSuchUnit
  else if slacks.length ≠ chainsOf d ∨ !s.domainUp d then done s s
  else
    match borrowDomain d s with
    | none => done s s
    | some s0 =>
      let ls := slacks.map (min 32)
      let slack := (minOf ls).getD 0
      let old := (s0.margin d).hist.filter fun h => decide (s0.time ≤ h.1 + 3600000000000)
      replan d slack tapOk (s0.updMargin d fun m => { m with
        slack := slack, calTime := s0.time, hist := old ++ [(s0.time, slack)], worst := ls.idxOf slack })

/-! ### Calibration borrows of a core (R472, R457) -/

/-- CALIBRATION_BORROW: during a wait, or while the array is empty. -/
def execCalibrationBorrow (c : Nat) (s : State) : Out :=
  if 160 ≤ c then .refused .noSuchUnit
  else
    let s1 := if (s.core c).inSvc && (s.core c).pw.ring then arrive c s else s
    if s1.borrowable c then done s (borrow c s1) else done s s

/-- CALIB_FORCE: 60 s without a borrow point. With passes in the array, the borrow follows the last of them, and passes
issued from now start after it; with none, CALIB is raised. -/
def execCalibForce (c : Nat) (s : State) : Out :=
  if 160 ≤ c then .refused .noSuchUnit
  else
    let k0 := s.core c
    if isHub c || !k0.inSvc || !k0.pw.ring || k0.pw.stopped || k0.pw.calForced.isSome || k0.pw.calHold.isSome then done s s
    else
      let s1 := arrive c (s.tickTo (k0.pw.lastCal + 60000000000))
      let k := s1.core c
      match k.arr.queue.getLast? with
      | some p =>
        let n := Config.freeSteps s1.fresh
        done s (s1.draw.upd c fun k => { k with
          arr := { k.arr with lastE := some (p.commitAt + n - 1) }
          pw := { k.pw with calHold := some (p.id, n) } })
      | none => done s (s1.upd c fun k =>
          let k := k.raise 7
          { k with pw := { k.pw with calForced := some s1.time } })

/-- CALIB_PENDING_TIMEOUT: CALIB has been pending for a further 1 s; the borrow is taken between two instructions. -/
def execCalibPendingTimeout (c : Nat) (s : State) : Out :=
  if 160 ≤ c then .refused .noSuchUnit
  else
    let k := s.core c
    match k.pw.calForced with
    | some t =>
      if !k.tr.ipend.getLsbD 7 || !k.inSvc || !k.pw.ring || k.pw.stopped then done s s
      else
        let s1 := arrive c (s.tickTo (t + 1000000000))
        done s ((borrow c s1).upd c fun k => { k with tr := { k.tr with ipend := k.tr.ipend &&& 0x7F } })
    | none => done s s

/-! ### PE rows (R227, R228, R468) -/

/-- Whether parity mismatches of a row in three passes came within one hour. -/
def hitThrice (hits : List (Nat × Nat)) : Bool :=
  hits.any fun f => decide (3 ≤ ((hits.filter fun g => decide (f.1 ≤ g.1 ∧ g.1 ≤ f.1 + 3600000000000)).map (·.2)).eraseDups.length)

/-- PE_ROW_TEST: a row with parity mismatches in three passes within an hour is tested in a calibration borrow that finds the array
empty. -/
def execPeRowTest (c : Nat) (row : BitVec 7) (pass : Bool) (s : State) : Out :=
  if 144 ≤ c then .refused .noSuchUnit
  else
    let mine (f : Nat × Nat × Nat × Nat) : Bool := f.1 == c && f.2.1 == row.toNat
    let s0 := if (s.core c).inSvc && (s.core c).pw.ring then arrive c s else s
    if !hitThrice ((s.pkg.peFaults.filter mine).map (·.2.2)) || !s0.borrowable c || !(s0.core c).arr.queue.isEmpty then done s s
    else
      let sb := borrow c s0
      let s1 := { sb with pkg := { sb.pkg with peFaults := sb.pkg.peFaults.filter fun f => !mine f } }
      let g := row.toNat / 32
      if pass then done s s1
      else match vget (s1.core c).arr.bypass g none with
        | none =>
          done s ((s1.upd c fun k => { k with arr := { k.arr with
              bypass := vset k.arr.bypass g (some (BitVec.ofNat 5 row.toNat)), svalid := false } }).logAdd
            0x08 1 0xFF (coreUnit c) (Config.unitTest 1).toNat g 0 0)
        | some _ => hostDone s (planRetire c (s1.logAdd 0x09 2 0xFF (coreUnit c) (Config.unitTest 1).toNat 1 0 0))

/-! ### The repair hint (R464, R466, R497) -/

/-- MTAB of a domain (R488). -/
def State.mtabWord (s : State) (i : Nat) : Nat :=
  let m := s.margin i
  m.st.toNat * 2 ^ 62 + s.slackMin i % 256 * 2 ^ 32 + m.slack % 256 * 2 ^ 24 + m.xtaps * 2 ^ 20 + m.vofs * 2 ^ 16 + s.calSec i
/-- The repair map of every unit of R461: each spare in use with the element it stands in for; a link out of service as a whole has bank 1. -/
def State.repairMap (s : State) : List Repair :=
  (allCores.flatMap fun c => (List.range 4).flatMap fun g =>
    (vget (s.core c).arr.bypass g none).toList.map fun r => ⟨.peRow, c, g, r.toNat⟩) ++
  (s.pkg.steered.map fun p => ⟨.lane, linkNo p.1, 0, p.2⟩) ++ (s.pkg.linksDown.map fun l => ⟨.lane, linkNo l, 1, 0⟩) ++
  s.pkg.repairs ++
  (List.range 4).flatMap fun p => (s.port p).lanes.map fun l => ⟨.tsufy, if l.1 then p else p + 4, 0, l.2⟩

/-- REPAIR_HINT_WRITE (R466, R497): the same hint into both devices, each in the slot that does not hold the verified
record with the higher SEQ. Signed with the lead's key, else with the other hub's (log entry 23). -/
def execRepairHintWrite (s : State) : Out :=
  let lead := s.pkg.lead
  let signer := ([lead, 1 - lead]).findSome? fun h => if (s.hub h).insvc then (s.hub h).key.map fun k => (h, k) else none
  match signer with
  | none => done s s
  | some (key, seed) =>
    if !(s.hub lead).insvc || decide ((s.hub lead).step < 5) then done s s
    else
      let seq := if (s.hub 0).seqNext.toNat < (s.hub 1).seqNext.toNat then (s.hub 1).seqNext else (s.hub 0).seqNext
      let starts := (s.hub lead).startsNext
      let body := s.repairMap.flatMap repairBytes ++ (List.range 162).flatMap fun i => leBytes 8 (s.mtabWord i)
      let bytes := hintRecord seq starts key seed body
      done s ([0, 1].foldl (fun s h => s.updHub h fun q =>
        { q with
          flash := if q.slotNext then { q.flash with hint1 := bytes } else { q.flash with hint0 := bytes }
          slotNext := !q.slotNext, seqNext := seq + 1 }) s)

end Sys2Proof.Machine
end

