-- ==== Sys2Proof/Machine/Boot.lean ====
section
/-! DEFINITION. Power-up, reset, and the four steps of the boot flow (R461 to R465, R489 to R498, R504, R505). -/

namespace Sys2Proof.Machine

/-! ### Reset (R491) -/

/-- What a hub keeps over a cold start: its flash, and its reference. -/
def Hub.cold (q : Hub) : Hub := { Hub.reset with flash := q.flash, refOk := q.refOk }
/-- All work stops and is discarded, VSTK and VCORE are commanded off; the trouble log stays while VHUB does (R491, R512). -/
def coldStop (s : State) : State :=
  { State.reset with
    time := s.time, fresh := s.fresh, pending := s.pending
    log := { LogState.reset with ring := s.log.ring, next := s.log.next, lost := s.log.lost, start := s.log.next }
    pkg := { Package.reset with
      hubs := s.pkg.hubs.map Hub.cold
      power := { PowerMgr.reset with pmbus := s.pkg.power.pmbus.map fun p => (p.1, false) }
      bootid := s.pkg.bootid
      pins := { s.pkg.pins with up := false } } }
/-- RESET_N is driven low. -/
def resetLow (s : State) : State :=
  let s1 := coldStop s
  { s1 with pkg := { s1.pkg with pins := { s1.pkg.pins with resetN := false } } }

/-- RESET_ASSERT (R491). -/
def execResetAssert (s : State) : Out := if s.pkg.pins.resetN then done s (resetLow s) else done s s

/-- PWRGOOD_RISE (R489): VIO, VHUB and VPHY are in range and the reference has been stable at both hubs. -/
def execPwrgoodRise (s : State) : Out :=
  done s { s with pkg := { s.pkg with
    hubs := s.pkg.hubs.map fun q => { q with refOk := true }
    pins := { s.pkg.pins with pwrgood := true, rails := true } } }

/-! ### Step 1 (R492, R494, R496 to R498) -/

/-- Step 1 on one hub: the tables of its flash, its identity, its firmware, whose image is then in its SRAM, and its hint. -/
def bootRom (h : Nat) (b : BootInput) (s : State) : State :=
  let put (f : Hub → Hub) (s : State) : State := s.updHub h f
  let fl := b.flash.getD (s.hub h).flash
  let s0 := put (fun q => { q with flash := fl }) s
  if !(s.hub h).refOk then s0
  else
    let s1 := put (fun q => { q with step := 1, rnd := b.random }) s0
    if !sfdpValid fl then put (fun q => { q with err := 1 }) s1
    else
      let key := deriveKey h fl b.puf
      let s2 := if key.isSome then put (fun q => { q with key := key }) s1
        else (put (fun q => { q with err := 3 }) s1).logAdd 0x15 2 0xFF (unitOf 2 h) 3 0 0 0
      let s3 := put (fun q => { q with geom := some (flashGeom fl), plimit := flashPlimit fl }) s2
      match pickFw fl with
      | none => (put (fun q => { q with err := 2, recov := true }) s3).logAdd 0x14 3 0xFF (unitOf 2 h) 0 0 0 0
      | some (isB, fw) =>
        let (hint, rej, found) := judgeHint h key.isSome fl
        let s4 := match rej with
          | some (why, seq) => s3.logAdd 0x13 0 0xFF (unitOf 2 h) why seq.toNat 0 0
          | none => s3
        put (fun q => { q with
          step := 2, slotB := isB, svn := fw.svn, image := fw.bytes, hint := hint
          hintBytes := if hint = 1 then found.map fun p => p.2.bytes else none
          seqNext := match found with | some p => p.2.seq + 1 | none => 0
          startsNext := match found with | some p => if hint = 1 then p.2.starts + 1 else 0 | none => 0
          slotNext := match found with | some p => !p.1 | none => false }) s4

/-- In recovery a hub leaves its SPI contacts at high impedance, for the board to program the flash (R496). -/
def State.spiReleased (s : State) (h : Nat) : Bool := (s.hub h).recov

/-- RESET_RELEASE (R490, R492, R527): the time bases start from 0 and both hubs run step 1. Until the lead is elected, entries are stamped with
the number that HD0 drew (`electLead`). -/
def execResetRelease (b0 b1 : BootInput) (s : State) : Out :=
  let p := s.pkg.pins
  if p.resetN || !p.pwrgood || !p.rails then done s s
  else
    let tap := match p.tap with
      | .sample => Tap.sample
      | _ => Tap.bypass
    let s1 := { s with
      time := 0
      log := { s.log with start := s.log.next }
      pkg := { s.pkg with pins := { p with resetN := true, up := true, tap := tap }, bootid := b0.random } }
    done s (bootRom 1 b1 (bootRom 0 b0 s1))

/-! ### Spares (R227, R461, R463) -/

/-- How many spares a group, slice, bank or bundle of lanes has (R27, R461). -/
def spareCount : RepairKind → Nat
  | .peRow => 1
  | .sliceRow => 32
  | .bond => Config.spareBonds
  | .lane => 0
  | .stackRow => 8
  | .dramRow => 96
  | .dramCols => 16
  | .tsv => 4
  | .tsufy => 2
/-- Row of R461's table that tests an element. -/
def testRow : RepairKind → Nat
  | .peRow => 1
  | .sliceRow => 2
  | .bond => 3
  | .lane => 5
  | .stackRow => 7
  | .dramRow => 8
  | .dramCols => 8
  | .tsv => 9
  | .tsufy => 10
/-- Whether an element is one of a core position, or of a stack. -/
def kindOfCore : RepairKind → Bool
  | .peRow => true
  | .sliceRow => true
  | .bond => true
  | _ => false
def kindOfStack : RepairKind → Bool
  | .stackRow => true
  | .dramRow => true
  | .dramCols => true
  | .tsv => true
  | _ => false
/-- Whether an element exists. -/
def repairFits (e : Repair) : Bool :=
  match e.kind with
  | .peRow => decide (e.unit < 144 ∧ e.bank < 4 ∧ e.elem < 32)
  | .sliceRow => decide (e.unit < 144 ∧ e.bank = 0)
  | .bond => decide (e.unit < 144 ∧ e.bank = 0)
  | .lane => decide (e.unit < 47 ∧ (e.bank = 1 ∨ e.bank = 0 ∧ e.elem < dataLanes (linkAt e.unit) + spareLanes (linkAt e.unit)))
  | .stackRow => decide (e.unit < 8 ∧ e.bank < 64)
  | .dramRow => decide (e.unit < 8 ∧ e.bank < 1536)
  | .dramCols => decide (e.unit < 8 ∧ e.bank < 1536)
  | .tsv => decide (e.unit < 8 ∧ e.elem < 128)
  | .tsufy => false
/-- Elements that share the spares of one. -/
def shareSpares (l : List Repair) (e : Repair) : List Repair := l.filter fun x => x.kind == e.kind && x.unit == e.unit && x.bank == e.bank
/-- Whether more elements have failed than there are spares for one of them. -/
def outOfSpares (l : List Repair) (e : Repair) : Bool := decide (spareCount e.kind < (shareSpares l e).length)
/-- The row of R461's table by which a unit fails for want of spares, if it does. -/
def spareFails (l : List Repair) (ofUnit : RepairKind → Bool) (u : Nat) : Option Nat :=
  (l.find? fun e => ofUnit e.kind && e.unit == u && outOfSpares l e).map fun e => testRow e.kind
/-- A spare of a core position or a stack stands in, logged with its unit test and the spare's number (R463). -/
def putSpare (e : Repair) (s : State) : State :=
  let unit := if kindOfCore e.kind then coreUnit e.unit else unitOf 3 e.unit
  let log (n : Nat) (s : State) : State := s.logAdd 0x08 1 0xFF unit (Config.unitTest (testRow e.kind)).toNat n 0 0
  match e.kind with
  | .peRow => log e.bank (s.upd e.unit fun k => { k with arr := { k.arr with
      bypass := vset k.arr.bypass e.bank (some (BitVec.ofNat 5 e.elem)) } })
  | _ => log (shareSpares s.pkg.repairs e).length { s with pkg := { s.pkg with repairs := s.pkg.repairs ++ [e] } }

/-! ### The accepted hint (R464, R465) -/

/-- The body of the hint that the start has accepted, of the hub with the lower number (R465, R497; log entry 24). -/
def State.hintBody (s : State) : Option (List Byte) :=
  match [0, 1].find? fun h => (s.hub h).hint == 1 with
  | none => none
  | some h => (s.hub h).hintBytes.map (·.drop 128)
/-- The MTAB word of a domain in it, the margin table being the body's tail. -/
def State.hintWord (s : State) (d : Nat) : Option Nat :=
  s.hintBody.bind fun b => if b.length < 1296 then none else some (field b (b.length - 1296 + 8 * d) 8)
/-- The repairs that it holds. -/
def State.hintRepairs (s : State) : List Repair :=
  match s.hintBody with
  | some b => repairsIn ((b.length - 1296) / 16) b
  | none => []
/-- Whether the hint marks a unit failed, or retired in service: it is not tested and stays out (R465; log entry 24). -/
def State.hintFails (s : State) (d : Nat) : Bool := match s.hintWord d with | some w => decide (2 ≤ w / 2 ^ 62 % 4) | none => false
/-- VOFS and XTAPS from which the start-up measurement begins (R465). -/
def State.hintVofs (s : State) (d : Nat) : Nat := match s.hintWord d with | some w => w / 2 ^ 16 % 16 | none => 0
def State.hintXtaps (s : State) (d : Nat) : Nat := match s.hintWord d with | some w => w / 2 ^ 20 % 16 | none => 0
/-- What self-test finds with what the hint has: its repairs whose patterns pass, and the units that it marks failed. -/
def withHint (s : State) (r : SelfTest) : SelfTest :=
  let add (l : List Nat) (base n : Nat) : List Nat :=
    l ++ (List.range n).filter fun i => s.hintFails (base + i) && !l.contains i
  let kept := s.hintRepairs.filter fun e => !r.notKept.contains e
  { r with
    failedPos := add r.failedPos 0 144
    failedDies := add r.failedDies 144 8
    failedHubs := add r.failedHubs 152 2
    failedStacks := add r.failedStacks 154 8
    elems := ((kept ++ r.elems).filter repairFits).eraseDups }
/-- Whether a unit that the hint shows passing failed its short patterns, so that it was tested fully (R465). -/
def State.fullForced (s : State) (r : SelfTest) : Bool :=
  let new (l : List Nat) (base : Nat) : Bool := l.any fun i => !s.hintFails (base + i)
  !r.elems.isEmpty || !r.notKept.isEmpty || new r.failedPos 0 || new r.failedDies 144 || new r.failedHubs 152 || new r.failedStacks 154 ||
    r.failedLinks.any fun l => !(s.hintRepairs.any fun e => e.kind == .lane && e.unit == linkNo l && e.bank == 1)

/-! ### Start-up margins (R465, R471, R475) -/

/-- Base taps, SLACK and its chain of a start-up measurement: the fewest taps that give a SLACK of 6 at every setting, of the 32 of an element
less its XTAPS; nothing measured counts as 6. -/
def startTaps (m : StartMargin) : Nat × Nat × Nat :=
  let all := m.slacks.flatten
  let low := all.foldl min (all.headD 6)
  let taps := min (6 - low).toNat (31 - m.xtaps)
  let chain := (m.slacks.map fun l => l.idxOf low).foldl min (m.slacks.headD []).length
  (taps, min (low + taps).toNat 32, chain)
/-- A domain's entry as start-up measures it: VOFS from the hint's, at most 10 mV below it. -/
def startMargin (s : State) (r : SelfTest) (d : Nat) : Margin :=
  let x := r.margins.getD d ⟨s.hintVofs d, s.hintXtaps d, []⟩
  let (taps, slack, chain) := startTaps x
  { st := 0, hist := [(s.time, slack)], slack := slack, xtaps := min x.xtaps 4, vofs := min (max x.vofs (s.hintVofs d - 2)) 8, taps := taps
    calTime := s.time, worst := chain, replan := decide (slack < 4) }

/-! ### Step 2 (R461 to R463, R493) -/

/-- Positions that go into service (R462), from those that passed. -/
def chooseInService (ok : Nat → Bool) : List Nat :=
  let die (d : Nat) : List Nat :=
    let base := (List.range 16).map (18 * d + ·)
    base.filter ok ++ (([18 * d + 16, 18 * d + 17]).filter ok).take (base.filter fun c => !ok c).length
  let first := (List.range 8).flatMap die
  first ++ ((allCores.filter fun c => ok c && !first.contains c).take (128 - first.length))

/-- Voltage of a core that comes up: floor in service, retention for a spare (R462; log entry 22). -/
def bringUp (ins : List Nat) (ok : Nat → Bool) (c : Nat) (s : State) : State :=
  let on (st : CoreSvc) (v : Nat) (ring : Bool) : State :=
    s.upd c fun k => { k with pw := { k.pw with svc := st, ring := ring, volt := v, vset := v, target := v } }
  if ins.contains c then on .inService (s.floorMv c) true
  else if ok c then on .spare (s.retMv c) false
  else on .failed 0 false

/-- Whether the minimum set of R440 is there at the end of step 2: a hub, and a core in service, whose slice then has all its 64 MiB. Ports
are tested only in step 4. -/
def State.minimumSet (s : State) (hs : List Nat) : Bool := !hs.isEmpty && !s.inSvcCores.isEmpty

/-- The lead is elected and step 2 ends (R493): `h` leads, `hs` are the hubs in service. The entries of the start so far, held until a lead
appends them, bear the BOOTID that the lead has drawn (R504, R512, R513). -/
def electLead (h : Nat) (hs : List Nat) (s : State) : State :=
  let bootid := (s.hub h).rnd
  let s0 : State := { s with log := { s.log with ring := s.log.ring.map fun e => if s.log.start ≤ e.seq then { e with bootid := bootid } else e } }
  let s1 := { s0 with pkg := { s0.pkg with lead := h, bootid := bootid } }.withPower fun m => { m with plimit := (s.hub h).plimit }
  let enough := s1.minimumSet hs
  let s2 := hs.foldl (fun s i => s.updHub i fun q => { q with insvc := true, step := if enough then 3 else 2 }) s1
  let meas := (BitVec.ofNat 64 s2.feat3, BitVec.ofNat 64 s2.feat6)
  let s3 := hs.foldl (fun s i => s.updHub i fun q => { q with
    meas5 := some meas, meas6 := some (if hs.contains (1 - i) then (s2.hub (1 - i)).image else []) }) s2
  let s4 := launch s3
  let s5 := s4.withPower fun m => { m with rails := m.railTo }
  if enough then s5
  else (s5.updHub h fun q => { q with err := 6 }).logAdd 0x12 3 0xFF (unitOf 15 0) s3.feat3 s3.feat6 0 0

/-- Hubs whose logic fails, or whose margins start-up finds used up, leave service (R461, R475). -/
def testHubs (r : SelfTest) (hs : List Nat) (s : State) : List Nat × State :=
  let bad (h : Nat) : Bool := r.failedHubs.contains h || decide ((startMargin s r (152 + h)).slack < 2)
  (hs.filter fun h => !bad h, (hs.filter bad).foldl (fun s h =>
    (s.updHub h fun q => { q with err := 4 }).logAdd 0x09 2 0xFF (unitOf 2 h) (Config.unitTest 6).toNat 0 0 0) s)
/-- Links: those that fail as a whole, then the lanes whose place a spare takes; a lane more than the spares takes its link with it (R24). -/
def testLinks (r : SelfTest) (s : State) : State :=
  let outs := (r.elems.filter fun e => e.kind == .lane && e.bank == 1).map fun e => linkAt e.unit
  let down := ((r.failedLinks ++ outs).filter linkExists).eraseDups
  let links := if r.bridgeOk || down.contains .bridge then down else down ++ [.bridge]
  let s1 := links.foldl (fun s l => if s.pkg.linksDown.contains l then s else linkOut l s) s
  (r.elems.filter fun e => e.kind == .lane && e.bank == 0).foldl (fun s e =>
    let l := linkAt e.unit
    if s.pkg.linksDown.contains l then s
    else if spareLanes l ≤ s.sparesOf l then linkOut l s
    else steer l e.elem s) s1
/-- Why a core position fails by itself, if it does: a row of R461's table, or its margins (R475). -/
inductive PosFail
  | test (row : Nat)
  | margin
deriving DecidableEq, Repr
def posFails (s : State) (r : SelfTest) (c : Nat) : Option PosFail :=
  if r.failedPos.contains c then some (.test 0)
  else match spareFails r.elems kindOfCore c with
    | some row => some (.test row)
    | none => if (startMargin s r c).slack < (if c % 18 < 16 then 2 else 4) then some .margin else none
/-- Why a stack fails, if it does: a row of R461's table, its margins, or the loss of its links (R31). -/
def stackFails (s : State) (r : SelfTest) (n : Nat) : Option Nat :=
  if r.failedStacks.contains n || decide ((startMargin s r (154 + n)).slack < 2) then some 7
  else match spareFails r.elems kindOfStack n with
    | some row => some row
    | none => if s.stackReached n then none else some 5
/-- A failed unit is logged with the test that it failed; for its margins, with their figures (R463, R475). -/
def notePosFail (c : Nat) (m : Margin) (w : PosFail) (s : State) : State :=
  match w with
  | .test row => s.logAdd 0x09 2 0xFF (coreUnit c) (Config.unitTest row).toNat 0 0 0
  | .margin => s.logAdd 0x06 3 0xFF (coreUnit c) (b2n (decide (2 ≤ m.slack))) m.slack m.vofs m.xtaps

/-- SELF_TEST_AND_REPAIR (R461 to R465, R471, R489, R493). -/
def execSelfTestAndRepair (r0 : SelfTest) (s : State) : Out :=
  let r := withHint s r0
  let ran := [0, 1].filter fun h => (s.hub h).step == 2 && !(s.hub h).insvc
  if ran.isEmpty || s.pkg.power.railOn .vstk then done s s
  else
    let (hs, s1) := testHubs r ran s
    if hs.isEmpty then done s s1
    else
      let dieBad (d : Nat) : Bool := r.failedDies.contains d || decide ((startMargin s r (144 + d)).slack < 2)
      let dead := (List.range 8).filter dieBad
      let s2 := testLinks r { s1 with pkg := { s1.pkg with
        routers := BitVec.ofNat 8 (((List.range 8).filter fun d => !dieBad d).map (2 ^ ·)).sum } }
      let s3 := dead.foldl (fun s d => s.logAdd 0x09 2 0xFF (unitOf 1 d) (Config.unitTest 4).toNat 0 0 0) s2
      let ok (c : Nat) : Bool := (posFails s r c).isNone && !dead.contains (dieOf c) && s3.dieLinked (dieOf c)
      let s4 := allCores.foldl (fun s' c => match posFails s r c with
        | some w => notePosFail c (startMargin s r c) w s'
        | none => s') s3
      let stackBad := (List.range 8).filterMap fun n => (stackFails s4 r n).map fun row => (n, row)
      let stackOk (n : Nat) : Bool := !stackBad.any fun p => p.1 == n
      let s5 := (r.elems.filter fun e => (kindOfCore e.kind && ok e.unit) || (kindOfStack e.kind && stackOk e.unit)).foldl
        (fun s e => putSpare e s) s4
      let s6 := (List.range 8).foldl (fun s n => if stackOk n then s.updStack n fun k => { k with insvc := true } else s) s5
      let s7 := stackBad.foldl (fun s p => s.logAdd 0x09 2 0xFF (unitOf 3 p.1) (Config.unitTest p.2).toNat 0 0 0) s6
      let ins := chooseInService ok
      let st (d : Nat) : BitVec 2 :=
        if d < 144 then (if ins.contains d then 0 else if ok d then 1 else 3)
        else if d < 152 then (if dead.contains (d - 144) then 3 else 0)
        else if d < 154 then (if hs.contains (d - 152) then 0 else 3)
        else if stackOk (d - 154) then 0 else 3
      let s8 := { s7 with pkg := { s7.pkg with mtab := (List.range 162).map fun d => { startMargin s r d with st := st d } } }
      let s9 := (allCores.foldl (fun s c => bringUp ins ok c s) s8).withPower fun m => { m with
        pmbus := commanded.map fun r => (pmbusAddr r, true) }
      let s10 := if s.fullForced r0 then
          hs.foldl (fun s h => s.updHub h fun q => if q.hint = 1 then { q with hint := 3, startsNext := 0 } else q) s9
        else s9
      let both := hs.contains 0 && hs.contains 1
      if !both || !s10.pkg.linksDown.contains .bridge then done s (electLead (hs.headD 0) hs s10)
      else if r.fabricOk then
        let s11 := (s10.updHub 1 fun q => { q with err := 5 }).logAdd 0x11 2 0xFF (unitOf 2 1) 1 0 0 0
        done s (electLead 0 [0] (setMtab 153 3 s11))
      else done s s10

/-- HUB_ELECTION_TIMEOUT (R493): HD1 has reached HD0 on neither path within 2 s of the end of its own step 1. -/
def execHubElectionTimeout (s : State) : Out :=
  if !s.pkg.power.railOn .vstk || (s.hub 0).insvc || (s.hub 1).insvc || (s.hub 1).step != 2 then done s s
  else done s (electLead 1 [1] (setMtab 152 3 (s.tickTo 2000000000)))

/-! ### Steps 3 and 4 (R98, R123, R376, R393, R492, R504) -/

/-- A supervisor core enters service at its hub's voltage (R474, R522). -/
def enterHubCore (c : Nat) (s : State) : State :=
  let v := s.domainMv (152 + dieOf c)
  installDescs c [] (s.upd c fun k =>
    let k := { k with
      tr := { k.tr with maint := false }
      pw := { k.pw with svc := .inService, ring := true, volt := v, vset := v, target := v } }
    k.park)

/-- BOOT_STACK_TRAINING (R492): stacks trained, lines zeroed, routes and tables drawn, monitor placed, MAINT cleared. -/
def execBootStackTraining (failed : List Nat) (s : State) : Out :=
  let hs := [0, 1].filter fun h => (s.hub h).insvc && (s.hub h).step == 3
  if !hs.contains s.pkg.lead then done s s
  else
    let s1 := (s.stacksUp.filter fun n => failed.contains n).foldl (fun s n =>
      (setMtab (154 + n) 3 (s.updStack n fun k => { k with insvc := false })).chg.logAdd 0x09 2 0xFF (unitOf 3 n) (Config.unitTest 9).toNat 0 0 0) s
    let s2 := s1.stacksUp.foldl (fun s n =>
      ((s.zeroHome (stackBase 1 n) 0x10000000).zeroHome (stackBase 2 n) 0xC00000000).updStack n fun k => { k with upAt := s.time }) s1
    let s3 := s2.inSvcCores.foldl (fun s c => (enterService c s).upd c Core.park) s2
    let s4 := (hs.flatMap fun h => (List.range 8).map fun k => 144 + 8 * h + k).foldl (fun s c => enterHubCore c s) s3
    let s5 := { s4 with host := { s4.host with mirrors := hs ++ (s4.stacksUp.take 2).map (16 + ·) } }
    done s (hs.foldl (fun s h =>
      ([2 * h, 2 * h + 1]).foldl (fun s p => s.updPort p fun q => { q with st := .training, since := s.time })
        (s.updHub h fun q => { q with step := 4, lastBeat := s.time })) s5)

/-- BOOT_PORT_TRAINING (R492, R504): the ports of step 4 end their first training; the start ends with the first that is ANNOUNCED. -/
def execBootPortTraining (r : LaneTest) (s : State) : Out :=
  let hs := [0, 1].filter fun h => (s.hub h).insvc && (s.hub h).step == 4
  if !hs.contains s.pkg.lead then done s s
  else
    let ps := (List.range 4).filter fun p => (s.port p).st == .training
    hostDone s (ps.foldl (fun s p =>
      trainPort p ⟨r.trained.getLsbD p, (r.failed.filter fun l => l.1 == p).map (·.2)⟩ s) s)

end Sys2Proof.Machine
end

