-- ==== Sys2Proof/Machine/Attest.lean ====
section
/-! DEFINITION. SPDM responders and MCTP control of the hubs' endpoints (R498 to R503). Message layouts are those of SPDM 1.2
and of the MCTP base specification, which the manual names (log entry 26). -/

namespace Sys2Proof.Machine

/-! ### Endpoints (R503) -/

def epIndex (e : Endpoint) : Nat := match e with | .i3c h => h | .port p => 2 + p
def epHub (e : Endpoint) : Nat := match e with | .i3c h => h | .port p => p / 2
def epExists (e : Endpoint) : Bool := match e with | .i3c h => decide (h < 2) | .port p => decide (p < 4)
/-- Whether an endpoint is served: on I3C from the end of step 1, a hub that does not come into service resting there; on a port from
ANNOUNCED. -/
def State.epServed (s : State) (e : Endpoint) : Bool :=
  let q := s.hub (epHub e)
  match e with
  | .i3c _ => q.insvc || q.step == 2
  | .port p => (s.port p).st == .announced || (s.port p).st == .active
def State.ep (s : State) (e : Endpoint) : Ep := s.pkg.eps.getD (epIndex e) .reset
def State.updEp (s : State) (e : Endpoint) (f : Ep → Ep) : State :=
  { s with pkg := { s.pkg with eps := modNth s.pkg.eps (epIndex e) f } }
/-- An endpoint that does not exist is refused; one that is not served answers nothing. -/
def onEp (e : Endpoint) (f : State → State) (s : State) : Out :=
  if !epExists e then .refused .noSuchUnit else if s.epServed e then done s (f s) else done s s

/-- Bytes that a packet of an endpoint's binding carries of a message (R503). -/
def transmissionUnit (e : Endpoint) : Nat := match e with | .i3c _ => 64 | .port _ => 1024
/-- A message in parts of `n` bytes. -/
def parts (n : Nat) : Nat → List Byte → List (List Byte)
  | 0, _ => []
  | fuel + 1, bs => if bs.isEmpty then [] else bs.take n :: parts n fuel (bs.drop n)
/-- The last answer of an endpoint as its packets carry it. -/
def State.packets (s : State) (e : Endpoint) : List (List Byte) :=
  parts (transmissionUnit e) (s.ep e).reply.length (s.ep e).reply

/-! ### SPDM messages (R501, R502) -/

def textBytes (t : String) : List Byte := t.toList.map fun ch => BitVec.ofNat 8 ch.toNat
def reqBytes (r : SpdmReq) : List Byte := [r.version, r.code, r.param1, r.param2] ++ r.body
/-- An ERROR response. -/
def spdmError (code : Byte) : List Byte := [0x12, 0x7F, code, 0]
/-- A response is sent; it ends a run of measurements unless `keep`. -/
def answer (e : Endpoint) (keep : Bool) (bs : List Byte) (s : State) : State :=
  s.updEp e fun q => { q with reply := bs, measLog := if keep then q.measLog else [] }

/-- An SPDM request arrives (R503): one that comes while the endpoint serves another, as it may for 2^14 µs (R501), is answered Busy and does
nothing else. -/
def onSpdm (e : Endpoint) (r : SpdmReq) (f : State → State) (s : State) : Out :=
  onEp e (fun s =>
    if r.early && (match (s.ep e).since with | some t => decide (s.time < t + 16384000) | none => false) then
      s.updEp e fun q => { q with reply := spdmError 0x03 }
    else f (s.updEp e fun q => { q with since := some s.time })) s

/-- The request at its place in the order of SPDM 1.2, in version 1.2 (R501); else the ERROR. -/
def inOrder (e : Endpoint) (r : SpdmReq) (phase : Nat) (f : State → State) (s : State) : State :=
  if r.version ≠ 0x12 then answer e false (spdmError 0x41) s
  else if (s.ep e).phase ≠ phase then answer e false (spdmError 0x04) s
  else f s

/-- Random bytes of a nonce: free values. -/
def freshNonce (s : State) : List Byte := (List.range 32).map fun i => Config.freeByte (s.fresh + i)
/-- What SPDM 1.2 signs over a transcript, under a context of at most 36 bytes. -/
def signedBytes (context : String) (transcript : List Byte) : List Byte :=
  let c := textBytes context
  (List.replicate 4 (textBytes "dmtf-spdm-v1.2.*")).flatten ++ List.replicate (36 - c.length) 0 ++ c ++ Config.sha512 transcript

/-- The certificate chain of hub `h`, from its flash (R495, R500), and what its root of trust signs (R499). -/
def State.certChain (s : State) (h : Nat) : List Byte := Machine.certChain (s.hub h).flash h
def State.hubSign (s : State) (h : Nat) (bs : List Byte) : List Byte := Config.ed25519Sign ((s.hub h).key.getD []) bs

/-- GET_VERSION (R501): the endpoint's connection starts anew. Its version is 1.0, as SPDM 1.2 has it, or 1.2 (log entry 26). -/
def execGetVersion (e : Endpoint) (r : SpdmReq) (s : State) : Out :=
  onSpdm e r (fun s =>
    let r := { r with code := 0x84 }
    let bs : List Byte := [0x10, 0x04, 0, 0, 0, 1, 0x00, 0x12]
    if r.version ≠ 0x10 ∧ r.version ≠ 0x12 then answer e false (spdmError 0x41) s
    else s.updEp e fun q => { q with phase := 1, vca := reqBytes r ++ bs, certLog := [], measLog := [], reply := bs }) s

/-- GET_CAPABILITIES (R501): CTExponent 14; CERT, CHAL, MEAS with signature; 4,096 bytes. -/
def execGetCapabilities (e : Endpoint) (r : SpdmReq) (s : State) : Out :=
  onSpdm e r (fun s =>
    let r := { r with code := 0xE1 }
    inOrder e r 1 (fun s =>
      let bs : List Byte := [0x12, 0x61, 0, 0, 0, 14, 0, 0] ++ leBytes 4 0x16 ++ leBytes 4 4096 ++ leBytes 4 4096
      s.updEp e fun q => { q with phase := 2, vca := q.vca ++ reqBytes r ++ bs, reply := bs }) s) s

/-- NEGOTIATE_ALGORITHMS (R501): Ed25519 is bit 9 of BaseAsymAlgo, SHA-512 bit 2 of BaseHashAlgo. -/
def execNegotiateAlgorithms (e : Endpoint) (r : SpdmReq) (s : State) : Out :=
  onSpdm e r (fun s =>
    let r := { r with code := 0xE3 }
    inOrder e r 2 (fun s =>
      let asym := bitOf (field r.body 4 4) 9
      let hash := bitOf (field r.body 8 4) 2
      if !asym && !hash then answer e false (spdmError 0x01) s
      else
        let bs : List Byte := [0x12, 0x63, 0, 0] ++ leBytes 2 36 ++ [1, 0] ++ leBytes 4 8 ++
          leBytes 4 (if asym then 0x200 else 0) ++ leBytes 4 (if hash then 4 else 0) ++ List.replicate 16 0
        s.updEp e fun q => { q with phase := 3, vca := q.vca ++ reqBytes r ++ bs, reply := bs }) s) s

/-- A response about certificates enters the transcript of the next CHALLENGE. -/
def certAnswer (e : Endpoint) (r : SpdmReq) (bs : List Byte) (s : State) : State :=
  (answer e false bs s).updEp e fun q => { q with certLog := q.certLog ++ reqBytes r ++ bs }

/-- GET_DIGESTS (R501). -/
def execGetDigests (e : Endpoint) (r : SpdmReq) (s : State) : Out :=
  onSpdm e r (fun s =>
    let r := { r with code := 0x81 }
    inOrder e r 3 (fun s =>
      let h := epHub e
      certAnswer e r ([0x12, 0x01, 0, BitVec.ofNat 8 (2 ^ h)] ++ Config.sha512 (s.certChain h)) s) s) s

/-- GET_CERTIFICATE (R501): a part of chain `h` that fits a message. -/
def execGetCertificate (e : Endpoint) (r : SpdmReq) (s : State) : Out :=
  onSpdm e r (fun s =>
    let r := { r with code := 0x82 }
    inOrder e r 3 (fun s =>
      let h := epHub e
      let chain := s.certChain h
      let ofs := field r.body 0 2
      if r.param1.toNat % 16 ≠ h ∨ chain.length ≤ ofs then answer e false (spdmError 0x01) s
      else
        let part := ((chain.drop ofs).take (field r.body 2 2)).take 4088
        certAnswer e r ([0x12, 0x02, BitVec.ofNat 8 h, 0] ++ leBytes 2 part.length ++
          leBytes 2 (chain.length - ofs - part.length) ++ part) s) s) s

/-- Measurement block `i` of hub `h`: the value, and whether it is raw; none before it is available (R502). -/
def State.measValue (s : State) (h i : Nat) : Option (Bool × List Byte) :=
  let q := s.hub h
  match i with
  | 1 => some (false, Config.sha512 Config.romImage)
  | 2 => some (false, Config.sha512 q.image)
  | 3 => some (true, leBytes 8 q.svn.toNat)
  | 4 => q.meas5.map fun _ => (false, match q.hintBytes with | some b => Config.sha512 b | none => List.replicate 64 0)
  | 5 => q.meas5.map fun f => (true, leBytes 8 f.1.toNat ++ leBytes 8 f.2.toNat)
  | _ => q.meas6.map fun b => (false, if b.isEmpty then List.replicate 64 0 else Config.sha512 b)
/-- A block in DMTF format. -/
def State.measBlock (s : State) (h i : Nat) : Option (List Byte) :=
  (s.measValue h i).map fun v =>
    let ty : Byte := (Config.measType i).setWidth 8 ||| (if v.1 then 0x80 else 0)
    [BitVec.ofNat 8 i, 1] ++ leBytes 2 (v.2.length + 3) ++ [ty] ++ leBytes 2 v.2.length ++ v.2
/-- Several blocks, none unless every one is available. -/
def State.measBlocks (s : State) (h : Nat) (is : List Nat) : Option (List Byte) :=
  if is.all fun i => (s.measBlock h i).isSome then some (is.flatMap fun i => (s.measBlock h i).getD []) else none

/-- CHALLENGE (R498, R501). -/
def execChallenge (e : Endpoint) (r : SpdmReq) (s : State) : Out :=
  onSpdm e r (fun s =>
    let r := { r with code := 0x83 }
    inOrder e r 3 (fun s =>
      let h := epHub e
      let kind := r.param2.toNat
      let is := if kind = 0xFF then [1, 2, 3, 4, 5, 6] else if kind = 1 then [1, 2, 3, 4, 5, 6].filter Config.tcbBlock else []
      if r.param1.toNat % 16 ≠ h ∨ r.body.length < 32 ∨ !([0, 1, 0xFF].contains kind) then answer e false (spdmError 0x01) s
      else if (s.hub h).key.isNone then answer e false (spdmError 0x05) s
      else match s.measBlocks h is with
        | none => answer e false (spdmError 0x03) s
        | some blocks =>
          let bs : List Byte := [0x12, 0x03, BitVec.ofNat 8 h, BitVec.ofNat 8 (2 ^ h)] ++ Config.sha512 (s.certChain h) ++
            freshNonce s ++ (if kind = 0 then [] else Config.sha512 blocks) ++ leBytes 2 0
          let q := s.ep e
          let sig := s.hubSign h (signedBytes "responder-challenge_auth signing" (q.vca ++ q.certLog ++ reqBytes r ++ bs))
          let s1 := { s with fresh := s.fresh + 32 }
          (answer e false (bs ++ sig) s1).updEp e fun q => { q with certLog := [] }) s) s

/-- GET_MEASUREMENTS (R498, R501, R502). -/
def execGetMeasurements (e : Endpoint) (r : SpdmReq) (s : State) : Out :=
  onSpdm e r (fun s =>
    let r := { r with code := 0xE0 }
    inOrder e r 3 (fun s =>
      let h := epHub e
      let signed := r.param1.getLsbD 0
      let op := r.param2.toNat
      let is := if op = 0 then [] else if op = 0xFF then [1, 2, 3, 4, 5, 6] else [op]
      if (decide (6 < op) && op != 0xFF) || (signed && decide (r.body.length < 33)) ||
          (signed && (field r.body 32 1) % 16 != h) then answer e false (spdmError 0x01) s
      else if signed && (s.hub h).key.isNone then answer e false (spdmError 0x05) s
      else match s.measBlocks h is with
        | none => answer e false (spdmError 0x03) s
        | some blocks =>
          let bs : List Byte := [0x12, 0x60, if op = 0 then 6 else 0, if signed then BitVec.ofNat 8 h else 0,
            BitVec.ofNat 8 is.length] ++ leBytes 3 blocks.length ++ blocks ++ freshNonce s ++ leBytes 2 0
          let s1 := { s with fresh := s.fresh + 32 }
          let log := (s.ep e).measLog ++ reqBytes r ++ bs
          if signed then
            let sig := s.hubSign h (signedBytes "responder-measurements signing" ((s.ep e).vca ++ log))
            answer e false (bs ++ sig) s1
          else (answer e true bs s1).updEp e fun q => { q with measLog := log }) s) s

/-- Request codes with a row of their own. -/
def knownCodes : List Byte := [0x84, 0xE1, 0xE3, 0x81, 0x82, 0x83, 0xE0]
/-- SPDM_UNSUPPORTED_REQUEST (R501): any other code. -/
def execSpdmUnsupportedRequest (e : Endpoint) (r : SpdmReq) (s : State) : Out :=
  onSpdm e r (fun s =>
    if knownCodes.contains r.code then s
    else if r.version ≠ 0x12 then answer e false (spdmError 0x41) s
    else answer e false (spdmError 0x07) s) s

/-! ### MCTP control (R503) -/

/-- SET_ENDPOINT_ID: 0 and 0xFF are no endpoint IDs. -/
def execSetEndpointId (e : Endpoint) (eid : BitVec 8) (s : State) : Out :=
  onEp e (fun s =>
    if eid = 0 ∨ eid = 0xFF then s.updEp e fun q => { q with reply := [2] }
    else s.updEp e fun q => { q with eid := eid, reply := [0, 0, eid, 0] }) s
/-- GET_ENDPOINT_ID. -/
def execGetEndpointId (e : Endpoint) (s : State) : Out :=
  onEp e (fun s => s.updEp e fun q => { q with reply := [0, q.eid, 0, 0] }) s
/-- GET_MCTP_VERSION_SUPPORT. -/
def execGetMctpVersionSupport (e : Endpoint) (s : State) : Out :=
  onEp e (fun s => s.updEp e fun q => { q with reply := 0 :: Config.mctpVersions }) s
/-- GET_MESSAGE_TYPE_SUPPORT: type 5, SPDM. -/
def execGetMessageTypeSupport (e : Endpoint) (s : State) : Out :=
  onEp e (fun s => s.updEp e fun q => { q with reply := [0, 1, 5] }) s

end Sys2Proof.Machine
end

