-- ==== Sys2Proof/Machine/Branch.lean ====
section
/-! DEFINITION. Branches, jumps, calls and returns with their two delay slots (R65 to R70). -/

namespace Sys2Proof.Machine

/-- A control transfer issues (R65): the two slots follow, then `tgt`. -/
def Core.transfer (k : Core) (tgt : Word) : Core :=
  let f := k.flow
  ({ k with flow := { f with pc := f.pc + 4, slots := 2, btgt := tgt, jump := some f.pc, hold := false, barw := false } }).beat

/-- A conditional branch (R65). -/
def branchB (c op : Nat) (rs1 rs2 : Reg) (off : BitVec 16) (sl : SlotLens) (p : Word → Word → Bool) (s : State) : Out :=
  issueI c (encI op rs1 rs2 off) true noFault
    (fun s => s.upd c fun k =>
      k.transfer (if p (k.rx rs1) (k.rx rs2) then targetB k.flow.pc off else afterSlots k.flow.pc sl)) s

/-- BEQ (R65). -/
def execBeq (c : Nat) (rs1 rs2 : Reg) (off : BitVec 16) (sl : SlotLens) (s : State) : Out :=
  branchB c 0x20 rs1 rs2 off sl (fun a b => a == b) s
/-- BNE (R65). -/
def execBne (c : Nat) (rs1 rs2 : Reg) (off : BitVec 16) (sl : SlotLens) (s : State) : Out :=
  branchB c 0x21 rs1 rs2 off sl (fun a b => a != b) s
/-- BLT (R65): signed. -/
def execBlt (c : Nat) (rs1 rs2 : Reg) (off : BitVec 16) (sl : SlotLens) (s : State) : Out :=
  branchB c 0x22 rs1 rs2 off sl (fun a b => a.slt b) s
/-- BGE (R65): signed. -/
def execBge (c : Nat) (rs1 rs2 : Reg) (off : BitVec 16) (sl : SlotLens) (s : State) : Out :=
  branchB c 0x23 rs1 rs2 off sl (fun a b => !a.slt b) s
/-- BLTU (R65). -/
def execBltu (c : Nat) (rs1 rs2 : Reg) (off : BitVec 16) (sl : SlotLens) (s : State) : Out :=
  branchB c 0x24 rs1 rs2 off sl (fun a b => a.ult b) s
/-- BGEU (R65). -/
def execBgeu (c : Nat) (rs1 rs2 : Reg) (off : BitVec 16) (sl : SlotLens) (s : State) : Out :=
  branchB c 0x25 rs1 rs2 off sl (fun a b => !a.ult b) s

/-- J (R65). -/
def execJ (c : Nat) (off : BitVec 26) (_sl : SlotLens) (s : State) : Out :=
  issueI c (encJ 0x26 off) true noFault (fun s => s.upd c fun k => k.transfer (targetJ k.flow.pc off)) s
/-- JR (R65, R67). -/
def execJr (c : Nat) (rs1 : Reg) (_sl : SlotLens) (s : State) : Out :=
  issueI c (encR 0x28 0 0 rs1 0) true noFault (fun s => s.upd c fun k => k.transfer (k.rx rs1)) s

/-! ### The return stack (R68, R69) -/

/-- Slice offset of a level's region (R68). -/
def rsRegion : Priv → Nat
  | .t => 0x3FE2000
  | .s => 0x3FEA000
  | .m => 0x3FF2000
def Core.rset (k : Core) : RSet := k.rs k.level
/-- BUS_ERROR on a return-stack word that cannot be read: its tag is set, or its error is not corrected (R69). -/
def rsWordFault (s : State) (c off : Nat) (err : WordErr) : Option Trap :=
  let t (r : Byte) : Trap := { cause := 3, reason := r, edata0 := BitVec.ofNat 64 off, edata1 := (s.core c).flow.pc }
  if s.isPoisoned (sliceBase c + off) 8 then some (t poisoned) else
    match err with
    | .bad => some (t 0x54)
    | _ => none
/-- A return-stack word read with one symbol in error is corrected and counted (R69, R451). -/
def rsWordFixed (c off : Nat) (err : WordErr) (s : State) : State :=
  match err with
  | .fixed sym => noteCE c (sliceBase c + off) sym s
  | _ => s
/-- The faults of a call (R69). -/
def callFault (c : Nat) (err : WordErr) (s : State) : Option Trap :=
  let k := s.core c
  let r := k.rset
  let p := r.rsp.toNat
  if r.rsl.toNat < p + 8 ∨ 32768 < p + 8 then some { cause := 6, edata0 := BitVec.ofNat 64 p }
  else rsWordFault s c (rsRegion k.level + p) err
/-- The faults of a return (R69). -/
def retFault (c : Nat) (err : WordErr) (s : State) : Option Trap :=
  let k := s.core c
  let r := k.rset
  let p := r.rsp.toNat
  if p ≤ r.rsb.toNat ∨ 32768 < p then some { cause := 7, edata0 := BitVec.ofNat 64 p }
  else rsWordFault s c (rsRegion k.level + p - 8) err
/-- The push of a call: the word now, RSP at distance 1 (R60, R69). -/
def pushReturn (c : Nat) (ret : Word) (err : WordErr) (s : State) : State :=
  let k := s.core c
  let p := k.rset.rsp.toNat
  ((rsWordFixed c (rsRegion k.level + p) err s).storeLocal (sliceBase c + rsRegion k.level + p) (leBytes 8 ret.toNat) c).upd c
    fun k => k.land 1 (.rsp k.level (BitVec.ofNat 16 (p + 8)))
/-- A fault of a call or return; one found in the word is logged (R69). -/
def rsTrap (c : Nat) (t : Trap) (s : State) : State :=
  takeExceptionBy c t (fun s =>
    if t.cause = 3 then noteUE c (sliceBase c + t.edata0.toNat) t.reason.toNat t.edata1 s else s) s
/-- A call or return whose fault leaves everything unchanged (R69). -/
def issueRs (c : Nat) (e : Enc) (fault : State → Option Trap) (run : State → State) (s : State) : Out :=
  issueI c e true noFault
    (fun s => match fault s with
      | some t => rsTrap c t s
      | none => run s) s

/-- CALL (R69). -/
def execCall (c : Nat) (off : BitVec 26) (sl : StackStep) (s : State) : Out :=
  issueRs c (encJ 0x27 off) (callFault c sl.err)
    (fun s => (pushReturn c (afterSlots (s.core c).flow.pc sl.lens) sl.err s).upd c
      fun k => k.transfer (targetJ k.flow.pc off)) s
/-- CALLR (R69, R67). -/
def execCallr (c : Nat) (rs1 : Reg) (sl : StackStep) (s : State) : Out :=
  issueRs c (encR 0x28 1 0 rs1 0) (callFault c sl.err)
    (fun s => (pushReturn c (afterSlots (s.core c).flow.pc sl.lens) sl.err s).upd c fun k => k.transfer (k.rx rs1)) s
/-- RET (R69). -/
def execRet (c : Nat) (sl : StackStep) (s : State) : Out :=
  issueRs c (encR 0x28 2 0 0 0) (retFault c sl.err)
    (fun s =>
      let k := s.core c
      let p := k.rset.rsp.toNat - 8
      let tgt := BitVec.ofNat 64 (s.mem.nat (sliceBase c + rsRegion k.level + p) 8)
      (rsWordFixed c (rsRegion k.level + p) sl.err s).upd c fun k => (k.land 1 (.rsp k.level (BitVec.ofNat 16 p))).transfer tgt) s

end Sys2Proof.Machine
end

