-- ==== Sys2Proof/Machine/Trouble.lean ====
section
/-! DEFINITION. The time compare, telemetry, the pins and rails in service, boundary scan (R507, R516, R522 to R529). -/

namespace Sys2Proof.Machine

/-! ### Time compare (R507) -/

/-- TIMER_COMPARE_FIRE: TIME has reached VALUE while EN is 1. -/
def execTimerCompareFire (c : Nat) (s : State) : Out :=
  if 160 ≤ c then .refused .noSuchUnit
  else
    let k := s.core c
    if !k.ev.tcmpEn || !k.inSvc then done s s
    else
      let s1 := s.tickTo k.ev.tcmp.toNat
      done s (s1.upd c fun k => ({ k with ev := { k.ev with tcmpEn := false } }).raise 1)

/-! ### Telemetry (R516) -/

/-- Records the ring has room for: 16 MiB less the pointer's place (log entry 25). -/
def telCap : Nat := 65535
/-- A dropped record is counted, for the device and for the core's partition. -/
def telDrop (c : Nat) (s : State) : State :=
  let s1 := { s with log := { s.log with
    teldrop := s.log.teldrop + 1, teldropOvf := s.log.teldropOvf || s.log.teldrop == BitVec.allOnes 48 } }
  if (s.core c).idn.count = 0 then s1 else s1.countPart (s.core c).idn.part.toNat 59 1
/-- The record of one core, or its drop where the reader lags a ring's length behind. -/
def telWrite (temps : List Nat) (c : Nat) (s : State) : State :=
  if s.log.telrd + telCap ≤ s.log.telCount then telDrop c s
  else
    let k := s.core c
    let r : TelRec := ⟨s.time, c, k.tm.step, (List.range 30).map fun i => (vget k.ev.evc i 0).toNat, s.pstat c,
      temps.getD (dieOf c) 0, s.pkg.power.pdraw⟩
    { s with log := { s.log with telRing := (r :: s.log.telRing).take telCap, telCount := s.log.telCount + 1 } }

/-- TELEMETRY_SAMPLE: TPERIOD has passed. `temps` are the temperatures of the compute dies, `lost` the cores whose
read is not done at once. A read of the sample before that is still not done is dropped. -/
def execTelemetrySample (temps : List Nat) (lost : List Nat) (s : State) : Out :=
  if !(s.hub s.pkg.lead).insvc then done s s
  else
    let s0 := s.log.telPend.foldl (fun s c => telDrop c s) (s.tickTo s.log.telNext)
    let t := s0.time
    let s1 := { s0 with log := { s0.log with telNext := t + s.log.tperiod, telPend := s.inSvcCores.filter fun c => lost.contains c } }
    done s ((s.inSvcCores.filter fun c => !lost.contains c).foldl (fun s c => telWrite temps c s) s1)

/-- TELEMETRY_READ_TIMEOUT: a read is not done within 5 µs. -/
def execTelemetryReadTimeout (c : Nat) (s : State) : Out :=
  if 144 ≤ c then .refused .noSuchUnit
  else if s.log.telPend.contains c then
    done s (telDrop c { s with log := { s.log with telPend := s.log.telPend.filter (· != c) } })
  else done s s

/-! ### Pins and rails (R489, R524 to R526, R529) -/

/-- Number of a rail in a THROTTLE entry (log entry 25). -/
def railNo (r : Rail) : Nat :=
  match r with
  | .vcore n => n
  | .vstk => 8
  | .vhub => 9
  | .vphy => 10
  | .vio => 11
/-- The entry that each outcome of R525 is logged with. -/
def logRail (name : Nat) (s : State) : State := s.logAdd 0x1B 0 0xFF (unitOf 15 0) 3 s.pkg.power.pdraw name 0
/-- One of VIO, VHUB, VPHY has left its range: all work stops, and with VHUB the trouble log is lost (R491, R512, R525). -/
def railLost (r : Rail) (s : State) : State :=
  let s1 := coldStop s
  let tap := match s1.pkg.pins.tap with
    | .sample => Tap.sample
    | _ => Tap.bypass
  let s2 := { s1 with pkg := { s1.pkg with pins := { s1.pkg.pins with rails := false, tap := tap } } }
  match r with
  | .vhub => { s2 with log := .reset }
  | _ => s2

/-- PWRGOOD_FALL (R525, R529): THERMTRIP_N is released; with RESET_N high it is a reset. -/
def execPwrgoodFall (s : State) : Out :=
  let s1 := if s.pkg.pins.up then coldStop (logRail Config.pwrgoodName.toNat s) else s
  done s { s1 with pkg := { s1.pkg with pins := { s1.pkg.pins with pwrgood := false, thermtripN := true } } }

/-- The outcome of R525 for a rail out of range. -/
def railOutcome (r : Rail) (s : State) : State :=
  let s1 := logRail (railNo r) s
  match r with
  | .vcore n => dieLoss n s1
  | .vstk => s1.stacksUp.foldl (fun s n => stackLoss n s) s1
  | r => railLost r s1
def railExists (r : Rail) : Bool := match r with | .vcore n => decide (n < 8) | _ => true

/-- RAIL_OUT_OF_RANGE (R525): for its limit, with RESET_N high. -/
def execRailOutOfRange (r : Rail) (s : State) : Out :=
  if !railExists r then .refused .noSuchUnit
  else if commanded.contains r then
    if s.pkg.pins.up then hostDone s (railOutcome r s) else done s s
  else done s (if s.pkg.pins.up then railOutcome r s else railLost r s)

/-- RAIL_CHECK_TIMEOUT (R524): a rail commanded on is not in range within 5 ms: a VRFAULT throttle, then as R525. -/
def execRailCheckTimeout (r : Rail) (s : State) : Out :=
  if !railExists r then .refused .noSuchUnit
  else if !s.pkg.power.railOn r then done s s
  else hostDone s (railOutcome r (beginThrottle (.vrfault (railNo r)) s))

/-- REFCLK_LOSS (R526): the hub is lost; with the other's reference gone too, the lead records it and all work stops. A hub that has not come
into service runs no further boot step. -/
def execRefclkLoss (hub : Nat) (s : State) : Out :=
  if 2 ≤ hub then .refused .noSuchUnit
  else
    let s1 := s.updHub hub fun q => { q with refOk := false }
    if !s.pkg.pins.up || !(s.hub hub).refOk then done s s1
    else if !(s.hub (1 - hub)).refOk then done s (coldStop (s1.logAdd 0x12 3 0xFF (unitOf 15 0) s.feat3 s.feat6 0 0))
    else if (s.hub hub).insvc then hostDone s (hubOut hub s1)
    else done s (s1.updHub hub fun q => { q with step := 0 })

/-! ### Temperatures (R452, R528, R529) -/

/-- A trip (R529): logged with the die while VHUB holds the log, also where RESET_N falls with it; all work stops, THERMTRIP_N is driven low. -/
def trip (d : Nat) (s : State) : State :=
  let s1 := if s.pkg.pins.rails then coldStop (s.logAdd 0x1B 0 0xFF (unitOf 15 0) 2 s.pkg.power.pdraw d 0) else coldStop s
  { s1 with pkg := { s1.pkg with pins := { s1.pkg.pins with thermtripN := false } } }
/-- THERMAL_TRIP (R528, R529): a die's sensors read its trip temperature. -/
def execThermalTrip (r : DieTemp) (s : State) : Out :=
  if !throttleExists (.thermal r.die) then .refused .noSuchUnit
  else if tripAt r.die ≤ r.temp then done s (trip r.die s) else done s s

/-- REFRESH_RATE_CHANGE (R452, R528): a DRAM die's sensor reports; above 85 °C the faster rate, below 83 °C the slower. The temperature is its
stack's for a throttle and a trip too. -/
def execRefreshRateChange (n die temp : Nat) (s : State) : Out :=
  if 8 ≤ n || 12 ≤ die then .refused .noSuchUnit
  else
    let s1 := s.updStack n fun k =>
      let bit := BitVec.ofNat 12 (2 ^ die)
      { k with
        temps := vset k.temps die temp
        hot := if 85 < temp then k.hot ||| bit else if temp < 83 then k.hot &&& ~~~bit else k.hot }
    if tripAt (16 + n) ≤ temp then done s (trip (16 + n) s1)
    else if s.triggers (.thermal (16 + n) temp) then done s (beginThrottle (.thermal (16 + n)) s1)
    else done s s1

/-! ### Boundary scan (R527) -/

/-- The single-ended signal contacts that the chain covers, in its order from TDI: of HD0 SPI (6), I3C (2), AVS (3), PMB (3), RESET_N, PWRGOOD;
of HD1 SPI (6), I3C (2), AVS (3), PMB (3), THERMTRIP_N (R520, R521; log entry 25). The port's own five contacts have no cells. -/
def scanCells : Nat := 31
/-- The level of a contact of the chain, where the state holds it. -/
def State.contact (s : State) (i : Nat) : Option Bool :=
  if i = 14 then some s.pkg.pins.resetN else if i = 15 then some s.pkg.pins.pwrgood
  else if i = 30 then some s.pkg.pins.thermtripN else none
/-- What the device's logic, or the chain in place of it, drives onto a contact: nothing at high impedance (R527). `own`: the logic's level. -/
def Pins.driven (p : Pins) (i : Nat) (own : Option Bool) : Option Bool :=
  match p.tap with
  | .extest => p.cells[i]?
  | .clamp => p.cells[i]?
  | .highz => none
  | _ => own
/-- The cells capture the contacts: levels that the state does not hold are free (log entry 4). -/
def capture (s : State) : State :=
  let cells := (List.range scanCells).map fun i => (s.contact i).getD (Config.freeBool (s.fresh + i))
  { s with fresh := s.fresh + scanCells, pkg := { s.pkg with pins := { s.pkg.pins with cells := cells } } }
def setTap (t : Tap) (s : State) : State := { s with pkg := { s.pkg with pins := { s.pkg.pins with tap := t } } }
/-- EXTEST, HIGHZ and CLAMP take effect only while RESET_N is low and VIO, VHUB and VPHY are in range. -/
def testTap (t : Tap) (s : State) : State := setTap (if !s.pkg.pins.resetN && s.pkg.pins.rails then t else .bypass) s
/-- BYPASS, which test-logic reset selects too. -/
def execBypass (s : State) : Out := done s (setTap .bypass s)
/-- SAMPLE/PRELOAD. -/
def execSamplePreload (s : State) : Out := done s (capture (setTap .sample s))
/-- EXTEST. -/
def execExtest (s : State) : Out := done s (testTap .extest s)
/-- HIGHZ. -/
def execHighz (s : State) : Out := done s (testTap .highz s)
/-- CLAMP. -/
def execClamp (s : State) : Out := done s (testTap .clamp s)

end Sys2Proof.Machine
end

