-- ==== Sys2Proof/Machine/HubRegs.lean ====
section
/-! DEFINITION. The register blocks of the hub range, and the completion of far work (R82, R345, R459, R487, R488, R505, R513, R515). -/

namespace Sys2Proof.Machine

/-! ### Stack registers (R459) -/

/-- Whether a stack is reached through its bypass (R22). -/
def State.stackBypass (s : State) (n : Nat) : Bool :=
  s.pkg.linksDown.contains (.stack n) || !s.pkg.routers.getLsbD n
/-- STKSTAT. -/
def State.stkstat (s : State) (n : Nat) : Nat :=
  let k := s.stack n
  let temp := k.temps.toList.foldl max 0
  let rsmin := (k.spares.map fun p => spareRows - p.2).foldl min spareRows
  let behind := ((List.range 1536).filter fun b => k.behindAt s.time false b).length +
    ((List.range 64).filter fun b => k.behindAt s.time true b).length
  let calib := k.calib.any fun q => decide (s.time < q.2 + 2000)
  temp % 256 * 2 ^ 48 + rsmin * 2 ^ 40 + behind * 2 ^ 28 + k.hot.toNat * 2 ^ 16 + b2n calib * 8 + b2n k.copy.isSome * 4 +
    b2n (s.stackBypass n) * 2 + b2n k.insvc
/-- ERRREC. -/
def Stack.errWord (k : Stack) : Nat :=
  let (valid, sram, src, ofs) := k.errrec
  b2n valid * 2 ^ 63 + b2n sram * 2 ^ 51 + src.toNat * 2 ^ 48 + ofs.toNat
def countWord (v : BitVec 48) (ovf : Bool) : Nat := b2n ovf * 2 ^ 63 + v.toNat
def State.stackReg (s : State) (n ofs : Nat) : Nat :=
  let k := s.stack n
  if !k.insvc then 0
  else if ofs = 0 then s.stkstat n
  else if ofs = 8 then k.errWord
  else if ofs = 0x10 then countWord k.ce k.ceOvf
  else if ofs = 0x18 then countWord k.ue k.ueOvf
  else 0

/-! ### The power manager, BOOTSTAT, the log and telemetry (R487, R505, R513, R515, R516) -/

def State.pstatus (s : State) (h : Nat) : Nat :=
  let m := s.pkg.power
  let count (f : Core → Bool) : Nat := (allCores.filter fun c => (s.core c).inSvc && f (s.core c)).length
  let on (f : ThrottleWhy → Bool) : Bool := m.active.any f
  count Core.isLowered * 2 ^ 32 + count (fun k => k.pw.boostTill.isSome) * 2 ^ 24 + count (fun k => k.pw.pstate == 2) * 2 ^ 16 +
    b2n m.badlim * 128 + b2n (on railThrottle) * 8 +
    b2n (on fun w => match w with | .thermal _ => true | _ => false) * 4 + b2n (on (· == .power)) * 2 + b2n (s.pkg.lead == h)
def State.powerReg (s : State) (h ofs : Nat) : Nat :=
  let m := s.pkg.power
  if ofs = 0 then m.plimit
  else if ofs = 8 then m.pdraw
  else if ofs = 0x10 then s.pstatus h
  else if ofs = 0x18 then m.plent % 2 ^ 16
  else if ofs = 0x20 then m.noncore % 2 ^ 12
  else if ofs = 0x28 then countWord m.thr m.thrOvf
  else if 0x1000 ≤ ofs ∧ ofs < 0x1000 + 8 * 162 then s.mtabWord ((ofs - 0x1000) / 8)
  else 0
/-- BOOTSTAT of a hub (R505). -/
def State.bootstat (s : State) (h : Nat) : Nat :=
  let q := s.hub h
  min (s.time / 1000000) 0xFFFFFFFF * 2 ^ 32 + q.err * 2 ^ 24 + q.hint * 2 ^ 16 + b2n q.key.isSome * 2 ^ 9 + b2n q.slotB * 2 ^ 8 +
    b2n (q.insvc && s.pkg.lead == h) * 2 ^ 5 + b2n q.recov * 2 ^ 4 + q.step
def State.logReg (s : State) (ofs : Nat) : Nat :=
  let l := s.log
  if ofs = 0 then l.next
  else if ofs = 8 then l.next - l.ring.length
  else if ofs = 0x10 then l.lost
  else if ofs = 0x18 then countWord l.teldrop l.teldropOvf
  else if 0x20 ≤ ofs ∧ ofs < 0x10000 then (if ofs = Config.tperiodAt then l.tperiod else 0)
  else if 0x10000 ≤ ofs ∧ ofs < 0x810000 then
    let i := (ofs - 0x10000) / 64
    match l.ring.find? fun e => e.seq % 131072 == i with
    | some e => field (logBytes e) (ofs % 64) 8
    | none => 0
  else 0
/-- The telemetry ring, in the lead hub's SRAM. -/
def State.telReg (s : State) (h ofs : Nat) : Nat :=
  let l := s.log
  if s.pkg.lead ≠ h then 0
  else if ofs = 0 then l.telrd
  else if 256 ≤ ofs ∧ ofs < 0x1000000 then
    let i := (ofs - 256) / 256
    -- the newest record stands first: record number `telCount - 1`
    match (l.telRing.zipIdx.find? fun p => (l.telCount - 1 - p.2) % telCap == i) with
    | some (r, _) => field (Config.telemetryBytes ([r.time, r.core, r.steps] ++ r.evc ++ [r.pstat, r.temp, r.pdraw])) (ofs % 256) 8
    | none => 0
  else 0

/-- The doubleword of a hub's register range at an offset, a multiple of 8, from 0x4000_0000. -/
def State.hubReg (s : State) (h ofs : Nat) : Nat :=
  if ofs < 0x40080000 then s.stackReg ((ofs - 0x40000000) / 0x10000) (ofs % 0x10000)
  else if 0x50000000 ≤ ofs ∧ ofs < 0x60000000 then s.powerReg h (ofs - 0x50000000)
  else if ofs = 0x60000000 then s.bootstat h
  else if 0x70000000 ≤ ofs ∧ ofs < 0x71000000 then s.logReg (ofs - 0x70000000)
  else if 0x71000000 ≤ ofs then s.telReg h (ofs - 0x71000000)
  else 0
/-- A write of a doubleword of the register range: `v` with the bytes not written as they read, `w` with them 0 (R459, R487). -/
def State.setHubReg (s : State) (h ofs : Nat) (v w : Nat) : State :=
  let top := bitOf w 63
  if ofs < 0x40080000 then
    let n := (ofs - 0x40000000) / 0x10000
    let r := ofs % 0x10000
    if !(s.stack n).insvc || !top then s
    else if r = 8 then s.updStack n fun k => { k with errrec := (false, k.errrec.2) }
    else if r = 0x10 then s.updStack n fun k => { k with ceOvf := false }
    else if r = 0x18 then s.updStack n fun k => { k with ueOvf := false }
    else s
  else if ofs = 0x50000000 then setPlimit v s
  else if ofs = 0x50000010 then (if bitOf w 7 then s.withPower fun m => { m with badlim := false } else s)
  else if ofs = 0x50000028 then (if top then s.withPower fun m => { m with thrOvf := false } else s)
  else if ofs = 0x70000018 then (if top then { s with log := { s.log with teldropOvf := false } } else s)
  else if ofs = 0x71000000 then (if s.pkg.lead = h then { s with log := { s.log with telrd := v } } else s)
  else if 0x70000020 ≤ ofs ∧ ofs < 0x70010000 ∧ 100000 ≤ v ∧ v ≤ 1000000000 then
    (if ofs - 0x70000000 = Config.tperiodAt then { s with log := { s.log with tperiod := v } } else s)
  else s

/-- The doubleword that a hub's I3C target presents to the board management controller (R487, R505, R515): BOOTSTAT, the trouble log and the
power manager's block, at the same offsets, from reset release on, in every step and in recovery. -/
def State.i3cReg (s : State) (h ofs : Nat) : Option Nat :=
  if !s.pkg.pins.up then none
  else if ofs = 0x60000000 ∨ (0x50000000 ≤ ofs ∧ ofs < 0x60000000) ∨ (0x70000000 ≤ ofs ∧ ofs < 0x71000000) then some (s.hubReg h ofs)
  else none

/-- Offset in a hub's half where an address lies in its register range (R345, R459). -/
def hubRegAt (pa : Nat) : Option (Nat × Nat) :=
  match homeOf pa with
  | some (4, h) => if 0x40000000 ≤ pa % 0x80000000 then some (h, pa % 0x80000000) else none
  | _ => none
/-- Doublewords that a range touches: offset of each, first and last byte within it. -/
def dwords (ofs n : Nat) : List Nat := (List.range ((ofs % 8 + n + 7) / 8)).map fun i => ofs / 8 * 8 + 8 * i
def State.hubRead (s : State) (h ofs n : Nat) : List Byte :=
  (((dwords ofs n).flatMap fun o => leBytes 8 (s.hubReg h o)).drop (ofs % 8)).take n
def State.hubWrite (s : State) (h ofs : Nat) (bs : List Byte) : State :=
  (dwords ofs bs.length).foldl (fun s o =>
    let lo := max ofs o
    let part := (bs.drop (lo - ofs)).take (o + 8 - lo)
    let old := leBytes 8 (s.hubReg h o)
    s.setHubReg h o (leNat (splice old (lo - o) part)) (leNat (splice (List.replicate 8 0) (lo - o) part))) s

/-! ### Far work at its home and its completion (R73, R77, R82) -/

/-- Work of a core's own mover inside the step domain, operations that a home orders, and arrivals are not completed here. -/
def WorkKind.ordered : WorkKind → Bool
  | .semAdd _ _ _ => true
  | .semTake _ _ _ _ => true
  | .sig _ _ => true
  | .barArr _ => true
  | _ => false

/-- Work that no counter waits for: a take ends with its wait, an arrival with its release. -/
def WorkKind.uncounted : WorkKind → Bool
  | .semTake _ _ _ _ => true
  | .barArr _ => true
  | _ => false

/-- The home grants the copy of a line to WATCH_ARM (R379), the errors of its units as `errs` says. -/
def grantArm (w : Work) (m : BitVec 6) (errs : HomeErrs) (s : State) : State :=
  let pa := if isHub w.core then
      (if (homeOf w.addr.toNat).isNone then .error 0x50 else if s.homeUp w.addr.toNat then .ok w.addr.toNat else .error 0x53)
    else s.translate w.part w.priv true false w.addr.toNat
  match (pa : Except Byte Nat) with
  | .error e => (s.disarm w.core m.toNat).setWork (w.fail w.addr e)
  | .ok pa =>
    match meetUnits w.core w.pc 1 errs w.seen (unitsOf pa 8) s with
    | (s, some e) => (s.disarm w.core m.toNat).setWork (w.fail w.addr e)
    | (s, none) => (s.arm w.core m.toNat pa).setWork { w with stage := .applied (s.mem.bytes pa 8) }

/-- An access to the register range: at M only, which translation has seen to. -/
def regWork (w : Work) (h ofs : Nat) (s : State) : State :=
  match w.kind with
  | .fst => (w.puts.foldl (fun s p => s.hubWrite h (ofs + (p.1.toNat - w.addr.toNat)) p.2) s).setWork { w with stage := .applied [] }
  | .vfst => (w.puts.foldl (fun s p => s.hubWrite h (ofs + (p.1.toNat - w.addr.toNat)) p.2) s).setWork { w with stage := .applied [] }
  | .fld _ _ _ _ => s.setWork { w with stage := .applied (w.runs.flatMap fun r => s.hubRead h (ofs + (r.1.toNat - w.addr.toNat)) r.2) }
  | .vfld _ _ _ => s.setWork { w with stage := .applied (w.runs.flatMap fun r => s.hubRead h (ofs + (r.1.toNat - w.addr.toNat)) r.2) }
  | _ => applyWork w .none s

/-- Work on its way takes effect at its home, with the errors that it meets there. -/
def serveWork (w : Work) (errs : HomeErrs) (s : State) : State :=
  match w.kind with
  | .arm _ _ m => grantArm w m errs s
  | .query _ _ op => s.draw.setWork { w with stage := .applied (leBytes 8 (s.queryVal w op.toNat)) }
  | _ =>
    match s.firstPa w with
    | .ok pa => (match hubRegAt pa with
      | some (h, ofs) => regWork w h ofs s
      | none => applyWork w errs s)
    | .error _ => applyWork w errs s

/-- Whether far work may take effect now: on its way, the first on its lines and tiles, with a place in the mover, and granted at its
homes. -/
def State.mayServe (s : State) (w : Work) : Bool :=
  w.stage == .going && !w.kind.ordered && !w.isMover && !s.behind w && !s.noPlace w &&
    s.granted w.id (12 * w.time) ((s.workPas w).map (·.1))

/-- FAR_ACCESS_AT_SLICE (R73): work `id` reaches a slice or hub SRAM and is applied there. -/
def execFarAccessAtSlice (id : Nat) (errs : HomeErrs) (s : State) : Out :=
  match s.work id with
  | none => done s s
  | some w =>
    let here := match s.firstPa w with
      | .ok pa => (match homeOf pa with
        | some (0, _) => true
        | some (4, _) => true
        | _ => false)
      | .error _ => false
    if s.mayServe w && here then done s (settleWaits (List.range 160) (serveWork w errs) s) else done s s

/-- FAR_ACCESS_COMPLETE (R82): work `id` completes, or fails, and its counter falls. -/
def execFarAccessComplete (id : Nat) (errs : HomeErrs) (s : State) : Out :=
  match s.work id with
  | none => done s s
  | some w =>
    let serve (s : State) : State := if s.mayServe w then serveWork w errs s else s
    match (serve s).work id with
    | none => done s s
    | some w' =>
      if w'.open || w.isMover || w.kind.uncounted || s.unfinished w then done s s
      else
        done s (settleWaits (List.range 160) (fun s =>
          let s1 := serve s
          let waited := s1.stalledMover w.core
          settleTags w.core (admitMover w.core w waited (match s1.work id with | some w' => completeWork w' s1 | none => s1))) s)

end Sys2Proof.Machine
end

