-- ==== Sys2Proof/Machine/Integer.lean ====
section
/-! DEFINITION. Integer register and immediate instructions (R56, R57). -/

namespace Sys2Proof.Machine

/-- An R-format instruction with a plain result at distance `d`. -/
def aluR (c func d : Nat) (rd rs1 rs2 : Reg) (f : Word → Word → Word) (s : State) : Out :=
  issueP c (encR 1 func rd rs1 rs2) noFault
    (fun s => s.upd c fun k => k.landX d rd (f (k.rx rs1) (k.rx rs2))) s
/-- An R-format instruction whose signed result may overflow. -/
def aluOv (c func d : Nat) (rd rs1 rs2 : Reg) (f : Word → Word → Word) (ov : Word → Word → Bool) (s : State) : Out :=
  issueP c (encR 1 func rd rs1 rs2) noFault
    (fun s => s.upd c fun k => k.landOv d rd (f (k.rx rs1) (k.rx rs2)) (ov (k.rx rs1) (k.rx rs2))) s
/-- An I-format instruction with a plain result at distance 1. -/
def aluI (c op : Nat) (rd rs1 : Reg) (imm : BitVec 16) (bad : Bool) (f : Word → Word) (s : State) : Out :=
  issueP c (encI op rd rs1 imm) (fun _ => illegalIf (encI op rd rs1 imm) bad)
    (fun s => s.upd c fun k => k.landX 1 rd (f (k.rx rs1))) s
/-- The flag a trap at issue leaves (R124): the sticky flag is set in every case. -/
def divIssue (c func : Nat) (rd rs1 rs2 : Reg) (f : Word → Word → Word) (dz ov : Word → Word → Bool) (s : State) : Out :=
  let e := encR 1 func rd rs1 rs2
  issueI c e false noFault
    (fun s =>
      let k := s.core c
      let z := dz (k.rx rs1) (k.rx rs2)
      let o := ov (k.rx rs1) (k.rx rs2)
      match divTrap k z o with
      | some t => takeExceptionBy c t (fun s => s.upd c fun k => { k with ov := k.ov || o, dz := k.dz || z }) s
      | none => s.upd c fun k => (k.landDiv rd (f (k.rx rs1) (k.rx rs2)) z o).retire false) s

/-- −2^63 divided by −1 (R57). -/
def divOv (a b : Word) : Bool := a == 0x8000000000000000 && b == BitVec.allOnes 64
def byZero (_ b : Word) : Bool := b == 0
def noOv (_ _ : Word) : Bool := false
def boolWord (b : Bool) : Word := if b then 1 else 0
/-- Signed quotient rounded toward zero (R57). -/
def divS (a b : Word) : Word := if b = 0 then BitVec.allOnes 64 else wordOfInt (Int.tdiv a.toInt b.toInt)
def divU (a b : Word) : Word := if b = 0 then BitVec.allOnes 64 else a / b
/-- Remainder with the sign of the dividend (R57). -/
def remS (a b : Word) : Word := if b = 0 then a else wordOfInt (Int.tmod a.toInt b.toInt)
def remU (a b : Word) : Word := if b = 0 then a else a % b

/-- ADD (R56, R57). -/
def execAdd (c : Nat) (rd rs1 rs2 : Reg) (s : State) : Out := aluOv c 0 1 rd rs1 rs2 (· + ·) addOv s

/-- SUB (R56, R57). -/
def execSub (c : Nat) (rd rs1 rs2 : Reg) (s : State) : Out := aluOv c 1 1 rd rs1 rs2 (· - ·) subOv s

/-- AND (R56). -/
def execAnd (c : Nat) (rd rs1 rs2 : Reg) (s : State) : Out := aluR c 2 1 rd rs1 rs2 (· &&& ·) s

/-- OR (R56). -/
def execOr (c : Nat) (rd rs1 rs2 : Reg) (s : State) : Out := aluR c 3 1 rd rs1 rs2 (· ||| ·) s

/-- XOR (R56). -/
def execXor (c : Nat) (rd rs1 rs2 : Reg) (s : State) : Out := aluR c 4 1 rd rs1 rs2 (· ^^^ ·) s

/-- SLL (R56). -/
def execSll (c : Nat) (rd rs1 rs2 : Reg) (s : State) : Out := aluR c 5 1 rd rs1 rs2 (fun a b => a <<< (b.toNat % 64)) s

/-- SRL (R56). -/
def execSrl (c : Nat) (rd rs1 rs2 : Reg) (s : State) : Out := aluR c 6 1 rd rs1 rs2 (fun a b => a >>> (b.toNat % 64)) s

/-- SRA (R56). -/
def execSra (c : Nat) (rd rs1 rs2 : Reg) (s : State) : Out := aluR c 7 1 rd rs1 rs2 (fun a b => a.sshiftRight (b.toNat % 64)) s

/-- SLT (R56). -/
def execSlt (c : Nat) (rd rs1 rs2 : Reg) (s : State) : Out := aluR c 8 1 rd rs1 rs2 (fun a b => boolWord (a.slt b)) s

/-- SLTU (R56). -/
def execSltu (c : Nat) (rd rs1 rs2 : Reg) (s : State) : Out := aluR c 9 1 rd rs1 rs2 (fun a b => boolWord (a.ult b)) s

/-- MIN (R56). -/
def execMin (c : Nat) (rd rs1 rs2 : Reg) (s : State) : Out := aluR c 10 1 rd rs1 rs2 (fun a b => if a.slt b then a else b) s

/-- MAX (R56). -/
def execMax (c : Nat) (rd rs1 rs2 : Reg) (s : State) : Out := aluR c 11 1 rd rs1 rs2 (fun a b => if a.slt b then b else a) s

/-- MINU (R56). -/
def execMinu (c : Nat) (rd rs1 rs2 : Reg) (s : State) : Out := aluR c 12 1 rd rs1 rs2 (fun a b => if a.ult b then a else b) s

/-- MAXU (R56). -/
def execMaxu (c : Nat) (rd rs1 rs2 : Reg) (s : State) : Out := aluR c 13 1 rd rs1 rs2 (fun a b => if a.ult b then b else a) s

/-- MUL (R56, R57): distance 3. -/
def execMul (c : Nat) (rd rs1 rs2 : Reg) (s : State) : Out := aluOv c 0x10 3 rd rs1 rs2 (· * ·) mulOv s

/-- MULH (R56): distance 3. -/
def execMulh (c : Nat) (rd rs1 rs2 : Reg) (s : State) : Out := 
  aluR c 0x11 3 rd rs1 rs2 (fun a b => wordOfInt (a.toInt * b.toInt / 2 ^ 64)) s

/-- MULHU (R56): distance 3. -/
def execMulhu (c : Nat) (rd rs1 rs2 : Reg) (s : State) : Out := 
  aluR c 0x12 3 rd rs1 rs2 (fun a b => BitVec.ofNat 64 (a.toNat * b.toNat / 2 ^ 64)) s

/-- DIV (R57): distance 18. -/
def execDiv (c : Nat) (rd rs1 rs2 : Reg) (s : State) : Out := divIssue c 0x18 rd rs1 rs2 divS byZero divOv s

/-- DIVU (R57). -/
def execDivu (c : Nat) (rd rs1 rs2 : Reg) (s : State) : Out := divIssue c 0x19 rd rs1 rs2 divU byZero noOv s

/-- REM (R57). -/
def execRem (c : Nat) (rd rs1 rs2 : Reg) (s : State) : Out := divIssue c 0x1A rd rs1 rs2 remS byZero divOv s

/-- REMU (R57). -/
def execRemu (c : Nat) (rd rs1 rs2 : Reg) (s : State) : Out := divIssue c 0x1B rd rs1 rs2 remU byZero noOv s

/-- ADDI (R56, R57). -/
def execAddi (c : Nat) (rd rs1 : Reg) (imm : BitVec 16) (s : State) : Out :=
  issueP c (encI 2 rd rs1 imm) noFault
    (fun s => s.upd c fun k => k.landOv 1 rd (k.rx rs1 + sextImm imm) (addOv (k.rx rs1) (sextImm imm))) s

/-- ANDI (R56). -/
def execAndi (c : Nat) (rd rs1 : Reg) (imm : BitVec 16) (s : State) : Out :=
  aluI c 3 rd rs1 imm false (· &&& zextImm imm) s

/-- ORI (R56). -/
def execOri (c : Nat) (rd rs1 : Reg) (imm : BitVec 16) (s : State) : Out :=
  aluI c 4 rd rs1 imm false (· ||| zextImm imm) s

/-- XORI (R56). -/
def execXori (c : Nat) (rd rs1 : Reg) (imm : BitVec 16) (s : State) : Out :=
  aluI c 5 rd rs1 imm false (· ^^^ zextImm imm) s

/-- SLTI (R56). -/
def execSlti (c : Nat) (rd rs1 : Reg) (imm : BitVec 16) (s : State) : Out :=
  aluI c 6 rd rs1 imm false (fun a => boolWord (a.slt (sextImm imm))) s

/-- The shift that imm16[7:6] selects (R56). -/
def shiftImm (imm : BitVec 16) (a : Word) : Word :=
  let n := imm.toNat % 64
  match bits imm.toNat 7 6 with
  | 0 => a <<< n
  | 1 => a >>> n
  | _ => a.sshiftRight n
/-- SHI (R56). -/
def execShi (c : Nat) (rd rs1 : Reg) (imm : BitVec 16) (s : State) : Out :=
  aluI c 7 rd rs1 imm (bits imm.toNat 7 6 == 3 || bits imm.toNat 15 8 != 0) (shiftImm imm) s

/-- LUI (R56): rs1 must be x0. -/
def execLui (c : Nat) (rd rs1 : Reg) (imm : BitVec 16) (s : State) : Out :=
  aluI c 8 rd rs1 imm (rs1 != 0) (fun _ => sextImm imm <<< 16) s

/-- ORI.16 (R56). -/
def execOri16 (c : Nat) (rd rs1 : Reg) (imm : BitVec 16) (s : State) : Out :=
  aluI c 9 rd rs1 imm false (· ||| zextImm imm <<< 16) s

/-- ORI.32 (R56). -/
def execOri32 (c : Nat) (rd rs1 : Reg) (imm : BitVec 16) (s : State) : Out :=
  aluI c 10 rd rs1 imm false (· ||| zextImm imm <<< 32) s

/-- ORI.48 (R56). -/
def execOri48 (c : Nat) (rd rs1 : Reg) (imm : BitVec 16) (s : State) : Out :=
  aluI c 11 rd rs1 imm false (· ||| zextImm imm <<< 48) s

end Sys2Proof.Machine
end

