-- ==== Sys2Proof/Machine/Local.lean ====
section
/-! DEFINITION. Local loads and stores and their Carousel forms (R71 to R74, R84 to R86). -/

namespace Sys2Proof.Machine

/-- Effective address of the I and S formats (R71). -/
def effAddr (k : Core) (rs1 : Reg) (imm : BitVec 16) : Word := k.rx rs1 + sextImm imm
/-- A local load of `n` bytes into x[rd]. -/
def loadX (c op n : Nat) (sx : Bool) (rd rs1 : Reg) (imm : BitVec 16) (s : State) : Out :=
  issueP c (encI op rd rs1 imm)
    (fun s => localFault (s.core c) (effAddr (s.core c) rs1 imm) n n 0)
    (fun s =>
      let b := (s.core c).bank
      localLoad c (effAddr (s.core c) rs1 imm) n (fun v => .x b rd (extend n sx v)) s) s
/-- A local load of `n` bytes into f[rd], zero above them (R50). -/
def loadF (c op n : Nat) (rd rs1 : Reg) (imm : BitVec 16) (s : State) : Out :=
  issueP c (encI op rd rs1 imm)
    (fun s => localFault (s.core c) (effAddr (s.core c) rs1 imm) n n 0)
    (fun s => localLoad c (effAddr (s.core c) rs1 imm) n (fun v => .f rd (BitVec.ofNat 64 v)) s) s
/-- A local store of the low `n` bytes of a register value. -/
def storeI (c op n : Nat) (rs2 rs1 : Reg) (imm : BitVec 16) (val : Core → Word) (s : State) : Out :=
  issueP c (encI op rs2 rs1 imm)
    (fun s => localFault (s.core c) (effAddr (s.core c) rs1 imm) n n 0)
    (fun s => localStore c (effAddr (s.core c) rs1 imm) n (val (s.core c)).toNat s) s

/-- LB (R71): distance 6. -/
def execLb (c : Nat) (rd rs1 : Reg) (imm : BitVec 16) (s : State) : Out := loadX c 0x10 1 true rd rs1 imm s

/-- LBU (R71): distance 6. -/
def execLbu (c : Nat) (rd rs1 : Reg) (imm : BitVec 16) (s : State) : Out := loadX c 0x11 1 false rd rs1 imm s

/-- LH (R71): distance 6. -/
def execLh (c : Nat) (rd rs1 : Reg) (imm : BitVec 16) (s : State) : Out := loadX c 0x12 2 true rd rs1 imm s

/-- LHU (R71): distance 6. -/
def execLhu (c : Nat) (rd rs1 : Reg) (imm : BitVec 16) (s : State) : Out := loadX c 0x13 2 false rd rs1 imm s

/-- LW (R71): distance 6. -/
def execLw (c : Nat) (rd rs1 : Reg) (imm : BitVec 16) (s : State) : Out := loadX c 0x14 4 true rd rs1 imm s

/-- LWU (R71): distance 6. -/
def execLwu (c : Nat) (rd rs1 : Reg) (imm : BitVec 16) (s : State) : Out := loadX c 0x15 4 false rd rs1 imm s

/-- LD (R71): distance 6. -/
def execLd (c : Nat) (rd rs1 : Reg) (imm : BitVec 16) (s : State) : Out := loadX c 0x16 8 false rd rs1 imm s

/-- LDF (R71, R50): distance 6. -/
def execLdf (c : Nat) (rd rs1 : Reg) (imm : BitVec 16) (s : State) : Out := loadF c 0x17 8 rd rs1 imm s

/-- LWF (R71, R50): distance 6. -/
def execLwf (c : Nat) (rd rs1 : Reg) (imm : BitVec 16) (s : State) : Out := loadF c 0x1E 4 rd rs1 imm s

/-- SB (R71, R72). -/
def execSb (c : Nat) (rs2 rs1 : Reg) (imm : BitVec 16) (s : State) : Out :=
  storeI c 0x18 1 rs2 rs1 imm (fun k => k.rx rs2) s

/-- SH (R71, R72). -/
def execSh (c : Nat) (rs2 rs1 : Reg) (imm : BitVec 16) (s : State) : Out :=
  storeI c 0x19 2 rs2 rs1 imm (fun k => k.rx rs2) s

/-- SW (R71, R72). -/
def execSw (c : Nat) (rs2 rs1 : Reg) (imm : BitVec 16) (s : State) : Out :=
  storeI c 0x1A 4 rs2 rs1 imm (fun k => k.rx rs2) s

/-- SD (R71, R72). -/
def execSd (c : Nat) (rs2 rs1 : Reg) (imm : BitVec 16) (s : State) : Out :=
  storeI c 0x1B 8 rs2 rs1 imm (fun k => k.rx rs2) s

/-- STF (R71, R72). -/
def execStf (c : Nat) (rs2 rs1 : Reg) (imm : BitVec 16) (s : State) : Out :=
  storeI c 0x1C 8 rs2 rs1 imm (fun k => k.rf rs2) s

/-- SWF (R71, R72). -/
def execSwf (c : Nat) (rs2 rs1 : Reg) (imm : BitVec 16) (s : State) : Out :=
  storeI c 0x1F 4 rs2 rs1 imm (fun k => k.rf rs2) s

/-- The checks of LD.C and ST.C in their order (R85). -/
def carFault (k : Core) (e : Enc) (set : BitVec 3) (size n : Nat) (xi : Reg) (bad : Bool) : Option Trap :=
  if bad then some (illegal e 0)
  else if !k.carOk set n then some (carCfg set.toNat)
  else
    match localFault k (k.carAddr set size (k.rx xi)) n n 0 with
    | some t => some t
    | none =>
      if 2 ^ 64 ≤ k.carSum set size (k.rx xi) then some (busError (k.carAddr set size (k.rx xi)) k.flow.pc 0 0) else none
/-- The index register moves on at distance 1 (R85). -/
def Core.carStep (k : Core) (set : BitVec 3) (xi : Reg) (n : Nat) : Core :=
  k.landX 1 xi (BitVec.ofNat 64 (k.carIdx set (k.rx xi) n))

/-- LD.C (R85): a size code of 4 to 7, or rd equal to xi, is illegal. -/
def execLdC (c : Nat) (rd xi : Reg) (set : BitVec 3) (size : BitVec 3) (sx : Bool) (s : State) : Out :=
  let n := 2 ^ size.toNat
  let e := encC rd xi set size 0 sx
  issueP c e (fun s => carFault (s.core c) e set n n xi (decide (3 < size.toNat) || rd == xi))
    (fun s =>
      let k := s.core c
      let b := k.bank
      (localLoad c (k.carAddr set n (k.rx xi)) n (fun v => .x b rd (extend n sx v)) s).upd c
        fun k => k.carStep set xi 1) s

/-- ST.C (R85): sx has no effect on a store (R52). -/
def execStC (c : Nat) (rs2 xi : Reg) (set : BitVec 3) (size : BitVec 3) (sx : Bool) (s : State) : Out :=
  let n := 2 ^ size.toNat
  let e := encC rs2 xi set size 1 sx
  issueP c e (fun s => carFault (s.core c) e set n n xi (decide (3 < size.toNat)))
    (fun s =>
      let k := s.core c
      (localStore c (k.carAddr set n (k.rx xi)) n (k.rx rs2).toNat s).upd c fun k => k.carStep set xi 1) s

end Sys2Proof.Machine
end

