-- ==== Sys2Proof/Machine/ScalarFp.lean ====
section
/-! DEFINITION. Scalar floating point: FP32 in f registers (R59, R60, R138 to R141). -/

namespace Sys2Proof.Machine

/-- FP32 operand in bits 31:0 of f[r] (R50). -/
def Core.f32of (k : Core) (r : Reg) : BitVec 32 := (k.rf r).setWidth 32
/-- An operation on two f registers at distance `d`. -/
def fpR (c func d : Nat) (rd rs1 rs2 : Reg) (f : BitVec 32 → BitVec 32 → BitVec 32 × FF) (s : State) : Out :=
  issueP c (encR 0x2C func rd rs1 rs2) noFault
    (fun s => s.upd c fun k => k.landF d rd (f (k.f32of rs1) (k.f32of rs2))) s
/-- A compare into x[rd] at distance 2. -/
def fpCmp (c func op : Nat) (rd rs1 rs2 : Reg) (s : State) : Out :=
  issueP c (encR 0x2C func rd rs1 rs2) noFault
    (fun s => s.upd c fun k =>
      let r := FV.rel op (f32 (k.f32of rs1)) (f32 (k.f32of rs2))
      k.landXF 2 rd (if r.1 then 1 else 0) r.2) s
/-- An operation on one f register at distance `d`. -/
def fpU (c func d : Nat) (rd rs1 : Reg) (f : BitVec 32 → BitVec 32 × FF) (s : State) : Out :=
  issueP c (encR 0x2C func rd rs1 0) noFault
    (fun s => s.upd c fun k => k.landF d rd (f (k.f32of rs1))) s
/-- A fused form at distance 4: `a * b + c` on possibly negated operands, one rounding (R59). -/
def fpFma (c func : Nat) (negProd negAdd : Bool) (fd fs1 fs2 fs3 : Reg) (s : State) : Out :=
  issueP c (encR4 func fd fs1 fs2 fs3) noFault
    (fun s => s.upd c fun k =>
      let a := f32 (k.f32of fs1)
      let z := f32 (k.f32of fs3)
      k.landF 4 fd (roundOp ((if negProd then a.neg else a).fma (f32 (k.f32of fs2)) (if negAdd then z.neg else z)))) s

/-- FADD (R59). -/
def execFadd (c : Nat) (rd rs1 rs2 : Reg) (s : State) : Out := fpR c 0 4 rd rs1 rs2 faddB s

/-- FSUB (R59). -/
def execFsub (c : Nat) (rd rs1 rs2 : Reg) (s : State) : Out := fpR c 1 4 rd rs1 rs2 fsubB s

/-- FMUL (R59). -/
def execFmul (c : Nat) (rd rs1 rs2 : Reg) (s : State) : Out := fpR c 2 4 rd rs1 rs2 fmulB s

/-- FDIV (R59). -/
def execFdiv (c : Nat) (rd rs1 rs2 : Reg) (s : State) : Out := fpR c 3 14 rd rs1 rs2 fdivB s

/-- FSQRT (R59). -/
def execFsqrt (c : Nat) (rd rs1 : Reg) (s : State) : Out := fpU c 4 14 rd rs1 fsqrtB s

/-- FMIN (R59). -/
def execFmin (c : Nat) (rd rs1 rs2 : Reg) (s : State) : Out := 
  fpR c 5 2 rd rs1 rs2 (fun a b => roundOp (FV.minmax false (f32 a) (f32 b))) s

/-- FMAX (R59). -/
def execFmax (c : Nat) (rd rs1 rs2 : Reg) (s : State) : Out := 
  fpR c 6 2 rd rs1 rs2 (fun a b => roundOp (FV.minmax true (f32 a) (f32 b))) s

/-- FABS (R59). -/
def execFabs (c : Nat) (rd rs1 : Reg) (s : State) : Out := fpU c 7 2 rd rs1 (fun a => (a &&& 0x7FFFFFFF, 0)) s

/-- FNEG (R59). -/
def execFneg (c : Nat) (rd rs1 : Reg) (s : State) : Out := fpU c 8 2 rd rs1 (fun a => (a ^^^ 0x80000000, 0)) s

/-- FEQ (R59). -/
def execFeq (c : Nat) (rd rs1 rs2 : Reg) (s : State) : Out := fpCmp c 0x10 0 rd rs1 rs2 s

/-- FLT (R59). -/
def execFlt (c : Nat) (rd rs1 rs2 : Reg) (s : State) : Out := fpCmp c 0x11 1 rd rs1 rs2 s

/-- FLE (R59). -/
def execFle (c : Nat) (rd rs1 rs2 : Reg) (s : State) : Out := fpCmp c 0x12 2 rd rs1 rs2 s

/-- FCVT.S.L (R59): f[rd] := signed x[rs1] rounded to FP32. -/
def execFcvtSL (c : Nat) (rd rs1 : Reg) (s : State) : Out :=
  issueP c (encR 0x2C 0x18 rd rs1 0) noFault
    (fun s => s.upd c fun k => k.landF 4 rd (toF32 (.ofInt (k.rx rs1).toInt))) s

/-- FCVT.L.S (R59, R137): x[rd] := f[rs1] to nearest even, saturated to signed 64 bits. -/
def execFcvtLS (c : Nat) (rd rs1 : Reg) (s : State) : Out :=
  issueP c (encR 0x2C 0x19 rd rs1 0) noFault
    (fun s => s.upd c fun k =>
      let r := (f32 (k.f32of rs1)).toInt .rne 64
      k.landXF 4 rd (wordOfInt r.1) r.2) s

/-- FMV.X.F (R59): the raw 64 bits of f[rs1]. -/
def execFmvXF (c : Nat) (rd rs1 : Reg) (s : State) : Out :=
  issueP c (encR 0x2C 0x1C rd rs1 0) noFault (fun s => s.upd c fun k => k.landX 1 rd (k.rf rs1)) s

/-- FMV.F.X (R59): the raw 64 bits of x[rs1]. -/
def execFmvFX (c : Nat) (rd rs1 : Reg) (s : State) : Out :=
  issueP c (encR 0x2C 0x1D rd rs1 0) noFault (fun s => s.upd c fun k => k.land 1 (.f rd (k.rx rs1))) s

/-- FMA (R59): fs1 × fs2 + fs3. -/
def execFma (c : Nat) (fd fs1 fs2 fs3 : Reg) (s : State) : Out := fpFma c 0 false false fd fs1 fs2 fs3 s

/-- FMS (R59): fs1 × fs2 − fs3. -/
def execFms (c : Nat) (fd fs1 fs2 fs3 : Reg) (s : State) : Out := fpFma c 1 false true fd fs1 fs2 fs3 s

/-- FNMA (R59): −(fs1 × fs2) + fs3. -/
def execFnma (c : Nat) (fd fs1 fs2 fs3 : Reg) (s : State) : Out := fpFma c 2 true false fd fs1 fs2 fs3 s

/-- FNMS (R59): −(fs1 × fs2) − fs3. -/
def execFnms (c : Nat) (fd fs1 fs2 fs3 : Reg) (s : State) : Out := fpFma c 3 true true fd fs1 fs2 fs3 s

end Sys2Proof.Machine
end

