-- ==== Sys2Proof/Machine/System.lean ====
section
/-! DEFINITION. The repeat prefix and writes of system registers (R87 to R91, R101, R108, R123, R334, R507). -/

namespace Sys2Proof.Machine

/-- The count of a repeat prefix (R87). -/
def repCount (k : Core) (rs : Reg) (imm : BitVec 16) : Nat := if rs = 0 then imm.toNat else (k.rx rs).toNat
/-- REP and REP.U (R87, R88, R90): the following instruction is repeated, or skipped with a count of 0. -/
def repI (c : Nat) (u : Bool) (rs : Reg) (imm : BitVec 16) (nx : RepNext) (s : State) : Out :=
  let e := encP rs u imm
  issueI c e true
    (fun s =>
      let k := s.core c
      let n := repCount k rs imm
      illegalIf e (decide (65535 < n) || !repAllowed nx || (u && k.level == .t && decide (2048 < n))))
    (fun s => s.upd c fun k =>
      let n := repCount k rs imm
      let f := { k.flow with hold := false, jump := none, barw := false }
      let f' := if n = 0 then { f with pc := f.pc + (if repWide nx then 12 else 8), rep := none, repc := 0 }
        else { f with pc := f.pc + 4, rep := some ⟨n, u, f.pc, repWide nx, nx⟩, repc := BitVec.ofNat 16 n }
      ({ k with flow := f' }).beat) s

/-- REP (R87). -/
def execRep (c : Nat) (rs : Reg) (imm : BitVec 16) (nx : RepNext) (s : State) : Out := repI c false rs imm nx s
/-- REP.U (R90). -/
def execRepU (c : Nat) (rs : Reg) (imm : BitVec 16) (nx : RepNext) (s : State) : Out := repI c true rs imm nx s

def csrOpCode : CsrOp → Nat
  | .write => 1
  | .set => 2
  | .clear => 3

/-- A write of DTW refused at S (R101). -/
def dtwRefused (s : State) (c : Nat) (op : CsrOp) (v : Word) : Bool :=
  let k := s.core c
  let w := rwField op 0 v
  let flags := (vget k.tr.dtd 2 0).toNat
  k.level == .s && wbit w 0 &&
    (!bitOf (s.descWord c k.tr.dtidx.toNat 2) 11 || !bitOf flags 11 || bits flags 5 4 != 1)

/-- CSRW, CSRS and CSRC (R91, R64): the write takes effect at distance 3; one to a register that is read-only at
the level is ignored; DTW captures DTIDX and DTD0 to DTD3 at issue (R101). -/
def csrWriteI (c : Nat) (op : CsrOp) (num : Nat) (rs1 : Reg) (s : State) : Out :=
  let e := encY 0 rs1 (csrOpCode op) (BitVec.ofNat 12 num)
  issueP c e
    (fun s =>
      let k := s.core c
      if !csrLegal k num k.level then some (illegal e 0)
      else if num = 0x10D && dtwRefused s c op (k.rx rs1) then
        some { cause := 1, index := k.tr.dtidx.setWidth 16, edata0 := 0x10D }
      else none)
    (fun s => s.upd c fun k =>
      let v := k.rx rs1
      if num = 0x10D then
        let w := rwField op 0 v
        k.land 3 (.dtw (wbit w 0) (wbit w 1) k.level k.tr.dtidx k.tr.dtd)
      else if csrAcc num k.level == Acc.ro then k
      else k.land 3 (.csr k.level op (csrExplicit num k.level k.bank) v)) s

/-- CSRR (R91): the register as it stands at issue, at distance 1. -/
def csrReadI (c : Nat) (num : BitVec 12) (rd rs1 : Reg) (s : State) : Out :=
  let e := encY rd rs1 0 num
  issueP c e (fun s => illegalIf e (csrRead s c num).isNone)
    (fun s => match csrRead s c num with
      | some v => s.upd c fun k => k.landX 1 rd v
      | none => s) s
/-- The Y format (R52, R91) of a register without behaviour of its own: op 1 to 3 are CSRW, CSRS and CSRC, for which rd must be x0;
op 0 is CSRR, which has no row of its own in the table; any other op is illegal. -/
def execCsrWrite (c : Nat) (op : BitVec 4) (num : BitVec 12) (rs : CsrRegs) (s : State) : Out :=
  let e := encY rs.rd rs.rs1 op.toNat num
  let bad := issueP c e (fun _ => some (illegal e 0)) id s
  match op.toNat with
  | 0 => csrReadI c num rs.rd rs.rs1 s
  | 1 => if rs.rd = 0 then csrWriteI c .write num.toNat rs.rs1 s else bad
  | 2 => if rs.rd = 0 then csrWriteI c .set num.toNat rs.rs1 s else bad
  | 3 => if rs.rd = 0 then csrWriteI c .clear num.toNat rs.rs1 s else bad
  | _ => bad
/-- DTW_STORE (R101). -/
def execDtwStore (c : Nat) (op : CsrOp) (rs1 : Reg) (s : State) : Out := csrWriteI c op 0x10D rs1 s
/-- DTW_LOAD (R101). -/
def execDtwLoad (c : Nat) (op : CsrOp) (rs1 : Reg) (s : State) : Out := csrWriteI c op 0x10D rs1 s
/-- STATUS_BANK_DISCARD (R108). -/
def execStatusBankDiscard (c : Nat) (op : CsrOp) (rs1 : Reg) (s : State) : Out := csrWriteI c op 0x100 rs1 s
/-- MCTL_WRITE (R123). -/
def execMctlWrite (c : Nat) (op : CsrOp) (rs1 : Reg) (s : State) : Out := csrWriteI c op 0x103 rs1 s
/-- BARMASK_WRITE (R334). -/
def execBarmaskWrite (c : Nat) (op : CsrOp) (rs1 : Reg) (s : State) : Out := csrWriteI c op 0x420 rs1 s
/-- TCMP_WRITE (R507). -/
def execTcmpWrite (c : Nat) (op : CsrOp) (rs1 : Reg) (s : State) : Out := csrWriteI c op 0x201 rs1 s

end Sys2Proof.Machine
end

