-- ==== Sys2Proof/Machine/Traps.lean ====
section
/-! DEFINITION. Delivery of causes as events, gates and the return from an exception (R102 to R124). -/

namespace Sys2Proof.Machine

/-- A word fetched with a correctable error is corrected and logged, and raises nothing (R531). -/
def fetchFixed (c : Nat) (wide : Bool) (e0 e1 : WordErr) (s : State) : State :=
  let fix (a : Nat) (err : WordErr) (s : State) : State :=
    match err, s.translate (s.spaceOf c) (s.core c).level true false a with
    | .fixed sym, .ok pa => noteCE c pa sym s
    | _, _ => s
  let pc := (s.core c).flow.pc.toNat
  let s := fix pc e0 s
  if wide then fix (pc + 4) e1 s else s

/-- EXCEPTION_ENTRY (R103): a synchronous cause that no other row raises is taken where the core would issue; a
delayed fault that is due comes first (R106). -/
def execExceptionEntry (c : Nat) (ev : SyncEvent) (s : State) : Out :=
  if 160 ≤ c then .refused .noSuchUnit
  else if !(s.core c).canIssue then done s s
  else
    let s1 := arrive c s
    let k := s1.core c
    if k.delayedDue then done s (takeException c {cause := 3} s1)
    else
      match ev with
      | .delayed => done s s
      | .illegal w0 w1 =>
        let e : Enc := ⟨w0, w1⟩
        if !e.formed || e.assigned then done s s else issueI c e false (fun _ => some (illegal e 0)) id s
      | .fetchMisaligned =>
        if k.flow.pc.toNat % 4 ≠ 0 then done s (takeException c (fetchTrap k) s1) else done s s
      | .fetch wide e0 e1 =>
        if k.flow.pc.toNat % 4 ≠ 0 then done s (takeException c (fetchTrap k) s1)
        else
          match fetchFault s1 c wide e0 e1 with
          | some f => done s (takeFetch c f s1)
          | none => done s (fetchFixed c wide e0 e1 s1)

/-! ### Gates (R117 to R119) -/

/-- The checks of GATE `n` in their order; the argument registers are read after pending writes have landed. -/
def gateFault (s : State) (c n : Nat) : Option Trap :=
  let k := s.core c
  let d := s.desc c n
  let x (i : Nat) : Word := k.rx (BitVec.ofNat 5 (10 + i))
  let args := List.range d.argc
  if !d.valid n then some { cause := 0x0A }
  else if k.level.num < d.minpriv then some { cause := 0x0A, reason := 1 }
  else if d.tpriv < k.level.num then some { cause := 0x0A, reason := 2 }
  else
    match args.find? fun i => bits (d.arg i) 5 0 != 0 && decide (2 ^ bits (d.arg i) 5 0 ≤ (x i).toNat) with
    | some i => some { cause := 0x0B, reason := 1, index := BitVec.ofNat 16 i, edata0 := x i }
    | none =>
      match args.find? fun i => bitOf (d.arg i) 7 &&
          !s.mapped (s.spaceOf c) k.level (bitOf (d.arg i) 6) (x i).toNat (x (i + 1)).toNat with
      | some i => some { cause := 0x0B, reason := 2, index := BitVec.ofNat 16 i, edata0 := x i, edata1 := x (i + 1) }
      | none => none

/-- GATE_ARG and GATE_DENY carry the gate: EPC is the GATE itself. A delayed fault that the landing of pending
writes produces is delivered in place of the gate (R106). -/
def execGate (c : Nat) (n : BitVec 8) (s : State) : Out :=
  let e := encGate 0 n.toNat
  issueI c e true (fun _ => illegalIf e (decide (n.toNat < 0x80)))
    (fun s =>
      let k := s.core c
      let h := max (k.tm.step + 8) (k.lastLand + 1)
      let s1 := landEntry c s
      match (s1.core c).tm.delayed with
      | d :: _ => enterSync c d.trap h (s1.upd c fun k => { k with tm := { k.tm with delayed := [] } })
      | [] =>
        match gateFault s1 c n.toNat with
        | some t => enterSync c t h s1
        | none => enterSync c { cause := BitVec.ofNat 8 n.toNat, epc := some (k.flow.pc + 4) } h
            (landEntry c (s.upd c Core.beat))) s

/-! ### ERET (R120 to R122) -/

/-- Refusals of ERET with their reasons, pending writes landed (R120). -/
def eretRefused (k : Core) : Option Byte :=
  let b := k.bank
  let e := (k.tr.save b).estat
  if e.ppriv = 3 ∨ e.ceil.toNat < e.ppriv.toNat then some 1
  else if k.tr.maint && e.ppriv != 2 then some 2
  else if e.pbank.toNat = b.num ∨ e.pbank = 3 ∨ (e.pbank ≠ 0 ∧ !k.tr.status.busy (Bank.dec e.pbank.toNat)) then some 3
  else if e.ds = 3 ∨ (e.ds ≠ 0 ∧ e.repip) then some 4
  else none

/-- The flow that an entry's save registers resume (R113, R114, R333). -/
def resumeFlow (f : Flow) (sv : SaveSet) (nx : RetNext) : Flow :=
  let e := sv.estat
  let n := sv.erepc.toNat
  if e.repip then
    if n = 0 then ⟨sv.epc + (if repWide nx.next then 12 else 8), 0, 0, none, true, none, 0, false⟩
    else ⟨sv.epc + 4, 0, 0, none, true, some ⟨n, e.repu, sv.epc, repWide nx.next, nx.next⟩, BitVec.ofNat 16 n, false⟩
  else if e.ds = 0 then ⟨sv.epc, 0, 0, none, true, none, f.repc, e.barw⟩
  else
    let back : Nat := if e.ds = 1 then 4 else if nx.firstWide then 12 else 8
    ⟨sv.epc, 3 - e.ds.toNat, sv.ebtgt, some (sv.epc - BitVec.ofNat 64 back), true, none, f.repc, e.barw⟩

/-- The return itself, from bank `b` (R120). -/
def returnFrom (k : Core) (nx : RetNext) : Core :=
  let b := k.bank
  let sv := k.tr.save b
  let e := sv.estat
  let pb := Bank.dec e.pbank.toNat
  let x := if e.gate then (k.x.set pb 10 (k.x.get b 10)).set pb 11 (k.x.get b 11) else k.x
  { k with
    x := x
    tr := { k.tr with status := { (k.tr.status.setBusy b false) with
      priv := Priv.dec e.ppriv.toNat, bank := pb, ie := e.pie } }
    flow := resumeFlow k.flow sv nx }

/-- ERET (R120, R121): the resumed instruction issues at `s + 4`, or at `L + 1` if later. An ERET with a
register outside a shadow bank, or at T, is illegal; a delayed fault that the landing produces comes first. On a supervisor
core, which R96 runs only at M, no check of R120 refuses a return below M: it is made as on any core (log entry 32). -/
def execEret (c : Nat) (nx : RetNext) (s : State) : Out :=
  let e := encGate 1 0
  issueI c e true noFault
    (fun s =>
      let t := (s.core c).tm.step
      let l := (s.core c).lastLand
      let s1 := landEntry c s
      let k := s1.core c
      match k.tm.delayed with
      | d :: _ => enterSync c d.trap (max (t + 8) (l + 1)) (s1.upd c fun k => { k with tm := { k.tm with delayed := [] } })
      | [] =>
        if k.level == .t || k.bank == .main then enterSync c (illegal e 0) (max (t + 8) (l + 1)) s1
        else
          match eretRefused k with
          | some r => enterSync c { cause := 0x09, reason := r } (max (t + 8) (l + 1)) s1
          | none => (landEntry c (s.upd c Core.beat)).upd c fun k => (returnFrom k nx).idleTo (max (t + 4) (l + 1))) s

end Sys2Proof.Machine
end

