-- ==== Sys2Proof/Machine/Dispatch.lean ====
section
/-! DEFINITION. The meaning of each command: one arm for each row of the table. -/

namespace Sys2Proof.Machine

def exec (i : Instr) (s : State) : Host.Outcome State Fault Refusal :=
  match i with
  | .add c rd rs1 rs2 => Sys2Proof.Machine.execAdd c rd rs1 rs2 s
  | .sub c rd rs1 rs2 => Sys2Proof.Machine.execSub c rd rs1 rs2 s
  | .and c rd rs1 rs2 => Sys2Proof.Machine.execAnd c rd rs1 rs2 s
  | .or c rd rs1 rs2 => Sys2Proof.Machine.execOr c rd rs1 rs2 s
  | .xor c rd rs1 rs2 => Sys2Proof.Machine.execXor c rd rs1 rs2 s
  | .sll c rd rs1 rs2 => Sys2Proof.Machine.execSll c rd rs1 rs2 s
  | .srl c rd rs1 rs2 => Sys2Proof.Machine.execSrl c rd rs1 rs2 s
  | .sra c rd rs1 rs2 => Sys2Proof.Machine.execSra c rd rs1 rs2 s
  | .slt c rd rs1 rs2 => Sys2Proof.Machine.execSlt c rd rs1 rs2 s
  | .sltu c rd rs1 rs2 => Sys2Proof.Machine.execSltu c rd rs1 rs2 s
  | .min c rd rs1 rs2 => Sys2Proof.Machine.execMin c rd rs1 rs2 s
  | .max c rd rs1 rs2 => Sys2Proof.Machine.execMax c rd rs1 rs2 s
  | .minu c rd rs1 rs2 => Sys2Proof.Machine.execMinu c rd rs1 rs2 s
  | .maxu c rd rs1 rs2 => Sys2Proof.Machine.execMaxu c rd rs1 rs2 s
  | .mul c rd rs1 rs2 => Sys2Proof.Machine.execMul c rd rs1 rs2 s
  | .mulh c rd rs1 rs2 => Sys2Proof.Machine.execMulh c rd rs1 rs2 s
  | .mulhu c rd rs1 rs2 => Sys2Proof.Machine.execMulhu c rd rs1 rs2 s
  | .div c rd rs1 rs2 => Sys2Proof.Machine.execDiv c rd rs1 rs2 s
  | .divu c rd rs1 rs2 => Sys2Proof.Machine.execDivu c rd rs1 rs2 s
  | .rem c rd rs1 rs2 => Sys2Proof.Machine.execRem c rd rs1 rs2 s
  | .remu c rd rs1 rs2 => Sys2Proof.Machine.execRemu c rd rs1 rs2 s
  | .addi c rd rs1 imm => Sys2Proof.Machine.execAddi c rd rs1 imm s
  | .andi c rd rs1 imm => Sys2Proof.Machine.execAndi c rd rs1 imm s
  | .ori c rd rs1 imm => Sys2Proof.Machine.execOri c rd rs1 imm s
  | .xori c rd rs1 imm => Sys2Proof.Machine.execXori c rd rs1 imm s
  | .slti c rd rs1 imm => Sys2Proof.Machine.execSlti c rd rs1 imm s
  | .shi c rd rs1 imm => Sys2Proof.Machine.execShi c rd rs1 imm s
  | .lui c rd rs1 imm => Sys2Proof.Machine.execLui c rd rs1 imm s
  | .ori16 c rd rs1 imm => Sys2Proof.Machine.execOri16 c rd rs1 imm s
  | .ori32 c rd rs1 imm => Sys2Proof.Machine.execOri32 c rd rs1 imm s
  | .ori48 c rd rs1 imm => Sys2Proof.Machine.execOri48 c rd rs1 imm s
  | .lb c rd rs1 imm => Sys2Proof.Machine.execLb c rd rs1 imm s
  | .lbu c rd rs1 imm => Sys2Proof.Machine.execLbu c rd rs1 imm s
  | .lh c rd rs1 imm => Sys2Proof.Machine.execLh c rd rs1 imm s
  | .lhu c rd rs1 imm => Sys2Proof.Machine.execLhu c rd rs1 imm s
  | .lw c rd rs1 imm => Sys2Proof.Machine.execLw c rd rs1 imm s
  | .lwu c rd rs1 imm => Sys2Proof.Machine.execLwu c rd rs1 imm s
  | .ld c rd rs1 imm => Sys2Proof.Machine.execLd c rd rs1 imm s
  | .ldf c rd rs1 imm => Sys2Proof.Machine.execLdf c rd rs1 imm s
  | .lwf c rd rs1 imm => Sys2Proof.Machine.execLwf c rd rs1 imm s
  | .sb c rs2 rs1 imm => Sys2Proof.Machine.execSb c rs2 rs1 imm s
  | .sh c rs2 rs1 imm => Sys2Proof.Machine.execSh c rs2 rs1 imm s
  | .sw c rs2 rs1 imm => Sys2Proof.Machine.execSw c rs2 rs1 imm s
  | .sd c rs2 rs1 imm => Sys2Proof.Machine.execSd c rs2 rs1 imm s
  | .stf c rs2 rs1 imm => Sys2Proof.Machine.execStf c rs2 rs1 imm s
  | .swf c rs2 rs1 imm => Sys2Proof.Machine.execSwf c rs2 rs1 imm s
  | .ldC c rd xi set size sx => Sys2Proof.Machine.execLdC c rd xi set size sx s
  | .stC c rs2 xi set size sx => Sys2Proof.Machine.execStC c rs2 xi set size sx s
  | .beq c rs1 rs2 off sl => Sys2Proof.Machine.execBeq c rs1 rs2 off sl s
  | .bne c rs1 rs2 off sl => Sys2Proof.Machine.execBne c rs1 rs2 off sl s
  | .blt c rs1 rs2 off sl => Sys2Proof.Machine.execBlt c rs1 rs2 off sl s
  | .bge c rs1 rs2 off sl => Sys2Proof.Machine.execBge c rs1 rs2 off sl s
  | .bltu c rs1 rs2 off sl => Sys2Proof.Machine.execBltu c rs1 rs2 off sl s
  | .bgeu c rs1 rs2 off sl => Sys2Proof.Machine.execBgeu c rs1 rs2 off sl s
  | .j c off sl => Sys2Proof.Machine.execJ c off sl s
  | .jr c rs1 sl => Sys2Proof.Machine.execJr c rs1 sl s
  | .call c off sl => Sys2Proof.Machine.execCall c off sl s
  | .callr c rs1 sl => Sys2Proof.Machine.execCallr c rs1 sl s
  | .ret c sl => Sys2Proof.Machine.execRet c sl s
  | .fadd c rd rs1 rs2 => Sys2Proof.Machine.execFadd c rd rs1 rs2 s
  | .fsub c rd rs1 rs2 => Sys2Proof.Machine.execFsub c rd rs1 rs2 s
  | .fmul c rd rs1 rs2 => Sys2Proof.Machine.execFmul c rd rs1 rs2 s
  | .fdiv c rd rs1 rs2 => Sys2Proof.Machine.execFdiv c rd rs1 rs2 s
  | .fsqrt c rd rs1 => Sys2Proof.Machine.execFsqrt c rd rs1 s
  | .fmin c rd rs1 rs2 => Sys2Proof.Machine.execFmin c rd rs1 rs2 s
  | .fmax c rd rs1 rs2 => Sys2Proof.Machine.execFmax c rd rs1 rs2 s
  | .fabs c rd rs1 => Sys2Proof.Machine.execFabs c rd rs1 s
  | .fneg c rd rs1 => Sys2Proof.Machine.execFneg c rd rs1 s
  | .feq c rd rs1 rs2 => Sys2Proof.Machine.execFeq c rd rs1 rs2 s
  | .flt c rd rs1 rs2 => Sys2Proof.Machine.execFlt c rd rs1 rs2 s
  | .fle c rd rs1 rs2 => Sys2Proof.Machine.execFle c rd rs1 rs2 s
  | .fcvtSL c rd rs1 => Sys2Proof.Machine.execFcvtSL c rd rs1 s
  | .fcvtLS c rd rs1 => Sys2Proof.Machine.execFcvtLS c rd rs1 s
  | .fmvXF c rd rs1 => Sys2Proof.Machine.execFmvXF c rd rs1 s
  | .fmvFX c rd rs1 => Sys2Proof.Machine.execFmvFX c rd rs1 s
  | .fma c fd fs1 fs2 fs3 => Sys2Proof.Machine.execFma c fd fs1 fs2 fs3 s
  | .fms c fd fs1 fs2 fs3 => Sys2Proof.Machine.execFms c fd fs1 fs2 fs3 s
  | .fnma c fd fs1 fs2 fs3 => Sys2Proof.Machine.execFnma c fd fs1 fs2 fs3 s
  | .fnms c fd fs1 fs2 fs3 => Sys2Proof.Machine.execFnms c fd fs1 fs2 fs3 s
  | .fld c rd rs1 cc size fp sx => Sys2Proof.Machine.execFld c rd rs1 cc size fp sx s
  | .fst c rs2 rs1 cc size fp sx => Sys2Proof.Machine.execFst c rs2 rs1 cc size fp sx s
  | .resultLands c => Sys2Proof.Machine.execResultLands c s
  | .localLoadUe e => Sys2Proof.Machine.execLocalLoadUe e s
  | .farAccessComplete id ue => Sys2Proof.Machine.execFarAccessComplete id ue s
  | .waitc c rd rs1 cc l test n => Sys2Proof.Machine.execWaitc c rd rs1 cc l test n s
  | .waitTimeout c => Sys2Proof.Machine.execWaitTimeout c s
  | .rep c rs imm nx => Sys2Proof.Machine.execRep c rs imm nx s
  | .repU c rs imm nx => Sys2Proof.Machine.execRepU c rs imm nx s
  | .csrWrite c op num rs => Sys2Proof.Machine.execCsrWrite c op num rs s
  | .dtwStore c op rs1 => Sys2Proof.Machine.execDtwStore c op rs1 s
  | .dtwLoad c op rs1 => Sys2Proof.Machine.execDtwLoad c op rs1 s
  | .statusBankDiscard c op rs1 => Sys2Proof.Machine.execStatusBankDiscard c op rs1 s
  | .mctlWrite c op rs1 => Sys2Proof.Machine.execMctlWrite c op rs1 s
  | .exceptionEntry c ev => Sys2Proof.Machine.execExceptionEntry c ev s
  | .asyncInterruptTaken c => Sys2Proof.Machine.execAsyncInterruptTaken c s
  | .gate c n => Sys2Proof.Machine.execGate c n s
  | .eret c nx => Sys2Proof.Machine.execEret c nx s
  | .vadd c vd vs1 vs2 ty => Sys2Proof.Machine.execVadd c vd vs1 vs2 ty s
  | .vsub c vd vs1 vs2 ty => Sys2Proof.Machine.execVsub c vd vs1 vs2 ty s
  | .vmul c vd vs1 vs2 ty => Sys2Proof.Machine.execVmul c vd vs1 vs2 ty s
  | .vmulh c vd vs1 vs2 ty => Sys2Proof.Machine.execVmulh c vd vs1 vs2 ty s
  | .vmulhu c vd vs1 vs2 ty => Sys2Proof.Machine.execVmulhu c vd vs1 vs2 ty s
  | .vmin c vd vs1 vs2 ty => Sys2Proof.Machine.execVmin c vd vs1 vs2 ty s
  | .vmax c vd vs1 vs2 ty => Sys2Proof.Machine.execVmax c vd vs1 vs2 ty s
  | .vminu c vd vs1 vs2 ty => Sys2Proof.Machine.execVminu c vd vs1 vs2 ty s
  | .vmaxu c vd vs1 vs2 ty => Sys2Proof.Machine.execVmaxu c vd vs1 vs2 ty s
  | .vand c vd vs1 vs2 ty => Sys2Proof.Machine.execVand c vd vs1 vs2 ty s
  | .vor c vd vs1 vs2 ty => Sys2Proof.Machine.execVor c vd vs1 vs2 ty s
  | .vxor c vd vs1 vs2 ty => Sys2Proof.Machine.execVxor c vd vs1 vs2 ty s
  | .vandn c vd vs1 vs2 ty => Sys2Proof.Machine.execVandn c vd vs1 vs2 ty s
  | .vsll c vd vs1 vs2 ty => Sys2Proof.Machine.execVsll c vd vs1 vs2 ty s
  | .vsrl c vd vs1 vs2 ty => Sys2Proof.Machine.execVsrl c vd vs1 vs2 ty s
  | .vsra c vd vs1 vs2 ty => Sys2Proof.Machine.execVsra c vd vs1 vs2 ty s
  | .vseq c vd vs1 vs2 ty => Sys2Proof.Machine.execVseq c vd vs1 vs2 ty s
  | .vslt c vd vs1 vs2 ty => Sys2Proof.Machine.execVslt c vd vs1 vs2 ty s
  | .vsltu c vd vs1 vs2 ty => Sys2Proof.Machine.execVsltu c vd vs1 vs2 ty s
  | .vmac c vd vs1 vs2 ty => Sys2Proof.Machine.execVmac c vd vs1 vs2 ty s
  | .vfadd c vd vs1 vs2 ty => Sys2Proof.Machine.execVfadd c vd vs1 vs2 ty s
  | .vfsub c vd vs1 vs2 ty => Sys2Proof.Machine.execVfsub c vd vs1 vs2 ty s
  | .vfmul c vd vs1 vs2 ty => Sys2Proof.Machine.execVfmul c vd vs1 vs2 ty s
  | .vfma c vd vs1 vs2 ty => Sys2Proof.Machine.execVfma c vd vs1 vs2 ty s
  | .vfnma c vd vs1 vs2 ty => Sys2Proof.Machine.execVfnma c vd vs1 vs2 ty s
  | .vfmin c vd vs1 vs2 ty => Sys2Proof.Machine.execVfmin c vd vs1 vs2 ty s
  | .vfmax c vd vs1 vs2 ty => Sys2Proof.Machine.execVfmax c vd vs1 vs2 ty s
  | .vfabs c vd vs1 vs2 ty => Sys2Proof.Machine.execVfabs c vd vs1 vs2 ty s
  | .vfneg c vd vs1 vs2 ty => Sys2Proof.Machine.execVfneg c vd vs1 vs2 ty s
  | .vfeq c vd vs1 vs2 ty => Sys2Proof.Machine.execVfeq c vd vs1 vs2 ty s
  | .vflt c vd vs1 vs2 ty => Sys2Proof.Machine.execVflt c vd vs1 vs2 ty s
  | .vfle c vd vs1 vs2 ty => Sys2Proof.Machine.execVfle c vd vs1 vs2 ty s
  | .vfrcpe c vd vs1 vs2 ty => Sys2Proof.Machine.execVfrcpe c vd vs1 vs2 ty s
  | .vfrsqe c vd vs1 vs2 ty => Sys2Proof.Machine.execVfrsqe c vd vs1 vs2 ty s
  | .vfexp2e c vd vs1 vs2 ty => Sys2Proof.Machine.execVfexp2e c vd vs1 vs2 ty s
  | .vwmul c vd vs1 vs2 ty h => Sys2Proof.Machine.execVwmul c vd vs1 vs2 ty h s
  | .vwmulu c vd vs1 vs2 ty h => Sys2Proof.Machine.execVwmulu c vd vs1 vs2 ty h s
  | .vwmac c vd vs1 vs2 ty h => Sys2Proof.Machine.execVwmac c vd vs1 vs2 ty h s
  | .vwmacu c vd vs1 vs2 ty h => Sys2Proof.Machine.execVwmacu c vd vs1 vs2 ty h s
  | .vdot4 c vd vs1 vs2 ty h => Sys2Proof.Machine.execVdot4 c vd vs1 vs2 ty h s
  | .vdot8 c vd vs1 vs2 ty h => Sys2Proof.Machine.execVdot8 c vd vs1 vs2 ty h s
  | .vdot2 c vd vs1 vs2 ty h => Sys2Proof.Machine.execVdot2 c vd vs1 vs2 ty h s
  | .vcvt c vd vs1 tgt ovf ty h part => Sys2Proof.Machine.execVcvt c vd vs1 tgt ovf ty h part s
  | .vpk4 c vd vs1 vs2 ty h => Sys2Proof.Machine.execVpk4 c vd vs1 vs2 ty h s
  | .vunpk4 c vd vs1 vs2 ty h => Sys2Proof.Machine.execVunpk4 c vd vs1 vs2 ty h s
  | .vslideD c vd vs1 vs2 ty h => Sys2Proof.Machine.execVslideD c vd vs1 vs2 ty h s
  | .vslideU c vd vs1 vs2 ty h => Sys2Proof.Machine.execVslideU c vd vs1 vs2 ty h s
  | .vperm c vd vs1 vs2 ty h => Sys2Proof.Machine.execVperm c vd vs1 vs2 ty h s
  | .vany c vd vs1 vs2 ty h => Sys2Proof.Machine.execVany c vd vs1 vs2 ty h s
  | .vall c vd vs1 vs2 ty h => Sys2Proof.Machine.execVall c vd vs1 vs2 ty h s
  | .vmaxs c vd vs1 vs2 ty h => Sys2Proof.Machine.execVmaxs c vd vs1 vs2 ty h s
  | .vmaxi c vd vs1 vs2 ty h => Sys2Proof.Machine.execVmaxi c vd vs1 vs2 ty h s
  | .vsums c vd vs1 vs2 ty h => Sys2Proof.Machine.execVsums c vd vs1 vs2 ty h s
  | .vld c v rs1 f2 set ew => Sys2Proof.Machine.execVld c v rs1 f2 set ew s
  | .vlds c v rs1 f2 set ew => Sys2Proof.Machine.execVlds c v rs1 f2 set ew s
  | .vldC c v rs1 f2 set ew => Sys2Proof.Machine.execVldC c v rs1 f2 set ew s
  | .vgather c v rs1 f2 set ew => Sys2Proof.Machine.execVgather c v rs1 f2 set ew s
  | .vst c v rs1 f2 set ew => Sys2Proof.Machine.execVst c v rs1 f2 set ew s
  | .vsts c v rs1 f2 set ew => Sys2Proof.Machine.execVsts c v rs1 f2 set ew s
  | .vstC c v rs1 f2 set ew => Sys2Proof.Machine.execVstC c v rs1 f2 set ew s
  | .vscatter c v rs1 f2 set ew => Sys2Proof.Machine.execVscatter c v rs1 f2 set ew s
  | .localVloadUe e => Sys2Proof.Machine.execLocalVloadUe e s
  | .vfld c v rs1 rs2 cc ew mode => Sys2Proof.Machine.execVfld c v rs1 rs2 cc ew mode s
  | .vfst c v rs1 rs2 cc ew mode => Sys2Proof.Machine.execVfst c v rs1 rs2 cc ew mode s
  | .tcfg c t fmt colsm1 rowsm1 => Sys2Proof.Machine.execTcfg c t fmt colsm1 rowsm1 s
  | .tmov c dst src cvt ovf cc => Sys2Proof.Machine.execTmov c dst src cvt ovf cc s
  | .tzero c dst cc => Sys2Proof.Machine.execTzero c dst cc s
  | .tget c v t rs imm => Sys2Proof.Machine.execTget c v t rs imm s
  | .tput c v t rs imm => Sys2Proof.Machine.execTput c v t rs imm s
  | .tgetUe e => Sys2Proof.Machine.execTgetUe e s
  | .tld c x => Sys2Proof.Machine.execTld c x s
  | .tst c x => Sys2Proof.Machine.execTst c x s
  | .tileMoverComplete id err => Sys2Proof.Machine.execTileMoverComplete id err s
  | .apass c x => Sys2Proof.Machine.execApass c x s
  | .passStart c => Sys2Proof.Machine.execPassStart c s
  | .passCommit c => Sys2Proof.Machine.execPassCommit c s
  | .parityMismatch c idx row => Sys2Proof.Machine.execParityMismatch c idx row s
  | .passAbandon c idx addr => Sys2Proof.Machine.execPassAbandon c idx addr s
  | .aquiet c rs1 => Sys2Proof.Machine.execAquiet c rs1 s
  | .aelem c dst srca srcb op brow cc => Sys2Proof.Machine.execAelem c dst srca srcb op brow cc s
  | .adist c x => Sys2Proof.Machine.execAdist c x s
  | .tpass c x => Sys2Proof.Machine.execTpass c x s
  | .sliceEmission c parity => Sys2Proof.Machine.execSliceEmission c parity s
  | .updt c vt ns nh mask d cc => Sys2Proof.Machine.execUpdt c vt ns nh mask d cc s
  | .updateItemEnd c ue => Sys2Proof.Machine.execUpdateItemEnd c ue s
  | .sopen c slot d cc => Sys2Proof.Machine.execSopen c slot d cc s
  | .sjoin c slot cc => Sys2Proof.Machine.execSjoin c slot cc s
  | .sacq c slot rd rs1 l => Sys2Proof.Machine.execSacq c slot rd rs1 l s
  | .srel c slot => Sys2Proof.Machine.execSrel c slot s
  | .streamCancel c slot => Sys2Proof.Machine.execStreamCancel c slot s
  | .mcastDrop c slot rs => Sys2Proof.Machine.execMcastDrop c slot rs s
  | .streamRequest c => Sys2Proof.Machine.execStreamRequest c s
  | .pieceResponse c slot piece => Sys2Proof.Machine.execPieceResponse c slot piece s
  | .pieceFail c slot piece => Sys2Proof.Machine.execPieceFail c slot piece s
  | .streamEnd c slot => Sys2Proof.Machine.execStreamEnd c slot s
  | .multicastBind c slot j => Sys2Proof.Machine.execMulticastBind c slot j s
  | .semAdd c rd rs1 rs2 f => Sys2Proof.Machine.execSemAdd c rd rs1 rs2 f s
  | .semAddRel c rd rs1 rs2 f => Sys2Proof.Machine.execSemAddRel c rd rs1 rs2 f s
  | .semTake c rd rs1 rs2 f l test => Sys2Proof.Machine.execSemTake c rd rs1 rs2 f l test s
  | .semOpAtHome id ue => Sys2Proof.Machine.execSemOpAtHome id ue s
  | .sig c rs1 rs2 f => Sys2Proof.Machine.execSig c rs1 rs2 f s
  | .sigRel c rs1 rs2 f => Sys2Proof.Machine.execSigRel c rs1 rs2 f s
  | .signalQueued id => Sys2Proof.Machine.execSignalQueued id s
  | .sigw c rd rs2 l test => Sys2Proof.Machine.execSigw c rd rs2 l test s
  | .releaseTakesEffect id => Sys2Proof.Machine.execReleaseTakesEffect id s
  | .barArr c ch => Sys2Proof.Machine.execBarArr c ch s
  | .barWait c rd rs2 ch l test => Sys2Proof.Machine.execBarWait c rd rs2 ch l test s
  | .bar c rd rs2 ch l => Sys2Proof.Machine.execBar c rd rs2 ch l s
  | .barrierComplete ch => Sys2Proof.Machine.execBarrierComplete ch s
  | .barmaskWrite c op rs1 => Sys2Proof.Machine.execBarmaskWrite c op rs1 s
  | .longWaitLower c => Sys2Proof.Machine.execLongWaitLower c s
  | .coreResume c => Sys2Proof.Machine.execCoreResume c s
  | .ringStop c => Sys2Proof.Machine.execRingStop c s
  | .ringStart c => Sys2Proof.Machine.execRingStart c s
  | .alloc c => Sys2Proof.Machine.execAlloc c s
  | .free c => Sys2Proof.Machine.execFree c s
  | .hint c => Sys2Proof.Machine.execHint c s
  | .group c => Sys2Proof.Machine.execGroup c s
  | .ungroup c => Sys2Proof.Machine.execUngroup c s
  | .share c => Sys2Proof.Machine.execShare c s
  | .attach c => Sys2Proof.Machine.execAttach c s
  | .detach c => Sys2Proof.Machine.execDetach c s
  | .placeQuery c rd rs1 cc op => Sys2Proof.Machine.execPlaceQuery c rd rs1 cc op s
  | .pageMigration part vpage faster => Sys2Proof.Machine.execPageMigration part vpage faster s
  | .migrationSwitch part page => Sys2Proof.Machine.execMigrationSwitch part page s
  | .portTrainingDone p ok => Sys2Proof.Machine.execPortTrainingDone p ok s
  | .portDown p cause => Sys2Proof.Machine.execPortDown p cause s
  | .portRetrain p => Sys2Proof.Machine.execPortRetrain p s
  | .mgmtSetup p m => Sys2Proof.Machine.execMgmtSetup p m s
  | .watchArm c rd rs1 m cc => Sys2Proof.Machine.execWatchArm c rd rs1 m cc s
  | .watchDis c m => Sys2Proof.Machine.execWatchDis c m s
  | .watchWait c rd rs1 => Sys2Proof.Machine.execWatchWait c rd rs1 s
  | .watchFire c m w => Sys2Proof.Machine.execWatchFire c m w s
  | .taskRecord ch r => Sys2Proof.Machine.execTaskRecord ch r s
  | .abortRecord ch r => Sys2Proof.Machine.execAbortRecord ch r s
  | .nopRecord ch r => Sys2Proof.Machine.execNopRecord ch r s
  | .partCreate p h a => Sys2Proof.Machine.execPartCreate p h a s
  | .partChange p h a => Sys2Proof.Machine.execPartChange p h a s
  | .partRemove p h part => Sys2Proof.Machine.execPartRemove p h part s
  | .chanOpen p h a => Sys2Proof.Machine.execChanOpen p h a s
  | .chanClose p h ch => Sys2Proof.Machine.execChanClose p h ch s
  | .chanCredit p h ch credMin credMax => Sys2Proof.Machine.execChanCredit p h ch credMin credMax s
  | .hostReg p h part rights haddr length vaddr => Sys2Proof.Machine.execHostReg p h part rights haddr length vaddr s
  | .hostUnreg p h part vaddr => Sys2Proof.Machine.execHostUnreg p h part vaddr s
  | .place p h part r => Sys2Proof.Machine.execPlace p h part r s
  | .disable p h kind index timeout => Sys2Proof.Machine.execDisable p h kind index timeout s
  | .enable p h kind index => Sys2Proof.Machine.execEnable p h kind index s
  | .logRead p h addr length => Sys2Proof.Machine.execLogRead p h addr length s
  | .journalEntryDurable j => Sys2Proof.Machine.execJournalEntryDurable j s
  | .taskStart seq => Sys2Proof.Machine.execTaskStart seq s
  | .taskEnd c => Sys2Proof.Machine.execTaskEnd c s
  | .taskFail c => Sys2Proof.Machine.execTaskFail c s
  | .commitAppend seq => Sys2Proof.Machine.execCommitAppend seq s
  | .disableTimeout d => Sys2Proof.Machine.execDisableTimeout d s
  | .netCreate c => Sys2Proof.Machine.execNetCreate c s
  | .netAttach c => Sys2Proof.Machine.execNetAttach c s
  | .netStep c => Sys2Proof.Machine.execNetStep c s
  | .netQuery c => Sys2Proof.Machine.execNetQuery c s
  | .netDrop c => Sys2Proof.Machine.execNetDrop c s
  | .netRendezvousTimeout net => Sys2Proof.Machine.execNetRendezvousTimeout net s
  | .chunkReadDone net chunk => Sys2Proof.Machine.execChunkReadDone net chunk s
  | .generationComplete net => Sys2Proof.Machine.execGenerationComplete net s
  | .netRestore net bad => Sys2Proof.Machine.execNetRestore net bad s
  | .coreHardFault c => Sys2Proof.Machine.execCoreHardFault c s
  | .plannedRetirement c => Sys2Proof.Machine.execPlannedRetirement c s
  | .stackLoss n => Sys2Proof.Machine.execStackLoss n s
  | .reReplication net slot chunk stack => Sys2Proof.Machine.execReReplication net slot chunk stack s
  | .linkDown l => Sys2Proof.Machine.execLinkDown l s
  | .laneSteered l lane => Sys2Proof.Machine.execLaneSteered l lane s
  | .hubHeartbeat hub => Sys2Proof.Machine.execHubHeartbeat hub s
  | .hubTakeover hub => Sys2Proof.Machine.execHubTakeover hub s
  | .stackLineRead n sram line err id => Sys2Proof.Machine.execStackLineRead n sram line err id s
  | .stackLineWrite n sram line err src => Sys2Proof.Machine.execStackLineWrite n sram line err src s
  | .refreshDue n die ch bank => Sys2Proof.Machine.execRefreshDue n die ch bank s
  | .refreshRateChange n die temp => Sys2Proof.Machine.execRefreshRateChange n die temp s
  | .scrubRead n sram bank err => Sys2Proof.Machine.execScrubRead n sram bank err s
  | .correctingWriteback n sram line => Sys2Proof.Machine.execCorrectingWriteback n sram line s
  | .rowCopyForce n => Sys2Proof.Machine.execRowCopyForce n s
  | .rowSwitch n bad => Sys2Proof.Machine.execRowSwitch n bad s
  | .coreStoreScrub c err => Sys2Proof.Machine.execCoreStoreScrub c err s
  | .scrubBurst c => Sys2Proof.Machine.execScrubBurst c s
  | .stackCalibration n ch forced => Sys2Proof.Machine.execStackCalibration n ch forced s
  | .canaryMeasurement d slacks tapOk => Sys2Proof.Machine.execCanaryMeasurement d slacks tapOk s
  | .calibrationBorrow c => Sys2Proof.Machine.execCalibrationBorrow c s
  | .calibForce c => Sys2Proof.Machine.execCalibForce c s
  | .calibPendingTimeout c => Sys2Proof.Machine.execCalibPendingTimeout c s
  | .peRowTest c row pass => Sys2Proof.Machine.execPeRowTest c row pass s
  | .repairHintWrite => Sys2Proof.Machine.execRepairHintWrite s
  | .powerPlan noncore avg peak => Sys2Proof.Machine.execPowerPlan noncore avg peak s
  | .boostGrantLapse c => Sys2Proof.Machine.execBoostGrantLapse c s
  | .throttle r => Sys2Proof.Machine.execThrottle r s
  | .throttleRelease r => Sys2Proof.Machine.execThrottleRelease r s
  | .plimitWrite hub v => Sys2Proof.Machine.execPlimitWrite hub v s
  | .tcmpWrite c op rs1 => Sys2Proof.Machine.execTcmpWrite c op rs1 s
  | .timerCompareFire c => Sys2Proof.Machine.execTimerCompareFire c s
  | .telemetrySample temps lost => Sys2Proof.Machine.execTelemetrySample temps lost s
  | .telemetryReadTimeout c => Sys2Proof.Machine.execTelemetryReadTimeout c s
  | .pwrgoodRise => Sys2Proof.Machine.execPwrgoodRise s
  | .resetRelease b0 b1 => Sys2Proof.Machine.execResetRelease b0 b1 s
  | .resetAssert => Sys2Proof.Machine.execResetAssert s
  | .selfTestAndRepair r => Sys2Proof.Machine.execSelfTestAndRepair r s
  | .hubElectionTimeout => Sys2Proof.Machine.execHubElectionTimeout s
  | .bootStackTraining failed => Sys2Proof.Machine.execBootStackTraining failed s
  | .bootPortTraining trained => Sys2Proof.Machine.execBootPortTraining trained s
  | .getVersion e r => Sys2Proof.Machine.execGetVersion e r s
  | .getCapabilities e r => Sys2Proof.Machine.execGetCapabilities e r s
  | .negotiateAlgorithms e r => Sys2Proof.Machine.execNegotiateAlgorithms e r s
  | .getDigests e r => Sys2Proof.Machine.execGetDigests e r s
  | .getCertificate e r => Sys2Proof.Machine.execGetCertificate e r s
  | .challenge e r => Sys2Proof.Machine.execChallenge e r s
  | .getMeasurements e r => Sys2Proof.Machine.execGetMeasurements e r s
  | .spdmUnsupportedRequest e r => Sys2Proof.Machine.execSpdmUnsupportedRequest e r s
  | .setEndpointId e eid => Sys2Proof.Machine.execSetEndpointId e eid s
  | .getEndpointId e => Sys2Proof.Machine.execGetEndpointId e s
  | .getMctpVersionSupport e => Sys2Proof.Machine.execGetMctpVersionSupport e s
  | .getMessageTypeSupport e => Sys2Proof.Machine.execGetMessageTypeSupport e s
  | .pwrgoodFall => Sys2Proof.Machine.execPwrgoodFall s
  | .railOutOfRange r => Sys2Proof.Machine.execRailOutOfRange r s
  | .railCheckTimeout r => Sys2Proof.Machine.execRailCheckTimeout r s
  | .refclkLoss hub => Sys2Proof.Machine.execRefclkLoss hub s
  | .thermalTrip d => Sys2Proof.Machine.execThermalTrip d s
  | .bypass => Sys2Proof.Machine.execBypass s
  | .samplePreload => Sys2Proof.Machine.execSamplePreload s
  | .extest => Sys2Proof.Machine.execExtest s
  | .highz => Sys2Proof.Machine.execHighz s
  | .clamp => Sys2Proof.Machine.execClamp s
  | .voltageMoveEnd m => Sys2Proof.Machine.execVoltageMoveEnd m s
  | .farAccessAtSlice id ue => Sys2Proof.Machine.execFarAccessAtSlice id ue s

end Sys2Proof.Machine
end

