-- ==== Sys2Proof/Machine/Step.lean ====
section
/-! DEFINITION. One step: the command at the front of the queue, or one reference cycle of the time base (R43). -/

namespace Sys2Proof.Machine

/-- With no command waiting, the time base advances by one reference cycle, 10 ns, once RESET_N is high (R43, R490; log entry 3). -/
def idleTick (s : State) : State := if s.pkg.pins.up then { s with time := s.time + 10 } else s

/-- The command at the front runs on the state with the rest of the queue. -/
def step (s : State) : Host.Outcome State Fault Refusal :=
  match s.pending with
  | [] => .next (idleTick s)
  | i :: rest => exec i { s with pending := rest }

/-- `s` with a command put at the front of its queue. -/
def State.withCommand (s : State) (i : Instr) : State := { s with pending := i :: s.pending }

/-- The command that a word spells, put at the front; no word spells one. -/
def State.withFetchWord (s : State) (nbits w : Nat) : State :=
  match decodeTableWord nbits w with
  | some i => s.withCommand i
  | none => s

end Sys2Proof.Machine
end

