-- ==== Sys2Proof/WellFormed.lean ====
section
/-! DEFINITION. Which commands name units the part has. A command that does not is refused by its meaning. -/

namespace Sys2Proof

/-- Cores: 144 positions and 16 supervisor cores (R25, 01 Hub dies). -/
def coreOk (c : Nat) : Bool := decide (c < 160)
/-- Core positions with a slice and a margin domain of their own. -/
def computeOk (c : Nat) : Bool := decide (c < 144)
def hubOk (h : Nat) : Bool := decide (h < 2)
def portOk (p : Nat) : Bool := decide (p < 4)
def stackOk (n : Nat) : Bool := decide (n < 8)
/-- Task channels (R383). -/
def chanOk (ch : Nat) : Bool := decide (ch < 256)
/-- Nets (R418). -/
def netOk (n : Nat) : Bool := decide (n < 64)
/-- Units whose voltage moves (R480). -/
def moveOk (m : MoveUnit) : Bool :=
  match m with
  | .core c => computeOk c
  | .rail n => decide (n < 8)

/-- Whether every unit a command names exists. -/
def wellFormed (i : Instr) : Bool :=
  match i with
  | .add c _ _ _ => coreOk c
  | .sub c _ _ _ => coreOk c
  | .and c _ _ _ => coreOk c
  | .or c _ _ _ => coreOk c
  | .xor c _ _ _ => coreOk c
  | .sll c _ _ _ => coreOk c
  | .srl c _ _ _ => coreOk c
  | .sra c _ _ _ => coreOk c
  | .slt c _ _ _ => coreOk c
  | .sltu c _ _ _ => coreOk c
  | .min c _ _ _ => coreOk c
  | .max c _ _ _ => coreOk c
  | .minu c _ _ _ => coreOk c
  | .maxu c _ _ _ => coreOk c
  | .mul c _ _ _ => coreOk c
  | .mulh c _ _ _ => coreOk c
  | .mulhu c _ _ _ => coreOk c
  | .div c _ _ _ => coreOk c
  | .divu c _ _ _ => coreOk c
  | .rem c _ _ _ => coreOk c
  | .remu c _ _ _ => coreOk c
  | .addi c _ _ _ => coreOk c
  | .andi c _ _ _ => coreOk c
  | .ori c _ _ _ => coreOk c
  | .xori c _ _ _ => coreOk c
  | .slti c _ _ _ => coreOk c
  | .shi c _ _ _ => coreOk c
  | .lui c _ _ _ => coreOk c
  | .ori16 c _ _ _ => coreOk c
  | .ori32 c _ _ _ => coreOk c
  | .ori48 c _ _ _ => coreOk c
  | .lb c _ _ _ => coreOk c
  | .lbu c _ _ _ => coreOk c
  | .lh c _ _ _ => coreOk c
  | .lhu c _ _ _ => coreOk c
  | .lw c _ _ _ => coreOk c
  | .lwu c _ _ _ => coreOk c
  | .ld c _ _ _ => coreOk c
  | .ldf c _ _ _ => coreOk c
  | .lwf c _ _ _ => coreOk c
  | .sb c _ _ _ => coreOk c
  | .sh c _ _ _ => coreOk c
  | .sw c _ _ _ => coreOk c
  | .sd c _ _ _ => coreOk c
  | .stf c _ _ _ => coreOk c
  | .swf c _ _ _ => coreOk c
  | .ldC c _ _ _ _ _ => coreOk c
  | .stC c _ _ _ _ _ => coreOk c
  | .beq c _ _ _ _ => coreOk c
  | .bne c _ _ _ _ => coreOk c
  | .blt c _ _ _ _ => coreOk c
  | .bge c _ _ _ _ => coreOk c
  | .bltu c _ _ _ _ => coreOk c
  | .bgeu c _ _ _ _ => coreOk c
  | .j c _ _ => coreOk c
  | .jr c _ _ => coreOk c
  | .call c _ _ => coreOk c
  | .callr c _ _ => coreOk c
  | .ret c _ => coreOk c
  | .fadd c _ _ _ => coreOk c
  | .fsub c _ _ _ => coreOk c
  | .fmul c _ _ _ => coreOk c
  | .fdiv c _ _ _ => coreOk c
  | .fsqrt c _ _ => coreOk c
  | .fmin c _ _ _ => coreOk c
  | .fmax c _ _ _ => coreOk c
  | .fabs c _ _ => coreOk c
  | .fneg c _ _ => coreOk c
  | .feq c _ _ _ => coreOk c
  | .flt c _ _ _ => coreOk c
  | .fle c _ _ _ => coreOk c
  | .fcvtSL c _ _ => coreOk c
  | .fcvtLS c _ _ => coreOk c
  | .fmvXF c _ _ => coreOk c
  | .fmvFX c _ _ => coreOk c
  | .fma c _ _ _ _ => coreOk c
  | .fms c _ _ _ _ => coreOk c
  | .fnma c _ _ _ _ => coreOk c
  | .fnms c _ _ _ _ => coreOk c
  | .fld c _ _ _ _ _ _ => coreOk c
  | .fst c _ _ _ _ _ _ => coreOk c
  | .resultLands c => coreOk c
  | .localLoadUe e => coreOk e.core
  | .farAccessComplete _ _ => true
  | .waitc c _ _ _ _ _ _ => coreOk c
  | .waitTimeout c => coreOk c
  | .rep c _ _ _ => coreOk c
  | .repU c _ _ _ => coreOk c
  | .csrWrite c _ _ _ => coreOk c
  | .dtwStore c _ _ => coreOk c
  | .dtwLoad c _ _ => coreOk c
  | .statusBankDiscard c _ _ => coreOk c
  | .mctlWrite c _ _ => coreOk c
  | .exceptionEntry c _ => coreOk c
  | .asyncInterruptTaken c => coreOk c
  | .gate c _ => coreOk c
  | .eret c _ => coreOk c
  | .vadd c _ _ _ _ => coreOk c
  | .vsub c _ _ _ _ => coreOk c
  | .vmul c _ _ _ _ => coreOk c
  | .vmulh c _ _ _ _ => coreOk c
  | .vmulhu c _ _ _ _ => coreOk c
  | .vmin c _ _ _ _ => coreOk c
  | .vmax c _ _ _ _ => coreOk c
  | .vminu c _ _ _ _ => coreOk c
  | .vmaxu c _ _ _ _ => coreOk c
  | .vand c _ _ _ _ => coreOk c
  | .vor c _ _ _ _ => coreOk c
  | .vxor c _ _ _ _ => coreOk c
  | .vandn c _ _ _ _ => coreOk c
  | .vsll c _ _ _ _ => coreOk c
  | .vsrl c _ _ _ _ => coreOk c
  | .vsra c _ _ _ _ => coreOk c
  | .vseq c _ _ _ _ => coreOk c
  | .vslt c _ _ _ _ => coreOk c
  | .vsltu c _ _ _ _ => coreOk c
  | .vmac c _ _ _ _ => coreOk c
  | .vfadd c _ _ _ _ => coreOk c
  | .vfsub c _ _ _ _ => coreOk c
  | .vfmul c _ _ _ _ => coreOk c
  | .vfma c _ _ _ _ => coreOk c
  | .vfnma c _ _ _ _ => coreOk c
  | .vfmin c _ _ _ _ => coreOk c
  | .vfmax c _ _ _ _ => coreOk c
  | .vfabs c _ _ _ _ => coreOk c
  | .vfneg c _ _ _ _ => coreOk c
  | .vfeq c _ _ _ _ => coreOk c
  | .vflt c _ _ _ _ => coreOk c
  | .vfle c _ _ _ _ => coreOk c
  | .vfrcpe c _ _ _ _ => coreOk c
  | .vfrsqe c _ _ _ _ => coreOk c
  | .vfexp2e c _ _ _ _ => coreOk c
  | .vwmul c _ _ _ _ _ => coreOk c
  | .vwmulu c _ _ _ _ _ => coreOk c
  | .vwmac c _ _ _ _ _ => coreOk c
  | .vwmacu c _ _ _ _ _ => coreOk c
  | .vdot4 c _ _ _ _ _ => coreOk c
  | .vdot8 c _ _ _ _ _ => coreOk c
  | .vdot2 c _ _ _ _ _ => coreOk c
  | .vcvt c _ _ _ _ _ _ _ => coreOk c
  | .vpk4 c _ _ _ _ _ => coreOk c
  | .vunpk4 c _ _ _ _ _ => coreOk c
  | .vslideD c _ _ _ _ _ => coreOk c
  | .vslideU c _ _ _ _ _ => coreOk c
  | .vperm c _ _ _ _ _ => coreOk c
  | .vany c _ _ _ _ _ => coreOk c
  | .vall c _ _ _ _ _ => coreOk c
  | .vmaxs c _ _ _ _ _ => coreOk c
  | .vmaxi c _ _ _ _ _ => coreOk c
  | .vsums c _ _ _ _ _ => coreOk c
  | .vld c _ _ _ _ _ => coreOk c
  | .vlds c _ _ _ _ _ => coreOk c
  | .vldC c _ _ _ _ _ => coreOk c
  | .vgather c _ _ _ _ _ => coreOk c
  | .vst c _ _ _ _ _ => coreOk c
  | .vsts c _ _ _ _ _ => coreOk c
  | .vstC c _ _ _ _ _ => coreOk c
  | .vscatter c _ _ _ _ _ => coreOk c
  | .localVloadUe e => coreOk e.core
  | .vfld c _ _ _ _ _ _ => coreOk c
  | .vfst c _ _ _ _ _ _ => coreOk c
  | .tcfg c _ _ _ _ => coreOk c
  | .tmov c _ _ _ _ _ => coreOk c
  | .tzero c _ _ => coreOk c
  | .tget c _ _ _ _ => coreOk c
  | .tput c _ _ _ _ => coreOk c
  | .tgetUe e => coreOk e.core
  | .tld c _ => coreOk c
  | .tst c _ => coreOk c
  | .tileMoverComplete _ _ => true
  | .apass c _ => coreOk c
  | .passStart c => coreOk c
  | .passCommit c => coreOk c
  | .parityMismatch c _ _ => coreOk c
  | .passAbandon c _ _ => coreOk c
  | .aquiet c _ => coreOk c
  | .aelem c _ _ _ _ _ _ => coreOk c
  | .adist c _ => coreOk c
  | .tpass c _ => coreOk c
  | .sliceEmission c _ => coreOk c
  | .updt c _ _ _ _ _ _ => coreOk c
  | .updateItemEnd c _ => coreOk c
  | .sopen c _ _ _ => coreOk c
  | .sjoin c _ _ => coreOk c
  | .sacq c _ _ _ _ => coreOk c
  | .srel c _ => coreOk c
  | .streamCancel c _ => coreOk c
  | .mcastDrop c _ _ => coreOk c
  | .streamRequest c => coreOk c
  | .pieceResponse c _ _ => coreOk c
  | .pieceFail c _ _ => coreOk c
  | .streamEnd c _ => coreOk c
  | .multicastBind c _ _ => coreOk c
  | .semAdd c _ _ _ _ => coreOk c
  | .semAddRel c _ _ _ _ => coreOk c
  | .semTake c _ _ _ _ _ _ => coreOk c
  | .semOpAtHome _ _ => true
  | .sig c _ _ _ => coreOk c
  | .sigRel c _ _ _ => coreOk c
  | .signalQueued _ => true
  | .sigw c _ _ _ _ => coreOk c
  | .releaseTakesEffect _ => true
  | .barArr c _ => coreOk c
  | .barWait c _ _ _ _ _ => coreOk c
  | .bar c _ _ _ _ => coreOk c
  | .barrierComplete _ => true
  | .barmaskWrite c _ _ => coreOk c
  | .longWaitLower c => coreOk c
  | .coreResume c => coreOk c
  | .ringStop c => computeOk c
  | .ringStart c => computeOk c
  | .alloc c => coreOk c
  | .free c => coreOk c
  | .hint c => coreOk c
  | .group c => coreOk c
  | .ungroup c => coreOk c
  | .share c => coreOk c
  | .attach c => coreOk c
  | .detach c => coreOk c
  | .placeQuery c _ _ _ _ => coreOk c
  | .pageMigration _ _ _ => true
  | .migrationSwitch _ _ => true
  | .portTrainingDone p _ => portOk p
  | .portDown p _ => portOk p
  | .portRetrain p => portOk p
  | .mgmtSetup p _ => portOk p
  | .watchArm c _ _ _ _ => coreOk c
  | .watchDis c _ => coreOk c
  | .watchWait c _ _ => coreOk c
  | .watchFire c _ _ => coreOk c
  | .taskRecord ch _ => chanOk ch
  | .abortRecord ch _ => chanOk ch
  | .nopRecord ch _ => chanOk ch
  | .partCreate p _ _ => portOk p
  | .partChange p _ _ => portOk p
  | .partRemove p _ _ => portOk p
  | .chanOpen p _ _ => portOk p
  | .chanClose p _ _ => portOk p
  | .chanCredit p _ _ _ _ => portOk p
  | .hostReg p _ _ _ _ _ _ => portOk p
  | .hostUnreg p _ _ _ => portOk p
  | .place p _ _ _ => portOk p
  | .disable p _ _ _ _ => portOk p
  | .enable p _ _ _ => portOk p
  | .logRead p _ _ _ => portOk p
  | .journalEntryDurable _ => true
  | .taskStart _ => true
  | .taskEnd c => coreOk c
  | .taskFail c => coreOk c
  | .commitAppend _ => true
  | .disableTimeout _ => true
  | .netCreate c => coreOk c
  | .netAttach c => coreOk c
  | .netStep c => coreOk c
  | .netQuery c => coreOk c
  | .netDrop c => coreOk c
  | .netRendezvousTimeout net => netOk net
  | .chunkReadDone net _ => netOk net
  | .generationComplete net => netOk net
  | .netRestore net _ => netOk net
  | .coreHardFault c => coreOk c
  | .plannedRetirement c => computeOk c
  | .stackLoss n => stackOk n
  | .reReplication net slot _ stack => netOk net && decide (slot < 2) && stackOk stack
  | .linkDown l => Machine.linkExists l
  | .laneSteered l lane => Machine.linkExists l && decide (lane < Machine.dataLanes l + Machine.spareLanes l)
  | .hubHeartbeat hub => hubOk hub
  | .hubTakeover hub => hubOk hub
  | .stackLineRead n sram line _ _ => stackOk n && decide (line < Machine.lineCount sram)
  | .stackLineWrite n sram line _ _ => stackOk n && decide (line < Machine.lineCount sram)
  | .refreshDue n die ch bank => stackOk n && decide (die < 12) && decide (ch < 32) && decide (bank < 4)
  | .refreshRateChange n die _ => stackOk n && decide (die < 12)
  | .scrubRead n sram bank _ => stackOk n && decide (bank < Machine.bankCount sram)
  | .correctingWriteback n sram r => stackOk n && decide (r.line < Machine.lineCount sram)
  | .rowCopyForce n => stackOk n
  | .rowSwitch n _ => stackOk n
  | .coreStoreScrub c _ => computeOk c
  | .scrubBurst b => computeOk b.core
  | .stackCalibration n ch _ => stackOk n && decide (ch < 32)
  | .canaryMeasurement d _ _ => decide (d < 162)
  | .calibrationBorrow c => coreOk c
  | .calibForce c => coreOk c
  | .calibPendingTimeout c => coreOk c
  | .peRowTest c _ _ => computeOk c
  | .repairHintWrite => true
  | .powerPlan _ _ _ => true
  | .boostGrantLapse c => computeOk c
  | .throttle r => Machine.throttleExists r.why
  | .throttleRelease r => Machine.throttleExists r.why
  | .plimitWrite hub _ => hubOk hub
  | .tcmpWrite c _ _ => coreOk c
  | .timerCompareFire c => coreOk c
  | .telemetrySample _ _ => true
  | .telemetryReadTimeout c => computeOk c
  | .pwrgoodRise => true
  | .resetRelease _ _ => true
  | .resetAssert => true
  | .selfTestAndRepair _ => true
  | .hubElectionTimeout => true
  | .bootStackTraining _ => true
  | .bootPortTraining _ => true
  | .getVersion e _ => Machine.epExists e
  | .getCapabilities e _ => Machine.epExists e
  | .negotiateAlgorithms e _ => Machine.epExists e
  | .getDigests e _ => Machine.epExists e
  | .getCertificate e _ => Machine.epExists e
  | .challenge e _ => Machine.epExists e
  | .getMeasurements e _ => Machine.epExists e
  | .spdmUnsupportedRequest e _ => Machine.epExists e
  | .setEndpointId e _ => Machine.epExists e
  | .getEndpointId e => Machine.epExists e
  | .getMctpVersionSupport e => Machine.epExists e
  | .getMessageTypeSupport e => Machine.epExists e
  | .pwrgoodFall => true
  | .railOutOfRange r => Machine.railExists r
  | .railCheckTimeout r => Machine.railExists r
  | .refclkLoss hub => hubOk hub
  | .thermalTrip d => Machine.throttleExists (.thermal d.die)
  | .bypass => true
  | .samplePreload => true
  | .extest => true
  | .highz => true
  | .clamp => true
  | .voltageMoveEnd m => moveOk m
  | .farAccessAtSlice _ _ => true

end Sys2Proof
end

