-- ==== Sys2Proof/Safety.lean ====
section
/-! DEFINITION. What the statements call a sound state and a core that can issue. -/

namespace Sys2Proof.Machine

/-- The fixed counts of the part: hubs, stacks, ports, margin domains, endpoints (01, R4, R376, R470, R503). -/
def State.Counts (s : State) : Prop :=
  s.pkg.hubs.length = 2 ∧ s.pkg.stks.length = 8 ∧ s.host.ports.length = 4 ∧ s.pkg.mtab.length = 162 ∧ s.pkg.eps.length = 6

/-- A sound state: memory in canonical form, the part's fixed counts, a log ring no longer than R512 lets it be. -/
def State.Sound (s : State) : Prop :=
  Memory.wf s.mem ∧ s.Counts ∧ s.log.ring.length ≤ 131072

/-- Every store of bytes is in canonical form: memory, what pre-emption saved (R413), the chunks of the nets' generations (R428). -/
def State.StoresOk (s : State) : Prop :=
  Memory.wf s.mem ∧ (∀ t ∈ s.host.tasks, ∀ q ∈ t.saved, Memory.wf q.2.2) ∧ (∀ q ∈ s.host.returning, Memory.wf q.2.2) ∧
  (∀ n ∈ s.nets, ∀ g ∈ n.genA.toList ++ n.genB.toList ++ (n.cap.map (·.gen)).toList, ∀ m ∈ g.chunks, Memory.wf m)

/-- A core whose next instruction, of one word or, where `wide`, of two, can issue with nothing due before it: it issues, no result,
delayed fault, pass, item or forced borrow is pending, the PC is aligned, it stands in no delay slot and no repeat is in progress, and
the words at the PC can be fetched (R34, R60, R65, R87, R106, R531). -/
structure State.Ready (s : State) (c : Nat) (wide : Bool := true) : Prop where
  core : c < 160
  issues : (s.core c).canIssue = true
  landed : (s.core c).tm.pend = []
  clear : (s.core c).tm.delayed = []
  array : (s.core c).arr.queue = []
  update : (s.core c).arr.upd = []
  borrow : (s.core c).pw.calHold = none
  aligned : (s.core c).flow.pc.toNat % 4 = 0
  slots : (s.core c).flow.slots = 0
  rep : (s.core c).flow.rep = none
  fetch : fetchFault s c wide .clean .clean = none

/-- No core waits. -/
def State.NoWaits (s : State) : Prop := ∀ c, c < 160 → (s.core c).wait = none
/-- The only work under way is `w`, on its way to its home, its place on the mover not in question. -/
structure State.OnlyWork (s : State) (w : Work) : Prop where
  only : s.works = [w]
  going : w.stage = .going

/-- As `Ready`, but the instruction may stand in a delay slot and a repeat may be in progress; nothing is said of its fetch. -/
structure State.Idle (s : State) (c : Nat) : Prop where
  core : c < 160
  issues : (s.core c).canIssue = true
  landed : (s.core c).tm.pend = []
  clear : (s.core c).tm.delayed = []
  array : (s.core c).arr.queue = []
  update : (s.core c).arr.upd = []
  borrow : (s.core c).pw.calHold = none
  aligned : (s.core c).flow.pc.toNat % 4 = 0

/-- The value of a finite number, as a real (R125). -/
noncomputable def fvReal (n : Bool) (m : Nat) (e : Int) : ℝ := (if n then -1 else 1) * m * 2 ^ e

/-- A core whose ring beats and that has nothing due: no result, delayed fault, pass, item or forced borrow is pending. -/
structure State.Quiet (s : State) (c : Nat) : Prop where
  core : c < 144
  beats : (s.core c).beats = true
  landed : (s.core c).tm.pend = []
  clear : (s.core c).tm.delayed = []
  array : (s.core c).arr.queue = []
  update : (s.core c).arr.upd = []
  borrow : (s.core c).pw.calHold = none

/-- A completion counter that work may be issued on: the level may name it, and it is below its limit (R78, R79, R382, R416). -/
structure Core.CcFree (k : Core) (cc : BitVec 4) : Prop where
  allowed : k.ccDenied cc = false
  notHeld : k.ccResv cc = false
  shown : k.ccHidden cc.toNat = false
  below : k.outst cc.toNat < 65535

/-- A range of memory that an access finds sound: no coded unit of it is poisoned, or lost with its page (R364, R447, R450). -/
structure State.Readable (s : State) (pa n : Nat) : Prop where
  bytes : s.isPoisoned pa n = false ∧ s.lostAt pa = false
  units : ∀ u ∈ unitsOf pa n, s.isPoisoned u (ecUnit u) = false ∧ s.lostAt u = false

/-- Work but for the step at which it ends: a transfer that shares its channel may end later (R184). -/
def Work.untimed (w : Work) : Work := { w with time := 0 }

/-- From `s` to `t` core `c` issued one instruction and all it did was to enter the work `w` on a counter, to wait for tags where the
core has too few: the flow moves on, the counter rises, and no general, vector or tile register, no byte of memory and no other core
changes; work under way may end at another step (R75, R78, R184, R290). -/
structure State.Entered (s t : State) (c : Nat) (wide : Bool) (cc : BitVec 4) (w : Work) : Prop where
  works : t.works.map Work.untimed = (s.works ++ [w]).map Work.untimed
  last : t.works.getLast? = some w
  core : w.core = c
  counter : w.cc = cc.toNat
  stage : w.stage = if s.tagsFree w then .going else .untagged
  pc : w.pc = (s.core c).flow.pc
  count : (t.core c).outst cc.toNat = (s.core c).outst cc.toNat + 1
  flow : (t.core c).flow = (s.core c).flow.advance wide
  x : (t.core c).x = (s.core c).x
  v : (t.core c).v = (s.core c).v
  tiles : (t.core c).tiles = (s.core c).tiles
  mem : t.mem = s.mem
  others : ∀ d, d ≠ c → t.core d = s.core d

/-- What one command about core `c` leaves of the rest: memory and every other core. -/
structure State.Beside (s t : State) (c : Nat) : Prop where
  mem : t.mem = s.mem
  others : ∀ d, d ≠ c → t.core d = s.core d

/-- A host side that owes nothing: no completion record waits for its ring, no channel is closing (R386, R389), no displaced task is to
resume (R413), no retirement waits (R469), and every net that is neither lost nor to be restored has its pages, sound (R435). -/
structure State.HostIdle (s : State) : Prop where
  counts : s.Counts
  chans : ∀ c ∈ s.host.chans, c.num < 256 ∧ c.ring.waiting = [] ∧ c.closing = none
  ports : ∀ p ∈ s.host.ports, ∀ g, p.ring = some g → g.waiting = []
  back : s.host.returning = []
  retire : s.pkg.retireWait = []
  nets : ∀ t ∈ s.nets, t.dirtyNeed = true ∨ t.lost = true ∨ ((∀ va ∈ t.pages, (s.netPage t va).isSome = true) ∧
    ∀ q ∈ s.place.pages, q.part = t.part → q.home < 2 ^ 48 ∧ s.isPoisoned q.home 0x10000 = false)
/-- As `HostIdle`, and no core waits. -/
structure State.HostQuiet (s : State) : Prop where
  waits : s.NoWaits
  idle : s.HostIdle

/-- The position in ring `r`: records taken and completion records posted (R386). -/
def State.ringPos (s : State) (r : Nat) : Option (Nat × Nat) := (s.ring r).map fun g => (g.2.taken, g.2.posted)

end Sys2Proof.Machine
end

