-- ==== Sys2Proof/Certificates/Slice0/Obligations.lean ====
section
/-! DEFINITION. The statements for the provers, family by family. -/

open Sys2Proof Sys2Proof.Machine

/-! ### The block and its queue -/

/-- The command at the front of the queue runs on the state with the rest of the queue; with none waiting, the time base
advances by one reference cycle where the part runs (R43; log entry 3). -/
def Obligations.StepRunsFront : Prop :=
  (∀ (s : State) (i : Instr), step (s.withCommand i) = exec i s) ∧
  (∀ (s : State) (i : Instr) (rest : List Instr), s.pending = i :: rest → step s = exec i { s with pending := rest }) ∧
  (∀ s : State, s.pending = [] → step s = .next (if s.pkg.pins.up then { s with time := s.time + 10 } else s))

/-- Invariant of every step: the commands that wait name units of the part, and a step takes exactly the front one. -/
def Obligations.QueueInvariant : Prop :=
  ∀ s t : State, s.pending.all wellFormed = true → step s = .next t →
    t.pending = s.pending.tail ∧ t.pending.all wellFormed = true

/-- R18, R91, R96, R108, R109, R122, R263, R342, R491, R516: what reset leaves. Every core is at M in bank 1 with B1BUSY set, in maintenance
state, its ESTAT ready for the first ERET, nothing pending and no core able to issue; no command waits, memory lists nothing,
nothing is in service, and every store is in canonical form. (That memory lists nothing is log entry 8's choice; values that the spec gives no
reset for are not in it: log entry 27.)
R122: the reset state is an entry in bank 1 with CEIL M, PPRIV M and PBANK 0; once its PPRIV is written S or T and MAINT is clear, the
first ERET from it enters that level in bank 0. (Below M on a supervisor core that is log entry 32's choice.) -/
def Obligations.ResetState : Prop :=
  (let s := State.reset
  s.pending = [] ∧ s.mem = [] ∧ s.works = [] ∧ s.StoresOk ∧ s.Counts ∧ s.HostIdle ∧ s.NoWaits ∧ s.place.groups = [] ∧ s.host.tasks = [] ∧
  s.nets = [] ∧ s.log.tperiod = 1000000 ∧ s.pkg.pins.resetN = false ∧ s.pkg.pins.up = false ∧
  (∀ n, n < 8 → (s.stack n).insvc = false) ∧ (∀ h, h < 2 → (s.hub h).insvc = false ∧ (s.hub h).step = 0) ∧
  (∀ p, p < 4 → (s.port p).st = .off) ∧
  ∀ c, c < 160 → let k := s.core c
    k.canIssue = false ∧ k.level = .m ∧ k.bank = .b1 ∧ k.tr.status = ⟨.m, .b1, true, false, false, false⟩ ∧ k.tr.maint = true ∧
    k.tr.ien = 0 ∧ (k.tr.save .b1).estat = ⟨2, 2, 2, 0, false, false, 0, false, false, false⟩ ∧ k.tm.pend = [] ∧
    k.idn.wtoDef = 1000000 ∧ k.syn.lwmin = 10000 ∧ k.arr.masks = ⟨BitVec.allOnes 64, BitVec.allOnes 64, BitVec.allOnes 64⟩ ∧
    ∀ n, n < 256 → (s.desc c n).valid n = false) ∧
  (let first := (State.reset.core 0).tr
   (∀ c, c < 160 → (State.reset.core c).tr = first) ∧
   first.status.bank = .b1 ∧ first.status.busy .b1 = true ∧ first.status.busy .b2 = false ∧
   first.save1.estat.ceil = 2 ∧ first.save1.estat.ppriv = 2 ∧ first.save1.estat.pbank = 0 ∧
   ∀ (s : State) (c : Nat) (nx : RetNext) (p : BitVec 2), s.Ready c false → (s.core c).tr.status = first.status →
     (s.core c).tr.maint = false → p ≠ 3 → (s.core c).tr.save1.estat = { first.save1.estat with ppriv := p } →
     ∃ t, exec (.eret c nx) s = .next t ∧ (t.core c).level.num = p.toNat ∧ (t.core c).bank = .main ∧
       (t.core c).flow.pc = (s.core c).tr.save1.epc ∧ (t.core c).tr.status.busy .b1 = false)

/-- Invariant of every step: memory, and every saved or replicated part of it, keeps its canonical form. -/
def Obligations.MemoryInvariant : Prop :=
  ∀ s t : State, s.StoresOk → step s = .next t → t.StoresOk

/-! ### Scalar integer (R56, R57) -/

/-- R56: the register forms without overflow, each with its result and the distance at which it lands; all else of the
state but the core's flow and beat is as before.
R56: the immediate forms; SHI and LUI of a form the table does not give are illegal. -/
def Obligations.IntegerResults : Prop :=
  (∀ (s : State) (c : Nat) (rd rs1 rs2 : Reg), s.Ready c false →
     let a := (s.core c).rx rs1
     let b := (s.core c).rx rs2
     let n := b.toNat % 64
     let out (d : Nat) (v : Word) : Out := .next (s.upd c fun k => (k.landX d rd v).retire false)
     exec (.and c rd rs1 rs2) s = out 1 (a &&& b) ∧
     exec (.or c rd rs1 rs2) s = out 1 (a ||| b) ∧
     exec (.xor c rd rs1 rs2) s = out 1 (a ^^^ b) ∧
     exec (.sll c rd rs1 rs2) s = out 1 (a <<< n) ∧
     exec (.srl c rd rs1 rs2) s = out 1 (a >>> n) ∧
     exec (.sra c rd rs1 rs2) s = out 1 (a.sshiftRight n) ∧
     exec (.slt c rd rs1 rs2) s = out 1 (if a.toInt < b.toInt then 1 else 0) ∧
     exec (.sltu c rd rs1 rs2) s = out 1 (if a.toNat < b.toNat then 1 else 0) ∧
     exec (.min c rd rs1 rs2) s = out 1 (if a.toInt < b.toInt then a else b) ∧
     exec (.max c rd rs1 rs2) s = out 1 (if a.toInt < b.toInt then b else a) ∧
     exec (.minu c rd rs1 rs2) s = out 1 (if a.toNat < b.toNat then a else b) ∧
     exec (.maxu c rd rs1 rs2) s = out 1 (if a.toNat < b.toNat then b else a) ∧
     exec (.mulh c rd rs1 rs2) s = out 3 (BitVec.ofInt 64 (a.toInt * b.toInt / 2 ^ 64)) ∧
     exec (.mulhu c rd rs1 rs2) s = out 3 (BitVec.ofNat 64 (a.toNat * b.toNat / 2 ^ 64))) ∧
  (∀ (s : State) (c : Nat) (rd rs1 : Reg) (imm : BitVec 16), s.Ready c false →
     let a := (s.core c).rx rs1
     let z : Word := imm.setWidth 64
     let out (v : Word) : Out := .next (s.upd c fun k => (k.landX 1 rd v).retire false)
     let bad (e : Enc) : Out := .next { takeException c { cause := 1, edata0 := e.data } s with pending := s.pending }
     exec (.andi c rd rs1 imm) s = out (a &&& z) ∧
     exec (.ori c rd rs1 imm) s = out (a ||| z) ∧
     exec (.xori c rd rs1 imm) s = out (a ^^^ z) ∧
     exec (.slti c rd rs1 imm) s = out (if a.toInt < imm.toInt then 1 else 0) ∧
     exec (.ori16 c rd rs1 imm) s = out (a ||| z <<< 16) ∧
     exec (.ori32 c rd rs1 imm) s = out (a ||| z <<< 32) ∧
     exec (.ori48 c rd rs1 imm) s = out (a ||| z <<< 48) ∧
     (rs1 = 0 → exec (.lui c rd rs1 imm) s = out (imm.signExtend 64 <<< 16)) ∧
     (rs1 ≠ 0 → exec (.lui c rd rs1 imm) s = bad (encI 8 rd rs1 imm)) ∧
     (imm.toNat < 64 → exec (.shi c rd rs1 imm) s = out (a <<< (imm.toNat % 64))) ∧
     (64 ≤ imm.toNat → imm.toNat < 128 → exec (.shi c rd rs1 imm) s = out (a >>> (imm.toNat % 64))) ∧
     (128 ≤ imm.toNat → imm.toNat < 192 → exec (.shi c rd rs1 imm) s = out (a.sshiftRight (imm.toNat % 64))) ∧
     (192 ≤ imm.toNat → exec (.shi c rd rs1 imm) s = bad (encI 7 rd rs1 imm)))

/-- R56, R57, R124: ADD, SUB, MUL and ADDI give the exact result modulo 2^64; one that does not fit in 64 bits sets
AFLAGS.OV at the landing step, and in the maintenance state with TRAPOV it writes nothing and raises INT_OVF there. MULH and MULHU never
set OV.
R57, R124: the divides land at distance 18 with the fixed results for a divisor of zero and for −2^63 / −1, and set
DZ or OV with them; where the maintenance state traps the case, the trap is taken at issue with the flag set. -/
def Obligations.IntegerCorners : Prop :=
  (∀ (s : State) (c : Nat) (rd rs1 rs2 : Reg) (imm : BitVec 16), s.Ready c false →
     let k := s.core c
     let a := (k.rx rs1).toInt
     let b := (k.rx rs2).toInt
     let fits (i : Int) : Prop := -2 ^ 63 ≤ i ∧ i < 2 ^ 63
     let out (d : Nat) (i : Int) (o : Out) : Prop :=
       (fits i → o = .next (s.upd c fun k => (k.landX d rd (BitVec.ofInt 64 i)).retire false)) ∧
       (¬ fits i → ¬ (k.tr.trapov = true ∧ k.tr.maint = true) →
         o = .next (s.upd c fun k => ((k.landX d rd (BitVec.ofInt 64 i)).land d (.aflags true false)).retire false)) ∧
       (¬ fits i → k.tr.trapov = true → k.tr.maint = true →
         o = .next (s.upd c fun k => ((k.land d (.aflags true false)).delay
           ⟨k.tm.step, k.tm.step + d, none, { cause := 0x0D, edata0 := k.flow.pc }⟩).retire false))
     out 1 (a + b) (exec (.add c rd rs1 rs2) s) ∧
     out 1 (a - b) (exec (.sub c rd rs1 rs2) s) ∧
     out 3 (a * b) (exec (.mul c rd rs1 rs2) s) ∧
     out 1 (a + imm.toInt) (exec (.addi c rd rs1 imm) s) ∧
     exec (.mulh c rd rs1 rs2) s = .next (s.upd c fun k => (k.landX 3 rd (BitVec.ofInt 64 (a * b / 2 ^ 64))).retire false) ∧
     exec (.mulhu c rd rs1 rs2) s = .next (s.upd c fun k =>
       (k.landX 3 rd (BitVec.ofNat 64 ((k.rx rs1).toNat * (k.rx rs2).toNat / 2 ^ 64))).retire false)) ∧
  (∀ (s : State) (c : Nat) (rd rs1 rs2 : Reg), s.Ready c false →
     let k := s.core c
     let a := k.rx rs1
     let b := k.rx rs2
     let dz := decide (b = 0)
     let big := decide (a = 0x8000000000000000) && decide (b = BitVec.allOnes 64)
     let traps (z o : Bool) : Prop := k.tr.maint = true ∧ ((z = true ∧ k.tr.trapdz = true) ∨ (o = true ∧ k.tr.trapov = true))
     let out (z o : Bool) (v : Word) (r : Out) : Prop :=
       (¬ traps z o → r = .next (s.upd c fun k =>
         (if z || o then (k.landX 18 rd v).land 18 (.aflags o z) else k.landX 18 rd v).retire false)) ∧
       (traps z o → r = .next { takeException c { cause := if z then 0x0C else 0x0D, edata0 := k.flow.pc }
           (s.upd c fun k => { k with ov := k.ov || o, dz := k.dz || z }) with pending := s.pending })
     out dz big (if b = 0 then BitVec.allOnes 64 else BitVec.ofInt 64 (a.toInt.tdiv b.toInt)) (exec (.div c rd rs1 rs2) s) ∧
     out dz false (if b = 0 then BitVec.allOnes 64 else a / b) (exec (.divu c rd rs1 rs2) s) ∧
     out dz big (if b = 0 then a else BitVec.ofInt 64 (a.toInt.tmod b.toInt)) (exec (.rem c rd rs1 rs2) s) ∧
     out dz false (if b = 0 then a else a % b) (exec (.remu c rd rs1 rs2) s))

/-! ### Flow, landing, control transfers, local memory (R60 to R74, R84 to R86) -/

/-- R34, R65, R87: where issue goes after an instruction that transfers no control: on by its length; through the two slots
and then to the branch's target; again to itself while repetitions remain, REPC the number of those not yet issued. One step passes.
R87 to R90: REP and REP.U set the repetitions of the next instruction, or with a count of 0 pass over it; a count past
65,535, or past 2,048 at T for REP.U, or an instruction that may not be repeated is illegal. -/
def Obligations.NextInstruction : Prop :=
  (∀ (k : Core) (wide : Bool), let f := k.flow; let n : Word := if wide then 8 else 4; let g := (k.retire wide).flow
     (k.retire wide).tm.step = k.tm.step + 1 ∧
     (f.rep = none → f.slots = 0 → g.pc = f.pc + n ∧ g.slots = 0) ∧
     (f.rep = none → f.slots = 2 → g.pc = f.pc + n ∧ g.slots = 1 ∧ g.btgt = f.btgt) ∧
     (f.rep = none → f.slots = 1 → g.pc = f.btgt ∧ g.slots = 0) ∧
     (∀ r, f.rep = some r → 2 ≤ r.left → g.pc = f.pc ∧ g.rep = some { r with left := r.left - 1 } ∧
       g.repc = BitVec.ofNat 16 (r.left - 1)) ∧
     (∀ r, f.rep = some r → r.left ≤ 1 → g.pc = f.pc + n ∧ g.rep = none ∧ g.repc = 0)) ∧
  (∀ (s : State) (c : Nat) (rs : Reg) (imm : BitVec 16) (nx : RepNext), s.Ready c false →
     let k := s.core c
     let n := if rs = 0 then imm.toNat else (k.rx rs).toNat
     let set (u : Bool) : Out := .next (s.upd c fun k => ({ k with flow := { k.flow with
       hold := false, jump := none, barw := false, pc := k.flow.pc + 4,
       rep := some ⟨n, u, k.flow.pc, repWide nx, nx⟩, repc := BitVec.ofNat 16 n } }).beat)
     let pass : Out := .next (s.upd c fun k => ({ k with flow := { k.flow with
       hold := false, jump := none, barw := false, pc := k.flow.pc + (if repWide nx then 12 else 8), rep := none, repc := 0 } }).beat)
     let bad (u : Bool) : Out :=
       .next { takeException c { cause := 1, edata0 := (encP rs u imm).data } s with pending := s.pending }
     (repAllowed nx = true → n ≤ 65535 →
       exec (.rep c rs imm nx) s = (if n = 0 then pass else set false) ∧
       ((k.level = .t → n ≤ 2048) → exec (.repU c rs imm nx) s = (if n = 0 then pass else set true))) ∧
     (repAllowed nx = false ∨ 65535 < n → exec (.rep c rs imm nx) s = bad false ∧ exec (.repU c rs imm nx) s = bad true) ∧
     (k.level = .t → 2048 < n → exec (.repU c rs imm nx) s = bad true)) ∧
  (∀ (s : State) (c : Nat) (rd rs1 rs2 : Reg) (r : RepState), s.Idle c → fetchFault s c false .clean .clean = none → (s.core c).flow.slots = 0 →
     (s.core c).flow.rep = some r → 1 ≤ r.left →
     let sum := (s.core c).rx rs1 + (s.core c).rx rs2
     (repEnc r.next = encR 1 0 rd rs1 rs2 → addOv ((s.core c).rx rs1) ((s.core c).rx rs2) = false →
       exec (.add c rd rs1 rs2) s = .next (s.upd c fun k => (k.landX 1 rd sum).retire false)) ∧
     (repEnc r.next ≠ encR 1 0 rd rs1 rs2 → exec (.add c rd rs1 rs2) s = .next s))

/-- R60 to R62, R49: a pending write takes effect once the core's step reaches its landing step, not before; it writes its
register of its bank and no other, and x0 stays 0. RESULT_LANDS carries the core to that step.
R74, R169, R177: the earliest local load of a kind in flight turns out uncorrectable: it leaves the pending writes, so that
nothing is written, and its BUS_ERROR is due where it would have landed, with the load's address and PC (for TGET, its tile).
R451: an uncorrectable word with which the store just issued merged keeps the store's bytes, is poisoned and logged.
Where the spec leaves a choice open, the statement rests on the model's: log entry 35. -/
def Obligations.Landing : Prop :=
  ((∀ (s : State) (c : Nat) (b : Bank) (r : Reg) (v : Word) (l t : Nat), c < 160 → (s.core c).tm.pend = [⟨l, .x b r v, none⟩] →
     (t < l → landUpTo c t s = s) ∧
     (l ≤ t → let k := (landUpTo c t s).core c
       k.x.get b r = (if r = 0 then 0 else v) ∧ k.tm.pend = [] ∧
       ∀ b' r', (b', r') ≠ (b, r) → k.x.get b' r' = (s.core c).x.get b' r')) ∧
   (∀ (s : State) (c : Nat) (r : Reg) (v : Word) (l : Nat), c < 160 → (s.core c).canIssue = true → (s.core c).tm.delayed = [] →
     (s.core c).arr.queue = [] → (s.core c).arr.upd = [] → (s.core c).pw.calHold = none →
     (s.core c).tm.pend = [⟨l, .x (s.core c).bank r v, none⟩] → (s.core c).tm.step ≤ l →
     ∃ t, exec (.resultLands c) s = .next t ∧ (t.core c).tm.step = l ∧ (t.core c).tm.pend = [] ∧
       (t.core c).rx r = (if r = 0 then 0 else v) ∧ t.mem = s.mem)) ∧
  (∀ (s : State) (c : Nat) (p : Pend) (a pc : Word), c < 160 → (s.core c).tm.pend = [p] → (s.core c).tm.delayed = [] →
     let out (i : Instr) (dist : Nat) (trap : Trap) : Prop := ∃ t, exec i s = .next t ∧ (t.core c).tm.pend = [] ∧
       (∃ kd, (t.core c).tm.delayed = [⟨p.land - dist, p.land, some kd, trap⟩]) ∧
       (t.core c).x = (s.core c).x ∧ (t.core c).v = (s.core c).v ∧ t.mem = s.mem
     let bus : Trap := { cause := 3, reason := 0x54, edata0 := a, edata1 := pc }
     let fixed (i : Instr) : Prop := ∃ t, exec i s = .next t ∧ (t.core c).tm.pend = [p] ∧ (t.core c).tm.delayed = [] ∧
       (t.core c).x = (s.core c).x ∧ (t.core c).v = (s.core c).v ∧ t.mem = s.mem
     (p.load = some (.scalar, a, pc) → ∀ sym, fixed (.localLoadUe ⟨c, .fixed sym, none⟩)) ∧
     (p.load = some (.vector, a, pc) → ∀ sym, fixed (.localVloadUe ⟨c, .fixed sym⟩)) ∧
     (∀ tile bit, p.load = some (.tget tile, a, pc) → fixed (.tgetUe ⟨c, .fixed bit⟩)) ∧
     (p.load = some (.scalar, a, pc) → out (.localLoadUe ⟨c, .bad, none⟩) 6 bus) ∧
     (p.load = some (.vector, a, pc) → out (.localVloadUe ⟨c, .bad⟩) 10 bus) ∧
     (∀ tile : BitVec 4, p.load = some (.tget tile, a, pc) →
       out (.tgetUe ⟨c, .bad⟩) 10 { cause := 3, reason := 0x54, index := tile.setWidth 16, edata1 := pc })) ∧
  (∀ (s : State) (c i pa : Nat), c < 160 → let k := s.core c
     k.tm.merged.words[i]? = some pa → k.tm.step = k.tm.merged.step + 1 → s.isPoisoned pa 32 = false →
     ∃ t, exec (.localLoadUe ⟨c, .bad, some i⟩) s = .next t ∧ pa ∈ t.poison ∧ t.log.next = s.log.next + 1 ∧ t.mem = s.mem ∧
       ∀ d, (t.core d).x = (s.core d).x ∧ (t.core d).v = (s.core d).v ∧ (t.core d).tm = (s.core d).tm)

/-- R65, R67: a control transfer issues as a beat; its two delay slots follow and then its target, which for a branch not
taken is the address after the slots. No register and no byte of memory changes. -/
def Obligations.Branches : Prop :=
  ∀ (s : State) (c : Nat) (rs1 rs2 : Reg) (o16 : BitVec 16) (o26 : BitVec 26) (sl : SlotLens), s.Ready c false →
    let k := s.core c
    let a := k.rx rs1
    let b := k.rx rs2
    let pc := k.flow.pc
    let skip := pc + BitVec.ofNat 64 (4 + (if sl.w1 then 8 else 4) + (if sl.w2 then 8 else 4))
    let go (target : Word) : Out := .next (s.upd c fun k => ({ k with flow := { k.flow with
      pc := pc + 4, slots := 2, btgt := target, jump := some pc, hold := false, barw := false } }).beat)
    let near : Word := pc + 4 * o16.signExtend 64
    exec (.beq c rs1 rs2 o16 sl) s = go (if a = b then near else skip) ∧
    exec (.bne c rs1 rs2 o16 sl) s = go (if a ≠ b then near else skip) ∧
    exec (.blt c rs1 rs2 o16 sl) s = go (if a.toInt < b.toInt then near else skip) ∧
    exec (.bge c rs1 rs2 o16 sl) s = go (if b.toInt ≤ a.toInt then near else skip) ∧
    exec (.bltu c rs1 rs2 o16 sl) s = go (if a.toNat < b.toNat then near else skip) ∧
    exec (.bgeu c rs1 rs2 o16 sl) s = go (if b.toNat ≤ a.toNat then near else skip) ∧
    exec (.j c o26 sl) s = go (pc + 4 * o26.signExtend 64) ∧
    exec (.jr c rs1 sl) s = go a

/-- R66: a control transfer, REP, REP.U, GATE or ERET in a delay slot raises ILLEGAL_OP with its words as data and does nothing else: what the
branch before it did stands, a CALL's push with it. -/
def Obligations.NoTransferInSlot : Prop :=
  ∀ (s : State) (c : Nat) (o16 : BitVec 16) (o26 : BitVec 26) (sl : SlotLens) (rs1 rs2 : Reg) (nx : RepNext) (rn : RetNext) (err : WordErr) (n : BitVec 8),
    s.Idle c → (s.core c).flow.rep = none → fetchFault s c false .clean .clean = none → (s.core c).flow.slots ≠ 0 →
    let bad (i : Instr) (e : Enc) : Prop :=
      exec i s = .next { takeException c { cause := 1, edata0 := e.data } s with pending := s.pending }
    bad (.beq c rs1 rs2 o16 sl) (encI 0x20 rs1 rs2 o16) ∧
    bad (.bne c rs1 rs2 o16 sl) (encI 0x21 rs1 rs2 o16) ∧
    bad (.blt c rs1 rs2 o16 sl) (encI 0x22 rs1 rs2 o16) ∧
    bad (.bge c rs1 rs2 o16 sl) (encI 0x23 rs1 rs2 o16) ∧
    bad (.bltu c rs1 rs2 o16 sl) (encI 0x24 rs1 rs2 o16) ∧
    bad (.bgeu c rs1 rs2 o16 sl) (encI 0x25 rs1 rs2 o16) ∧
    bad (.j c o26 sl) (encJ 0x26 o26) ∧
    bad (.call c o26 ⟨sl, err⟩) (encJ 0x27 o26) ∧
    bad (.jr c rs1 sl) (encR 0x28 0 0 rs1 0) ∧
    bad (.callr c rs1 ⟨sl, err⟩) (encR 0x28 1 0 rs1 0) ∧
    bad (.ret c ⟨sl, err⟩) (encR 0x28 2 0 0 0) ∧
    bad (.rep c rs1 o16 nx) (encP rs1 false o16) ∧
    bad (.repU c rs1 o16 nx) (encP rs1 true o16) ∧
    bad (.gate c n) (encGate 0 n.toNat) ∧
    bad (.eret c rn) (encGate 1 0)

/-- R68, R69: a call stores its return address at RSP in the level's region of the core's slice, adds 8 to RSP at distance 1
and transfers; a return loads it back; RSP outside its bounds is CALL_OVERFLOW or CALL_UNDERFLOW; a word that its code cannot
correct is a BUS_ERROR with reason 0x54 that leaves RSP as it was, and a corrected one is logged. Every byte outside the stored word is
as before.
Where the spec leaves a choice open, the statement rests on the model's: log entry 11. -/
def Obligations.CallsAndReturns : Prop :=
  ∀ (s : State) (c : Nat) (off : BitVec 26) (rs1 : Reg) (sl : SlotLens) (sym : Nat), s.Ready c false →
    let k := s.core c
    let r := k.rs k.level
    let p := r.rsp.toNat
    let top := sliceBase c + rsRegion k.level
    let ret := k.flow.pc + BitVec.ofNat 64 (4 + (if sl.w1 then 8 else 4) + (if sl.w2 then 8 else 4))
    let called (o : Out) (target : Word) : Prop := ∃ t, o = .next t ∧
      t.core c = (k.land 1 (.rsp k.level (BitVec.ofNat 16 (p + 8)))).transfer target ∧
      (∀ x, t.mem.get x = if top + p ≤ x ∧ x < top + p + 8 then BitVec.ofNat 8 (ret.toNat / 256 ^ (x - (top + p)))
        else s.mem.get x)
    let bad (o : Out) (off : Nat) : Prop := s.isPoisoned (sliceBase c + off) 8 = false → (s.core c).tr.status.resc = false →
      ∀ d, d = s.desc c 3 → d.valid 3 = true → k.level.num ≤ d.tpriv → k.tr.status.busy d.bank = false → k.bank ≠ d.bank →
      ∃ t, o = .next t ∧ let v := (t.core c).tr.save d.bank
        v.ecause = 0x5403 ∧ v.edata0 = BitVec.ofNat 64 off ∧ v.edata1 = k.flow.pc ∧ v.epc = k.flow.pc ∧
        (t.core c).rs k.level = r ∧ t.mem = s.mem ∧ t.log.next = s.log.next + 1
    (p + 8 ≤ r.rsl.toNat → p + 8 ≤ 32768 →
      (s.isPoisoned (top + p) 8 = false →
        called (exec (.call c off ⟨sl, .clean⟩) s) (k.flow.pc + 4 * off.signExtend 64) ∧
        called (exec (.callr c rs1 ⟨sl, .clean⟩) s) (k.rx rs1) ∧
        ∃ t, exec (.call c off ⟨sl, .fixed sym⟩) s = .next t ∧ t.log.next = s.log.next + 1 ∧
          (t.core c).flow = (k.transfer (k.flow.pc + 4 * off.signExtend 64)).flow) ∧
      bad (exec (.call c off ⟨sl, .bad⟩) s) (rsRegion k.level + p) ∧ bad (exec (.callr c rs1 ⟨sl, .bad⟩) s) (rsRegion k.level + p)) ∧
    (r.rsb.toNat < p → 8 ≤ p → p ≤ 32768 →
      (s.isPoisoned (top + p - 8) 8 = false → exec (.ret c ⟨sl, .clean⟩) s = .next (s.upd c fun k =>
        (k.land 1 (.rsp k.level (BitVec.ofNat 16 (p - 8)))).transfer (BitVec.ofNat 64 (s.mem.nat (top + (p - 8)) 8)))) ∧
      bad (exec (.ret c ⟨sl, .bad⟩) s) (rsRegion k.level + p - 8)) ∧
    (∀ err, r.rsl.toNat < p + 8 →
      exec (.call c off ⟨sl, err⟩) s =
        .next { takeException c { cause := 6, edata0 := BitVec.ofNat 64 p } s with pending := s.pending }) ∧
    (∀ err, p ≤ r.rsb.toNat →
      exec (.ret c ⟨sl, err⟩) s = .next { takeException c { cause := 7, edata0 := BitVec.ofNat 64 p } s with pending := s.pending })

/-- R71, R72, R50: a local load reads its bytes at issue from the window's place in the slice and lands at distance 6,
extended as its name says; nothing else of the state changes. A load or store at a misaligned address, or at one outside the window, faults.
R71, R72: a local store writes the low bytes of its register at the window's place in the slice, lowest byte first, and
nothing else of memory; no register changes and the core moves on. R451: where the word is poisoned it stays so, and the store logs it.
Where the spec leaves a choice open, the statement rests on the model's: log entry 11. -/
def Obligations.LocalAccess : Prop :=
  (∀ (s : State) (c : Nat) (rd rs1 : Reg) (imm : BitVec 16), s.Ready c false →
     let k := s.core c
     let a := k.rx rs1 + imm.signExtend 64
     let pa := s.windowPa c a.toNat
     let ok (n : Nat) : Prop := a.toNat % n = 0 ∧ k.inWindow a.toNat n = true ∧ s.isPoisoned pa n = false
     let get (n : Nat) (w : Nat → PendW) : Out :=
       .next (s.upd c fun k => (k.addPend ⟨k.tm.step + 6, w (s.mem.nat pa n), some (.scalar, a, k.flow.pc)⟩).retire false)
     let sx (n : Nat) (v : Nat) : PendW := .x k.bank rd (BitVec.ofInt 64 (BitVec.ofNat (8 * n) v).toInt)
     let zx (v : Nat) : PendW := .x k.bank rd (BitVec.ofNat 64 v)
     (ok 1 → exec (.lb c rd rs1 imm) s = get 1 (sx 1) ∧ exec (.lbu c rd rs1 imm) s = get 1 zx) ∧
     (ok 2 → exec (.lh c rd rs1 imm) s = get 2 (sx 2) ∧ exec (.lhu c rd rs1 imm) s = get 2 zx) ∧
     (ok 4 → exec (.lw c rd rs1 imm) s = get 4 (sx 4) ∧ exec (.lwu c rd rs1 imm) s = get 4 zx ∧
       exec (.lwf c rd rs1 imm) s = get 4 fun v => .f rd (BitVec.ofNat 64 v)) ∧
     (ok 8 → exec (.ld c rd rs1 imm) s = get 8 zx ∧ exec (.ldf c rd rs1 imm) s = get 8 fun v => .f rd (BitVec.ofNat 64 v)) ∧
     ∀ i ∈ ([(1, .lb c rd rs1 imm), (1, .lbu c rd rs1 imm), (2, .lh c rd rs1 imm), (2, .lhu c rd rs1 imm), (4, .lw c rd rs1 imm),
         (4, .lwu c rd rs1 imm), (4, .lwf c rd rs1 imm), (8, .ld c rd rs1 imm), (8, .ldf c rd rs1 imm), (1, .sb c rd rs1 imm),
         (2, .sh c rd rs1 imm), (4, .sw c rd rs1 imm), (4, .swf c rd rs1 imm), (8, .sd c rd rs1 imm), (8, .stf c rd rs1 imm)] :
         List (Nat × Instr)),
       (a.toNat % i.1 ≠ 0 → exec i.2 s =
         .next { takeException c { cause := 2, edata0 := a, edata1 := k.flow.pc } s with pending := s.pending }) ∧
       (a.toNat % i.1 = 0 → k.inWindow a.toNat i.1 = false → exec i.2 s =
         .next { takeException c { cause := 3, edata0 := a, edata1 := k.flow.pc } s with pending := s.pending })) ∧
  (∀ (s : State) (c : Nat) (rs2 rs1 : Reg) (imm : BitVec 16), s.Ready c false →
     let k := s.core c
     let a := k.rx rs1 + imm.signExtend 64
     let pa := s.windowPa c a.toNat
     let put (n : Nat) (v : Word) (i : Instr) : Prop := a.toNat % n = 0 → k.inWindow a.toNat n = true →
       ∃ t ws, exec i s = .next t ∧
         let kept := { k with tm := { k.tm with merged := ⟨k.tm.step, k.flow.pc, ws⟩ } }.retire false
         (s.isPoisoned pa n = false → t.core c = kept) ∧
         (s.isPoisoned pa n = true → t.core c = { kept with tr := (t.core c).tr } ∧ t.isPoisoned pa n = true ∧ s.log.next < t.log.next) ∧
         ∀ x, t.mem.get x = if pa ≤ x ∧ x < pa + n then BitVec.ofNat 8 (v.toNat / 256 ^ (x - pa)) else s.mem.get x
     put 1 (k.rx rs2) (.sb c rs2 rs1 imm) ∧
     put 2 (k.rx rs2) (.sh c rs2 rs1 imm) ∧
     put 4 (k.rx rs2) (.sw c rs2 rs1 imm) ∧
     put 8 (k.rx rs2) (.sd c rs2 rs1 imm) ∧
     put 8 (k.rf rs2) (.stf c rs2 rs1 imm) ∧
     put 4 (k.rf rs2) (.swf c rs2 rs1 imm))

/-- R84 to R86: a Carousel access of a set that R86 accepts reads or writes at the set's base plus the index (taken modulo
the length in the linear mode), and its index register moves on by the stride, modulo the length, at distance 1. A set that
R86 does not accept is CAR_CFG, an address off its size MISALIGNED, one outside the window BUS_ERROR; a size code above 3, and a load into
its own index register, are illegal.
Where the spec leaves a choice open, the statement rests on the model's: log entry 11. -/
def Obligations.CarouselAccess : Prop :=
  ∀ (s : State) (c : Nat) (r xi : Reg) (set size : BitVec 3) (sx : Bool), s.Ready c false →
    let k := s.core c
    let n := 2 ^ size.toNat
    let bad (i : Instr) (x : Trap) : Prop := exec i s = .next { takeException c x s with pending := s.pending }
    let both (x : Trap) : Prop := (r ≠ xi → bad (.ldC c r xi set size sx) x) ∧ bad (.stC c r xi set size sx) x
    (3 < size.toNat → bad (.ldC c r xi set size sx) { cause := 1, edata0 := (encC r xi set size 0 sx).data } ∧
      bad (.stC c r xi set size sx) { cause := 1, edata0 := (encC r xi set size 1 sx).data }) ∧
    (r = xi → bad (.ldC c r xi set size sx) { cause := 1, edata0 := (encC r xi set size 0 sx).data }) ∧
    (size.toNat ≤ 3 →
    let a := k.carAddr set n (k.rx xi)
    let pa := s.windowPa c a.toNat
    let next : Word := BitVec.ofNat 64 (((k.rx xi).toNat + k.stride set) % (k.cl set : Int)).toNat
    (k.carMode set = false → 0 < k.cl set → a = k.cb set + BitVec.ofNat 64 ((k.rx xi).toNat % k.cl set)) ∧
    (k.carOk set n = true → a.toNat % n = 0 → k.inWindow a.toNat n = true → k.carSum set n (k.rx xi) < 2 ^ 64 →
      (r ≠ xi → s.isPoisoned pa n = false →
        exec (.ldC c r xi set size sx) s = .next (s.upd c fun k =>
          (((k.addPend ⟨k.tm.step + 6, .x k.bank r (if sx then BitVec.ofInt 64 (BitVec.ofNat (8 * n) (s.mem.nat pa n)).toInt
            else BitVec.ofNat 64 (s.mem.nat pa n)), some (.scalar, a, k.flow.pc)⟩).landX 1 xi next).retire false))) ∧
      ∃ t ws, exec (.stC c r xi set size sx) s = .next t ∧
        let k' := { k with tm := { k.tm with merged := ⟨k.tm.step, k.flow.pc, ws⟩ } }
        let kept := (k'.landX 1 xi next).retire false
        t.core c = { kept with tr := (t.core c).tr } ∧ (s.isPoisoned pa n = false → t.core c = kept) ∧
        ∀ x, t.mem.get x = if pa ≤ x ∧ x < pa + n then BitVec.ofNat 8 ((k.rx r).toNat / 256 ^ (x - pa)) else s.mem.get x) ∧
    (k.carOk set n = true → a.toNat % n ≠ 0 → both { cause := 2, edata0 := a, edata1 := k.flow.pc }) ∧
    (k.carOk set n = true → a.toNat % n = 0 → k.inWindow a.toNat n = false ∨ 2 ^ 64 ≤ k.carSum set n (k.rx xi) →
      both { cause := 3, edata0 := a, edata1 := k.flow.pc }) ∧
    (k.carOk set n = false → both { cause := 4, index := set.setWidth 16 }))

/-! ### Scalar floating point and the number formats (R50, R59, R125 to R141) -/

/-- R134, R137: an encoding of a finite value or an infinity, decoded and encoded again, is itself, with no flag: in FP32,
BF16, FP16 and E5M2, and for every finite value in E4M3 and E2M1.
R138, R139, in FP32: an addition, subtraction, multiplication, division or square root with a NaN operand gives the canonical NaN, with NV
exactly where an operand signals; a fused multiply-add gives it too, with NV where an operand signals; so, with NV, do the sum of unlike and the difference of like infinities,
0 times an infinity, 0/0, ∞/∞ and the square root of a negative number, −∞ among them. x/0 is an infinity with DZ. FMIN and FMAX give the
other operand where one is a NaN, the canonical NaN where both are, and the lesser or greater by value with −0 below +0. FEQ of a NaN is
false, with NV where it signals; FLT and FLE are false with NV. -/
def Obligations.NumberFormats : Prop :=
  (∀ f ∈ [fp32, bf16, fp16, e5m2, e4m3, e2m1], ∀ v : Nat, v < 2 ^ f.width → (f.decode v).isNan = false →
     f.encode (f.decode v) = (v, 0)) ∧
  (let nan : BitVec 32 := 0x7FC00000
   let bad (sig : Bool) : BitVec 32 × FF := (nan, if sig then ffNV else 0)
   let neg (a : BitVec 32) : Prop := (∃ m e, f32 a = .fin true m e ∧ m ≠ 0) ∨ f32 a = .inf true
   let less (a b : FV) : Prop := FV.cmp a b < 0 ∨ (FV.cmp a b = 0 ∧ a.signBit = true ∧ b.signBit = false)
   (∀ a b : BitVec 32, (f32 a).isNan = true ∨ (f32 b).isNan = true →
     let sig := (f32 a).isSig || (f32 b).isSig
     faddB a b = bad sig ∧ fsubB a b = bad sig ∧ fmulB a b = bad sig ∧ fdivB a b = bad sig ∧
     FV.rel 0 (f32 a) (f32 b) = (false, if sig then ffNV else 0) ∧ FV.rel 1 (f32 a) (f32 b) = (false, ffNV) ∧
     FV.rel 2 (f32 a) (f32 b) = (false, ffNV) ∧
     ∀ mx, (FV.minmax mx (f32 a) (f32 b)).2 = (if sig then ffNV else 0) ∧
       (FV.minmax mx (f32 a) (f32 b)).1 = (if (f32 a).isNan then (if (f32 b).isNan then .nan false else f32 b) else f32 a)) ∧
   (∀ a : BitVec 32, (f32 a).isNan = true → fsqrtB a = bad (f32 a).isSig) ∧
   (∀ a b d : BitVec 32, (f32 a).isNan = true ∨ (f32 b).isNan = true ∨ (f32 d).isNan = true →
     (roundOp ((f32 a).fma (f32 b) (f32 d))).1 = nan ∧
     (((f32 a).isSig || (f32 b).isSig || (f32 d).isSig) = true → (roundOp ((f32 a).fma (f32 b) (f32 d))).2 = ffNV)) ∧
   (∀ (a b : BitVec 32) (n p : Bool), f32 a = .inf n → f32 b = .inf p →
     (n ≠ p → faddB a b = (nan, ffNV)) ∧ (n = p → fsubB a b = (nan, ffNV)) ∧ fdivB a b = (nan, ffNV)) ∧
   (∀ a b : BitVec 32, (∃ n, f32 a = .inf n) → (f32 b).isZero = true → fmulB a b = (nan, ffNV) ∧ fmulB b a = (nan, ffNV)) ∧
   (∀ a b : BitVec 32, (f32 a).isZero = true → (f32 b).isZero = true → fdivB a b = (nan, ffNV)) ∧
   (∀ a b : BitVec 32, (∃ n m e, f32 a = .fin n m e ∧ m ≠ 0) → (f32 b).isZero = true →
     (fdivB a b).2 = ffDZ ∧ (fdivB a b).1.setWidth 31 = (0x7F800000 : BitVec 31)) ∧
   (∀ a : BitVec 32, neg a → fsqrtB a = (nan, ffNV)) ∧
   (∀ a b : BitVec 32, (f32 a).isNan = false → (f32 b).isNan = false →
     (less (f32 a) (f32 b) → FV.minmax false (f32 a) (f32 b) = (f32 a, 0) ∧ FV.minmax true (f32 a) (f32 b) = (f32 b, 0)) ∧
     (less (f32 b) (f32 a) → FV.minmax false (f32 a) (f32 b) = (f32 b, 0) ∧ FV.minmax true (f32 a) (f32 b) = (f32 a, 0))))

/-- R50, R59, R60, R140, R141: the floating-point forms: the exact result of the operation rounded once, in f[rd] with bits
63:32 zero, or the truth value or integer in x[rd], at its distance; its flags are ORed into FFLAGS at the same step. -/
def Obligations.FloatResults : Prop :=
  ∀ (s : State) (c : Nat) (rd rs1 rs2 rs3 : Reg), s.Ready c false →
    let k := s.core c
    let a : FV := f32 ((k.rf rs1).setWidth 32)
    let b : FV := f32 ((k.rf rs2).setWidth 32)
    let z : FV := f32 ((k.rf rs3).setWidth 32)
    let flags (d : Nat) (f : FF) (k : Core) : Core := if f = 0 then k else k.land d (.fflags f)
    let out (d : Nat) (r : BitVec 32 × FF) : Out :=
      .next (s.upd c fun k => (flags d r.2 (k.land d (.f rd (r.1.setWidth 64)))).retire false)
    let int (d : Nat) (v : Word) (f : FF) : Out := .next (s.upd c fun k => (flags d f (k.landX d rd v)).retire false)
    let rel (r : Bool × FF) : Out := int 2 (if r.1 then 1 else 0) r.2
    exec (.fadd c rd rs1 rs2) s = out 4 (roundOp (a.add b)) ∧
    exec (.fsub c rd rs1 rs2) s = out 4 (roundOp (a.add b.neg)) ∧
    exec (.fmul c rd rs1 rs2) s = out 4 (roundOp (a.mul b)) ∧
    exec (.fdiv c rd rs1 rs2) s = out 14 (roundOp (a.div b)) ∧
    exec (.fsqrt c rd rs1) s = out 14 (roundOp a.sqrt) ∧
    exec (.fmin c rd rs1 rs2) s = out 2 (roundOp (FV.minmax false a b)) ∧
    exec (.fmax c rd rs1 rs2) s = out 2 (roundOp (FV.minmax true a b)) ∧
    exec (.fabs c rd rs1) s = out 2 ((k.rf rs1).setWidth 32 &&& 0x7FFFFFFF, 0) ∧
    exec (.fneg c rd rs1) s = out 2 ((k.rf rs1).setWidth 32 ^^^ 0x80000000, 0) ∧
    exec (.fma c rd rs1 rs2 rs3) s = out 4 (roundOp (a.fma b z)) ∧
    exec (.fms c rd rs1 rs2 rs3) s = out 4 (roundOp (a.fma b z.neg)) ∧
    exec (.fnma c rd rs1 rs2 rs3) s = out 4 (roundOp (a.neg.fma b z)) ∧
    exec (.fnms c rd rs1 rs2 rs3) s = out 4 (roundOp (a.neg.fma b z.neg)) ∧
    exec (.feq c rd rs1 rs2) s = rel (FV.rel 0 a b) ∧
    exec (.flt c rd rs1 rs2) s = rel (FV.rel 1 a b) ∧
    exec (.fle c rd rs1 rs2) s = rel (FV.rel 2 a b) ∧
    exec (.fcvtSL c rd rs1) s = out 4 (toF32 (.ofInt (k.rx rs1).toInt)) ∧
    exec (.fcvtLS c rd rs1) s = int 4 (BitVec.ofInt 64 (a.toInt .rne 64).1) (a.toInt .rne 64).2 ∧
    exec (.fmvXF c rd rs1) s = .next (s.upd c fun k => (k.landX 1 rd (k.rf rs1)).retire false) ∧
    exec (.fmvFX c rd rs1) s = .next (s.upd c fun k => (k.land 1 (.f rd (k.rx rs1))).retire false)

/-! ### Far work and counters (R73 to R83) -/

/-- R75, R78: a far load or store issues as one piece of counted work of the core: its counter
rises, its address, bytes and counter are captured, and no register and no byte of memory changes. A form that the table does not give, and
a counter of cc14 or cc15 at T, is illegal; an address off its size is MISALIGNED; a counter at 65,535 is CC_LIMIT.
R73, R75, R77, R82: the oldest far load of a core, when it reaches its home in a core store or hub, obtains the bytes its
address translates to; completing, it writes its register, extended as it asks, and its counter falls by 1.
R72, R75, R170: the oldest far store of a core, scalar or vector, when it reaches its homes in core stores, writes its bytes at the places its
addresses translate to, a later element over an earlier one, and no other byte; no general, vector or tile register changes.
Where the spec leaves a choice open, the statement rests on the model's: log entry 10. -/
def Obligations.FarAccess : Prop :=
  (∀ (s : State) (c : Nat) (r rs1 : Reg) (cc : BitVec 4) (size : BitVec 3) (fp sx : Bool), s.Ready c false →
     let k := s.core c
     let a := k.rx rs1
     let n := 2 ^ size.toNat
     let issued (i : Instr) (runs : List (Word × Nat)) (puts : List (Word × List Byte)) : Prop :=
       ∃ t w, exec i s = .next t ∧ t.works = s.works ++ [w] ∧ w.core = c ∧ w.cc = cc.toNat ∧ w.addr = a ∧ w.runs = runs ∧
         w.puts = puts ∧ w.stage = (if s.tagsFree w then .going else .untagged) ∧ w.pc = k.flow.pc ∧ t.mem = s.mem ∧
         (t.core c).outst cc.toNat = k.outst cc.toNat + 1 ∧ (t.core c).x = k.x ∧ (t.core c).v = k.v ∧
         (t.core c).flow = k.flow.advance false ∧ ∀ d, d ≠ c → t.core d = s.core d
     (size.toNat ≤ 3 → (fp = true → 2 ≤ size.toNat ∧ sx = false) → a.toNat % n = 0 → k.CcFree cc →
       issued (.fld c r rs1 cc size fp sx) [(a, n)] [] ∧
       issued (.fst c r rs1 cc size fp sx) [] [(a, leBytes n (if fp then k.rf r else k.rx r).toNat)]) ∧
     let right : Prop := size.toNat ≤ 3 ∧ (fp = true → 2 ≤ size.toNat ∧ sx = false)
     let free : Prop := k.ccDenied cc = false ∧ k.ccResv cc = false ∧ k.ccHidden cc.toNat = false
     ∀ i ∈ ([(0, .fld c r rs1 cc size fp sx), (1, .fst c r rs1 cc size fp sx)] : List (Nat × Instr)),
       let bad (x : Trap) : Prop := exec i.2 s = .next { takeException c x s with pending := s.pending }
       (¬ right ∨ k.ccDenied cc = true → bad { cause := 1, edata0 := (encF r rs1 cc size i.1 fp sx).data }) ∧
       (right → free → a.toNat % n ≠ 0 → bad { cause := 2, edata0 := a, edata1 := k.flow.pc }) ∧
       (right → free → a.toNat % n = 0 → 65535 ≤ k.outst cc.toNat → bad { cause := 5, index := cc.setWidth 16 })) ∧
  (∀ (s : State) (w : Work) (b : Bank) (rd : Reg) (sx : Bool) (n pa : Nat), s.NoWaits → s.OnlyWork w →
     w.core < 144 → w.cc < 16 → w.kind = .fld b rd false sx → w.runs = [(w.addr, n)] → n ∈ [1, 2, 4, 8] → w.puts = [] →
     w.seen = [] → w.addr.toNat % n = 0 →
     s.translate w.part w.priv true false w.addr.toNat = .ok pa → s.Readable pa n →
     (∃ d, homeOf pa = some (0, d)) → s.preempted w.core w.group = false → s.behind w = false →
     (∃ t w', exec (.farAccessAtSlice w.id .none) s = .next t ∧ t.works = [w'] ∧ w'.stage = .applied (s.mem.bytes pa n) ∧
       t.mem = s.mem ∧ (t.core w.core).x = (s.core w.core).x) ∧
     (∃ t, exec (.farAccessComplete w.id .none) s = .next t ∧ t.works = [] ∧ t.mem = s.mem ∧
       (t.core w.core).x = (s.core w.core).x.set b rd (if sx then BitVec.ofInt 64 (BitVec.ofNat (8 * n) (s.mem.nat pa n)).toInt
         else BitVec.ofNat 64 (s.mem.nat pa n)) ∧
       (t.core w.core).outst w.cc = (s.core w.core).outst w.cc - 1 ∧ (t.core w.core).cnt.ccerr = (s.core w.core).cnt.ccerr)) ∧
  (∀ (s : State) (w : Work) (pa : Nat → Nat), s.NoWaits → s.OnlyWork w → w.core < 144 → w.cc < 16 →
     w.kind = .fst ∨ w.kind = .vfst → w.runs = [] → w.puts ≠ [] → w.seen = [] → s.behind w = false →
     (∀ i q, w.puts[i]? = some q → q.2.length ∈ [1, 2, 4, 8] ∧ q.1.toNat % q.2.length = 0 ∧
       s.translate w.part w.priv false true q.1.toNat = .ok (pa i) ∧ s.Readable (pa i) q.2.length ∧ ∃ d, homeOf (pa i) = some (0, d)) →
     let stored (t : State) : Prop := (∀ c, (t.core c).x = (s.core c).x ∧ (t.core c).v = (s.core c).v ∧ (t.core c).tiles = (s.core c).tiles) ∧
       ∀ x, t.mem.get x = match (List.range w.puts.length).reverse.find? (fun i =>
           decide (pa i ≤ x ∧ x < pa i + (w.puts.getD i (0, [])).2.length)) with
         | some i => (w.puts.getD i (0, [])).2.getD (x - pa i) 0
         | none => s.mem.get x
     (∃ t, exec (.farAccessAtSlice w.id .none) s = .next t ∧ t.works = [{ w with stage := .applied [] }] ∧ stored t) ∧
     (∃ t, exec (.farAccessComplete w.id .none) s = .next t ∧ t.works = [] ∧ stored t ∧
       (t.core w.core).outst w.cc = (s.core w.core).outst w.cc - 1 ∧ (t.core w.core).cnt.ccerr = (s.core w.core).cnt.ccerr))

/-- R80 to R82: WAITC of a counter at or below its threshold with no failure writes the count at once and the core goes on;
of a counter above it, the core waits; with TEST it reads the count at distance 1; a failed counter is a BUS_ERROR that
carries the first failure's record. A wait whose deadline comes unsatisfied is a WAIT_TIMEOUT at the waiting instruction.
R81, R336, R337: a wait on a counter whose deadline comes with the counter still above its threshold and no work
completing: WAIT_TIMEOUT is raised at the waiting instruction with the counter as its index, and logged.
Where the spec leaves a choice open, the statement rests on the model's: log entry 6. -/
def Obligations.CounterWaits : Prop :=
  (∀ (s : State) (c : Nat) (rd rs1 : Reg) (cc : BitVec 4) (l : Bool) (n : BitVec 10), s.Ready c false →
     let k := s.core c
     let m := k.outst cc.toNat
     k.ccDenied cc = false → k.ccResv cc = false → k.ccHidden cc.toNat = false →
     exec (.waitc c rd rs1 cc l true n) s = .next (s.upd c fun k => (k.landX 1 rd (BitVec.ofNat 64 m)).retire false) ∧
     (m ≤ n.toNat → k.cnt.ccerr.getLsbD cc.toNat = false → ∃ t, exec (.waitc c rd rs1 cc l false n) s = .next t ∧
       (t.core c).rx rd = (if rd = 0 then 0 else BitVec.ofNat 64 m) ∧ (t.core c).wait = none ∧
       (t.core c).flow = k.flow.advance false ∧ t.mem = s.mem) ∧
     (n.toNat < m → ∃ t w, exec (.waitc c rd rs1 cc l false n) s = .next t ∧ (t.core c).wait = some w ∧
       w.kind = .counter cc.toNat n.toNat ∧ w.start = s.time ∧
       w.deadline = s.time + (if k.rx rs1 = 0 then k.idn.wtoDef.toNat else (k.rx rs1).toNat) ∧
       (t.core c).x = k.x ∧ (t.core c).flow = k.flow.waiting ∧ t.mem = s.mem) ∧
     (m ≤ n.toNat → k.cnt.ccerr.getLsbD cc.toNat = true → let r := vget k.cnt.recs cc.toNat .zero
       exec (.waitc c rd rs1 cc l false n) s = .next { takeException c
         { cause := 3, reason := r.reason, index := cc.setWidth 16, edata0 := r.addr, edata1 := r.pc } s with pending := s.pending })) ∧
  (∀ (s : State) (c : Nat) (w : Wait) (cc n : Nat) (d : Desc), c < 144 → (s.core c).inSvc = true → (s.core c).pw.ring = true →
     (s.core c).pw.stopped = false → (s.core c).wait = some w → w.kind = .counter cc n → w.lowered = false → cc < 16 → (∀ i, (vget (s.core c).slots i .reset).st ≠ .sender) →
     n < (s.core c).outst cc → (s.core c).ccHidden cc = false → (s.core c).tm.pend = [] → (s.core c).tm.delayed = [] → (s.core c).arr.queue = [] →
     (s.core c).arr.upd = [] → (s.core c).pw.calHold = none → (s.core c).tr.status.resc = false →
     d = s.desc c 8 → d.valid 8 = true → (s.core c).level.num ≤ d.tpriv → (s.core c).tr.status.busy d.bank = false →
     ∃ t, exec (.waitTimeout c) s = .next t ∧ t.time = (s.tickTo w.deadline).time ∧ (t.core c).wait = none ∧
       ((t.core c).tr.save d.bank).ecause.toNat % 256 = 8 ∧ ((t.core c).tr.save d.bank).ecause.toNat / 2 ^ 16 = cc ∧
       ((t.core c).tr.save d.bank).epc = (s.core c).flow.resume ∧ (t.core c).flow.pc = BitVec.ofNat 64 d.haddr ∧
       (t.core c).outst cc = (s.core c).outst cc ∧ t.mem = s.mem ∧ t.log.next = s.log.next + 1)

/-! ### Repeat prefix and system registers (R87 to R91, R101, R108, R123, R334, R507) -/

/-- R91, R64: a legal write of a system register takes effect at distance 3, at the level at which it was issued; one to a
register that the level may only read is ignored; an access the level has not is illegal, as is an op past CSRC or one of CSRW to CSRC
with rd not x0; CSRR reads the register at issue into rd at distance 1. MCTL is M's to write (R123),
BARMASK M's (R334), STATUS and TCMP S's and M's (R108, R507); DTW captures the descriptor registers (R101).
R91: a system register that a level may write whole reads back what CSRW, CSRS or CSRC made of it: the new value, the
old one with bits set, the old one with bits cleared; and the write changes no memory and no other core. -/
def Obligations.SystemRegisters : Prop :=
  (∀ (s : State) (c : Nat) (op : CsrOp) (num : BitVec 12) (rd rs1 : Reg) (code : BitVec 4), s.Ready c false →
     let k := s.core c
     let v := k.rx rs1
     let lands (n : Nat) : Out := .next (s.upd c fun k => (k.land 3 (.csr k.level op n v)).retire false)
     let dtw (wr rd : Bool) : Out :=
       .next (s.upd c fun k => (k.land 3 (.dtw wr rd k.level k.tr.dtidx k.tr.dtd)).retire false)
     let ignored : Out := .next (s.upd c fun k => k.retire false)
     let illegal (n : BitVec 12) : Out :=
       .next { takeException c { cause := 1, edata0 := (encY 0 rs1 (csrOpCode op) n).data } s with pending := s.pending }
     (csrLegal k num.toNat k.level = true → num ≠ 0x10D →
       exec (.csrWrite c (BitVec.ofNat 4 (csrOpCode op)) num ⟨0, rs1⟩) s = if csrAcc num.toNat k.level = .ro then ignored else
         lands (csrExplicit num.toNat k.level k.bank)) ∧
     (csrLegal k num.toNat k.level = false → exec (.csrWrite c (BitVec.ofNat 4 (csrOpCode op)) num ⟨0, rs1⟩) s = illegal num) ∧
     let bad (code : BitVec 4) (rd : Reg) : Out :=
       .next { takeException c { cause := 1, edata0 := (encY rd rs1 code.toNat num).data } s with pending := s.pending }
     exec (.csrWrite c 0 num ⟨rd, rs1⟩) s = (if csrLegal k num.toNat k.level = false then bad 0 rd
       else .next (s.upd c fun k => (k.landX 1 rd (if csrAcc num.toNat k.level = .wo then 0 else
         BitVec.ofNat 64 (csrVal s c k.level (csrExplicit num.toNat k.level k.bank)))).retire false)) ∧
     (4 ≤ code.toNat ∨ (code ≠ 0 ∧ rd ≠ 0) → exec (.csrWrite c code num ⟨rd, rs1⟩) s = bad code rd) ∧
     exec (.mctlWrite c op rs1) s = (match k.level with | .t => illegal 0x103 | .s => ignored | .m => lands 0x103) ∧
     exec (.statusBankDiscard c op rs1) s = (match k.level with | .t => ignored | _ => lands 0x100) ∧
     exec (.barmaskWrite c op rs1) s = (match k.level with | .m => lands 0x420 | _ => ignored) ∧
     exec (.tcmpWrite c op rs1) s = (match k.level with | .t => illegal 0x201 | _ => lands 0x201) ∧
     (k.level = .m → op = .write → exec (.dtwStore c op rs1) s = dtw (v.getLsbD 0) (v.getLsbD 1) ∧
       exec (.dtwLoad c op rs1) s = dtw (v.getLsbD 0) (v.getLsbD 1)) ∧
     (k.level = .t → exec (.dtwStore c op rs1) s = illegal 0x10D ∧ exec (.dtwLoad c op rs1) s = illegal 0x10D)) ∧
  (∀ (s : State) (c : Nat) (op : CsrOp) (v : Word), c < 160 →
     ∀ n ∈ [0x38, 0x39, 0x3C, 0x40, 0x47, 0x130, 0x133, 0x204, 0x340, 0x341, 0x342, 0x3F1, 0x512],
       let old : Word := BitVec.ofNat 64 (csrVal s c .m n)
       let t := csrLand s c .m op n v
       csrVal t c .m n = (match op with | .write => v | .set => old ||| v | .clear => old &&& ~~~v).toNat ∧
       t.mem = s.mem ∧ ∀ d, d ≠ c → t.core d = s.core d)

/-! ### Exceptions, gates, the return (R102 to R122) -/

/-- R102 to R104, R106, R109, R110: a synchronous cause whose descriptor is valid, targets the level or above and finds its
bank free: the bank's save registers take the PC of the instruction not issued, the state left, the cause and its data; the
core goes to the descriptor's level and bank with interrupts off, at its handler, at least 8 steps on. The bank that was
left, the vector registers and all of memory are as before. -/
def Obligations.ExceptionEntry : Prop :=
  ∀ (s : State) (c : Nat) (w0 : Word32) (w1 : Option Word32) (d : Desc), s.Ready c w1.isSome → (Enc.mk w0 w1).formed = true → (Enc.mk w0 w1).assigned = false →
    (s.core c).tr.status.resc = false →
    d = s.desc c 1 → d.valid 1 = true → (s.core c).level.num ≤ d.tpriv → (s.core c).tr.status.busy d.bank = false →
    (s.core c).bank ≠ d.bank →
    ∃ t, exec (.exceptionEntry c (.illegal w0 w1)) s = .next t ∧
      let k := s.core c
      let k' := t.core c
      let v := k'.tr.save d.bank
      v.epc = k.flow.resume ∧ v.ecause = 1 ∧ v.edata0 = (Enc.mk w0 w1).data ∧ v.edata1 = 0 ∧
      v.estat.ppriv.toNat = k.level.num ∧ v.estat.pbank.toNat = k.bank.num ∧ v.estat.pie = k.tr.status.ie ∧
      v.estat.hpriv.toNat = d.tpriv ∧ v.estat.ceil.toNat = k.level.num ∧ v.estat.gate = false ∧ v.estat.ds = 0 ∧
      k'.level.num = d.tpriv ∧ k'.bank = d.bank ∧ k'.tr.status.busy d.bank = true ∧ k'.tr.status.ie = false ∧
      k'.flow.pc = BitVec.ofNat 64 d.haddr ∧ k'.tm.step = k.tm.step + 8 ∧
      (d.hsp ≠ 0 → k'.rx 2 = BitVec.ofNat 64 d.hsp) ∧ k'.rx 3 = BitVec.ofNat 64 d.extra ∧
      (∀ r, k'.x.get k.bank r = k.x.get k.bank r) ∧ k'.v = k.v ∧ k'.cnt = k.cnt ∧ t.mem = s.mem ∧
      ∀ e, e ≠ c → t.core e = s.core e

/-- R102, R115, R116: a cause whose descriptor is not valid, with no valid descriptor for escalation, goes to rescue: the
rescue record takes the PC, STATUS, cause and data, and the core goes to the handler of descriptor 0x1F at M; with that
descriptor not valid, or in rescue already, the core stops. An escalated cause is 0x1E with the cause beside it. -/
def Obligations.EscalationAndRescue : Prop :=
  ∀ (s : State) (c : Nat) (w0 : Word32) (w1 : Option Word32), s.Ready c w1.isSome →
    (Enc.mk w0 w1).formed = true → (Enc.mk w0 w1).assigned = false → (s.desc c 1).valid 1 = false →
    let i : Instr := .exceptionEntry c (.illegal w0 w1)
    let k := s.core c
    ((s.desc c 0x1E).valid 0x1E = false → (s.desc c 0x1F).valid 0x1F = true → k.tr.status.resc = false →
      ∃ t, exec i s = .next t ∧ (t.core c).tr.rescue.mrpc = k.flow.resume ∧
        (t.core c).tr.rescue.mrstat = BitVec.ofNat 64 k.tr.status.word ∧
        (t.core c).tr.rescue.mrcause = 0x11E ∧ (t.core c).tr.rescue.mredata0 = (Enc.mk w0 w1).data ∧
        (t.core c).level = .m ∧ (t.core c).tr.status.resc = true ∧
        (t.core c).flow.pc = BitVec.ofNat 64 (s.desc c 0x1F).haddr ∧ (t.core c).x = k.x ∧ t.mem = s.mem) ∧
    (k.tr.status.resc = true ∨ ((s.desc c 0x1E).valid 0x1E = false ∧ (s.desc c 0x1F).valid 0x1F = false) →
      ∃ t, exec i s = .next t ∧ (t.core c).pw.stopped = true ∧ (t.core c).canIssue = false ∧ (t.core c).x = k.x ∧
        t.mem = s.mem ∧ t.log.next = s.log.next + 1) ∧
    (∀ d, d = s.desc c 0x1E → d.valid 0x1E = true → k.tr.status.resc = false → k.tr.status.busy d.bank = false →
      ∃ t, exec i s = .next t ∧ ((t.core c).tr.save d.bank).ecause = 0x11E ∧
        ((t.core c).tr.save d.bank).epc = k.flow.resume ∧ (t.core c).flow.pc = BitVec.ofNat 64 d.haddr ∧ t.mem = s.mem)

/-- R117 to R119: a gate whose checks pass enters its descriptor's bank with EPC after the gate and the gate's number as
cause, its argument registers copied, counting as an instruction; one with a number below 0x80 is illegal. One whose descriptor is not
valid, needs a higher level, or targets one below the caller's raises GATE_DENY with reason 0, 1 or 2; else the first argument past its
bound raises GATE_ARG with reason 1, and else the first whose range is not mapped as it asks with reason 2, the argument's number as
index: the fault is delivered with the gate itself as EPC, and changes nothing else. -/
def Obligations.Gates : Prop :=
  ∀ (s : State) (c : Nat) (n : BitVec 8) (d : Desc), s.Ready c false → (s.core c).tr.status.resc = false → d = s.desc c n.toNat →
    let k := s.core c
    let x (i : Nat) : Word := k.rx (BitVec.ofNat 5 (10 + i))
    let bounded (i : Nat) : Prop := bits (d.arg i) 5 0 = 0 ∨ (x i).toNat < 2 ^ bits (d.arg i) 5 0
    let ranged (i : Nat) : Prop := bitOf (d.arg i) 7 = true →
      s.mapped (s.spaceOf c) k.level (bitOf (d.arg i) 6) (x i).toNat (x (i + 1)).toNat = true
    let open_ : Prop := d.valid n.toNat = true ∧ d.minpriv ≤ k.level.num ∧ k.level.num ≤ d.tpriv
    let denied (cause reason i : Nat) (e0 e1 : Word) : Prop :=
      ∀ g, g = s.desc c cause → g.valid cause = true → k.level.num ≤ g.tpriv → k.tr.status.busy g.bank = false → k.bank ≠ g.bank →
      ∃ t, exec (.gate c n) s = .next t ∧
        let v := (t.core c).tr.save g.bank
        v.epc = k.flow.pc ∧ v.ecause = BitVec.ofNat 64 (i * 2 ^ 16 + reason * 2 ^ 8 + cause) ∧ v.edata0 = e0 ∧ v.edata1 = e1 ∧
        v.estat.gate = false ∧ (t.core c).flow.pc = BitVec.ofNat 64 g.haddr ∧ (∀ r, (t.core c).x.get k.bank r = k.x.get k.bank r) ∧
        (t.core c).v = k.v ∧ s.Beside t c
    (0x80 ≤ n.toNat → open_ → (∀ i, i < d.argc → bounded i ∧ ranged i) → k.tr.status.busy d.bank = false → k.bank ≠ d.bank →
      ∃ t, exec (.gate c n) s = .next t ∧
        let k' := t.core c
        let v := k'.tr.save d.bank
        v.epc = k.flow.pc + 4 ∧ v.ecause = n.setWidth 64 ∧ v.estat.gate = true ∧ v.estat.ppriv.toNat = k.level.num ∧
        v.estat.pbank.toNat = k.bank.num ∧ k'.level.num = d.tpriv ∧ k'.bank = d.bank ∧ k'.tr.status.ie = false ∧
        k'.flow.pc = BitVec.ofNat 64 d.haddr ∧
        (∀ i, i < d.argc → k'.rx (BitVec.ofNat 5 (10 + i)) = k.rx (BitVec.ofNat 5 (10 + i))) ∧
        (∀ r, k'.x.get k.bank r = k.x.get k.bank r) ∧ k'.v = k.v ∧ s.Beside t c) ∧
    (n.toNat < 0x80 → exec (.gate c n) s =
      .next { takeException c { cause := 1, edata0 := (encGate 0 n.toNat).data } s with pending := s.pending }) ∧
    (0x80 ≤ n.toNat →
      (d.valid n.toNat = false → denied 0x0A 0 0 0 0) ∧
      (d.valid n.toNat = true → k.level.num < d.minpriv → denied 0x0A 1 0 0 0) ∧
      (d.valid n.toNat = true → d.minpriv ≤ k.level.num → d.tpriv < k.level.num → denied 0x0A 2 0 0 0) ∧
      (∀ i, open_ → i < d.argc → (∀ j, j < i → bounded j) → ¬ bounded i → denied 0x0B 1 i (x i) 0) ∧
      (∀ i, open_ → i < d.argc → (∀ j, j < d.argc → bounded j) → (∀ j, j < i → ranged j) → ¬ ranged i →
        denied 0x0B 2 i (x i) (x (i + 1))))

/-- R102, R103, R111, R531: a pending interrupt that is enabled, the lowest that may be taken, is taken before the next
instruction: its pending bit clears, its cause is 0x20 and its number, and EPC is the instruction not yet issued. A fault that the next
instruction has comes first: that of a word that cannot be fetched. -/
def Obligations.Interrupts : Prop :=
  ∀ (s : State) (c i : Nat) (d : Desc), s.Idle c → readyInterrupt s c = some i → d = s.desc c (0x20 + i) →
    d.valid (0x20 + i) = true → (s.core c).tr.status.busy d.bank = false →
    (fetchFault s c false .clean .clean = none → ∃ t, exec (.asyncInterruptTaken c) s = .next t ∧
      let k := s.core c
      let k' := t.core c
      (k'.tr.save d.bank).epc = k.flow.resume ∧ (k'.tr.save d.bank).ecause = BitVec.ofNat 64 (0x20 + i) ∧
      k.tr.ipend.getLsbD i = true ∧ k.tr.ien.getLsbD i = true ∧ k.tr.status.ie = true ∧
      k'.tr.status.ie = false ∧ k'.level.num = d.tpriv ∧ k'.bank = d.bank ∧ k'.flow.pc = BitVec.ofNat 64 d.haddr ∧
      (∀ j, j ≠ i → j ≠ 4 → k'.tr.ipend.getLsbD j = k.tr.ipend.getLsbD j) ∧ (i ≠ 4 → k'.tr.ipend.getLsbD i = false) ∧
      k'.v = k.v ∧ t.mem = s.mem) ∧
    ∀ f, fetchFault s c false .clean .clean = some f →
      exec (.asyncInterruptTaken c) s = .next { takeFetch c f s with pending := s.pending }

/-- R120 to R122: ERET from a shadow bank at S or M frees the bank and restores the level, bank and interrupt enable that the
entry saved, and the PC; a return from a gate copies x10 and x11 back. It is illegal at T and in the main bank. RET_PRIV refuses, with
reasons 1 to 4: a level that is none or above the ceiling; in the maintenance state a level below M; a bank that is the handler's own, none,
or not in use; a slot count that is none, or one with a repeat. The refusal is delivered with the ERET as EPC, and changes nothing else.
The statement is of compute cores; of supervisor cores it says only what a return to M does: what one below M does is log entry 32's choice.
Where the spec leaves a choice open, the statement rests on the model's: log entry 13. -/
def Obligations.ExceptionReturn : Prop :=
  ∀ (s : State) (c : Nat) (nx : RetNext), s.Ready c false →
    let k := s.core c
    let e := (k.tr.save k.bank).estat
    (144 ≤ c → e.ppriv = 2) →
    let level : Prop := e.ppriv ≠ 3 ∧ e.ppriv.toNat ≤ e.ceil.toNat
    let maint : Prop := k.tr.maint = true → e.ppriv = 2
    let bank : Prop := e.pbank.toNat ≠ k.bank.num ∧ e.pbank ≠ 3 ∧ (e.pbank ≠ 0 → k.tr.status.busy (Bank.dec e.pbank.toNat) = true)
    let slots : Prop := e.ds ≠ 3 ∧ (e.ds ≠ 0 → e.repip = false)
    let refused (reason : Nat) : Prop :=
      ∀ g, g = s.desc c 9 → g.valid 9 = true → k.tr.status.resc = false → k.level.num ≤ g.tpriv → k.tr.status.busy g.bank = false →
        k.bank ≠ g.bank → ∃ t, exec (.eret c nx) s = .next t ∧
        let v := (t.core c).tr.save g.bank
        v.epc = k.flow.pc ∧ v.ecause = BitVec.ofNat 64 (reason * 2 ^ 8 + 9) ∧ (t.core c).tr.save k.bank = k.tr.save k.bank ∧
        (t.core c).flow.pc = BitVec.ofNat 64 g.haddr ∧ (∀ r, (t.core c).x.get k.bank r = k.x.get k.bank r) ∧ (t.core c).v = k.v ∧
        s.Beside t c
    (k.level ≠ .t → k.bank ≠ .main → level → maint → bank → e.ds = 0 → e.repip = false →
      ∃ t, exec (.eret c nx) s = .next t ∧
        let k' := t.core c
        k'.flow.pc = (k.tr.save k.bank).epc ∧ k'.flow.slots = 0 ∧ k'.flow.rep = none ∧ k'.level.num = e.ppriv.toNat ∧
        k'.bank.num = e.pbank.toNat ∧ k'.tr.status.ie = e.pie ∧ k'.tr.status.busy k.bank = false ∧
        (e.gate = true → k'.rx 10 = k.rx 10 ∧ k'.rx 11 = k.rx 11) ∧ (e.gate = false → k'.x = k.x) ∧
        k'.v = k.v ∧ k'.tm.step = k.tm.step + 4 ∧ s.Beside t c) ∧
    (k.level = .t ∨ k.bank = .main → exec (.eret c nx) s =
      .next { enterSync c { cause := 1, edata0 := (encGate 1 0).data } (k.tm.step + 8) s with pending := s.pending }) ∧
    (k.level ≠ .t → k.bank ≠ .main →
      (¬ level → refused 1) ∧ (level → ¬ maint → refused 2) ∧ (level → maint → ¬ bank → refused 3) ∧
      (level → maint → bank → ¬ slots → refused 4))

/-! ### The vector unit (R147 to R171) -/

/-- R147, R150, R154: the integer and bitwise vector forms, lane by lane, on lanes of the type's width: the result lands at
distance 8 and the datapath is busy for 4 steps. A type that the form does not take, or a busy datapath, is illegal. -/
def Obligations.VectorIntegerLanes : Prop :=
  ∀ (s : State) (c : Nat) (vd vs1 vs2 : Reg) (ty : BitVec 4), s.Ready c false →
    let k := s.core c
    let w := vw ty.toNat
    let lane (v : BitVec 4096) (j : Nat) : BitVec w := (v >>> (w * j)).setWidth w
    let run (i : Instr) (f : BitVec w → BitVec w → BitVec w → BitVec w) : Prop :=
      k.tm.dpFree ≤ k.tm.step → ∃ r : BitVec 4096,
        (∀ j, j < 4096 / w → lane r j = f (lane (k.rv vd) j) (lane (k.rv vs1) j) (lane (k.rv vs2) j)) ∧
        exec i s = .next (s.upd c fun k =>
          let k' := (k.land 8 (.v vd r)).dpUse
          { k' with tm := { k'.tm with dpFree := k.tm.step + 4 } }.retire false)
    let all (b : Bool) : BitVec w := if b then BitVec.allOnes w else 0
    let bits : List (Nat × Instr) := [(9, .vand c vd vs1 vs2 ty), (10, .vor c vd vs1 vs2 ty), (11, .vxor c vd vs1 vs2 ty),
      (12, .vandn c vd vs1 vs2 ty)]
    let ints : List (Nat × Instr) := [(0, .vadd c vd vs1 vs2 ty), (1, .vsub c vd vs1 vs2 ty), (2, .vmul c vd vs1 vs2 ty),
      (3, .vmulh c vd vs1 vs2 ty), (4, .vmulhu c vd vs1 vs2 ty), (5, .vmin c vd vs1 vs2 ty), (6, .vmax c vd vs1 vs2 ty),
      (7, .vminu c vd vs1 vs2 ty), (8, .vmaxu c vd vs1 vs2 ty), (13, .vsll c vd vs1 vs2 ty), (14, .vsrl c vd vs1 vs2 ty),
      (15, .vsra c vd vs1 vs2 ty), (16, .vseq c vd vs1 vs2 ty), (17, .vslt c vd vs1 vs2 ty), (18, .vsltu c vd vs1 vs2 ty),
      (19, .vmac c vd vs1 vs2 ty)]
    let bad (i : Nat × Instr) (reason : Byte) : Prop := exec i.2 s = .next { takeException c
      { cause := 1, reason := reason, edata0 := (encVA vd vs1 vs2 ty i.1).data } s with pending := s.pending }
    (ty.toNat ≤ 6 →
      run (.vand c vd vs1 vs2 ty) (fun _ a b => a &&& b) ∧
      run (.vor c vd vs1 vs2 ty) (fun _ a b => a ||| b) ∧
      run (.vxor c vd vs1 vs2 ty) (fun _ a b => a ^^^ b) ∧
      run (.vandn c vd vs1 vs2 ty) (fun _ a b => a &&& ~~~b)) ∧
    (ty.toNat ≤ 3 →
      run (.vadd c vd vs1 vs2 ty) (fun _ a b => a + b) ∧
      run (.vsub c vd vs1 vs2 ty) (fun _ a b => a - b) ∧
      run (.vmul c vd vs1 vs2 ty) (fun _ a b => a * b) ∧
      run (.vmac c vd vs1 vs2 ty) (fun d a b => d + a * b) ∧
      run (.vmulh c vd vs1 vs2 ty) (fun _ a b => BitVec.ofInt w (a.toInt * b.toInt / 2 ^ w)) ∧
      run (.vmulhu c vd vs1 vs2 ty) (fun _ a b => BitVec.ofNat w (a.toNat * b.toNat / 2 ^ w)) ∧
      run (.vmin c vd vs1 vs2 ty) (fun _ a b => if a.toInt < b.toInt then a else b) ∧
      run (.vmax c vd vs1 vs2 ty) (fun _ a b => if a.toInt < b.toInt then b else a) ∧
      run (.vminu c vd vs1 vs2 ty) (fun _ a b => if a.toNat < b.toNat then a else b) ∧
      run (.vmaxu c vd vs1 vs2 ty) (fun _ a b => if a.toNat < b.toNat then b else a) ∧
      run (.vsll c vd vs1 vs2 ty) (fun _ a b => a <<< (b.toNat % w)) ∧
      run (.vsrl c vd vs1 vs2 ty) (fun _ a b => a >>> (b.toNat % w)) ∧
      run (.vsra c vd vs1 vs2 ty) (fun _ a b => a.sshiftRight (b.toNat % w)) ∧
      run (.vseq c vd vs1 vs2 ty) (fun _ a b => all (a == b)) ∧
      run (.vslt c vd vs1 vs2 ty) (fun _ a b => all (decide (a.toInt < b.toInt))) ∧
      run (.vsltu c vd vs1 vs2 ty) (fun _ a b => all (decide (a.toNat < b.toNat)))) ∧
    (∀ i ∈ bits, (7 ≤ ty.toNat → bad i 0) ∧ (ty.toNat ≤ 6 → k.tm.step < k.tm.dpFree → bad i 1)) ∧
    ∀ i ∈ ints, (4 ≤ ty.toNat → bad i 0) ∧ (ty.toNat ≤ 3 → k.tm.step < k.tm.dpFree → bad i 1)

/-- R154 to R156, R139: the floating-point vector forms, lane by lane in the format of the type: each lane is the exact result
rounded once, and the flags of all lanes are ORed into FFLAGS with the result. -/
def Obligations.VectorFloatLanes : Prop :=
  ∀ (s : State) (c : Nat) (vd vs1 vs2 : Reg) (ty : BitVec 4), s.Ready c false → 4 ≤ ty.toNat → ty.toNat ≤ 6 →
    (s.core c).tm.dpFree ≤ (s.core c).tm.step →
    let k := s.core c
    let w := vw ty.toNat
    let g := fmtOf ty.toNat
    let lane (v : BitVec 4096) (j : Nat) : Nat := (v.toNat >>> (w * j)) % 2 ^ w
    let run (i : Instr) (f : Nat → Nat → Nat → Nat × FF) : Prop :=
      let op (j : Nat) : Nat × FF := f (lane (k.rv vd) j) (lane (k.rv vs1) j) (lane (k.rv vs2) j)
      let flags := (List.range (4096 / w)).foldl (fun a j => a ||| (op j).2) (0 : FF)
      ∃ r : BitVec 4096, (∀ j, j < 4096 / w → lane r j = (op j).1 % 2 ^ w) ∧
        exec i s = .next (s.upd c fun k =>
          let k1 := k.land 8 (.v vd r)
          let k' := (if flags = 0 then k1 else k1.land 8 (.fflags flags)).dpUse
          { k' with tm := { k'.tm with dpFree := k.tm.step + 4 } }.retire false)
    let fl (r : FV × FF) : Nat × FF := ((g.encode r.1).1, r.2 ||| (g.encode r.1).2)
    let rel (r : Bool × FF) : Nat × FF := (if r.1 then 2 ^ w - 1 else 0, r.2)
    let D := g.decode
    run (.vfadd c vd vs1 vs2 ty) (fun _ a b => fl ((D a).add (D b))) ∧
    run (.vfsub c vd vs1 vs2 ty) (fun _ a b => fl ((D a).add (D b).neg)) ∧
    run (.vfmul c vd vs1 vs2 ty) (fun _ a b => fl ((D a).mul (D b))) ∧
    run (.vfma c vd vs1 vs2 ty) (fun d a b => fl ((D a).fma (D b) (D d))) ∧
    run (.vfnma c vd vs1 vs2 ty) (fun d a b => fl ((D a).neg.fma (D b) (D d))) ∧
    run (.vfmin c vd vs1 vs2 ty) (fun _ a b => fl (FV.minmax false (D a) (D b))) ∧
    run (.vfmax c vd vs1 vs2 ty) (fun _ a b => fl (FV.minmax true (D a) (D b))) ∧
    run (.vfeq c vd vs1 vs2 ty) (fun _ a b => rel (FV.rel 0 (D a) (D b))) ∧
    run (.vflt c vd vs1 vs2 ty) (fun _ a b => rel (FV.rel 1 (D a) (D b))) ∧
    run (.vfle c vd vs1 vs2 ty) (fun _ a b => rel (FV.rel 2 (D a) (D b))) ∧
    (vs2 = 0 →
      run (.vfabs c vd vs1 vs2 ty) (fun _ a _ => (a % 2 ^ (w - 1), 0)) ∧
      run (.vfneg c vd vs1 vs2 ty) (fun _ a _ => (a ^^^ 2 ^ (w - 1), 0)) ∧
      (ty = 4 →
        run (.vfrcpe c vd vs1 vs2 ty) (fun _ a _ => ((rcpE (BitVec.ofNat 32 a)).1.toNat, (rcpE (BitVec.ofNat 32 a)).2)) ∧
        run (.vfrsqe c vd vs1 vs2 ty) (fun _ a _ => ((rsqrtE (BitVec.ofNat 32 a)).1.toNat, (rsqrtE (BitVec.ofNat 32 a)).2)) ∧
        run (.vfexp2e c vd vs1 vs2 ty) (fun _ a _ => ((exp2E (BitVec.ofNat 32 a)).1.toNat, (exp2E (BitVec.ofNat 32 a)).2))))

/-- R156: what the three estimates give in a lane (VectorFloatLanes says that VFRCPE, VFRSQE and VFEXP2E apply them lane by lane). Where
the true result of a finite operand is in the range of normal values, the estimate is within 2^-12 of it, relatively. The reciprocal of ±0
is ±∞ with DZ; the reciprocal root of ±0 is ±∞ with DZ and of a negative value, −∞ among them, the canonical NaN with NV; the power of a
value at or above 128 is +∞ with OF and NX, and of one below −150 is +0 with UF and NX. -/
def Obligations.Estimates : Prop :=
  let near (r : BitVec 32) (y : ℝ) : Prop := ∃ n m e, f32 r = .fin n m e ∧ |fvReal n m e - y| ≤ |y| / 2 ^ 12
  let normal (y : ℝ) : Prop := (2 : ℝ) ^ (-126 : ℤ) ≤ |y| ∧ |y| ≤ (2 ^ 24 - 1) * (2 : ℝ) ^ (104 : ℤ)
  let inf (n : Bool) : BitVec 32 := if n then 0xFF800000 else 0x7F800000
  (∀ (a : BitVec 32) (n : Bool) (m : Nat) (e : Int), f32 a = .fin n m e →
     let y := fvReal n m e
     (m ≠ 0 → normal y⁻¹ → near (rcpE a).1 y⁻¹) ∧
     (m ≠ 0 → n = false → near (rsqrtE a).1 (√y)⁻¹) ∧
     (-126 ≤ y → y < 128 → near (exp2E a).1 ((2 : ℝ) ^ y)) ∧
     (m = 0 → rcpE a = (inf n, ffDZ) ∧ rsqrtE a = (inf n, ffDZ)) ∧
     (m ≠ 0 → n = true → rsqrtE a = (0x7FC00000, ffNV)) ∧
     (128 ≤ y → exp2E a = (inf false, ffOF ||| ffNX)) ∧
     (y < -150 → exp2E a = (0, ffUF ||| ffNX))) ∧
  (∀ (a : BitVec 32), (f32 a = .inf true → rsqrtE a = (0x7FC00000, ffNV) ∧ exp2E a = (0, ffUF ||| ffNX)) ∧
     (f32 a = .inf false → exp2E a = (inf false, ffOF ||| ffNX)))

/-- R157, R158, R161: the widening multiplies, the integer dot products and the permutes. A widening form takes the low or
the high half of its sources, with products of double width, of BF16 and FP16 in FP32, the sum of an accumulating form rounded once; a dot product adds the exact sum of its products to the
32-bit lane, modulo 2^32; a permute moves lanes of its source, with 0 where there is none. -/
def Obligations.VectorWideAndPermute : Prop :=
  ∀ (s : State) (c : Nat) (vd vs1 vs2 : Reg) (ty : BitVec 4) (h : Bool), s.Ready c false → (s.core c).tm.dpFree ≤ (s.core c).tm.step →
    let k := s.core c
    let w := vw ty.toNat
    let n := 4096 / w
    let lane (w : Nat) (v : BitVec 4096) (j : Nat) : BitVec w := (v >>> (w * j)).setWidth w
    let ends (r : BitVec 4096) : Out := .next (s.upd c fun k =>
      let k' := (k.land 8 (.v vd r)).dpUse
      { k' with tm := { k'.tm with dpFree := k.tm.step + 4 } }.retire false)
    let half := if h then n / 2 else 0
    let a (j : Nat) := lane w (k.rv vs1) (half + j)
    let b (j : Nat) := lane w (k.rv vs2) (half + j)
    let wide (i : Instr) (f : BitVec (2 * w) → Nat → BitVec (2 * w)) : Prop :=
      ∃ r, exec i s = ends r ∧ ∀ j, j < n / 2 → lane (2 * w) r j = f (lane (2 * w) (k.rv vd) j) j
    let dot (i : Instr) (w m : Nat) : Prop := ∃ r, exec i s = ends r ∧ ∀ j, j < 128 → lane 32 r j = lane 32 (k.rv vd) j +
      BitVec.ofInt 32 ((List.range m).map fun q =>
        (lane w (k.rv vs1) (m * j + q)).toInt * (lane w (k.rv vs2) (m * j + q)).toInt).sum
    let move (i : Instr) (f : Nat → BitVec w) : Prop := ∃ r, exec i s = ends r ∧ ∀ j, j < n → lane w r j = f j
    let d := (k.rx vs2).toNat
    (ty.toNat ≤ 2 →
      wide (.vwmul c vd vs1 vs2 ty h) (fun _ j => BitVec.ofInt _ ((a j).toInt * (b j).toInt)) ∧
      wide (.vwmulu c vd vs1 vs2 ty h) (fun _ j => BitVec.ofNat _ ((a j).toNat * (b j).toNat)) ∧
      wide (.vwmac c vd vs1 vs2 ty h) (fun x j => x + BitVec.ofInt _ ((a j).toInt * (b j).toInt)) ∧
      wide (.vwmacu c vd vs1 vs2 ty h) (fun x j => x + BitVec.ofNat _ ((a j).toNat * (b j).toNat))) ∧
    (ty = 5 ∨ ty = 6 →
      let prod (j : Nat) : BitVec 32 :=
        (roundOp (((fmtOf ty.toNat).decode (a j).toNat).mul ((fmtOf ty.toNat).decode (b j).toNat))).1
      let floats (i : Instr) (f : Nat → BitVec 32) : Prop := ∃ (r : BitVec 4096) (fl : FF), (∀ j, j < 128 → lane 32 r j = f j) ∧
        exec i s = .next (s.upd c fun k =>
          let k' := (k.landV 8 vd r fl).dpUse
          { k' with tm := { k'.tm with dpFree := k.tm.step + 4 } }.retire false)
      floats (.vwmul c vd vs1 vs2 ty h) prod ∧
      floats (.vwmac c vd vs1 vs2 ty h) (fun j => (faddB (lane 32 (k.rv vd) j) (prod j)).1)) ∧
    (ty = 0 → h = false → dot (.vdot4 c vd vs1 vs2 ty h) 8 4) ∧
    (ty = 9 → h = false → dot (.vdot8 c vd vs1 vs2 ty h) 4 8) ∧
    (ty.toNat ≤ 3 →
      move (.vslideD c vd vs1 vs2 ty h) (fun j => if j + d < n then lane w (k.rv vs1) (j + d) else 0) ∧
      move (.vslideU c vd vs1 vs2 ty h) (fun j => if d ≤ j then lane w (k.rv vs1) (j - d) else 0) ∧
      move (.vperm c vd vs1 vs2 ty h) (fun j => lane w (k.rv vs1) ((lane w (k.rv vs2) j).toNat % n)))

/-- R144, R158 to R160, R162, R163: the FP8 dot product rounds the exact sum once; a conversion of a permitted pair converts its lanes one by one, the widened part
of the source into every lane, or every source lane into the part of vd that it names, the rest of vd kept; packing
four blocks of E2M1 puts the scales behind the codes; a summary lands in a scalar register at distance 8, from the lanes'
bits or by the fixed tree, neighbours first.
Where the spec leaves a choice open, the statement rests on the model's: log entries 5, 15 and 33. -/
def Obligations.VectorConvertAndSummary : Prop :=
  ∀ (s : State) (c : Nat) (vd vs1 vs2 : Reg) (ty : BitVec 4), s.Ready c false → (s.core c).tm.dpFree ≤ (s.core c).tm.step →
    let k := s.core c
    let t := ty.toNat
    let w := vw t
    let lane (w : Nat) (v : BitVec 4096) (j : Nat) : Nat := (v.toNat >>> (w * j)) % 2 ^ w
    let ends (f : Core → Core) : Out := .next (s.upd c fun k =>
      let k' := (f k).dpUse
      { k' with tm := { k'.tm with dpFree := k.tm.step + 4 } }.retire false)
    let vec (i : Instr) (P : BitVec 4096 → Prop) : Prop := ∃ r f, P r ∧ exec i s = ends fun k => k.landV 8 vd r f
    (t = 7 ∨ t = 8 → ∀ h : Bool, vec (.vdot2 c vd vs1 vs2 ty h) fun r => ∀ j, j < 128 →
      let at_ (v : BitVec 4096) (q : Nat) := (fmtOf t).decode (lane 8 v ((if h then 256 else 0) + 2 * j + q))
      let p (q : Nat) := (at_ (k.rv vs1) q).mul (at_ (k.rv vs2) q)
      lane 32 r j = (roundOp (sumFV [fp32.decode (lane 32 (k.rv vd) j), (p 0).1, (p 1).1])).1.toNat) ∧
    (∀ ovf : Bool, ty = 4 → vec (.vcvt c vd vs1 5 ovf ty false 0) fun r => ∀ j, j < 128 →
      lane 16 r j = (bf16.convert .rne ovf (fp32.decode (lane 32 (k.rv vs1) j))).1 % 2 ^ 16) ∧
    (∀ ovf : Bool, ty = 5 → vec (.vcvt c vd vs1 4 ovf ty false 0) fun r => ∀ j, j < 128 →
      lane 32 r j = (fp32.convert .rne ovf (bf16.decode (lane 16 (k.rv vs1) j))).1 % 2 ^ 32) ∧
    (∀ (u : BitVec 4) (ovf : Bool) (part : BitVec 3), vcvtPair t u.toNat = true →
      let n := 4096 / vw u.toNat
      let q := part.toNat
      let conv (v : Nat) : Nat := (convElem u.toNat ovf .rne (elemFV t v)).1 % 2 ^ vw u.toNat
      (w ≤ vw u.toNat → w * q < vw u.toNat → vec (.vcvt c vd vs1 u ovf ty false part) fun r => ∀ j, j < n →
        lane (vw u.toNat) r j = conv (lane w (k.rv vs1) (q * n + j))) ∧
      (vw u.toNat < w → vw u.toNat * q < w → vec (.vcvt c vd vs1 u ovf ty false part) fun r => ∀ j, j < n →
        lane (vw u.toNat) r j = if q * (4096 / w) ≤ j ∧ j < (q + 1) * (4096 / w) then conv (lane w (k.rv vs1) (j - q * (4096 / w)))
          else lane (vw u.toNat) (k.rv vd) j)) ∧
    (ty = 4 → vs2 = 0 →
      (vec (.vpk4 c vd vs1 vs2 ty false) fun r => ∀ q, q < 4 →
        let b := packE2m1 (fun _ => .rne) ((List.range 32).map fun i => fp32.decode (lane 32 (k.rv vs1) (32 * q + i)))
        lane 8 r (64 + q) = b.1.toNat ∧ ∀ i, i < 32 → lane 4 r (32 * q + i) = b.2.1.getD i 0 % 16) ∧
      (vec (.vunpk4 c vd vs1 vs2 ty false) fun r => ∀ q i, q < 4 → i < 32 →
        lane 32 r (32 * q + i) =
          (fp32.encode (decodeE2m1 (BitVec.ofNat 8 (lane 8 (k.rv vs1) (64 + q))) (lane 4 (k.rv vs1) (32 * q + i)))).1 % 2 ^ 32)) ∧
    (t ≤ 8 → vs2 = 0 →
      exec (.vany c vd vs1 vs2 ty false) s = ends (fun k => k.landX 8 vd (if k.rv vs1 = 0 then 0 else 1)) ∧
      (∃ x : Word, (x = if ∀ j, j < 4096 / w → lane w (k.rv vs1) j ≠ 0 then 1 else 0) ∧
        exec (.vall c vd vs1 vs2 ty false) s = ends (fun k => k.landX 8 vd x))) ∧
    (t ≤ 3 → vs2 = 0 →
      let val (j : Nat) : Int := (BitVec.ofNat w (lane w (k.rv vs1) j)).toInt
      (∃ m j, j < 4096 / w ∧ m = val j ∧ (∀ i, i < 4096 / w → val i ≤ m) ∧ (∀ i, i < j → val i < m) ∧
        exec (.vmaxs c vd vs1 vs2 ty false) s = ends (fun k => k.landX 8 vd (BitVec.ofInt 64 m)) ∧
        exec (.vmaxi c vd vs1 vs2 ty false) s = ends (fun k => k.landX 8 vd (BitVec.ofNat 64 j))) ∧
      exec (.vsums c vd vs1 vs2 ty false) s =
        ends (fun k => k.landX 8 vd (BitVec.ofInt 64 ((List.range (4096 / w)).map val).sum))) ∧
    (4 ≤ t → t ≤ 8 → vs2 = 0 → ∀ (l : Nat) (add top : Nat → Nat → BitVec 32), 2 ^ l = 4096 / w →
      let at_ (i : Nat) : FV := (fmtOf t).decode (lane w (k.rv vs1) i)
      let wide (i : Nat) : BitVec 32 := if t = 4 then BitVec.ofNat 32 (lane w (k.rv vs1) i) else (toF32 (at_ i)).1
      (∀ i, i < 2 ^ l → add 0 i = wide i ∧ top 0 i = wide i) →
      (∀ m i, add (m + 1) i = (roundOp ((f32 (add m (2 * i))).add (f32 (add m (2 * i + 1))))).1 ∧
        top (m + 1) i = (roundOp (FV.minmax true (f32 (top m (2 * i))) (f32 (top m (2 * i + 1))))).1) →
      (∃ fl, exec (.vsums c vd vs1 vs2 ty false) s = ends (fun k => k.landF 8 vd (add l 0, fl))) ∧
      (∃ fl, exec (.vmaxs c vd vs1 vs2 ty false) s = ends (fun k => k.landF 8 vd (top l 0, fl))) ∧
      ∃ fl i, i ≤ 2 ^ l ∧ (∀ j, j < i → sameMax (at_ j) (f32 (top l 0)) = false) ∧
        (i < 2 ^ l → sameMax (at_ i) (f32 (top l 0)) = true) ∧
        exec (.vmaxi c vd vs1 vs2 ty false) s = ends (fun k => k.landXF 8 vd (BitVec.ofNat 64 i) fl))

/-- R151, R164 to R169: a local vector access of a right form, with the memory port free and every element aligned and inside the
window, completes: a load of words none of which is poisoned reads each element at issue and lands at distance 10; a store writes each
element, a higher one over a lower one, and no other byte; a Carousel form moves its index register on at distance 1. Each occupies the
port for its steps. The first element off its size is MISALIGNED, and else the first outside the window BUS_ERROR, with its number.
R78, R170: a far vector load or store on a counter below its limit, its elements aligned, issues as one piece of counted work with an
access for each element, and changes no register and no memory; with the core's tags taken it waits for them (R290).
Where the spec leaves a choice open, the statement rests on the model's: log entries 11 and 15. -/
def Obligations.VectorMemory : Prop :=
  (∀ (s : State) (c : Nat) (v rs1 f2 : Reg) (set : BitVec 3) (ew : BitVec 2), s.Ready c false →
     let k := s.core c
     let size := 2 ^ ew.toNat
     let n := 512 / size
     let run (mode : Nat) (ld st : Instr) (addr : Nat → Word) (form : Prop) (steps : Nat) : Prop :=
       let pa (j : Nat) : Nat := s.windowPa c (addr j).toNat
       let ok (j : Nat) : Prop := (addr j).toNat % size = 0
       let fits (j : Nat) : Prop := k.inWindow (addr j).toNat size = true ∧
         (mode = 2 → (k.cb set).toNat + k.carOff set size (k.carIdx set (k.rx rs1) j) < 2 ^ 64)
       let index : List Pend := if mode = 2 then
         [⟨k.tm.step + 1, .x k.bank rs1 (BitVec.ofNat 64 (k.carIdx set (k.rx rs1) n)), none⟩] else []
       let moved (t : State) (l : List Pend) : Prop := (t.core c).tm.pend = index ++ l ∧ (t.core c).tm.portFree = k.tm.step + steps ∧
         (t.core c).tm.step = k.tm.step + 1 ∧ (t.core c).flow = k.flow.advance false ∧ (t.core c).x = k.x ∧
         (t.core c).v = k.v ∧ (t.core c).tiles = k.tiles ∧ (t.core c).cnt = k.cnt
       let fault (i : Instr) (x : Trap) : Prop := exec i s = .next { takeException c x s with pending := s.pending }
       form → k.tm.portFree ≤ k.tm.step →
       ((∀ j, j < n → ok j ∧ fits j) →
         ((∀ j, j < n → s.isPoisoned (pa j) size = false) → ∃ (t : State) (r : BitVec 4096),
           (∀ j, j < n → (r.toNat >>> (8 * size * j)) % 2 ^ (8 * size) = s.mem.nat (pa j) size) ∧ exec ld s = .next t ∧
           moved t [⟨k.tm.step + 10, .v v r, some (.vector, addr 0, k.flow.pc)⟩] ∧ s.Beside t c) ∧
         ∃ t, exec st s = .next t ∧ moved t [] ∧
           ∀ x, t.mem.get x = match (List.range n).reverse.find? (fun j => decide (pa j ≤ x ∧ x < pa j + size)) with
             | some j => BitVec.ofNat 8 ((k.rv v).toNat >>> (8 * size * j) % 2 ^ (8 * size) / 256 ^ (x - pa j))
             | none => s.mem.get x) ∧
       (∀ i, i = ld ∨ i = st → ∀ j, j < n →
         ((∀ q, q < j → ok q) → ¬ ok j →
           fault i { cause := 2, index := BitVec.ofNat 16 j, edata0 := addr j, edata1 := k.flow.pc }) ∧
         ((∀ q, q < n → ok q) → (∀ q, q < j → fits q) → ¬ fits j →
           fault i { cause := 3, index := BitVec.ofNat 16 j, edata0 := addr j, edata1 := k.flow.pc }))
     let many := (n + 63) / 64
     run 0 (.vld c v rs1 f2 set ew) (.vst c v rs1 f2 set ew)
       (fun j => k.rx rs1 + BitVec.ofInt 64 (512 * f2.toInt) + BitVec.ofNat 64 (j * size)) (set = 0) 1 ∧
     run 1 (.vlds c v rs1 f2 set ew) (.vsts c v rs1 f2 set ew) (fun j => k.rx rs1 + BitVec.ofNat 64 j * k.rx f2) (set = 0)
       (if k.rx f2 = 0 ∨ k.rx f2 = BitVec.ofNat 64 size then 1 else many) ∧
     run 2 (.vldC c v rs1 f2 set ew) (.vstC c v rs1 f2 set ew)
       (fun j => k.cb set + BitVec.ofNat 64 (k.carOff set size (k.carIdx set (k.rx rs1) j))) (f2 = 0 ∧ k.carOk set size = true) many ∧
     run 3 (.vgather c v rs1 f2 set ew) (.vscatter c v rs1 f2 set ew)
       (fun j => k.rx rs1 + BitVec.ofNat 64 (((k.rv f2).toNat >>> (32 * j)) % 2 ^ 32)) (set = 0 ∧ 2 ≤ ew.toNat) many) ∧
  (∀ (s : State) (c : Nat) (v rs1 rs2 : Reg) (cc : BitVec 4) (ew : BitVec 2) (mode : Bool), s.Ready c false →
     let k := s.core c
     let size := 2 ^ ew.toNat
     let addr (j : Nat) : Word := k.rx rs1 + BitVec.ofNat 64 j * (if mode then k.rx rs2 else BitVec.ofNat 64 size)
     let issued (i : Instr) (runs : List (Word × Nat)) (puts : List (Word × List Byte)) : Prop :=
       ∃ t w, exec i s = .next t ∧ t.works = s.works ++ [w] ∧ w.core = c ∧ w.cc = cc.toNat ∧ w.addr = k.rx rs1 ∧
         w.runs = runs ∧ w.puts = puts ∧ w.stage = (if s.tagsFree w then .going else .untagged) ∧ t.mem = s.mem ∧
         (t.core c).outst cc.toNat = k.outst cc.toNat + 1 ∧ (t.core c).x = k.x ∧ (t.core c).v = k.v ∧
         (t.core c).flow = k.flow.advance false ∧ ∀ d, d ≠ c → t.core d = s.core d
     k.CcFree cc →
     (∀ j, j < 512 / size → (addr j).toNat % size = 0) →
     issued (.vfld c v rs1 rs2 cc ew mode) ((List.range (512 / size)).map fun j => (addr j, size)) [] ∧
     issued (.vfst c v rs1 rs2 cc ew mode) []
       ((List.range (512 / size)).map fun j => (addr j, leBytes size (((k.rv v).toNat >>> (8 * size * j)) % 2 ^ (8 * size)))))

/-! ### Tile files (R172 to R201) -/

/-- R178, R180, R181, R211: TCFG gives a tile its shape and keeps its contents; the same shape again changes nothing. A format
or a size that the file does not take is TILE_SHAPE; a new shape for a tile with work in flight is TILE_BUSY.
R184, R187, R188: TMOV and TZERO of configured tiles whose shapes agree enter as counted work of the mover. A tile that is
not configured, and for TMOV one whose shape or format does not agree, is TILE_SHAPE; OVF without CVT is illegal.
Where the spec leaves a choice open, the statement rests on the model's: log entry 16. -/
def Obligations.TileShapes : Prop :=
  (∀ (s : State) (c : Nat) (t fmt : BitVec 4) (colsm1 : BitVec 11) (rowsm1 : BitVec 7), s.Ready c → c < 144 →
     let k := s.core c
     let n := t.toNat
     let new : TShape := ⟨true, fmt, colsm1.toNat + 1, rowsm1.toNat + 1⟩
     let cap := maxCols (fileOf n) fmt.toNat
     let fits := cap ≠ 0 ∧ new.cols ≤ cap ∧ new.cols % colMult fmt.toNat = 0
     let bad (x : Trap) : Prop := exec (.tcfg c t fmt colsm1 rowsm1) s =
       .next { takeException c
         { x with
           edata0 := (encTcfg t fmt colsm1 rowsm1).data
           edata1 := BitVec.ofNat 64 new.word } s with
         pending := s.pending }
     (fits → k.shape n = new ∨ s.inflight c n = false →
       ∃ t', exec (.tcfg c t fmt colsm1 rowsm1) s = .next t' ∧ (t'.core c).shape n = new ∧
         ((t'.core c).tile n).data = (k.tile n).data ∧ ((t'.core c).tile n).scale = (k.tile n).scale ∧
         (∀ i, i ≠ n → (t'.core c).tile i = k.tile i) ∧
         (t'.core c).arr.svalid = (if k.shape n ≠ new ∧ k.arr.stag = n then false else k.arr.svalid) ∧
         (t'.core c).x = k.x ∧ (t'.core c).v = k.v ∧ (t'.core c).flow = k.flow.advance true ∧ s.Beside t' c) ∧
     (cap = 0 → bad { cause := 0x0E, reason := 2 }) ∧
     (cap ≠ 0 → ¬ fits → bad { cause := 0x0E, reason := 3 }) ∧
     (fits → k.shape n ≠ new → s.inflight c n = true →
       bad { cause := 0x0F, reason := if s.moverOn c n then 1 else 2, index := t.setWidth 16 })) ∧
  (∀ (s : State) (c : Nat) (dst src cc : BitVec 4) (cvt ovf : Bool), s.Ready c → c < 144 →
     let k := s.core c
     let d := k.shape dst.toNat
     let r := k.shape src.toNat
     k.CcFree cc →
     (d.cfg = true → r.cfg = true → d.rows = r.rows → d.cols = r.cols → (ovf = true → cvt = true) →
       (cvt = true → cvtPair r.fmt.toNat d.fmt.toNat = true) → (cvt = false → r.fmt = d.fmt) →
       ∃ t w, exec (.tmov c dst src cvt ovf cc) s = .next t ∧ s.Entered t c true cc w ∧ w.kind = .tmov dst src cvt ovf d r) ∧
     (d.cfg = true → ∃ t w, exec (.tzero c dst cc) s = .next t ∧ s.Entered t c true cc w ∧ w.kind = .tzero dst d) ∧
     let bad (i : Instr) (x : Trap) : Prop := exec i s = .next { takeException c x s with pending := s.pending }
     let e := encTmov dst src cvt ovf false cc
     (d.cfg = false → bad (.tzero c dst cc) (tileShape (encTmov dst 0 false false true cc) 1 0 (s.tshape c dst.toNat))) ∧
     (ovf = true → cvt = false → bad (.tmov c dst src cvt ovf cc) { cause := 1, edata0 := e.data }) ∧
     ((ovf = true → cvt = true) → let wrong (reason i t : Nat) : Prop := bad (.tmov c dst src cvt ovf cc) (tileShape e reason i (s.tshape c t))
       (d.cfg = false → wrong 1 0 dst.toNat) ∧
       (d.cfg = true → r.cfg = false → wrong 1 1 src.toNat) ∧
       (d.cfg = true → r.cfg = true → d.rows ≠ r.rows ∨ d.cols ≠ r.cols → wrong 4 1 src.toNat) ∧
       (d.cfg = true → r.cfg = true → d.rows = r.rows → d.cols = r.cols →
         (if cvt = true then cvtPair r.fmt.toNat d.fmt.toNat = false else r.fmt ≠ d.fmt) → wrong 5 1 src.toNat)))

/-- R177, R184, R188, R194: the mover ends its only work, that of the core's own tiles and slice: TZERO leaves zeros, TMOV the source's
rows, TLD the rows read from memory, transposed where it asks, and TST writes the rows, a later one over an earlier; every other tile and
byte is as before, and the counter falls. A tile word in error is corrected and logged, or fails TMOV, TZERO or TST with every tile and byte
as it was.
R192 to R197, R201: a transfer whose fields are legal, whose shape and formats agree, whose addresses are right and whose counter is
below its limit enters as counted work over its rows; a Carousel form moves its index register on at distance 1. Fields that are not
legal are illegal, a row address off its element is MISALIGNED, a tile that is not configured TILE_SHAPE.
Where the spec leaves a choice open, the statement rests on the model's: log entries 14 and 16. -/
def Obligations.TileTransfers : Prop :=
  (∀ (s : State) (w : Work), s.Quiet w.core → (s.core w.core).wait = none → s.OnlyWork w → w.cc < 16 → w.tags = 0 →
     s.preempted w.core w.group = false →
     let k := s.core w.core
     let done (t : State) : Prop := t.works = [] ∧ (t.core w.core).outst w.cc = k.outst w.cc - 1 ∧ (t.core w.core).x = k.x ∧
       (t.core w.core).v = k.v
     let ends (dst : Nat) (P : Tile → Prop) : Prop := ∀ err, err ≠ .bad → ∃ t, exec (.tileMoverComplete w.id err) s = .next t ∧
       done t ∧ P ((t.core w.core).tile dst) ∧ (∀ i, i ≠ dst → (t.core w.core).tile i = k.tile i) ∧
       t.log.next = s.log.next + (match err with | .fixed _ => 1 | _ => 0) ∧ s.Beside t w.core
     let fits (t : Nat) (sh : TShape) : Prop := sh.cols ≤ maxCols (fileOf t) sh.fmt.toNat ∧ sh.cols % colMult sh.fmt.toNat = 0
     let plain (x : TileXfer) (sh : TShape) : Prop := x.raw = false ∧ sh.fmt = x.mfmt ∧ x.mfmt ≠ 10 ∧ fits x.tile.toNat sh
     (∀ dst sh, w.kind = .tzero dst sh → fits dst.toNat sh →
       ends dst.toNat fun tl => ∀ r, r < sh.rows → (tl.row dst.toNat sh r).codes = List.replicate sh.cols 0) ∧
     (∀ dst src sh, w.kind = .tmov dst src false false sh sh → fits dst.toNat sh →
       ends dst.toNat fun tl => ∀ r, r < sh.rows → tl.row dst.toNat sh r = (k.tile src.toNat).row src.toNat sh r) ∧
     (∀ dst src ovf dsh ssh, w.kind = .tmov dst src true ovf dsh ssh →
       ends dst.toNat fun tl => tl = (tmovTile dst.toNat src.toNat ovf dsh ssh (k.tile dst.toNat) (k.tile src.toNat)).1) ∧
     (∀ x sh bs, w.kind = .tld x sh → (readWork w .none false s).2 = .ok bs →
       (ends x.tile.toNat fun tl => tl = (tldTile x sh bs (k.tile x.tile.toNat)).1) ∧
       let bits := fmtBits x.mfmt.toNat
       let cols := if x.tr then sh.rows else sh.cols
       (plain x sh → cols * bits % 8 = 0 → ends x.tile.toNat fun tl => ∀ r j, r < sh.rows → j < sh.cols →
         (tl.row x.tile.toNat sh r).codes.getD j 0 =
           leNat ((bs.drop ((if x.tr then j else r) * (cols * bits / 8))).take (cols * bits / 8)) /
             2 ^ (bits * if x.tr then r else j) % 2 ^ bits)) ∧
     (∀ x sh ctr key (pa : Nat → Nat), w.kind = .tst x sh ctr key → plain x sh → x.tr = false → x.sr = false → s.heldWork w = [] →
       w.seen = [] → w.runs.length = sh.rows →
       let n := sh.cols * fmtBits x.mfmt.toNat / 8
       (∀ (r : Nat) (q : Word × Nat), w.runs[r]? = some q → q.2 = n ∧ q.1.toNat % 0x10000 + n ≤ 0x10000 ∧
         s.translate w.part w.priv false true q.1.toNat = .ok (pa r) ∧ s.Readable (pa r) n) → 0 < n →
       ∃ t, exec (.tileMoverComplete w.id .clean) s = .next t ∧ done t ∧ (t.core w.core).tiles = k.tiles ∧
         ∀ y, t.mem.get y = match (List.range sh.rows).reverse.find? (fun r => decide (pa r ≤ y ∧ y < pa r + n)) with
           | some r => (k.tile x.tile.toNat).data.get (slotBytes x.tile.toNat * r + (y - pa r))
           | none => s.mem.get y) ∧
     (∀ a : Word, ((∃ (dst src : BitVec 4) (cvt ovf : Bool) (dsh ssh : TShape), w.kind = .tmov dst src cvt ovf dsh ssh ∧ a = src.setWidth 64) ∨
         (∃ (dst : BitVec 4) (dsh : TShape), w.kind = .tzero dst dsh ∧ a = dst.setWidth 64) ∨
         ∃ x sh ctr key, w.kind = .tst x sh ctr key ∧ s.heldWork w = [] ∧ a = w.addr) →
       ∃ t, exec (.tileMoverComplete w.id .bad) s = .next t ∧ done t ∧ t.mem = s.mem ∧
         (t.core w.core).tiles = k.tiles ∧ (t.core w.core).cnt.ccerr.getLsbD w.cc = true ∧
         (k.cnt.ccerr.getLsbD w.cc = false → vget (t.core w.core).cnt.recs w.cc .zero = ⟨w.pc, a, 0x54⟩))) ∧
  (∀ (s : State) (c : Nat) (x : TileXfer), s.Ready c → c < 144 →
     let k := s.core c
     let sh := k.shape x.tile.toNat
     let f := x.mfmt.toNat
     let mr := if x.tr then sh.cols else sh.rows
     let mc := if x.tr then sh.rows else sh.cols
     let rb := mc * fmtBits f / 8
     let sum (i : Nat) : Nat := (k.cb x.set).toNat + k.carOff x.set rb (k.carIdx x.set (k.rx x.rs1) i)
     let aligned (v : Word) : Prop := v.toNat % elemBytes f = 0
     let row (i : Nat) : Word := if x.car then BitVec.ofNat 64 (sum i) else k.rx x.rs1 + BitVec.ofNat 64 i * k.rx x.rs2
     let fields (store : Bool) : Prop := f ∈ [0, 2, 4, 5, 6, 7, 8, 9, 10, 11] ∧ (x.sr = true → store = true ∧ x.cvt = true) ∧
       (x.ovf = true → x.cvt = true) ∧ (x.car = false → x.set = 0) ∧ (x.car = true → x.rs2 = 0 ∧ f ≠ 10) ∧ (f ≠ 10 → x.rs3 = 0) ∧
       (x.raw = true → x.tr = false ∧ x.cvt = false ∧ x.sr = false ∧ x.ovf = false ∧ x.car = false ∧ f = 0 ∧ x.rs2 = 0 ∧ x.rs3 = 0)
     let shaped (src tgt : BitVec 4) : Prop := sh.cfg = true ∧ (if x.cvt then cvtPair src.toNat tgt.toNat = true else src = tgt) ∧
       (f = 9 → mc % 2 = 0) ∧ (f = 11 → mc % 8 = 0) ∧ (f = 10 → mc % 32 = 0) ∧ (x.tr = true → f ≠ 10 ∧ f ≠ 11)
     let addressed : Prop := if x.car then (∃ m, rb = 2 ^ m) ∧ k.carOk x.set rb = true ∧
         ∀ i, i < mr → sum i < 2 ^ 64 ∧ aligned (row i) ∧ k.inWindow (row i).toNat rb = true
       else aligned (k.rx x.rs1) ∧ aligned (k.rx x.rs2) ∧ (f = 10 → aligned (k.rx x.rs3))
     let right (src tgt : BitVec 4) : Prop := if x.raw then (k.rx x.rs1).toNat % 64 = 0 else shaped src tgt ∧ addressed
     let block : Nat := if x.tile.toNat < 8 then 34816 else if x.tile.toNat < 12 then 65536 else 32768
     let runs : List (Word × Nat) := if x.raw then [(k.rx x.rs1, block)] else
       ((List.range mr).map fun i => (row i, rb)) ++
         (if f = 10 then (List.range mr).map fun i => (k.rx x.rs3 + BitVec.ofNat 64 (i * (mc / 32)), mc / 32) else [])
     let enters (i : Instr) (P : WorkKind → Prop) : Prop := ∃ t w, exec i s = .next t ∧ s.Entered t c true x.cc w ∧ P w.kind ∧
       w.runs = runs ∧ w.puts = [] ∧ (t.core c).tm.pend = (if x.car then
         [⟨k.tm.step + 1, .x k.bank x.rs1 (BitVec.ofNat 64 (k.carIdx x.set (k.rx x.rs1) mr)), none⟩] else [])
     let bad (i : Instr) (y : Trap) : Prop := exec i s = .next { takeException c y s with pending := s.pending }
     k.CcFree x.cc →
     (fields false → right x.mfmt sh.fmt → enters (.tld c x) fun q => q = .tld x sh) ∧
     (fields true → right sh.fmt x.mfmt → enters (.tst c x) fun q =>
       q = .tst x sh k.arr.srctr (if k.arr.srSet then some k.arr.srkey else none)) ∧
     ∀ i ∈ [(4, Instr.tld c x, false, x.mfmt, sh.fmt), (5, Instr.tst c x, true, sh.fmt, x.mfmt)],
       (¬ fields i.2.2.1 → bad i.2.1 { cause := 1, edata0 := (encXfer i.1 x).data }) ∧
       (x.raw = true → fields i.2.2.1 → (k.rx x.rs1).toNat % 64 ≠ 0 →
         bad i.2.1 { cause := 2, edata0 := k.rx x.rs1, edata1 := k.flow.pc }) ∧
       (x.raw = false → x.car = false → fields i.2.2.1 → shaped i.2.2.2.1 i.2.2.2.2 → ¬ aligned (k.rx x.rs1) →
         bad i.2.1 { cause := 2, edata0 := k.rx x.rs1, edata1 := k.flow.pc }) ∧
       (x.raw = false → fields i.2.2.1 → sh.cfg = false → bad i.2.1 (tileShape (encXfer i.1 x) 1 0 (s.tshape c x.tile.toNat))))

/-- R151, R189: TGET reads one 512-byte segment of a vector tile buffer, to land at distance 10; TPUT writes one; each takes
the memory port for the step. Any other tile is TILE_SHAPE, and a port that is not free ILLEGAL_OP reason 2.
Where the spec leaves a choice open, the statement rests on the model's: log entry 16. -/
def Obligations.TileSegments : Prop :=
  ∀ (s : State) (c : Nat) (v : Reg) (t : BitVec 4) (rs : Reg) (imm : BitVec 6), s.Ready c → c < 144 →
    let k := s.core c
    let g := ((k.rx rs).toNat + imm.toNat) % 64
    let tl := k.tile t.toNat
    let bad (x : Trap) : Prop := ∀ i ∈ [(0, Instr.tget c v t rs imm), (1, .tput c v t rs imm)], exec i.2 s = .next { takeException c
      { x with
        edata0 := (encTget i.1 v t rs imm).data } s with
      pending := s.pending }
    (k.tm.portFree ≤ k.tm.step → 12 ≤ t.toNat →
      (∃ r : BitVec 4096, (∀ i, i < 512 → BitVec.ofNat 8 (r.toNat >>> (8 * i)) = tl.data.get (512 * g + i)) ∧
        exec (.tget c v t rs imm) s = .next (s.upd c fun k => (k.takePort.addPend
          ⟨k.tm.step + 10, .v v r, some (.tget t, 0, k.flow.pc)⟩).retire true)) ∧
      (∃ t', exec (.tput c v t rs imm) s = .next t' ∧ (t'.core c).tm.portFree = k.tm.step + 1 ∧
        (∀ a, ((t'.core c).tile t.toNat).data.get a = if 512 * g ≤ a ∧ a < 512 * g + 512
          then BitVec.ofNat 8 ((k.rv v).toNat >>> (8 * (a - 512 * g))) else tl.data.get a) ∧
        ((t'.core c).tile t.toNat).shape = tl.shape ∧ (∀ i, i ≠ t.toNat → (t'.core c).tile i = k.tile i) ∧
        (t'.core c).x = k.x ∧ (t'.core c).v = k.v ∧ (t'.core c).flow = k.flow.advance true ∧ s.Beside t' c)) ∧
    (k.tm.portFree ≤ k.tm.step → t.toNat < 12 →
      bad { cause := 0x0E, reason := 2, edata1 := BitVec.ofNat 64 (s.tshape c t.toNat) }) ∧
    (k.tm.step < k.tm.portFree → bad { cause := 1, reason := 2 })

/-! ### The matrix array and the update path (R202 to R277) -/

/-- R205 to R214, R237 to R247: on an idle array a pass with right operands captures them and enters: it starts on the next
step, later where the load port or the pass before it still holds it (R212), and commits its length later; its counter
rises, and no register, tile or byte of memory changes. APASS, here of two matrix tiles with a stall load: products of moving rows with the
stationary columns; and in every form, fed, tent, with a parade load or a KEEP, what the plan of its operands says, once they pass the checks of R208,
R213, R216 and R231. AELEM: one operation of two accumulators or BF16 or FP16 tiles, or of each row with one row. ADIST, here with all
distances kept: sums of absolute differences of the signed bytes; and in every form the plan of its operands, once they pass R242 to R246.
Where the spec leaves a choice open, the statement rests on the model's: log entry 17. -/
def Obligations.ArrayPasses : Prop :=
  ∀ (s : State) (c : Nat), s.Ready c → c < 144 → s.fenced c = false → (s.core c).pw.disArray = false →
    let k := s.core c
    let acc (t rows cols : Nat) (fmt : BitVec 4) : Prop := 8 ≤ t ∧ t ≤ 11 ∧ k.shape t = ⟨true, fmt, cols, rows⟩ ∧ cols ≤ 128
    let enters (i : Instr) (cc : BitVec 4) (P : Pass → Prop) : Prop := ∃ t p, exec i s = .next t ∧
      (t.core c).arr.queue = [p] ∧ p.cc = cc.toNat ∧ p.pc = k.flow.pc ∧ P p ∧
      (t.core c).outst cc.toNat = k.outst cc.toNat + 1 ∧ (t.core c).flow = k.flow.advance true ∧ (t.core c).x = k.x ∧
      (t.core c).v = k.v ∧ (t.core c).tiles = k.tiles ∧ s.Beside t c
    let timed (p : Pass) (loads : Bool) (str : Nat) : Prop :=
      p.start = startOf k.arr.lastE k.arr.lambda loads (k.tm.step + 1) ∧
      p.commitAt = p.start + (if loads then 128 else 0) + str + 134
    let planned (p : Pass) (pl : PassPlan) (ld : LoadMode) : Prop := p.load = ld ∧ p.form = pl.form ∧ p.dst = pl.dst ∧ p.data = pl.data ∧
      p.dem = pl.dem ∧ p.ue = pl.ue ∧ p.start = startOf k.arr.lastE k.arr.lambda (ld == .stall || ld == .parade) (k.tm.step + 1) ∧
      p.commitAt = p.start + passLen ld pl.str pl.tail
    let source (t rows cols : Nat) : Prop := t < 12 ∧ ∃ f, k.shape t = ⟨true, f, cols, rows⟩ ∧ (if t < 8 then f = 5 ∨ f = 6 else f = 4)
    (∀ x : PassOp, k.CcFree x.cc → k.arr.tent = false → x.feed = false → x.load = 0 → x.rs1 = 0 → x.rs2 = 0 → x.rs3 = 0 →
      x.ffmt = 0 → x.frowsm1 = 0 → x.sta.toNat < 8 → x.mov.toNat < 8 →
      let st := k.shape x.sta.toNat
      let mv := k.shape x.mov.toNat
      st.cfg = true → mv.cfg = true → pairOk st.fmt.toNat mv.fmt.toNat = true → mv.cols = st.rows → mv.rows ≤ 128 →
      1 ≤ st.cols → acc x.dst.toNat mv.rows st.cols 4 →
      enters (.apass c x) x.cc fun p => p.dst = [x.dst.toNat] ∧ p.accum = x.accum ∧ timed p true mv.rows ∧
        p.data = .mm false (grpOf st.fmt.toNat) (k.tileVals x.mov.toNat) (colsOf st.cols (k.tileVals x.sta.toNat)) 0) ∧
    (∀ x : PassOp, let e := encPass x
      let pl := passPlan s c x
      let ld := loadNow k x.load.toNat pl.form x.sta.toNat false k.arr.tent
      k.CcFree x.cc → passIllegal k x = false → (if k.arr.tent = true then tentFault s c e x else gangedFault s c e x) = none →
      passLen ld pl.str 0 ≤ 2048 →
      (x.feed = true → feedFault k x.rs1 x.rs2 x.rs3 (elemBytes x.ffmt.toNat) (x.ffmt == 10) (passFeed k x) = none) →
      enters (.apass c x) x.cc fun p => p.accum = x.accum ∧ planned p pl ld) ∧
    (∀ (dst a b cc : BitVec 4) (op : BitVec 2) (brow : Bool) (rows rowsB cols : Nat), k.CcFree cc → rows ≤ 128 → acc dst.toNat rows cols 4 →
      source a.toNat rows cols → source b.toNat rowsB cols → (brow = false → rowsB = rows) →
      enters (.aelem c dst a b op brow cc) cc fun p => p.dst = [dst.toNat] ∧ timed p false ((rows + 7) / 8) ∧ p.accum = false ∧
        p.data = .elem op brow (k.tileVals a.toNat)
          (if brow = true then List.replicate rows ((k.tileVals b.toNat).headD []) else k.tileVals b.toNat)) ∧
    (∀ x : DistOp, let e := encDist x
      let pl := distPlan s c x
      let ld := loadNow k x.load.toNat pl.form x.sta.toNat false false
      k.CcFree x.cc → distIllegal x = false → (x.feed = true → 1 ≤ distCount k x ∧ distCount k x ≤ 8192) → distFault s c e x = none →
      passLen ld pl.str pl.tail ≤ 2048 →
      (x.feed = true → feedFault k x.rs1 x.rs2 0 (if Machine.DistOp.ham x = true then 2 else 1) false (distFeed k x) = none) →
      enters (.adist c x) x.cc fun p => p.accum = x.accum ∧ planned p pl ld) ∧
    (∀ x : DistOp, k.CcFree x.cc → x.feed = false → x.load = 0 → x.op = 0 → x.u = false → x.sel = 0 → x.rs1 = 0 → x.rs2 = 0 →
      x.rs3 = 0 → x.rs4 = 0 → x.sta.toNat < 8 → x.mov.toNat < 8 →
      let st := k.shape x.sta.toNat
      let mv := k.shape x.mov.toNat
      st.cfg = true → mv.cfg = true → st.fmt = 0 → mv.fmt = 0 → mv.cols = st.rows → mv.rows ≤ 128 → 1 ≤ st.cols →
      acc x.dst.toNat mv.rows st.cols 2 →
      enters (.adist c x) x.cc fun p => p.dst = [x.dst.toNat] ∧ p.accum = x.accum ∧ timed p true mv.rows ∧
        ∃ d n, p.data = .dist 0 d n ∧ ∀ r j, r < mv.rows → j < st.cols → (d.getD r []).getD j 0 =
          ((List.range st.rows).map fun q => ((((k.tile x.mov.toNat).data.get (256 * r + q)).toInt -
            ((k.tile x.sta.toNat).data.get (256 * q + j)).toInt).natAbs : Int)).sum)

/-- R212, R214, R224: the ring carries a core to a pass's start, and to its commit, where each element takes its result (a sum
of products of free order and rounding within R142 and R143, an operation of two elements, a sum of differences), the
counter falls and the array is empty. A tent pass's stream step whose feed data the vector memory port holds back waits, and the
pass commits one step later (R213, R219, R220). AQUIET of an empty array returns at once; at T it is illegal.
Where the spec leaves a choice open, the statement rests on the model's: log entries 5 and 17. -/
def Obligations.PassLife : Prop :=
  (∀ (s : State) (c : Nat) (p : Pass) (d : Nat), c < 144 → (s.core c).beats = true → (s.core c).tm.pend = [] →
    (s.core c).tm.delayed = [] → (s.core c).arr.upd = [] → (s.core c).pw.calHold = none → (s.core c).wait = none →
    (s.core c).arr.queue = [p] → (s.core c).arr.portUse = [] → p.ue = none → p.dst = [d] → 8 ≤ d → d ≤ 11 → p.cc < 16 →
    let k := s.core c
    let sh := k.shape d
    let commits (code : Nat → Nat → Nat) : Prop := ∃ t, exec (.passCommit c) s = .next t ∧ (t.core c).arr.queue = [] ∧
      (t.core c).tm.step = max k.tm.step p.commitAt ∧ (t.core c).outst p.cc = k.outst p.cc - 1 ∧
      (∀ r j, r < sh.rows → j < sh.cols → (t.core c).accCode d r j = code r j) ∧
      (∀ i, i ≠ d → (t.core c).tile i = k.tile i) ∧ (t.core c).x = k.x ∧ (t.core c).v = k.v ∧ s.Beside t c
    (k.tm.step < p.start → ∃ t, exec (.passStart c) s = .next t ∧ (t.core c).tm.step = p.start ∧
      (t.core c).arr.queue = [p] ∧ (t.core c).tiles = k.tiles ∧ (t.core c).x = k.x ∧ s.Beside t c) ∧
    (sh.rows ≤ 128 → sh.cols ≤ 128 →
      (∀ grp xs ss, p.data = .mm false grp xs ss 0 → xs.length = sh.rows → ss.length = sh.cols →
        commits fun r j => (mmElem (s.fresh + r * ss.length + j) grp (if p.accum then k.accFV d r j else .zero)
          (xs.getD r []) (ss.getD j [])).1) ∧
      (∀ op a b, p.data = .elem op false a b → a.length = sh.rows → b.length = sh.rows →
        (∀ row ∈ a ++ b, row.length = sh.cols) →
        commits fun r j => (elemOp op ((a.getD r []).getD j .zero) ((b.getD r []).getD j .zero)).1) ∧
      (∀ ds n, p.data = .dist 0 ds n → ds.length = sh.rows → (∀ row ∈ ds, row.length = sh.cols) →
        commits fun r j => (BitVec.ofInt 32 ((if p.accum then (k.accCode d r j : Int) else 0) + (ds.getD r []).getD j 0)).toNat))) ∧
  (∀ (s : State) (c : Nat) (p : Pass) (u v : Nat), c < 144 → (s.core c).beats = true → (s.core c).tm.pend = [] →
    (s.core c).tm.delayed = [] → (s.core c).arr.upd = [] → (s.core c).pw.calHold = none → (s.core c).wait = none →
    (s.core c).arr.queue = [p] → (s.core c).arr.portUse = [(u, v)] → p.ue = none → p.dem = 4096 → p.cred < v → v ≤ 4096 →
    (s.core c).tm.step < u → p.b ≤ u → u < p.b + p.str →
    (∃ t, exec (.passCommit c) s = .next t ∧ (t.core c).arr.queue = [] ∧ (t.core c).tm.step = p.commitAt + 1 ∧
      (t.core c).x = (s.core c).x ∧ s.Beside t c)) ∧
  (∀ (s : State) (c : Nat) (rs1 : Reg), s.Ready c → c < 144 →
    ((s.core c).level ≠ .t → ∃ t, exec (.aquiet c rs1) s = .next t ∧ (t.core c).wait = none ∧
      (t.core c).flow = (s.core c).flow.advance true ∧ (t.core c).x = (s.core c).x ∧ s.Beside t c) ∧
    ((s.core c).level = .t → exec (.aquiet c rs1) s = .next { takeException c
      { cause := 1, edata0 := (encWide 0x21 (rs1.toNat * 2 ^ 13) 0).data } s with
      pending := s.pending }))

/-- R221, R222, R226: a parity mismatch restarts a pass that has begun with a stall load, with a log entry; a second one, or an
uncorrectable operand, ends it: its counter falls with the reason, its tiles keep their contents and SVALID clears.
Where the spec leaves a choice open, the statement rests on the model's: log entry 17. -/
def Obligations.PassFailures : Prop :=
  ∀ (s : State) (c : Nat) (p : Pass) (row : BitVec 7) (a : Word), c < 144 → (s.core c).beats = true → (s.core c).tm.pend = [] →
    (s.core c).tm.delayed = [] → (s.core c).arr.upd = [] → (s.core c).pw.calHold = none → (s.core c).wait = none →
    s.works = [] → (s.core c).arr.queue = [p] → (s.core c).arr.portUse = [] → p.ue = none → p.cc < 16 → p.start ≤ (s.core c).tm.step →
    (s.core c).tm.step < p.commitAt →
    let k := s.core c
    let fails (i : Instr) (addr : Word) (reason : Byte) : Prop := ∃ t, exec i s = .next t ∧ (t.core c).arr.queue = [] ∧
      (t.core c).arr.svalid = false ∧ (t.core c).outst p.cc = k.outst p.cc - 1 ∧
      (t.core c).cnt.ccerr.getLsbD p.cc = true ∧
      (k.cnt.ccerr.getLsbD p.cc = false → vget (t.core c).cnt.recs p.cc .zero = ⟨p.pc, addr, reason⟩) ∧
      t.log.next = s.log.next + 1 ∧ (t.core c).tiles = k.tiles ∧ (t.core c).x = k.x ∧ s.Beside t c
    (p.load = .stall → p.restarted = false → ∃ t, exec (.parityMismatch c 0 row) s = .next t ∧
      (t.core c).arr.queue = [{ p with
        start := k.tm.step + 1
        str := p.str - p.waits
        cred := 0
        waits := 0
        restarted := true }] ∧
      t.log.next = s.log.next + 1 ∧ (t.core c).outst p.cc = k.outst p.cc ∧ (t.core c).tiles = k.tiles ∧ (t.core c).x = k.x ∧
      s.Beside t c) ∧
    (p.load = .keep ∨ p.restarted = true → fails (.parityMismatch c 0 row) 0 0x21) ∧
    fails (.passAbandon c 0 a) a 0x20

/-- R252 to R257, R268, R272: TPASS of tiles of one family whose shapes agree captures them and enters with its gradient slice, and in every
form, with an update, an upper window, a parade load or a KEEP, by the plan of its operands, once they pass the checks of R262 and R267; UPDT
of a slice or two with a right descriptor enters the update path, which it leaves after half a step a row, with no other use of the bonding
field. Each raises its counter and changes no register, tile or byte of memory.
Where the spec leaves a choice open, the statement rests on the model's: log entry 17. -/
def Obligations.BackwardIssue : Prop :=
  ∀ (s : State) (c : Nat), s.Ready c → c < 144 →
    let k := s.core c
    let same (t : State) (cc : BitVec 4) : Prop := (t.core c).outst cc.toNat = k.outst cc.toNat + 1 ∧
      (t.core c).flow = k.flow.advance true ∧ (t.core c).x = k.x ∧ (t.core c).v = k.v ∧ (t.core c).tiles = k.tiles ∧ s.Beside t c
    (∀ (x : TrapOp) (m mm nn kk : Nat) (fy fw fx : BitVec 4), k.CcFree x.cc → s.passFenced c (.trapeze m) = false → x.load = 0 → x.upd = false →
      x.nh = false → x.mask = false → x.rs1 = 0 → x.dy.toNat < 8 → x.wt.toNat < 8 → x.xt.toNat < 8 →
      1 ≤ nn → nn ≤ 64 → kk ≤ 128 → mm ≤ 128 →
      trapM fy.toNat = some m → trapM fw.toNat = some m → trapM fx.toNat = some m →
      k.shape x.dy.toNat = ⟨true, fy, nn, mm⟩ → k.shape x.wt.toNat = ⟨true, fw, kk, nn⟩ → k.shape x.xt.toNat = ⟨true, fx, mm, kk⟩ →
      8 ≤ x.dx.toNat → x.dx.toNat ≤ 11 → k.shape x.dx.toNat = ⟨true, 4, kk, mm⟩ →
      12 ≤ x.dvt.toNat → k.shape x.dvt.toNat = ⟨true, 4, nn, kk⟩ →
      ∃ t p, exec (.tpass c x) s = .next t ∧ (t.core c).arr.queue = [p] ∧ p.form = .trapeze m ∧ p.dst = [x.dx.toNat] ∧
        p.start = startOf k.arr.lastE k.arr.lambda true (k.tm.step + 1) ∧ p.commitAt = p.start + 128 + max mm kk + 134 ∧
        p.data.sliceTiles = [x.dvt.toNat] ∧ same t x.cc) ∧
    (∀ x : TrapOp, let w := trapWin k x
      let pl := trapPlan s c x
      let ld := loadNow k x.load.toNat pl.form x.wt.toNat x.nh false
      k.CcFree x.cc → s.passFenced c pl.form = false → trapIllegal x = false → trapFault s c (encTrap x) x = none → 1 ≤ w.n →
      (x.nh = true → w.m ≠ 2) →
      (x.upd = true → x.err = .clean ∧ descFault s c (encTrap x) (k.rx x.rs1) w.kk (w.n0 + w.n) x.err = none) →
      ∃ t p, exec (.tpass c x) s = .next t ∧ (t.core c).arr.queue = [p] ∧ p.form = pl.form ∧ p.load = ld ∧ p.accum = x.accum ∧
        p.dst = pl.dst ∧ p.data = pl.data ∧
        p.start = startOf k.arr.lastE k.arr.lambda (ld == .stall || ld == .parade) (k.tm.step + 1) ∧
        p.commitAt = p.start + passLen ld pl.str 0 ∧ same t x.cc) ∧
    (∀ (vt cc : BitVec 4) (ns nh mask : Bool) (rs1 : Reg), k.CcFree cc → s.fenced c = false → k.pw.disUpd = false →
      let e := encUpdt vt ns nh mask rs1 cc
      let js := List.range (if ns then 2 else 1)
      let base := if nh then 64 else 0
      let sh (j : Nat) : TShape := k.shape (vt.toNat + j)
      let slices : List Slice := js.map fun j => ⟨vt.toNat + j, (sh 0).rows, (sh j).cols, base + 64 * j⟩
      let n := updSteps slices mask k.arr.masks
      (∀ j ∈ js, vt.toNat + j < 16 ∧ 12 ≤ vt.toNat + j ∧ (sh j).cfg = true ∧ (sh j).rows = (sh 0).rows ∧ (sh j).cols ≤ 64 ∧
        (sh j).fmt = 4 ∧ base + 64 * j + (sh j).cols ≤ 128) →
      descFault s c e (k.rx rs1) (sh 0).rows (base + (js.map fun j => (sh j).cols).sum) .clean = none →
      ∃ t u x, exec (.updt c vt ns nh mask ⟨rs1, .clean⟩ cc) s = .next t ∧ (t.core c).arr.upd = [u] ∧ u.slices = slices ∧ u.mask = mask ∧
        (u.desc = some (s.updDesc c (k.rx rs1)) ∨ u.desc = none ∧ (s.updDesc c (k.rx rs1)).skipnf = true) ∧
        u.endAt = some (max (k.tm.step + 1) k.arr.updFree + x) ∧ n ≤ x ∧ x ≤ 3 * n ∧ same t cc) ∧
    (∀ (vt cc : BitVec 4) (nh : Bool) (rs1 : Reg) (rows cols : Nat), k.CcFree cc → s.fenced c = false → k.pw.disUpd = false → s.fieldBusy c = false →
      12 ≤ vt.toNat → k.shape vt.toNat = ⟨true, 4, cols, rows⟩ → 1 ≤ cols → cols ≤ 64 →
      let base := if nh then 64 else 0
      descFault s c (encUpdt vt false nh false rs1 cc) (k.rx rs1) rows (base + cols) .clean = none →
      (s.updDesc c (k.rx rs1)).skipnf = false →
      ∃ t u, exec (.updt c vt false nh false ⟨rs1, .clean⟩ cc) s = .next t ∧ (t.core c).arr.upd = [u] ∧
        u.slices = [⟨vt.toNat, rows, cols, base⟩] ∧ u.desc = some (s.updDesc c (k.rx rs1)) ∧
        u.endAt = some (max (k.tm.step + 1) k.arr.updFree + (rows + 1) / 2) ∧ same t cc)

/-- R258, R259, R268 to R270: an emission ends with each enabled element of the slice taking its gradient, and its counter
falls where no update follows; an update item ends with the weight and the momentum written by the rule of its form (here
form 1: v = b1·m1 + (wd·w + gscale·g), w' = w − lr·v, each step rounded once), and its counter falls.
Where the spec leaves a choice open, the statement rests on the model's: log entry 17. -/
def Obligations.SlicesAndUpdates : Prop :=
  ∀ (s : State) (c : Nat) (u : UpdItem) (tile rows cols col0 : Nat), c < 144 → (s.core c).beats = true → (s.core c).tm.pend = [] →
    (s.core c).tm.delayed = [] → (s.core c).arr.queue = [] → (s.core c).pw.calHold = none → (s.core c).wait = none →
    (s.core c).arr.upd = [u] → u.cc < 16 → u.slices = [⟨tile, rows, cols, col0⟩] → 12 ≤ tile → tile ≤ 15 → u.mask = false →
    let k := s.core c
    (∀ step, u.emitFrom = some step → u.endAt = none → u.desc = none → u.gacc = false → rows ≤ 128 → cols ≤ 64 →
      k.tm.step < step + 16 →
      ∃ t, exec (.sliceEmission c false) s = .next t ∧ (t.core c).arr.upd = [] ∧ (t.core c).outst u.cc = k.outst u.cc - 1 ∧
        (t.core c).tm.step = step + 16 ∧
        (∀ r j, r < rows → j < cols → (t.core c).vtCode tile r j = (u.grad.getD r []).getD j 0) ∧
        (∀ i, i ≠ tile → (t.core c).tile i = k.tile i) ∧ (t.core c).x = k.x ∧ s.Beside t c) ∧
    (∀ d step, u.emitFrom = none → u.endAt = some step → k.tm.step < step → u.done = 0 → u.next < step → u.bad = none → u.desc = some d → d.form = 1 → d.cfmt = 0 →
      rows = 1 → cols = 1 → col0 = 0 →
      let wa := s.windowPa c d.waddr.toNat
      let ma := s.windowPa c d.m1addr.toNat
      s.isPoisoned wa 4 = false → s.isPoisoned ma 4 = false → wa + 4 ≤ ma ∨ ma + 4 ≤ wa →
      let w := BitVec.ofNat 32 (s.mem.nat wa 4)
      let m1 := BitVec.ofNat 32 (s.mem.nat ma 4)
      let v := (fmaB d.b1 m1 (fmaB d.wd w (fmulB d.gscale (k.vtCode tile 0 0)).1).1).1
      ∃ t, exec (.updateItemEnd c none) s = .next t ∧ (t.core c).arr.upd = [] ∧ (t.core c).outst u.cc = k.outst u.cc - 1 ∧
        (t.core c).tm.step = step ∧ t.mem.nat wa 4 = (fmaB (fnegB d.lr) v w).1.toNat ∧ t.mem.nat ma 4 = v.toNat ∧
        (∀ x, (x < wa ∨ wa + 4 ≤ x) → (x < ma ∨ ma + 4 ≤ x) → t.mem.get x = s.mem.get x) ∧ (t.core c).x = k.x)

/-! ### Juggler (R278 to R310) -/

/-- R278, R284 to R286, R298, R302, R304: SOPEN and SJOIN take a free slot and raise its counter; SACQ hands out the next segment
that is ready, the all-ones word once none will come, and waits otherwise; SREL gives a segment back; a cancel drains the
slot, and of memory changes the ring positions that the task does not hold, to bytes that are free; MCAST.DROP drops the named receiver. s14 and s15 are illegal at T, and a slot in use is STREAM_CFG for SOPEN and SJOIN.
Where the spec leaves a choice open, the statement rests on the model's: log entry 18. -/
def Obligations.StreamInstructions : Prop :=
  ∀ (s : State) (c : Nat) (slot cc : BitVec 4) (rd rs1 : Reg) (l : Bool), s.Ready c → c < 144 →
    let k := s.core c
    let i := slot.toNat
    let sl := k.slot i
    let ends (ins : Instr) (P : State → Prop) : Prop := ∃ t, exec ins s = .next t ∧ P t ∧
      (t.core c).flow = k.flow.advance true ∧ (t.core c).v = k.v ∧ (∀ j, j ≠ i → (t.core c).slot j = k.slot j) ∧ s.Beside t c
    let bad (ins : Instr) (x : Trap) : Prop := exec ins s = .next { takeException c x s with pending := s.pending }
    (k.slotDenied slot = false → (k.level = .t → k.idn.resv = false) → k.ccHidden i = false →
      (sl.st = .free → k.CcFree cc → s.fenced c = false → k.pw.disJug = false →
        let base := k.rx rs1
        let bs := s.windowBytes c base.toNat 128
        let d := readStream bs
        (base.toNat % 64 = 0 → k.inWindow base.toNat 128 = true → s.windowBad c base.toNat 128 = false →
          streamBad s c bs = none → d.mode = false → d.mem.toNat % 8 = 0 → d.pitch.toNat % 8 = 0 → d.rbase.toNat % 64 = 0 →
          d.idx.toNat % 4 = 0 → k.inWindow d.rbase.toNat (d.nseg * (d.rowb * d.segrows)) = true →
          ends (.sopen c slot ⟨rs1, .clean⟩ cc) fun t => let n := (t.core c).slot i
            n.st = (if d.rcv = [] then (if d.write = true then .write else .read) else .sender) ∧ n.desc = some d ∧
            n.cc = cc.toNat ∧ n.prog = .reset ∧ (t.core c).outst cc.toNat = k.outst cc.toNat + 1 ∧ (t.core c).x = k.x) ∧
        ends (.sjoin c slot cc) fun t => let n := (t.core c).slot i
          n.st = .joined ∧ n.desc = none ∧ n.cc = cc.toNat ∧ (t.core c).outst cc.toNat = k.outst cc.toNat + 1 ∧ (t.core c).x = k.x) ∧
      (sl.st ≠ .free → k.CcFree cc → ∀ err, bad (.sopen c slot ⟨rs1, err⟩ cc) (streamCfg (encStream 0x60 slot rs1 0 false cc.toNat) 1 slot 0) ∧
        bad (.sjoin c slot cc) (streamCfg (encStream 0x61 slot 0 0 false cc.toNat) 1 slot 0)) ∧
      (∀ d, sl.desc = some d → sl.rcvs = [] → sl.st = .read ∨ sl.st = .receive → sl.prog.acq - sl.prog.rel ≠ d.nseg →
        (sl.cutSeg = none → sl.prog.acq < d.segs → sl.prog.acq < sl.full → ends (.sacq c slot rd rs1 l) fun t =>
          (t.core c).wait = none ∧ ((t.core c).slot i).prog = { sl.prog with acq := sl.prog.acq + 1 } ∧
          (t.core c).rx rd = (if rd = 0 then 0 else
            d.rbase + BitVec.ofNat 64 (sl.prog.acq % d.nseg * (d.rowb * d.segrows))) ∧ t.time = s.time) ∧
        (sl.cutSeg = none → sl.ended = false → sl.full ≤ sl.prog.acq → sl.prog.acq < d.segs →
          ∃ t w, exec (.sacq c slot rd rs1 l) s = .next t ∧ (t.core c).wait = some w ∧ w.kind = .stream i ∧ w.start = s.time ∧
            (t.core c).slots = k.slots ∧ (t.core c).flow = k.flow.waiting ∧ (t.core c).x = k.x ∧ s.Beside t c) ∧
        (sl.ended = true → sl.full ≤ sl.prog.acq → ends (.sacq c slot rd rs1 l) fun t =>
          (t.core c).rx rd = (if rd = 0 then 0 else BitVec.allOnes 64) ∧ (t.core c).slot i = sl)) ∧
      (sl.st ≠ .free → sl.rcvs = [] → sl.prog.rel < sl.prog.acq → ends (.srel c slot) fun t =>
        (t.core c).slot i = { sl with prog := { sl.prog with rel := sl.prog.rel + 1 } } ∧ (t.core c).x = k.x) ∧
      (sl.st = .free → sl.sender = none → sl.rcvs = [] → ends (.streamCancel c slot) fun t => (t.core c).slot i = sl ∧ (t.core c).x = k.x) ∧
      (sl.st = .joined → sl.cc < 16 → sl.sender = none → sl.rcvs = [] → s.preempted c sl.idn.group.toNat = false → ends (.streamCancel c slot) fun t =>
        (t.core c).slot i = .reset ∧ (t.core c).outst sl.cc = k.outst sl.cc - 1 ∧ (t.core c).x = k.x) ∧
      (∀ d, sl.desc = some d → sl.st = .read → sl.sender = none → sl.rcvs = [] → ∃ t, exec (.streamCancel c slot) s = .next t ∧
        let n := (t.core c).slot i
        n.st = .draining ∧ n.cancelled = true ∧ n.cutSeg = some sl.prog.acq ∧
        n.prog.disc = sl.prog.disc + BitVec.ofNat 48 (sl.arrived - sl.handed) ∧
        (t.core c).x = k.x ∧ (t.core c).v = k.v ∧ (t.core c).tiles = k.tiles ∧ (t.core c).flow = k.flow.advance true ∧
        (∀ j, j ≠ i → (t.core c).slot j = k.slot j) ∧
        ∀ x, (∀ j, j < d.nseg - sl.held → ∀ q ∈ sl.idn.runs c (d.segAddr (sl.prog.acq + j)).toNat d.segBytes, x < q.1 ∨ q.1 + q.2 ≤ x) →
          t.mem.get x = s.mem.get x) ∧
      (sl.st = .sender → s.NoWaits → ∃ t, exec (.mcastDrop c slot rs1) s = .next t ∧
        ((t.core c).slot i).rcvs = sl.rcvs.map fun r =>
          if r.live = true ∧ r.member.setWidth 64 = k.rx rs1 then { r with live := false } else r)) ∧
    (k.slotDenied slot = true → ∀ err, let no (i : Instr) (e : Enc) : Prop := bad i { cause := 1, edata0 := e.data }
      no (.sopen c slot ⟨rs1, err⟩ cc) (encStream 0x60 slot rs1 0 false cc.toNat) ∧ no (.sjoin c slot cc) (encStream 0x61 slot 0 0 false cc.toNat) ∧
      no (.sacq c slot rd rs1 l) (encStream 0x62 slot rd rs1 l 0) ∧ no (.srel c slot) (encStream 0x63 slot 0 0 false 0) ∧
      no (.streamCancel c slot) (encStream 0x64 slot 0 0 false 0) ∧ no (.mcastDrop c slot rs1) (encStream 0x65 slot rs1 0 false 0))

/-- R279, R280, R288 to R290, R298, R307, R308: a request takes the next piece of a row, up to a 256-byte boundary; its response
puts the bytes into the ring; a failing piece drains the stream with MEM_FAIL; a stream whose rows have all moved and whose
segments are all back ends: its slot is free and its counter falls; a receiver that has joined is bound to its sender.
Where the spec leaves a choice open, the statement rests on the model's: log entry 18. -/
def Obligations.StreamEvents : Prop :=
  ∀ (s : State) (c : Nat) (slot : BitVec 4) (d : SDesc), c < 144 → s.NoWaits →
    let k := s.core c
    let i := slot.toNat
    let sl := k.slot i
    sl.desc = some d →
    (sl.st = .read → sl.rcvs = [] → d.write = false →
      ((s.core c).beats = true → (∀ j, j ≠ i → (k.slot j).st = .free) → sl.gated = false → d.mode = false →
        sl.prog.reqRow < d.nrows → sl.prog.reqRow / d.segrows < sl.prog.rel + d.nseg → s.tags c false < 1024 →
        (∀ w ∈ s.works, w.core = c → w.stage ≠ .untagged) →
        (∀ r, sl.prog.reqAddr = some r → r = d.mem + BitVec.ofNat 64 sl.prog.reqRow * d.pitch) →
        let a := d.mem + BitVec.ofNat 64 sl.prog.reqRow * d.pitch + BitVec.ofNat 64 sl.prog.reqOff
        ∃ t p rest, exec (.streamRequest c) s = .next t ∧ ((t.core c).slot i).prog.pieces = sl.prog.pieces ++ p :: rest ∧
          rest.length ≤ 1 ∧ p.row = sl.prog.reqRow ∧ p.off = sl.prog.reqOff ∧ p.addr = a ∧
          p.len = min (d.rowb - sl.prog.reqOff) (256 - a.toNat % 256) ∧ (t.core c).x = k.x ∧ s.Beside t c) ∧
      (∀ p bs, sl.prog.pieces = [p] → (getVa c sl.pc .none [] sl.part sl.priv false p.addr.toNat p.len s).2 = .ok bs →
        s.lineBusy c i p = false →
        (∀ pa, s.translate sl.part sl.priv true false p.addr.toNat = .ok pa → s.granted p.id p.due (unitsOf pa p.len) = true) →
        let at_ := d.ringAddr p.row p.off
        let pa := sl.pa c at_
        (at_.toNat - sl.idn.lwb.toNat) % 0x10000 + bs.length ≤ 0x10000 →
        ∃ t, exec (.pieceResponse c slot ⟨p.no, .none⟩) s = .next t ∧ ((t.core c).slot i).prog.pieces = [] ∧
          (∀ x, t.mem.get x = if pa ≤ x ∧ x < pa + bs.length then bs.getD (x - pa) 0 else s.mem.get x) ∧
          (p.len = d.rowb → assoc sl.prog.got p.row = none →
            ((t.core c).slot i).prog.doneRows = sl.prog.doneRows + 1) ∧ (t.core c).x = k.x) ∧
      (∀ p, sl.prog.pieces = [p] → 0 < p.len → ∃ t, exec (.pieceFail c slot p.no) s = .next t ∧
        let n := (t.core c).slot i
        n.prog.pieces = [] ∧ n.st = .draining ∧ n.err = some ⟨sl.pc, p.addr, 0x30⟩ ∧ n.ended = true ∧ t.mem = s.mem ∧
        (t.core c).x = k.x) ∧
      (sl.prog.doneRows = d.nrows → sl.prog.rel = d.segs → sl.err = none → sl.sender = none → sl.cc < 16 →
        s.preempted c sl.idn.group.toNat = false → ∃ t, exec (.streamEnd c slot) s = .next t ∧ (t.core c).slot i = .reset ∧
          (t.core c).outst sl.cc = k.outst sl.cc - 1 ∧ (t.core c).cnt.ccerr = k.cnt.ccerr ∧
          (∀ j, j ≠ i → (t.core c).slot j = k.slot j) ∧ (t.core c).x = k.x ∧ s.Beside t c)) ∧
    (∀ (j : BitVec 3) (r : Rcv) (tc : Nat), sl.st = .sender → sl.rcvs[j.toNat]? = some r → r.live = true → r.bound = false →
      s.memberCore sl.idn.group.toNat r.member.toNat = some tc → tc < 160 →
      let tl := (s.core tc).slot r.slot.toNat
      let rbase := d.rbase - sl.idn.lwb + tl.idn.lwb
      tl.st = .joined → tl.idn.inWindow rbase.toNat d.ringBytes = true →
      ∃ t, exec (.multicastBind c slot j) s = .next t ∧ t.mem = s.mem ∧
        ((t.core c).slot i).rcvs[j.toNat]? = some { r with bound := true } ∧
        let n := (t.core tc).slot r.slot.toNat
        n.st = .receive ∧ n.sender = some (c, i) ∧ n.cc = tl.cc ∧
        n.desc = some { d with
          rbase := rbase
          rcv := [] })

/-! ### Synchronisation (R312 to R344) -/

/-- R315, R319 to R323: SEM.ADD enters as counted work, SEM.ADD.REL as a release that is held while a write before it is
outstanding; SEM.TAKE makes the core wait. At its home an add puts the sum into the doubleword and obtains the old value; a
take that the value suffices for, by a signed compare, subtracts its amount and ends the wait with the old value, and one it
does not suffice for is parked. An address off 8 bytes is MISALIGNED. -/
def Obligations.Semaphores : Prop :=
  (∀ (s : State) (c : Nat) (rd rs1 rs2 : Reg) (f : BitVec 5) (l test : Bool), s.Ready c false →
    let k := s.core c
    let a := k.rx rs1
    let cc : BitVec 4 := f.setWidth 4
    let enters (i : Instr) : Prop := ∃ t w, exec i s = .next t ∧ s.Entered t c false cc w ∧
      w.kind = .semAdd k.bank rd (k.rx rs2) ∧ w.addr = a ∧ w.runs = [(a, 8)]
    (a.toNat % 8 = 0 → f.getLsbD 4 = false → k.CcFree cc → enters (.semAdd c rd rs1 rs2 f) ∧
      (s.outWrites c = [] → s.outSegs c = [] → enters (.semAddRel c rd rs1 rs2 f)) ∧
      (s.outWrites c ≠ [] → ∃ t w, exec (.semAddRel c rd rs1 rs2 f) s = .next t ∧ t.works = s.works ++ [w] ∧ w.stage = .held ∧
        w.covers = s.outWrites c ∧ (t.core c).outst cc.toNat = k.outst cc.toNat + 1 ∧ t.mem = s.mem)) ∧
    (a.toNat % 8 = 0 → ∃ t w q, exec (.semTake c rd rs1 rs2 f l test) s = .next t ∧ t.works = s.works ++ [w] ∧
      w.kind = .semTake k.bank rd (f.toNat + 1) test ∧ w.addr = a ∧ w.core = c ∧ (t.core c).wait = some q ∧
      q.kind = .sem w.id a ∧ q.rd = rd ∧ (t.core c).flow = k.flow.waiting ∧ (t.core c).x = k.x ∧ s.Beside t c) ∧
    (a.toNat % 8 ≠ 0 → let off (i : Instr) : Prop := exec i s = .next { takeException c
        { cause := 2, edata0 := a, edata1 := k.flow.pc } s with
        pending := s.pending }
      off (.semTake c rd rs1 rs2 f l test) ∧ (f.getLsbD 4 = false → k.CcFree cc → off (.semAdd c rd rs1 rs2 f) ∧ off (.semAddRel c rd rs1 rs2 f)))) ∧
  (∀ (s : State) (w : Work) (pa : Nat), s.OnlyWork w → s.takes = [] → w.core < 144 →
    s.translate w.part w.priv true true w.addr.toNat = .ok pa → pa % 8 = 0 → w.addr.toNat % 8 = 0 → s.Readable pa 8 →
    w.tags = 0 → w.seen = [] → s.behind w = false →
    let old := s.mem.nat pa 8
    let k := s.core w.core
    let rest (t : State) : Prop := ∀ x, (x < pa ∨ pa + 8 ≤ x) → t.mem.get x = s.mem.get x
    (∀ b rd v, s.NoWaits → w.kind = .semAdd b rd v →
      ∃ t, exec (.semOpAtHome w.id .none) s = .next t ∧ t.mem.nat pa 8 = (old + v.toNat) % 2 ^ 64 ∧ rest t ∧
        t.works = [{ w with stage := .applied (s.mem.bytes pa 8) }] ∧ (t.core w.core).x = k.x) ∧
    (∀ b rd n q, w.kind = .semTake b rd n false → 1 ≤ n → (∀ d, d < 160 → d ≠ w.core → (s.core d).wait = none) → k.wait = some q →
      q.kind = .sem w.id w.addr → q.lowered = false → k.pw.ring = true → k.tm.pend = [] →
      ((n : Int) ≤ (BitVec.ofNat 64 old).toInt → ∃ t, exec (.semOpAtHome w.id .none) s = .next t ∧ t.mem.nat pa 8 = old - n ∧
        rest t ∧ t.works = [] ∧ t.takes = [] ∧ (t.core w.core).wait = none ∧
        (t.core w.core).rx q.rd = (if q.rd = 0 then 0 else BitVec.ofNat 64 old) ∧
        (t.core w.core).flow = k.flow.advance q.wide) ∧
      ((BitVec.ofNat 64 old).toInt < (n : Int) → ∃ t, exec (.semOpAtHome w.id .none) s = .next t ∧ t.mem = s.mem ∧
        t.takes = [⟨w.id, pa, n⟩] ∧ (t.core w.core).wait = some q ∧ (t.core w.core).x = k.x)))

/-- R315, R324 to R328: SIG enters as counted work, SIG.REL as a release; a signal that reaches a member of its group joins that
core's queue and raises SIGNAL, one to no member fails with reason 0x40, and one to a core out of service with 0x32. SIGW returns the oldest signal with its sender's
number, waits for one, or with TEST reads all ones. A release that covers nothing outstanding takes effect. -/
def Obligations.Signals : Prop :=
  (∀ (s : State) (c : Nat) (rd rs1 rs2 : Reg) (f : BitVec 5) (l : Bool), s.Ready c false →
    let k := s.core c
    let cc : BitVec 4 := f.setWidth 4
    let word (e : SigEntry) : Word := BitVec.ofNat 64 (e.payload.toNat + e.sender.toNat * 2 ^ 48)
    let enters (i : Instr) : Prop := ∃ t w, exec i s = .next t ∧ s.Entered t c false cc w ∧
      w.kind = .sig ((k.rx rs1).setWidth 12) ((k.rx rs2).setWidth 48) ∧ w.group = k.idn.group.toNat ∧ w.sender = k.idn.member
    (f.getLsbD 4 = false → k.CcFree cc → enters (.sig c rs1 rs2 f) ∧
      (s.outWrites c = [] → s.outSegs c = [] → enters (.sigRel c rs1 rs2 f))) ∧
    (∀ e es, k.sigSeen k.level = e :: es →
      (∃ t, exec (.sigw c rd rs2 l false) s = .next t ∧ (t.core c).rx rd = (if rd = 0 then 0 else word e) ∧
        (t.core c).syn.sigq = k.syn.sigq.erase e ∧ (t.core c).wait = none ∧ (t.core c).flow = k.flow.advance false ∧ s.Beside t c) ∧
      (∃ t, exec (.sigw c rd rs2 l true) s = .next t ∧ (t.core c).syn.sigq = k.syn.sigq.erase e ∧
        (t.core c).tm.pend = [⟨k.tm.step + 1, .x k.bank rd (word e), none⟩] ∧ (t.core c).flow = k.flow.advance false ∧ s.Beside t c)) ∧
    (k.sigSeen k.level = [] →
      exec (.sigw c rd rs2 l true) s = .next (s.upd c fun k => (k.landX 1 rd (BitVec.allOnes 64)).retire false) ∧
      ∃ t q, exec (.sigw c rd rs2 l false) s = .next t ∧ (t.core c).wait = some q ∧ q.kind = .signal ∧ (t.core c).x = k.x ∧
        (t.core c).flow = k.flow.waiting ∧ s.Beside t c)) ∧
  (∀ (s : State) (w : Work) (m : BitVec 12) (p : BitVec 48), s.OnlyWork w → s.NoWaits → w.core < 160 → w.kind = .sig m p →
    (∀ tc, w.addr.toNat < 4096 → s.liveMember w.group m.toNat = some tc → tc < 160 → (s.core tc).inSvc = true →
      (s.core tc).syn.sigq.length < 16 → ∃ t, exec (.signalQueued w.id) s = .next t ∧
        t.works = [{ w with stage := .applied [] }] ∧ (t.core tc).syn.sigq = (s.core tc).syn.sigq ++ [⟨p, w.sender, w.group⟩] ∧
        ((s.core tc).idn.hide = false → (t.core tc).tr.ipend.getLsbD 2 = true) ∧ (t.core tc).x = (s.core tc).x ∧ s.Beside t tc) ∧
    (∀ tc, w.addr.toNat < 4096 → s.liveMember w.group m.toNat = some tc → (s.core tc).inSvc = false →
      ∃ t, exec (.signalQueued w.id) s = .next t ∧ t.works = [{ w with stage := .failed ⟨w.pc, w.addr, 0x32⟩ }] ∧ t.mem = s.mem ∧
        t.cores = s.cores) ∧
    (w.addr.toNat < 4096 → s.liveMember w.group m.toNat = none → ∃ t, exec (.signalQueued w.id) s = .next t ∧
      t.works = [{ w with stage := .failed ⟨w.pc, w.addr, 0x40⟩ }] ∧ t.mem = s.mem ∧ t.cores = s.cores)) ∧
  (∀ (s : State) (w : Work), s.works = [w] → w.stage = .held → w.covers = [] → w.coverSegs = [] →
    ((∀ ch, w.kind ≠ .barArr ch) → ∃ t, exec (.releaseTakesEffect w.id) s = .next t ∧
      t.works = [{ w with stage := .going }] ∧ t.mem = s.mem ∧ t.cores = s.cores) ∧
    (∀ ch, w.kind = .barArr ch → w.core < 160 → s.preempted w.core w.group = false →
      ∃ t, exec (.releaseTakesEffect w.id) s = .next t ∧ t.works = [] ∧
        (t.core w.core).syn.wires.getLsbD ch.toNat = true ∧ s.Beside t w.core))

/-- R329 to R334: BAR.ARR sets BARPEND and, with no write outstanding, raises the core's wire; BAR does that and waits; BAR.WAIT
returns the generation once BARPEND is clear; a channel that the core is no member of is illegal with reason 3. When every
member has arrived and the lead hub serves, the barrier completes: arrivals are consumed and the generation rises by one. -/
def Obligations.Barriers : Prop :=
  (∀ (s : State) (c : Nat) (rd rs2 : Reg) (ch : BitVec 5) (l : Bool), s.Ready c false → c < 144 →
    let k := s.core c
    let n := ch.toNat
    let arrived (t : State) : Prop := (t.core c).syn.barpend.getLsbD n = true ∧ (t.core c).syn.wires.getLsbD n = true ∧
      (∀ j, j ≠ n → (t.core c).syn.barpend.getLsbD j = k.syn.barpend.getLsbD j) ∧ (t.core c).x = k.x ∧ s.Beside t c
    (k.syn.barmask.getLsbD n = true → k.syn.barpend.getLsbD n = false → s.outWrites c = [] → s.outSegs c = [] →
      (∃ t, exec (.barArr c ch) s = .next t ∧ arrived t ∧ (t.core c).flow = k.flow.advance false) ∧
      (k.syn.barfail.getLsbD n = false → k.flow.barw = false → ∃ t q, exec (.bar c rd rs2 ch l) s = .next t ∧ arrived t ∧
        (t.core c).wait = some q ∧ q.kind = .barrier ch ∧ q.bar = true ∧ (t.core c).flow = k.flow.waiting)) ∧
    (k.syn.barmask.getLsbD n = true → k.syn.barfail.getLsbD n = false →
      exec (.barWait c rd rs2 ch l true) s = .next (s.upd c fun k => (k.landX 1 rd (vget k.syn.gens n 0)).retire false) ∧
      (k.syn.barpend.getLsbD n = false → ∃ t, exec (.barWait c rd rs2 ch l false) s = .next t ∧ (t.core c).wait = none ∧
        (t.core c).rx rd = (if rd = 0 then 0 else vget k.syn.gens n 0) ∧ (t.core c).flow = k.flow.advance false ∧ s.Beside t c) ∧
      (k.syn.barpend.getLsbD n = true → ∃ t q, exec (.barWait c rd rs2 ch l false) s = .next t ∧ (t.core c).wait = some q ∧
        q.kind = .barrier ch ∧ q.bar = false ∧ (t.core c).x = k.x ∧ (t.core c).flow = k.flow.waiting ∧ s.Beside t c)) ∧
    (k.syn.barmask.getLsbD n = false → ∀ i ∈ [(Instr.barArr c ch, encSync 6 0 0 0 false false n),
        (.barWait c rd rs2 ch l false, encSync 7 rd 0 rs2 l false n), (.barWait c rd rs2 ch l true, encSync 7 rd 0 rs2 l true n),
        (.bar c rd rs2 ch l, encSync 8 rd 0 rs2 l false n)], exec i.1 s = .next { takeException c
      { cause := 1, reason := 3, edata0 := i.2.data } s with
      pending := s.pending })) ∧
  (∀ (s : State) (ch : BitVec 5), s.NoWaits → (s.hub s.pkg.lead).insvc = true → let n := ch.toNat
    s.barMembers n ≠ [] → s.laggards n = [] → ∃ t, exec (.barrierComplete ch) s = .next t ∧
      vget t.gens n 0 = vget s.gens n 0 + 1 ∧ t.mem = s.mem ∧
      ∀ c, c < 160 → (t.core c).syn.wires.getLsbD n = false ∧ vget (t.core c).syn.gens n 0 = vget s.gens n 0 + 1 ∧
        ((s.core c).syn.barmask.getLsbD n = true → (t.core c).syn.barpend.getLsbD n = false) ∧ (t.core c).x = (s.core c).x)

/-- R40, R338 to R340, R484: a long wait of a training core that has lasted LWMIN lowers the core to its retention setting, or to
its floor while the array, the update path or a tag holds it; the ring stops as a falling core passes below its floor, and
starts when a rising one reaches it; a core at retention whose wait can end resumes at its floor. No register changes but by a result
that lands.
Where the spec leaves a choice open, the statement rests on the model's: log entries 6 and 22. -/
def Obligations.LongWaits : Prop :=
  ∀ (s : State) (c : Nat), c < 144 →
    let k := s.core c
    let same (t : State) : Prop := t.mem = s.mem ∧ ∀ d, (t.core d).x = (s.core d).x ∧ (t.core d).v = (s.core d).v
    (∀ w cc n, k.wait = some w → w.kind = .counter cc n → w.long = true → w.lowered = false → k.idn.cls = false →
      s.leadUp = true → k.inSvc = true → (s.tickTo (w.start + k.syn.lwmin.toNat)).time < w.deadline → n < k.outst cc → k.ccHidden cc = false →
      ∃ t, exec (.longWaitLower c) s = .next t ∧ t.time = (s.tickTo (w.start + k.syn.lwmin.toNat)).time ∧
        (t.core c).wait = some { w with lowered := true } ∧
        (t.core c).pw.vset = (if s.noRetention c = true then s.floorMv c else s.retMv c) ∧ same t) ∧
    (k.powered = true → k.pw.ring = true → k.pw.target < s.floorMv c → ∃ t, exec (.ringStop c) s = .next t ∧
      (t.core c).pw.ring = false ∧ (t.core c).pw.volt < s.floorMv c ∧ (t.core c).canIssue = false ∧ (k.tm.pend = [] → same t)) ∧
    (k.inSvc = true → k.pw.ring = false → s.floorMv c ≤ k.pw.target → k.wait = none → ∃ t, exec (.ringStart c) s = .next t ∧
      (t.core c).pw.ring = true ∧ s.floorMv c ≤ (t.core c).pw.volt ∧ same t) ∧
    (∀ w cc n, k.inSvc = true → k.pw.ring = false → k.wait = some w → w.kind = .counter cc n → k.outst cc ≤ n →
      bitOf k.cnt.ccerr.toNat cc = false → k.ccHidden cc = false → w.lowered = true → k.tm.pend = [] → ∃ t, exec (.coreResume c) s = .next t ∧
        (t.core c).pw.ring = true ∧ s.floorMv c ≤ (t.core c).pw.vset ∧ (t.core c).wait = none ∧
        (t.core c).flow = k.flow.advance w.wide ∧
        (t.core c).rx w.rd = (if w.rd = 0 then 0 else BitVec.ofNat 64 (k.outst cc)) ∧ t.mem = s.mem)

/-! ### Placement (R345 to R372) -/

/-- R354, R358 to R365: Ringmaster carries out the request record at x10 of gate 0xF0 and answers its status in x10: ALLOC maps
fresh pages, FREE unmaps an allocation, HINT changes its hints and rights, GROUP forms a group of cores and UNGROUP releases
one, at once or, its task running, with that task, SHARE makes a grant, ATTACH maps it and DETACH unmaps it. A FREE, HINT or SHARE of no
allocation, an UNGROUP of no group, a SHARE to no partition and a DETACH of nothing attached are NOTFOUND, an ATTACH of no grant DENIED; a
length other than 64, bytes that are not zero and an operation past 8, or 0, are BADREQ, whichever operation is asked: each changes no
allocation and no group. A FREE waits for accesses that reached the memory before it, or is BUSY.
Where the spec leaves a choice open, the statement rests on the model's: log entries 19 and 21. -/
def Obligations.PlacementRequests : Prop :=
  ∀ (s : State) (c : Nat) (bs : List Byte) (q : Part), s.Idle c → (s.core c).inGate 0xF0 = true →
    let k := s.core c
    let p := k.idn.part.toNat
    let r := placeOfBytes bs
    let va := r.vaddr.toNat
    let who : Asker := ⟨some c, originOf c, p⟩
    let ends (i : Instr) (st : Nat) (P : State → Prop) : Prop := ∃ t, exec i s = .next t ∧ (t.core c).rx 10 = BitVec.ofNat 64 st ∧
      (∀ j, j ≠ 10 → (t.core c).rx j = k.rx j) ∧ P t
    let kept (t : State) : Prop := t.place.allocs = s.place.allocs ∧ t.place.groups = s.place.groups
    let ops : List (Nat × Instr) := [(1, .alloc c), (2, .free c), (3, .hint c), (4, .group c), (5, .ungroup c), (6, .share c), (7, .attach c),
      (8, .detach c)]
    (∀ i ∈ ops, k.rx 11 ≠ 64 → ends i.2 3 fun t => kept t ∧
      ∀ x, s.translate p .m false true ((k.rx 10).toNat + 1) ≠ .ok x → t.mem.get x = s.mem.get x) ∧
    (s.readVa p .m true (k.rx 10).toNat 64 = .ok bs → s.part p = some q → k.rx 11 = 64 → ∀ i ∈ ops,
      (r.op.toNat = i.1 → r.zeroOk = false → ends i.2 3 kept) ∧ (r.op.toNat = 0 ∨ 8 < r.op.toNat → ends i.2 3 kept)) ∧
    (s.readVa p .m true (k.rx 10).toNat 64 = .ok bs → s.part p = some q → r.zeroOk = true → k.rx 11 = 64 →
      (s.allocAt p va = none → (r.op = 2 → ends (.free c) 5 kept) ∧ (r.op = 3 → ends (.hint c) 5 kept) ∧
        (r.op = 6 → ends (.share c) 5 kept)) ∧
      (r.op = 5 → (∀ g ∈ s.place.groups, g.num = r.group.toNat → g.part ≠ p) → ends (.ungroup c) 5 kept) ∧
      (∀ al, r.op = 6 → s.allocAt p va = some al → al.share = true → s.part r.part.toNat = none → ends (.share c) 5 kept) ∧
      (r.op = 7 → (∀ al ∈ s.place.allocs, al.part = r.part.toNat → ∀ g ∈ al.grants, g.1 = r.grant.toNat → g.2.1 ≠ p) →
        ends (.attach c) 7 kept) ∧
      (r.op = 8 → (∀ al ∈ s.place.allocs, ∀ g ∈ al.att, g.1 = r.grant.toNat → g.2.1 ≠ p) → ends (.detach c) 5 kept) ∧
      (∀ homes, r.op = 1 → r.flags.getLsbD 0 = false → 0 < pagesIn r.size.toNat → pagesIn r.size.toNat ≤ 2 ^ 32 → va ≠ 0 →
        va % 0x10000 = 0 → va + pagesIn r.size.toNat * 0x10000 ≤ 2 ^ 48 → r.life.toNat ≤ 3 → r.pattern.toNat ≤ 3 →
        s.vaFree p va (pagesIn r.size.toNat * 0x10000) = true →
        s.choose who (pagesIn r.size.toNat) true (s.tierOrder who r.life.toNat r.pattern.toNat r.size.toNat none []) false = .ok homes →
        ends (.alloc c) 0 fun t => ∃ al, t.place.allocs = s.place.allocs ++ [al] ∧ al.part = p ∧ al.vaddr = va ∧
          al.pages = pagesIn r.size.toNat ∧ t.place.pages.length = s.place.pages.length + pagesIn r.size.toNat) ∧
      (∀ al, r.op = 2 → s.allocAt p va = some al →
        (s.freeWaits who r = false → s.inNet al = false → ends (.free c) 0 fun t =>
          t.place.allocs = s.place.allocs.filter (fun b => b.id != al.id) ∧ ∀ g ∈ t.place.pages, g.alloc ≠ al.id) ∧
        (s.freeWaits who r = false → s.inNet al = true → ends (.free c) 6 fun t => t.place.allocs = s.place.allocs) ∧
        (s.freeWaits who r = true → if Config.freeBool s.fresh then
          ends (.free c) 6 fun t => t.place.allocs = s.place.allocs else exec (.free c) s = .next s.draw)) ∧
      (∀ al, r.op = 3 → s.allocAt p va = some al → r.life.toNat ≤ 3 → r.pattern.toNat ≤ 3 → ends (.hint c) 0 fun t =>
        t.place.allocs = s.place.allocs.map fun b => if b.id = al.id then { b with
          life := r.life.toNat
          pattern := r.pattern.toNat
          rights := r.rights.setWidth 4 } else b) ∧
      (∀ lwl cs s' g, r.op = 4 → lwl = (if r.lwl = 0 then q.lwlDef else r.lwl.toNat) → lwlOk lwl = true → r.count ≠ 0 →
        r.count.toNat ≤ 128 → r.bars.toNat ≤ 32 →
        let ask : GroupAsk := ⟨p, r.count.toNat, r.mincount.toNat, r.flags.getLsbD 2, r.aff.toNat, lwl, r.bars.toNat⟩
        s.pickCores ask q.score q.coresMax s.freeCores = some cs → formOn ask q.score cs s = .ok (s', g) →
        ends (.group c) 0 fun t => g.members = cs.map (·.1) ∧ g.wins = cs.map (·.2) ∧ g.part = p ∧ g.lwl = lwl ∧ t.place.groups = s.place.groups ++ [g]) ∧
      (∀ g, r.op = 5 → s.place.groups.find? (fun g => g.num == r.group.toNat && g.part == p) = some g →
        ((∀ x ∈ s.host.tasks, x.group = some g.num → x.st ≠ .running ∧ x.st ≠ .ending) → (∀ h ∈ s.place.groups, h.num = g.num → h = g) →
          ends (.ungroup c) 0 fun t => t.place.groups = s.place.groups.filter fun h => h.num != g.num) ∧
        ((∃ x ∈ s.host.tasks, x.group = some g.num ∧ (x.st = .running ∨ x.st = .ending)) → ends (.ungroup c) 0 fun t =>
          t.place.allocs = s.place.allocs ∧
          t.place.groups = s.place.groups.map fun h => if h.num = g.num then { h with ungrouped := true } else h)) ∧
      (∀ al, r.op = 6 → s.allocAt p va = some al → al.share = true → (s.part r.part.toNat).isSome = true →
        (r.rights.setWidth 4 : BitVec 4) &&& ~~~al.rights = 0 →
        (s.inNet al = true → r.part.toNat = p ∨ r.rights.getLsbD 1 = false ∧ r.rights.getLsbD 3 = false) → ends (.share c) 0 fun t =>
          t.place.allocs = s.place.allocs.map fun b => if b.id = al.id then { b with
            grants := b.grants ++ [(s.place.nextGrant % 2 ^ 16, r.part.toNat, r.rights.setWidth 4)] } else b) ∧
      (∀ (al : Alloc) (g : Nat × Nat × BitVec 4), r.op = 7 → s.place.allocs.findSome? (fun al =>
          if al.part = r.part.toNat then
            (al.grants.find? fun g => g.1 == r.grant.toNat && g.2.1 == p).map fun g => (al, g) else none) = some (al, g) →
        va ≠ 0 → va % 0x10000 = 0 → va + al.pages * 0x10000 ≤ 2 ^ 48 → s.vaFree p va (al.pages * 0x10000) = true →
        ends (.attach c) 0 fun t => t.place.allocs = s.place.allocs.map fun b => if b.id = al.id then { b with
          grants := b.grants.erase g
          att := b.att ++ [(g.1, p, va)] } else b) ∧
      (∀ (al : Alloc) (g : Nat × Nat × Nat), r.op = 8 → s.place.allocs.findSome? (fun al =>
          (al.att.find? fun t => t.1 == r.grant.toNat && t.2.1 == p).map fun t => (al, t)) = some (al, g) →
        s.freeWaits who r = false → ends (.detach c) 0 fun t => t.place.allocs = s.place.allocs.map fun b =>
          if b.id = al.id then { b with att := b.att.erase g } else b))

/-- R370 to R372: PLACE.QUERY enters as counted work, an operation past 2 being illegal. A migration names the page's new home
and changes nothing else; a pinned page stays. At the switch the new home takes the page's contents and its place, or, where the
source holds an uncorrectable error, is poisoned as a whole; a page that has been pinned meanwhile stays.
Where the spec leaves a choice open, the statement rests on the model's: log entry 19. -/
def Obligations.QueryAndMigration : Prop :=
  (∀ (s : State) (c : Nat) (rd rs1 : Reg) (cc op : BitVec 4), s.Ready c false → let k := s.core c
    k.CcFree cc → (op.toNat < 3 → ∃ t w, exec (.placeQuery c rd rs1 cc op) s = .next t ∧ s.Entered t c false cc w ∧
      w.kind = .query k.bank rd op ∧ w.addr = k.rx rs1) ∧
    (3 ≤ op.toNat → exec (.placeQuery c rd rs1 cc op) s = .next { takeException c
      { cause := 1, edata0 := (encQuery rd rs1 cc op).data } s with
      pending := s.pending })) ∧
  (∀ (s : State) (part vpage h : Nat) (q : Page) (a : Alloc), s.place.pages.find? (fun q => q.part == part && q.vpage == vpage) = some q →
    (s.place.allocs.find? (fun a => a.id == q.alloc) = some a → (∃ n, homeOf q.home = some (2, n)) →
      (a.pinned = false → a.life ≠ 1 → a.host = false → q.moving = none → s.quotaOk a.part 1 (1 + s.tierComing a.part 1) = true →
        (s.stackPlace 1 (match s.part a.part with | some p => 8 + p.owner / 2 | none => 8) 1).head? = some h →
        ∃ t, exec (.pageMigration part vpage true) s = .next t ∧ t.mem = s.mem ∧ t.cores = s.cores ∧
          t.place.pages = s.place.pages.map fun r => if r.home = q.home then { r with moving := some h } else r) ∧
      (a.pinned = true → exec (.pageMigration part vpage true) s = .next s)) ∧
    (s.NoWaits → q.moving = some h → s.place.allocs.find? (fun a => a.id == q.alloc) = some a →
      let out (r : Page) : Page := if r.home = q.home then { r with
        home := h
        moves := min (r.moves + 1) 0xFFFFFFFF
        moving := none } else r
      let moved (t : State) : Prop := (∀ x, (x < h ∨ h + 0x10000 ≤ x) → t.mem.get x = s.mem.get x) ∧ t.place.pages = s.place.pages.map out
      (∀ tier n, homeOf h = some (tier, n) → a.pinned = false → a.life ≠ 1 → s.quotaOk a.part tier 1 = true →
        (∃ t, exec (.migrationSwitch part ⟨vpage, none⟩) s = .next t ∧ moved t ∧
          ∀ i, i < 0x10000 → t.mem.get (h + i) = s.mem.get (q.home + i)) ∧
        (∀ o, h % 0x10000 = 0 → ecUnit h ≠ 0 → ∃ t, exec (.migrationSwitch part ⟨vpage, some o⟩) s = .next t ∧
          (∀ x, (x < h ∨ h + 0x10000 ≤ x) → t.mem.get x = s.mem.get x) ∧
          t.place.pages = (s.place.pages.map out).map (fun r => if r.home = h then { r with lost := true } else r) ∧
          ∀ i, i < 0x10000 → t.isPoisoned (h + i) 1 = true)) ∧
      (∀ ue, a.pinned = true ∨ a.life = 1 → ∃ t, exec (.migrationSwitch part ⟨vpage, ue⟩) s = .next t ∧ t.mem = s.mem ∧
        t.place.pages = s.place.pages.map fun r => if r.home = q.home then { r with moving := none } else r)))

/-! ### Ports and WATCH (R373 to R382) -/

/-- R375 to R377, R461, R504: training ends in ANNOUNCED, with the announce message sent, where the far end trained and the spare lanes
suffice, and else in DOWN, as it does where a third lane of one direction fails; a port goes DOWN, and trains again no
sooner than 10 ms later; a right MGMT_SETUP makes an ANNOUNCED port ACTIVE with its rings, to which what a lost hub's ports carried
goes over, and a wrong one is answered with status 3 and changes nothing else.
Where the spec leaves a choice open, the statement rests on the model's: log entry 20. -/
def Obligations.PortStates : Prop :=
  ∀ (s : State) (p : Nat), p < 4 → s.HostQuiet →
    let q := s.port p
    let owned (o : Nat) : Nat := if (s.hub (o / 2)).insvc = true then o else p
    let ends (i : Instr) (P : Port → Prop) : Prop := ∃ t, exec i s = .next t ∧ P (t.port p) ∧
      (∀ j, j ≠ p → (t.port j).st = (s.port j).st) ∧ t.nets = s.nets ∧ t.place.parts =
        if (t.port p).st = .active ∧ q.st ≠ .active then s.place.parts.map fun r => { r with owner := owned r.owner } else s.place.parts
    (q.st = .training →
      (∀ failed, (steerPort p failed s).lanesOk p = true → ends (.portTrainingDone p ⟨true, failed⟩) (fun q' =>
        q'.st = .announced ∧ q'.since = s.time ∧ ∃ f3 f6, q'.sent = q.sent ++ [.announce (announceBytes s.pkg.bootid p s.pkg.lead
          (s.hub s.pkg.lead).hint (s.hub s.pkg.lead).svn s.time f3 f6)])) ∧
      (∀ ok failed d l m n, ok = false ∨ l < m ∧ m < n ∧ n < 34 ∧ (d, l) ∈ failed ∧ (d, m) ∈ failed ∧ (d, n) ∈ failed →
        ends (.portTrainingDone p ⟨ok, failed⟩) (fun q' => q'.st = .down ∧ q'.since = s.time ∧ q'.sent = q.sent))) ∧
    (∀ cause, q.st = .announced ∨ q.st = .active → ends (.portDown p cause) fun q' => q'.st = .down ∧ q'.since = s.time) ∧
    (q.st = .down → (s.hub (p / 2)).insvc = true → ∃ t, exec (.portRetrain p) s = .next t ∧ (t.port p).st = .training ∧
      t.time = (s.tickTo (q.since + 10000000)).time ∧ t.mem = s.mem) ∧
    (∀ m, q.st = .announced → setupOk m = true → ends (.mgmtSetup p m) fun q' => q'.st = .active ∧ q'.wasActive = true ∧
      q'.sent = q.sent ++ [.setupReply 0 s.pkg.bootid] ∧ ∃ g, q'.ring = some g ∧ g.sqbase = m.sqbase.toNat ∧
        g.cqbase = m.cqbase.toNat ∧ g.hcb = m.hcb.toNat ∧ g.dcb = m.dcb.toNat ∧ g.e = m.e.toNat ∧ g.c = m.c.toNat) ∧
    (∀ m, q.st = .announced ∧ setupOk m = false ∨ q.st = .active → ends (.mgmtSetup p m) fun q' =>
      q'.st = q.st ∧ q'.ring = q.ring ∧ q'.sent = q.sent ++ [.setupReply 3 s.pkg.bootid])

/-- R378 to R382: WATCH.ARM enters as counted work; WATCH.DIS disarms a monitor and leaves WFIRED; WATCH.WAIT returns WFIRED where a
bit is set and waits otherwise; an armed monitor whose line is written or whose copy is taken back fires: its bit is set, its
interrupt raised, and it is armed no more. A monitor that a compute core lacks is illegal, and so is one that TRESV.HIDE hides (R416;
log entry 20); an address off 8 bytes is MISALIGNED. -/
def Obligations.WatchMonitors : Prop :=
  (∀ (s : State) (c : Nat) (rd rs1 : Reg) (m : BitVec 6) (cc : BitVec 4), s.Ready c false →
    let k := s.core c
    let a := k.rx rs1
    let bad (i : Instr) (x : Trap) : Prop := exec i s = .next { takeException c x s with pending := s.pending }
    (m.toNat < 4 →
      (k.CcFree cc → k.ccHidden (2 * m.toNat) = false → a.toNat % 8 = 0 → ∃ t w, exec (.watchArm c rd rs1 m cc) s = .next t ∧
        s.Entered t c false cc w ∧ w.kind = .arm k.bank rd m ∧ w.addr = a) ∧
      (k.ccHidden (2 * m.toNat) = true → bad (.watchDis c m) { cause := 1, reason := 4, edata0 := (encWatch 1 0 0 0 m).data } ∧
        (k.CcFree cc → bad (.watchArm c rd rs1 m cc) { cause := 1, reason := 4, edata0 := (encWatch 0 rd rs1 cc m).data })) ∧
      (k.CcFree cc → k.ccHidden (2 * m.toNat) = false → a.toNat % 8 ≠ 0 →
        bad (.watchArm c rd rs1 m cc) { cause := 2, edata0 := a, edata1 := k.flow.pc }) ∧
      (k.ccHidden (2 * m.toNat) = false → ∃ t, exec (.watchDis c m) s = .next t ∧ t.armed = s.armed.filter (fun a => !(a.1 == c && a.2.1 == m.toNat)) ∧
        (t.core c).mon = k.mon ∧ (t.core c).x = k.x ∧ (t.core c).flow = k.flow.advance false ∧ s.Beside t c)) ∧
    (k.idn.hide = false →
      (k.mon.fired ≠ 0 → ∃ t, exec (.watchWait c rd rs1) s = .next t ∧ (t.core c).wait = none ∧
        (t.core c).rx rd = (if rd = 0 then 0 else k.mon.fired) ∧ (t.core c).flow = k.flow.advance false ∧ s.Beside t c) ∧
      (k.mon.fired = 0 → ∃ t q, exec (.watchWait c rd rs1) s = .next t ∧ (t.core c).wait = some q ∧ q.kind = .watch ∧
        (t.core c).x = k.x ∧ (t.core c).flow = k.flow.waiting ∧ s.Beside t c)) ∧
    (8 ≤ m.toNat → c < 144 → bad (.watchDis c m) { cause := 1, edata0 := (encWatch 1 0 0 0 m).data } ∧
      (k.CcFree cc → bad (.watchArm c rd rs1 m cc) { cause := 1, edata0 := (encWatch 0 rd rs1 cc m).data }))) ∧
  (∀ (s : State) (c : Nat) (m : BitVec 6) (line : Nat) (bs : List Byte), c < 160 → s.HostQuiet → s.host.chans = [] →
    (∀ p, (s.port p).ring = none) → s.armed = [(c, m.toNat, line)] → line % 64 = 0 → bs.length = 64 →
    (∀ i, i < 64 → s.lostAt (line + i) = false) →
    let fired (t : State) : Prop := (t.core c).mon.fired.getLsbD m.toNat = true ∧ t.armed = [] ∧
      ((s.core c).idn.hide = false → (t.core c).tr.ipend.getLsbD 3 = true) ∧ (t.core c).x = (s.core c).x
    (∃ t, exec (.watchFire c m .takenBack) s = .next t ∧ fired t ∧ t.mem = s.mem) ∧
    (∃ t, exec (.watchFire c m (.written bs)) s = .next t ∧ fired t ∧
      ∀ x, t.mem.get x = if line ≤ x ∧ x < line + 64 then bs.getD (x - line) 0 else s.mem.get x))

/-! ### Records of a host (R348 to R350, R383 to R391, R404 to R408, R515, R534) -/

/-- R384, R391, R404: the record at a channel's position is consumed. A right TASK record becomes a task that is accepted, with the
next sequence number and an ACCEPT entry; one that breaks R387 is rejected with a completion record and makes no task; a
NOP does nothing more; an ABORT of a task that has not started stops it, and of an unknown tag is answered.
Where the spec leaves a choice open, the statement rests on the model's: log entry 20. -/
def Obligations.TaskRecords : Prop :=
  ∀ (s : State) (ch : Nat) (c : Chan) (p : Part) (r : TaskRec), s.HostQuiet → s.chan ch = some c → s.part c.part = some p →
    let taken (t : State) : Prop := t.ringPos ch = some (c.ring.taken + 1, c.ring.posted)
    let answered (t : State) : Prop := t.ringPos ch = some (c.ring.taken + 1, c.ring.posted + 1)
    (r.op = 1 → s.mayTake c r.lap.toNat 2 = true → s.slotFree c = true →
      (∀ s1 sg, taskBad p r = none → s.known c r.tag = none → reserveStaging c (r.olen0.toNat + r.olen1.toNat) s = .ok (s1, sg) →
        s1.HostIdle → ∃ t x, exec (.taskRecord ch r) s = .next t ∧
        x ∈ t.host.tasks ∧ x.seq = s.host.nextSeq ∧ x.trec = r ∧ x.ch = ch ∧ x.st = .accepted ∧ x.staging = sg.map (·.1) ∧ t.host.nextSeq = s.host.nextSeq + 1 ∧
        t.host.journal = s.host.journal ++ [⟨s.host.nextJ, .accept s.host.nextSeq, s.time, false⟩] ∧ taken t) ∧
      (∀ e, taskBad p r = some e → ∃ t, exec (.taskRecord ch r) s = .next t ∧ answered t ∧ t.host.nextSeq = s.host.nextSeq ∧
        t.host.journal = s.host.journal)) ∧
    (r.op = 3 → s.mayTake c r.lap.toNat 0 = true → otherBad r = false → ∃ t, exec (.nopRecord ch r) s = .next t ∧ taken t ∧
      t.host.nextSeq = s.host.nextSeq ∧ t.host.journal = s.host.journal) ∧
    (r.op = 2 → s.mayTake c r.lap.toNat 1 = true → otherBad r = false →
      (s.known c r.tag = none → ∃ t, exec (.abortRecord ch r) s = .next t ∧ answered t ∧ t.host.journal = s.host.journal) ∧
      (∀ seq b x, s.known c r.tag = some (seq, b) → s.task seq = some x → x.st = .queued → x.group = none → x.finalIdx = none →
        ∃ t, exec (.abortRecord ch r) s = .next t ∧ taken t ∧
          t.task seq = some { x with
            st := .aborted
            abortReq := true } ∧
          t.host.journal = s.host.journal ++ [⟨s.host.nextJ, .abort seq ch c.ring.taken r.tag, s.time, false⟩]))

/-- R348, R349, R383, R385, R389, R390, R405, R407, R515, R534: a management record at the position of an ACTIVE port is consumed and
answered with one completion record (two for PLACE); where its operation is right, a partition is made, changed or removed,
a channel opened, closed or its credits changed, a range of host memory mapped or unmapped, a request carried out, a target
disabled or enabled, or the newest log entries written out, oldest first. One of an unassigned operation is answered too.
Where the spec leaves a choice open, the statement rests on the model's: log entries 19 and 20. -/
def Obligations.ManagementRecords : Prop :=
  ∀ (s : State) (p : Nat) (h : MgmtHdr) (g : Ring), p < 4 → s.HostQuiet → s.mgmtRing p h h.op.toNat 1 = some g → h.zeroOk = true →
    let ends (i : Instr) (P : State → Prop) : Prop := ∃ t, exec i s = .next t ∧ P t ∧
      t.ringPos (256 + p) = some (g.taken + 1, g.posted + 1)
    (∀ (a : PartParams) (q : Part) (num : Nat) (ns : List Nat), h.op = 0x10 → a.part = 0 → a.mask = 0 → s.applyAttrs p a 0x1FF
        (Part.blank p) = some q →
      lowestFree 64 1 (s.place.parts.map (·.num)) = num :: ns → s.minSum 64 + q.coresMin ≤ s.inSvcCores.length →
      ends (.partCreate p h a) fun t => t.place.parts = s.place.parts ++ [{ q with num := num }]) ∧
    (∀ a : PartParams, mgmtOps.contains h.op.toNat = false → ends (.partCreate p h a) fun t => t.place.parts = s.place.parts) ∧
    (∀ (a : PartParams) (q q' : Part), h.op = 0x11 → a.part.toNat < 64 → s.part a.part.toNat = some q → q.owner = p →
      a.mask.toNat < 512 → s.applyAttrs p a a.mask.toNat q = some q' → q'.score = q.score →
      s.minSum a.part.toNat + q'.coresMin ≤ s.inSvcCores.length → (∀ g ∈ s.place.groups, ∀ d ∈ g.members, d < 144) →
      ends (.partChange p h a) fun t => t.part a.part.toNat = some q') ∧
    (∀ part : BitVec 8, h.op = 0x12 → s.ownStatus p part.toNat = 0 → s.hasChannel part.toNat = false →
      ∃ t, exec (.partRemove p h part) s = .next t ∧
        t.part part.toNat = none ∧ (∀ q ∈ t.place.pages, q.part ≠ part.toNat) ∧ ∀ n ∈ t.nets, n.part ≠ part.toNat) ∧
    (∀ (a : ChanParams) (num : Nat) (ns : List Nat), h.op = 0x18 → s.ownStatus p a.part.toNat = 0 → chanOk a = true →
      s.credSum 256 + a.credMin.toNat ≤ 8192 → lowestFree 256 1 (s.host.chans.map (·.num)) = num :: ns →
      ends (.chanOpen p h a) fun t => t.host.chans = s.host.chans ++ [⟨num, a.part.toNat, p,
        ⟨a.sqbase.toNat, a.cqbase.toNat, a.hcb.toNat, a.dcb.toNat, a.e.toNat, a.c.toNat, 0, 0, []⟩, a.credMin.toNat,
        a.credMax.toNat, [], none⟩]) ∧
    (∀ (ch : BitVec 16) (c : Chan), s.chanStatus p ch.toNat = 0 → s.chan ch.toNat = some c →
      (h.op = 0x19 → (∀ x ∈ s.host.tasks, x.ch ≠ ch.toNat) → s.abortsDue ch.toNat = 0 → ends (.chanClose p h ch) fun t =>
        t.host.chans = s.host.chans.filter fun d => d.num != ch.toNat) ∧
      (h.op = 0x19 → (∃ x ∈ s.host.tasks, x.ch = ch.toNat ∧ x.finalIdx = none) ∨ s.abortsDue ch.toNat ≠ 0 →
        ∃ t, exec (.chanClose p h ch) s = .next t ∧ t.chan ch.toNat = some { c with closing := some (h, g.taken % g.e) }) ∧
      (∀ mn mx : BitVec 32, h.op = 0x1A → mx ≠ 0 → mn.toNat ≤ mx.toNat → 2 * mx.toNat + 2 ≤ c.ring.c →
        s.credSum ch.toNat + mn.toNat ≤ 8192 → ends (.chanCredit p h ch mn mx) fun t => t.chan ch.toNat = some { c with
          credMin := mn.toNat
          credMax := mx.toNat })) ∧
    (∀ (part rights : BitVec 8) (haddr len va : Word), s.ownStatus p part.toNat = 0 →
      (h.op = 0x20 → haddr.toNat % 0x10000 = 0 → len.toNat % 0x10000 = 0 → va.toNat % 0x10000 = 0 → 0 < len.toNat →
        rights.toNat < 16 → inAperture haddr.toNat len.toNat = true → va.toNat + len.toNat ≤ 2 ^ 48 →
        s.vaFree part.toNat va.toNat len.toNat = true →
        ends (.hostReg p h part rights haddr len va) fun t => ∃ al, t.place.allocs = s.place.allocs ++ [al] ∧ al.host = true ∧
          al.part = part.toNat ∧ al.vaddr = va.toNat ∧ al.pages = len.toNat / 0x10000 ∧
          t.place.pages.length = s.place.pages.length + len.toNat / 0x10000) ∧
      (∀ a, h.op = 0x21 → s.place.allocs.find? (fun a => a.host && a.part == part.toNat && a.vaddr == va.toNat) = some a →
        ((∀ b ∈ s.place.allocs, b.host = true → b.part = part.toNat → b.vaddr = va.toNat →
            s.rangeBusy b.part b.vaddr (b.pages * 0x10000) = false) →
          ends (.hostUnreg p h part va) fun t => t.place.allocs = s.place.allocs.filter fun b => b.id != a.id) ∧
        (s.rangeBusy a.part a.vaddr (a.pages * 0x10000) = true → if Config.freeBool s.fresh then
          ends (.hostUnreg p h part va) fun t => t.place.allocs = s.place.allocs else exec (.hostUnreg p h part va) s = .next s.draw))) ∧
    (∀ (part : BitVec 8) (r r' : PlaceRec) (s2 : State), h.op = 0x28 → s.ownStatus p part.toNat = 0 → s.mgmtRing p h 0x28 2 = some g →
      s.freeWaits ⟨none, 8 + p / 2, part.toNat⟩ r = false →
      placeOp ⟨none, 8 + p / 2, part.toNat⟩ r (takeEntry (256 + p) s) = (s2, 0, r') → s2.HostQuiet → ∃ t, exec (.place p h part r) s = .next t ∧
        t.place.allocs = s2.place.allocs ∧ t.place.groups = s2.place.groups) ∧
    (∀ (kind : BitVec 8) (index : BitVec 16) (timeout : Word), s.targetStatus p kind.toNat index.toNat = 0 →
      (h.op = 0x30 → timeout = 0 ∨ (1000 ≤ timeout.toNat ∧ timeout.toNat ≤ 10 ^ 9) → ∃ t d, exec (.disable p h kind index timeout) s = .next t ∧
        t.isDisabled kind.toNat index.toNat = true ∧
        (∀ c ∈ s.coresOn kind.toNat index.toNat, c < 160 → (t.core c).tr.ipend.getLsbD 6 = true) ∧
        t.host.disables = s.host.disables ++ [d] ∧ d.kind = kind.toNat ∧ d.index = index.toNat ∧
        d.due = s.time + (if timeout = 0 then 100000 else timeout.toNat) ∧
        t.host.journal = s.host.journal ++ [⟨s.host.nextJ, .disable d.id p g.taken kind.toNat index.toNat
          (s.isDisabled kind.toNat index.toNat), s.time, false⟩]) ∧
      (h.op = 0x31 → (s.host.disables.any fun d => d.kind == kind.toNat && d.index == index.toNat) = false →
        ends (.enable p h kind index) fun t => t.isDisabled kind.toNat index.toNat = false)) ∧
    (∀ addr len : Word, h.op = 0x38 → addr.toNat % 64 = 0 → inAperture addr.toNat len.toNat = true →
      ∃ t, exec (.logRead p h addr len) s = .next t ∧ t.log = s.log ∧
      let bs := (s.log.ring.take (len.toNat / 64)).reverse.flatMap logBytes
      ∀ x, hostPa p addr.toNat ≤ x → x < hostPa p addr.toNat + bs.length →
        (x < hostPa p (g.cqbase + g.posted % g.c * 64) ∨ hostPa p (g.cqbase + g.posted % g.c * 64) + 64 ≤ x) →
        (∀ r q f, s.ring r = some (q, f) → x < hostPa q f.dcb ∨ hostPa q f.dcb + 16 ≤ x) →
        t.mem.get x = bs.getD (x - hostPa p addr.toNat) 0)

/-! ### Tasks (R391 to R405) -/

/-- R393, R395 to R397, R399, R402, R405: an accepted task whose ACCEPT entry is durable is queued; a queued one that may start begins
on its cores at ENTRY in level T, its argument in x10, with a START entry; member 0's gate 0xF1 ends it with x10 as its result
and gate 0xF2 as failed, with an END entry; once every member is idle and in the monitor's
hands it is committed with a COMMIT entry and its group is released. A disable whose entry is durable ends.
Where the spec leaves a choice open, the statement rests on the model's: log entry 20. -/
def Obligations.TaskLife : Prop :=
  ∀ (s : State) (seq : Nat) (x : Task), s.HostQuiet → s.task seq = some x → x.finalIdx = none →
    let noted (t : State) (w : JWhat) : Prop := t.host.journal = s.host.journal ++ [⟨s.host.nextJ, w, s.time, false⟩]
    (∀ e, s.host.journal.find? (fun e => !e.durable) = some e → s.host.mirrors ≠ [] → (s.hub s.pkg.lead).insvc = true → e.what = .accept seq → x.st = .accepted →
      ∃ t, exec (.journalEntryDurable e.no) s = .next t ∧ t.durable (.accept seq) = true ∧
        t.task seq = some { x with st := .queued }) ∧
    (∀ (ch : Chan) (p : Part) (ws : List (Nat × List Nat)) (s2 : State) (g : Group), s.mayStart x = true → s.chan x.ch = some ch → s.part ch.part = some p →
      p.score = false → x.group = none → (∀ w ∈ ws, w.1 < 144 ∧ s.holder w.1 = none) →
      let q : GroupAsk := ⟨p.num, x.trec.count.toNat, x.trec.mincount.toNat, x.trec.flags.getLsbD 1, x.trec.aff.toNat,
        if x.trec.lwl = 0 then p.lwlDef else x.trec.lwl.toNat, x.trec.bars.toNat⟩
      s.coresFor q false p.coresMax = some ws → formOn q false ws s = .ok (s2, g) → s2.HostIdle →
      ∃ t y, exec (.taskStart seq) s = .next t ∧ t.task seq = some y ∧ y.st = .running ∧ y.group = some g.num ∧ y.start = s.time ∧
        y.cores = ws.length ∧ noted t (.start seq) ∧ ∀ w ∈ ws, (t.core w.1).flow.pc = x.trec.entry ∧
          (t.core w.1).rx 10 = x.trec.arg ∧ (t.core w.1).level = .t ∧ (t.core w.1).idn.taskseq = BitVec.ofNat 64 seq) ∧
    (∀ (c : Nat) (g : Group), s.Idle c → s.taskOf c = some (x, g, 0) → (s.core c).tr.status.resc = false →
      let ended (i : Instr) (why : Option (BitVec 8)) : Prop := ∃ t y, exec i s = .next t ∧ noted t (.ending seq) ∧
        t.task seq = some y ∧ y.st = .ending ∧ y.result = (s.core c).rx 10 ∧ y.failed = why ∧ y.endTime = s.time ∧ y.group = x.group
      ((s.core c).inGate 0xF1 = true → ended (.taskEnd c) none) ∧
      ((s.core c).inGate 0xF2 = true → ended (.taskFail c) (some 1))) ∧
    (∀ (ch : Chan) (p : Part) (g : Group), x.st = .ending → s.underDisable x = false → s.taskGroup x = some g →
      s.chan x.ch = some ch → s.part ch.part = some p → (∀ q ∈ g.live, s.memberIdle q.2 g.num = true ∧
        ((s.core q.2).level = .m ∨ (s.core q.2).idn.group.toNat ≠ g.num)) →
      (∀ y ∈ s.host.tasks, y.saved = []) → ∃ t y, exec (.commitAppend seq) s = .next t ∧ noted t (.commit seq) ∧
        t.task seq = some y ∧ y.st = .committed ∧ y.group = none ∧ y.result = x.result) ∧
    (∀ d o, s.host.disables.find? (fun o => o.id == d) = some o → o.port < 4 → s.tasksOn o.kind o.index = [] → s.workOn o.kind o.index = false →
      (∃ e ∈ s.host.journal, e.durable = true ∧ ∃ port ridx kind index was, e.what = .disable d port ridx kind index was) →
      ∃ t, exec (.disableTimeout d) s = .next t ∧ t.time = s.time ∧ t.host.disables = s.host.disables.filter fun q => q.id != d)

/-! ### Safety Net (R418 to R437) -/

/-- R419 to R424, R427 to R433, R437: requests through gate 0xF3 make a net, answer a query, drop one, bind it to a group, and record
a step with its position (a step out of order is answered 10 and changes nothing); a member that waits too long is answered BUSY; a chunk
read ends its hold; a generation whose chunks are all written takes its slot; a restore takes the position of a
generation that verifies and writes its pages, and with none the net is LOST; a lost replica is made again.
Where the spec leaves a choice open, the statement rests on the model's: log entry 21. -/
def Obligations.Nets : Prop :=
  (∀ (s : State) (c : Nat) (bs : List Byte), s.Idle c → s.HostQuiet → (s.core c).inGate 0xF3 = true → (s.core c).rx 11 = 64 →
    s.netRec c = some bs → field bs 2 2 = 0 → field bs 56 8 = 0 →
    let k := s.core c
    let part := k.idn.part.toNat
    let ends (i : Instr) (st : Nat) (P : State → Prop) : Prop := ∃ t, exec i s = .next t ∧ (t.core c).rx 10 = BitVec.ofNat 64 st ∧
      (∀ j, j ≠ 10 → (t.core c).rx j = k.rx j) ∧ (t.core c).wait = none ∧ P t
    (∀ d p num ns, field bs 0 1 = 1 → s.readVa part .m false (field bs 8 8) (field bs 16 8) = .ok d → field bs 16 8 ≤ 1600 →
      s.part part = some p → p.score = false → k.callerPriv ≠ .t → netDescOk d (field bs 16 8) = true →
      disjointRanges (descRegions d ++ (s.nets.filter fun t => t.part == part).flatMap (·.regions)) = true →
      (∀ r ∈ descRegions d, s.regionStatus part r = 0) → s.stacksUp ≠ [] →
      netReserve ((descRegions d).map (·.2)).sum ≤ s.dramFree → s.quotaOk part 2 (netReserve ((descRegions d).map (·.2)).sum) = true →
      lowestFree 64 1 (s.nets.map (·.num)) = num :: ns →
      ends (.netCreate c) 0 fun t => ∃ n, t.nets = s.nets ++ [n] ∧ n.num = num ∧ n.part = part ∧ n.regions = descRegions d ∧
        n.interval = field d 4 4 ∧ n.stepped = false) ∧
    (∀ n, s.net (field bs 4 4) = some n → n.part = part →
      (field bs 0 1 = 4 → ends (.netQuery c) 0 fun t => t.nets = s.nets) ∧
      (field bs 0 1 = 5 → k.callerPriv ≠ .t → n.bound = none → n.cap = none → n.dirtyNeed = false →
        ends (.netDrop c) 0 fun t => t.nets = s.nets.filter fun u => u.num != n.num) ∧
      (∀ g, s.group k.idn.group.toNat = some g → g.members = [c] → g.released = [] → n.calls = [] → n.dirtyNeed = false →
        (∀ y ∈ n.streams, y.kind = true) → field bs 8 8 < 2 ^ 64 → field bs 8 8 % 64 = 0 → k.inWindow (field bs 8 8) 64 = true →
        (field bs 0 1 = 2 → n.bound = none → n.stepped = false → n.lost = false → ends (.netAttach c) 0 fun t =>
          t.net n.num = some { n with
            bound := some g.num
            restored := none
            restKeys := [] }) ∧
        (field bs 0 1 = 3 → n.bound = some g.num → g.num = k.idn.group.toNat →
          let step := field bs 24 8
          ((if n.stepped = true then step = n.lastStep + 1 else step ≠ 0) → step % n.interval ≠ 0 → n.deferred = false →
            ends (.netStep c) 0 fun t => t.net n.num = some { n with
              lastStep := step
              stepped := true
              posrec := s.mem.bytes (s.windowPa c (field bs 8 8)) 64 } ∧
            t.host.journal = s.host.journal ++ [⟨s.host.nextJ, .netStep n.num n.lastStep n.stepped n.posrec, s.time, false⟩]) ∧
          (¬ (if n.stepped = true then step = n.lastStep + 1 else step ≠ 0) → ends (.netStep c) 10 fun t =>
            t.net n.num = some n ∧ t.host.journal = s.host.journal)))) ∧
    (field bs 0 1 = 4 → s.net (field bs 4 4) = none → ends (.netQuery c) 5 fun t => t.nets = s.nets)) ∧
  (∀ (s : State) (n : Nat) (x : Net), n < 64 → s.net n = some x →
    (∀ q, s.HostIdle → x.dirtyNeed = false → x.calls = [q] → q.core < 160 → (∀ d, d < 160 → d ≠ q.core → (s.core d).wait = none) →
      ∃ t, exec (.netRendezvousTimeout n) s = .next t ∧ t.time = (s.tickTo (q.since + (s.core q.core).idn.wtoDef.toNat)).time ∧
        (t.core q.core).rx 10 = 6 ∧ (t.core q.core).wait = none ∧ t.net n = some { x with calls := [] }) ∧
    (∀ cap i, x.cap = some cap → i ∈ cap.todo → s.urgentChunks = [] ∨ (n, i) ∈ s.urgentChunks →
      ∃ t, exec (.chunkReadDone n i) s = .next t ∧ t.mem = s.mem ∧
      t.net n = some { x with cap := some { cap with
        todo := cap.todo.filter (· != i)
        copied := cap.copied ++ [i] } }) ∧
    (∀ cap, x.cap = some cap → cap.todo = [] → ∃ t y, exec (.generationComplete n) s = .next t ∧ t.mem = s.mem ∧ t.net n = some y ∧
      y.cap = none ∧ (if cap.slotB = true then y.genB else y.genA) = some cap.gen ∧
      t.host.journal = s.host.journal ++ [⟨s.host.nextJ, .complete n cap.gen.no, s.time, false⟩]) ∧
    (x.dirtyNeed = true → x.cap = none → s.HostQuiet → s.host.chans = [] → (∀ p, (s.port p).ring = none) →
      (∀ g ∈ s.place.groups, g.pend = [] ∧ ∀ m ∈ g.live, (s.core m.2).inSvc = true) →
      (∀ bad, x.genA = none → x.genB = none → ∃ t y, exec (.netRestore n bad) s = .next t ∧ t.net n = some y ∧ y.lost = true ∧
        y.dirtyNeed = false ∧ t.mem = s.mem) ∧
      (∀ bad g m va q, x.genA = some g → x.genB = none → s.genOk g 0 bad = true → x.streams = [] → x.regions = [(va, 0x10000)] →
        g.chunks = [m] → s.netPage x va = some q → q.home < 2 ^ 48 → (∀ u ∈ s.poison, u < q.home → u + ecUnit u ≤ q.home) →
        (∀ y ∈ s.nets, y.num = n → y = x) → ∃ t y, exec (.netRestore n bad) s = .next t ∧ t.net n = some y ∧
          y.lastStep = g.step ∧ y.posrec = g.posrec ∧ y.lost = false ∧ y.dirtyNeed = false ∧
          (∀ i, i < 0x10000 → t.mem.get (q.home + i) = m.get i) ∧
          ∀ a, (a < q.home ∨ q.home + 0x10000 ≤ a) → t.mem.get a = s.mem.get a)) ∧
    (∀ g i a st, x.genA = some g → g.reps[i]? = some (some a, none) → st < 8 → a ≠ st → (s.stack st).insvc = true →
      ∃ t y h, exec (.reReplication n 0 i st) s = .next t ∧ t.mem = s.mem ∧ t.net n = some y ∧ y.genA = some h ∧
        h.reps[i]? = some (some a, some st)))

/-! ### Failures of parts (R22 to R31, R435 to R438, R467, R469) -/

/-- R24, R29, R31, R393, R435, R436, R438, R467, R469: a core that fails hard, or is retired, leaves service for good and a spare takes its
place; a stack or a link leaves service; a steered lane uses one spare lane and is logged, and with none left the link goes;
a hub that has heard nothing takes the lead from the other, which leaves service with its ports.
A supervisor core or a spare that fails is out of service alone. A planned retirement of a core on which a task runs begins with a
disable of the core and its group: DRAIN is raised, no task starts there, and the core serves on to the disable's end.
Where the spec leaves a choice open, the statement rests on the model's: log entries 21 and 34. -/
def Obligations.PartFailures : Prop :=
  (∀ (s : State), s.HostQuiet → s.place.groups = [] → s.host.tasks = [] → s.nets = [] → s.host.journal = [] →
    let gone (i : Instr) (c : Nat) : Prop := ∃ t, exec i s = .next t ∧ (t.core c).pw.svc = .retired ∧ (t.core c).canIssue = false ∧
      (s.spares ≠ [] → ∃ n ∈ s.spares, (t.core n).pw.svc = .inService)
    (∀ c, c < 144 → (s.core c).inSvc = true → gone (.coreHardFault c) c ∧ (s.recoveringNow = false → gone (.plannedRetirement c) c)) ∧
    (∀ c, c < 160 → (144 ≤ c ∧ (s.core c).inSvc = true ∨ c < 144 ∧ (s.core c).pw.svc = .spare) →
      ∃ t, exec (.coreHardFault c) s = .next t ∧ (t.core c).pw.svc = .failed ∧ (t.core c).canIssue = false) ∧
    (∀ n, n < 8 → (s.stack n).insvc = true → ∃ t, exec (.stackLoss n) s = .next t ∧ (t.stack n).insvc = false ∧
      16 + n ∉ t.host.mirrors) ∧
    (∀ l, linkExists l = true → l ∉ s.pkg.linksDown →
      (∃ t, exec (.linkDown l) s = .next t ∧ t.pkg.linksDown = s.pkg.linksDown ++ [l]) ∧
      (∀ lane, lane < dataLanes l + spareLanes l → s.sparesOf l < spareLanes l → ∃ t, exec (.laneSteered l lane) s = .next t ∧ t.sparesOf l = s.sparesOf l + 1 ∧
        t.pkg.linksDown = s.pkg.linksDown ∧ t.log.next = s.log.next + 1 ∧ t.mem = s.mem) ∧
      (∀ lane, lane < dataLanes l + spareLanes l → spareLanes l ≤ s.sparesOf l → ∃ t, exec (.laneSteered l lane) s = .next t ∧
        t.pkg.linksDown = s.pkg.linksDown ++ [l])) ∧
    (∀ h, h < 2 → (s.hub h).insvc = true →
      (∃ t, exec (.hubHeartbeat h) s = .next t ∧ (t.hub h).lastBeat = s.time ∧ t.mem = s.mem) ∧
      (s.pkg.lead < 2 → s.pkg.lead ≠ h → ∃ t, exec (.hubTakeover h) s = .next t ∧ t.pkg.lead = h ∧ (t.hub s.pkg.lead).insvc = false ∧
        t.time = (s.tickTo ((s.hub s.pkg.lead).lastBeat + 100000)).time ∧
        ((s.hub s.pkg.lead).insvc = true → (t.port (2 * s.pkg.lead)).st ≠ .active)))) ∧
  (∀ (s : State) (c : Nat), s.HostQuiet → c < 144 → (s.core c).inSvc = true → s.recoveringNow = false →
    (∀ q ∈ s.place.pages, q.home < sliceBase c ∨ sliceBase c + Config.sliceBytes ≤ q.home ∨ s.isPinned q = true) →
    s.tasksOn 0 c ≠ [] → ∃ t d, exec (.plannedRetirement c) s = .next t ∧ (t.core c).inSvc = true ∧ (t.core c).pw.disabled = true ∧
      t.host.disables = s.host.disables ++ [d] ∧ d.kind = 0 ∧ d.index = c ∧ s.time ≤ d.due ∧
      ∀ e ∈ s.coresOn 0 c, e < 160 → (t.core e).x = (s.core e).x ∧ (t.core e).v = (s.core e).v ∧ (t.core e).tr.ipend.getLsbD 6 = true)

/-! ### Stacks, margins and repair (R446 to R475, R497) -/

/-- R446, R448, R452 to R457: what the controller of a stack does: a line that reads clean changes nothing, a corrected one is
counted and waits for its write-back, an uncorrectable one is counted, logged and poisoned, and work that needs a poisoned line
fails with POISONED; a line is written whole, or in part after a clean read, and a poisoned line keeps none of a partial write;
refresh, the sensor's rate change, scrub, write-back, row sparing and calibration advance their registers alone. The core stores
scrub on in their own place.
Where the spec leaves a choice open, the statement rests on the model's: log entry 28. -/
def Obligations.StackUpkeep : Prop :=
  (∀ (s : State) (n : Nat), n < 8 → s.pkg.stks.length = 8 → (s.stack n).insvc = true →
    let k := s.stack n
    let kept (i : Instr) (P : State → Prop) : Prop := ∃ t, exec i s = .next t ∧ t.mem = s.mem ∧ P t
    (∀ (sram : Bool) (line : Nat) (err : List (Nat × Byte)), line < lineCount sram →
      let pa := linePa n sram line
      let o := s.lineAt n sram line err
      (∀ bs, o = .clean bs → exec (.stackLineRead n sram line err none) s = .next s) ∧
      (∀ bs sym, o = .fixed bs sym → kept (.stackLineRead n sram line err none) fun t =>
        (t.stack n).ce = k.ce + 1 ∧ (sram, line) ∈ (t.stack n).wbs) ∧
      (o = .bad → kept (.stackLineRead n sram line err none) fun t =>
        pa ∈ t.poison ∧ (t.stack n).ue = k.ue + 1 ∧ t.log.next = s.log.next + 1) ∧
      (∀ i w b rd fp sx va k off, s.work i = some w → w.kind = .fld b rd fp sx → w.runs = [(va, k)] → w.puts = [] → w.seen = [] → 0 < k →
        off = va.toNat % 64 → off + k ≤ 64 → s.translate w.part w.priv true false va.toNat = .ok (pa + off) → s.servable w pa = true →
        (∀ e, o.failure = some e → kept (.stackLineRead n sram line err (some i)) fun t =>
          t.work i = some { w.fail va e with seen := [(pa, some e)] } ∧ t.log.next = s.log.next + 1) ∧
        (∀ bs, o = .clean bs → s.Readable (pa + off) k → kept (.stackLineRead n sram line err (some i)) fun t =>
          t.work i = some { w with
            seen := [(pa, none)]
            stage := .applied ((bs.drop off).take k) } ∧ t.log = s.log)) ∧
      (∀ (off : Nat) (data : List Byte), data ≠ [] → off + data.length ≤ 64 →
        (s.lostAt pa = false ∧ s.lostAt (pa + off) = false ∧ (data.length = 64 ∨ ((∃ bs, o = .clean bs) ∧ s.isPoisoned pa 64 = false)) →
          ∃ t, exec (.stackLineWrite n sram line err (.bytes off data)) s = .next t ∧ (data.length = 64 → pa ∉ t.poison) ∧
            ∀ a, t.mem.get a = if pa + off ≤ a ∧ a < pa + off + data.length then data.getD (a - (pa + off)) 0 else s.mem.get a) ∧
        (data.length < 64 → o = .poisoned ∨ o = .bad → kept (.stackLineWrite n sram line err (.bytes off data)) fun t => pa ∈ t.poison)) ∧
      kept (.correctingWriteback n sram ⟨line, err⟩) fun t => (sram, line) ∉ (t.stack n).wbs) ∧
    (∀ die ch bank, die < 12 → ch < 32 → bank < 4 → kept (.refreshDue n die ch bank) fun t =>
      let b := (die * 32 + ch) * 4 + bank
      assoc (t.stack n).refreshed b = some ((assoc k.refreshed b).getD 0 + 1)) ∧
    (∀ die temp, die < 12 → (temp < 100 → kept (.refreshRateChange n die temp) fun t => vget (t.stack n).temps die 0 = temp ∧
      (t.stack n).hot.getLsbD die = (if 85 < temp then true else if temp < 83 then false else k.hot.getLsbD die) ∧
      (92 < temp → .thermal (16 + n) ∈ t.pkg.power.active)) ∧
      (100 ≤ temp → ∃ t, exec (.refreshRateChange n die temp) s = .next t ∧ t.pkg.pins.thermtripN = false ∧ t.works = [])) ∧
    (∀ (sram : Bool) (bank : Nat) (err : List (Nat × Byte)) (bs : List Byte), bank < bankCount sram →
      let p := k.scrubAt sram bank
      s.lineAt n sram (scrubLine sram bank p.1) err = .clean bs → kept (.scrubRead n sram bank err) fun t =>
        (t.stack n).scrubAt sram bank = if p.1 + 1 = bankLines sram then (0, s.time) else (p.1 + 1, p.2)) ∧
    (∀ x, k.copy = some x →
      (kept (.rowCopyForce n) fun t => (t.stack n).copy = some { x with forced := true } ∧
        t.time = (s.tickTo (x.begun + 1000000000)).time) ∧
      (k.copyQ = [] → kept (.rowSwitch n []) fun t => (t.stack n).copy = none ∧ (x.bank, x.row) ∈ (t.stack n).rows ∧
        assoc (t.stack n).spares x.bank = some (x.spare + 1) ∧ t.log.next = s.log.next + 1)) ∧
    (∀ ch, ch < 32 → (∀ q ∈ k.calib, q.2 + 2000 ≤ s.time) →
      (kept (.stackCalibration n ch true) fun t => assoc (t.stack n).calib ch = some t.time ∧
        t.time = (s.tickTo ((assoc k.calib ch).getD k.upAt + 60000000000)).time) ∧
      (s.chanBusy n ch = false → kept (.stackCalibration n ch false) fun t => assoc (t.stack n).calib ch = some s.time ∧
        t.time = s.time))) ∧
  (∀ (s : State) (c : Nat) (err : List (Nat × Byte)), c < 144 → (s.core c).pw.svc ≠ .retired → (s.core c).pw.svc ≠ .failed →
    (∃ t, exec (.coreStoreScrub c err) s = .next t ∧ t.mem = s.mem ∧
      (t.core c).pw.scrubPos = ((s.core c).pw.scrubPos + 1) % 0x200000) ∧
    (∀ errs cut, (s.core c).pw.ring = false → ∃ t, exec (.scrubBurst ⟨c, errs, cut⟩) s = .next t ∧ t.mem = s.mem ∧
      (t.core c).tm.step = (s.core c).tm.step ∧ (cut = none → t.time = s.time + 7800 ∧ (t.core c).pw.scrubPos = 0) ∧
      ∀ m, cut = some m → m < 0x200000 → (t.core c).pw.scrubPos = m))

/-- R468, R471 to R473, R475, R497: a measurement records a domain's slack; from 2 to 3 its offset voltage rises by one unit, below 2
a core in service is retired and a spare below 4 is failed. Calibration borrows of a core that has nothing under way, the forced one
after 60 s and the one after CALIB has been pending for 1 s; the test of a PE row with three faults in an hour; the hint that both
hubs write into the slot that does not hold the verified record with the higher SEQ.
Where the spec leaves a choice open, the statement rests on the model's: log entries 22, 23 and 28. -/
def Obligations.MarginsAndRepair : Prop :=
  (∀ (s : State) (d : Nat) (slacks : List Nat) (tap : Bool), d < 162 → slacks.length = chainsOf d → s.domainUp d = true →
    let on (P : State → Prop) : Prop := ∃ t, exec (.canaryMeasurement d slacks tap) s = .next t ∧ P t
    (borrowDomain d s = none → exec (.canaryMeasurement d slacks tap) s = .next s) ∧
    ∀ s0, borrowDomain d s = some s0 → s0.HostQuiet →
      let v := (minOf (slacks.map (min 32))).getD 0
      let m := s0.margin d
      let spare := d < 144 ∧ (s0.core d).pw.svc = .spare
      (6 ≤ v → on fun t => (t.margin d).slack = v ∧ (t.margin d).vofs = m.vofs ∧ (t.margin d).calTime = s0.time ∧ t.mem = s0.mem) ∧
      (2 ≤ v → v < 4 → ¬ spare → s0.leadUp = true → m.vofs < 8 → on fun t => (t.margin d).slack = v ∧ (t.margin d).vofs = m.vofs + 1 ∧
        t.log.next = s0.log.next + 1 ∧ t.mem = s0.mem) ∧
      (v < 2 → d < 144 → (s0.core d).inSvc = true → s0.place.groups = [] → s0.host.tasks = [] → s0.nets = [] →
        on fun t => (t.core d).pw.svc = .retired) ∧
      (v < 4 → spare → on fun t => (t.core d).pw.svc = .failed)) ∧
  (∀ (s : State) (c : Nat), s.Idle c → c < 144 →
    let k := s.core c
    (∃ t, exec (.calibrationBorrow c) s = .next t ∧ s.Beside t c ∧ (t.core c).pw.lastCal = s.time ∧
      (t.core c).pw.calForced = none ∧ (t.core c).x = k.x ∧ (t.core c).flow = k.flow ∧ k.tm.step ≤ (t.core c).tm.step) ∧
    (k.pw.calForced = none → ∃ t, exec (.calibForce c) s = .next t ∧ s.Beside t c ∧
      t.time = (s.tickTo (k.pw.lastCal + 60000000000)).time ∧ (t.core c).tr.ipend = k.tr.ipend ||| 0x80 ∧
      (t.core c).pw.calForced = some t.time ∧ (t.core c).x = k.x) ∧
    (∀ since, k.pw.calForced = some since → k.tr.ipend.getLsbD 7 = true → ∃ t, exec (.calibPendingTimeout c) s = .next t ∧
      s.Beside t c ∧ t.time = (s.tickTo (since + 1000000000)).time ∧ (t.core c).pw.lastCal = t.time ∧
      (t.core c).tr.ipend.getLsbD 7 = false ∧ (t.core c).pw.calForced = none ∧ (t.core c).x = k.x)) ∧
  (∀ (s : State) (c : Nat) (row : BitVec 7) (t1 t2 t3 p1 p2 p3 : Nat), s.Idle c → c < 144 →
    (c, row.toNat, t1, p1) ∈ s.pkg.peFaults → (c, row.toNat, t2, p2) ∈ s.pkg.peFaults → (c, row.toNat, t3, p3) ∈ s.pkg.peFaults →
    p1 ≠ p2 → p1 ≠ p3 → p2 ≠ p3 → t1 ≤ t2 → t2 ≤ t3 → t3 ≤ t1 + 3600000000000 →
    (∃ t, exec (.peRowTest c row true) s = .next t ∧ s.Beside t c ∧ (t.core c).x = (s.core c).x ∧ (t.core c).arr.bypass = (s.core c).arr.bypass ∧
      (t.core c).pw.lastCal = s.time ∧ ∀ f ∈ t.pkg.peFaults, ¬ (f.1 = c ∧ f.2.1 = row.toNat)) ∧
    (vget (s.core c).arr.bypass (row.toNat / 32) none = none → ∃ t, exec (.peRowTest c row false) s = .next t ∧ s.Beside t c ∧
      vget (t.core c).arr.bypass (row.toNat / 32) none = some (BitVec.ofNat 5 row.toNat) ∧ t.log.next = s.log.next + 1)) ∧
  (∀ (s : State) (seed : List Byte), s.Counts → s.pkg.lead < 2 → (s.hub s.pkg.lead).insvc = true → (s.hub s.pkg.lead).key = some seed →
    5 ≤ (s.hub s.pkg.lead).step → ∃ t, exec .repairHintWrite s = .next t ∧ t.mem = s.mem ∧ t.cores = s.cores ∧ ∀ h, h < 2 →
      let q := s.hub h
      let u := t.hub h
      let seq := if (s.hub 0).seqNext.toNat < (s.hub 1).seqNext.toNat then (s.hub 1).seqNext else (s.hub 0).seqNext
      let bytes := hintRecord seq (s.hub s.pkg.lead).startsNext s.pkg.lead seed
        (s.repairMap.flatMap repairBytes ++ (List.range 162).flatMap fun i => leBytes 8 (s.mtabWord i))
      u.seqNext = seq + 1 ∧ u.slotNext = !q.slotNext ∧
      u.flash = if q.slotNext = true then { q.flash with hint1 := bytes } else { q.flash with hint0 := bytes })

/-! ### Power, timers, pins (R40, R476 to R487, R507, R516, R524 to R529) -/

/-- R476, R478, R479: a plan sets every working core between its floor and 900 mV (or its nominal voltage where that is higher), and,
where the floors of the working cores fit the budget that PLIMIT leaves, the figures of all settings together stay within it; no
register or byte of memory changes.
Where the spec leaves a choice open, the statement rests on the model's: log entry 22. -/
def Obligations.PowerPlan : Prop :=
  ∀ (s : State) (noncore avg peak : Nat), (s.hub s.pkg.lead).insvc = true →
    let work := allCores.filter fun c => s.working c
    let fixed := ((allCores.filter fun c => (s.core c).powered && !s.working c).map s.fixedCharge).sum
    let budget := (s.pkg.power.plimit - (noncore + 25)) * wattUnit - fixed
    ∃ t, exec (.powerPlan noncore avg peak) s = .next t ∧ t.mem = s.mem ∧ t.time = s.time ∧
      t.pkg.power.avg = avg ∧ t.pkg.power.peak = peak ∧ t.pkg.power.noncore = noncore + 25 ∧
      (∀ c ∈ work, s.floorMv c ≤ (t.core c).pw.vset ∧ (t.core c).pw.vset ≤ max 900 (s.nomMv c)) ∧
      ((work.map fun c => figure (s.floorMv c)).sum ≤ budget → (work.map fun c => figure (t.core c).pw.vset).sum ≤ budget) ∧
      ∀ c, (t.core c).x = (s.core c).x ∧ (t.core c).v = (s.core c).v ∧ (t.core c).flow = (s.core c).flow ∧ (t.core c).cnt = (s.core c).cnt

/-- R40, R479 to R482, R487: a boost grant that is not renewed lapses to nominal; a throttle is counted and logged once and, for a
regulator, puts the cores of its rail at their floors while the lead serves; it ends on its release; PLIMIT takes a value from 1,500 to 3,600 W and
flags any other; a voltage that has reached its target is in force, and below the floor the ring stands.
Where the spec leaves a choice open, the statement rests on the model's: log entry 22. -/
def Obligations.PowerEvents : Prop :=
  ∀ s : State,
    let kept (i : Instr) (P : State → Prop) : Prop := ∃ t, exec i s = .next t ∧ t.mem = s.mem ∧ P t
    (∀ c till, c < 144 → (s.core c).pw.boostTill = some till → kept (.boostGrantLapse c) fun t => t.time = (s.tickTo till).time ∧
      (t.core c).pw.vset = min (s.core c).pw.vset (s.nomMv c) ∧ (t.core c).pw.boostTill = none) ∧
    (∀ m : ThrottleSense, throttleExists m.why = true →
      let above : Prop := match m with
        | .power avg peak => s.pkg.power.plimit < avg ∨ 11 * s.pkg.power.plimit < 10 * peak
        | .thermal d temp => (if d < 16 then 95 else 92) < temp
        | .vrfault _ => True
      let below : Prop := match m with
        | .power _ peak => 100 * peak < 95 * s.pkg.power.plimit
        | .thermal d temp => max temp (s.heldTemp d) < if d < 16 then 92 else 89
        | .vrfault _ => True
      (above → m.why ∉ s.pkg.power.active → kept (.throttle m) fun t => t.pkg.power.active = s.pkg.power.active ++ [m.why] ∧
        t.pkg.power.thr = s.pkg.power.thr + 1 ∧ t.log.next = s.log.next + 1 ∧
        ∀ n c, m = .vrfault n → s.leadUp = true → c < 144 → dieOf c = n → (s.core c).inSvc = true →
          (t.core c).pw.vset = min (s.core c).pw.vset (s.floorMv c)) ∧
      (¬ above → exec (.throttle m) s = .next s) ∧
      (below → kept (.throttleRelease m) fun t => m.why ∉ t.pkg.power.active ∧ t.cores = s.cores) ∧
      (¬ below → exec (.throttleRelease m) s = .next s)) ∧
    (∀ hub (v : Word), hub < 2 → (s.hub hub).insvc = true → kept (.plimitWrite hub v) fun t => t.cores = s.cores ∧
      if 1500 ≤ v.toNat % 4096 ∧ v.toNat % 4096 ≤ 3600 then t.pkg.power.plimit = v.toNat % 4096 ∧ t.pkg.power.badlim = s.pkg.power.badlim
      else t.pkg.power.plimit = s.pkg.power.plimit ∧ t.pkg.power.badlim = true) ∧
    (∀ c, c < 144 → (s.core c).powered = true → (s.core c).wait = none → (s.core c).pw.volt ≠ (s.core c).pw.target →
      kept (.voltageMoveEnd (.core c)) fun t => (t.core c).pw.volt = (s.core c).pw.target ∧ (t.core c).x = (s.core c).x ∧
        ((s.core c).pw.target < s.floorMv c → (t.core c).pw.ring = false) ∧
        (s.floorMv c ≤ (s.core c).pw.target → (s.core c).inSvc = true → (t.core c).pw.ring = true)) ∧
    (∀ n, n < 8 → kept (.voltageMoveEnd (.rail n)) fun t => vget t.pkg.power.rails n 0 = vget s.pkg.power.railTo n 0)

/-- R507, R516: the time compare fires once, with IPEND bit 1; a sample at which every read is done and the ring has room writes a record
for every core in service and sets the time of the next; a read not done in time is a record dropped.
Where the spec leaves a choice open, the statement rests on the model's: log entry 25. -/
def Obligations.TimerAndTelemetry : Prop :=
  ∀ s : State,
    (∀ c, c < 160 → (s.core c).ev.tcmpEn = true → (s.core c).inSvc = true → ∃ t, exec (.timerCompareFire c) s = .next t ∧
      s.Beside t c ∧ t.time = (s.tickTo (s.core c).ev.tcmp.toNat).time ∧ (t.core c).ev.tcmpEn = false ∧
      (t.core c).tr.ipend = (s.core c).tr.ipend ||| 2 ∧ (t.core c).x = (s.core c).x) ∧
    (∀ temps, (s.hub s.pkg.lead).insvc = true → s.log.telPend = [] →
      s.log.telCount + s.inSvcCores.length ≤ s.log.telrd + 65535 → ∃ t, exec (.telemetrySample temps []) s = .next t ∧
        t.mem = s.mem ∧ t.cores = s.cores ∧ t.time = (s.tickTo s.log.telNext).time ∧ t.log.telNext = t.time + s.log.tperiod ∧
        t.log.telCount = s.log.telCount + s.inSvcCores.length ∧ t.log.teldrop = s.log.teldrop ∧ t.log.telPend = []) ∧
    (∀ c, c < 144 → c ∈ s.log.telPend → ∃ t, exec (.telemetryReadTimeout c) s = .next t ∧ t.mem = s.mem ∧
      t.log.teldrop = s.log.teldrop + 1 ∧ c ∉ t.log.telPend ∧ t.log.telCount = s.log.telCount)

/-- R489, R491, R512, R524 to R529: RESET_N, PWRGOOD, a rail, the reference clock and the thermal trip: where all work stops, none is left,
memory lists nothing and no core issues, and the trouble log goes on while VHUB holds it; a core rail takes the cores of its die, VSTK the
stacks, a lost reference its hub. The boundary-scan instructions take effect as RESET_N and the rails let them, and SAMPLE captures the pins.
Where the spec leaves a choice open, the statement rests on the model's: log entry 25. -/
def Obligations.PinsAndRails : Prop :=
  ∀ s : State,
    let p := s.pkg.pins
    let stopped (t : State) : Prop := t.works = [] ∧ t.mem = [] ∧ t.nets = [] ∧ t.host.tasks = [] ∧ t.pkg.pins.up = false ∧
      (∀ c, (t.core c).canIssue = false) ∧ t.pending = s.pending
    let goes (i : Instr) (P : State → Prop) : Prop := ∃ t, exec i s = .next t ∧ P t
    let dieOut (n : Nat) (t : State) : Prop := s.log.next < t.log.next ∧
      ∀ c, c < 144 → dieOf c = n → (t.core c).inSvc = false ∧ (t.core c).pw.svc ≠ .spare
    (p.resetN = true → goes .resetAssert fun t => stopped t ∧ t.pkg.pins.resetN = false ∧ t.log.ring = s.log.ring ∧
      t.log.next = s.log.next) ∧
    exec .pwrgoodRise s = .next { s with pkg := { s.pkg with
      hubs := s.pkg.hubs.map fun q => { q with refOk := true }
      pins := { p with
        pwrgood := true
        rails := true } } } ∧
    (p.up = true → goes .pwrgoodFall fun t => stopped t ∧ t.log.next = s.log.next + 1 ∧ t.pkg.pins.pwrgood = false ∧
      t.pkg.pins.thermtripN = true) ∧
    (p.up = false → exec .pwrgoodFall s = .next { s with pkg := { s.pkg with pins := { p with
      pwrgood := false
      thermtripN := true } } }) ∧
    (s.HostQuiet → s.place.groups = [] → s.host.tasks = [] → s.nets = [] → p.up = true →
      (∀ n, n < 8 → goes (.railOutOfRange (.vcore n)) (dieOut n)) ∧
      (∀ n, n < 8 → s.pkg.power.railOn (.vcore n) = true → .vrfault n ∉ s.pkg.power.active →
        goes (.railCheckTimeout (.vcore n)) fun t => dieOut n t ∧ t.pkg.power.thr = s.pkg.power.thr + 1) ∧
      (goes (.railOutOfRange .vstk) fun t => t.stacksUp = []) ∧
      (∀ h, h < 2 → (s.hub h).refOk = true → (s.hub (1 - h)).refOk = true → (s.hub h).insvc = true →
        goes (.refclkLoss h) fun t => (t.hub h).insvc = false ∧ (t.hub h).refOk = false ∧ (t.hub (1 - h)).insvc = (s.hub (1 - h)).insvc)) ∧
    (∀ r, r = .vhub ∨ r = .vphy ∨ r = .vio → goes (.railOutOfRange r) fun t => stopped t ∧ t.pkg.pins.rails = false ∧
      (r = .vhub → t.log.ring = [])) ∧
    (∀ h, h < 2 → p.up = true → (s.hub h).refOk = true → s.pkg.hubs.length = 2 →
      ((s.hub (1 - h)).refOk = true → (s.hub h).insvc = false → goes (.refclkLoss h) fun t => (t.hub h).step = 0 ∧ t.mem = s.mem) ∧
      ((s.hub (1 - h)).refOk = false → goes (.refclkLoss h) fun t => stopped t ∧ t.log.next = s.log.next + 1)) ∧
    (∀ d temp, throttleExists (.thermal d) = true → let at_ := if d < 16 then 110 else 100
      (at_ ≤ temp → goes (.thermalTrip ⟨d, temp⟩) fun t => t.pkg.pins.thermtripN = false ∧ stopped t ∧
        t.log.next = s.log.next + if p.rails = true then 1 else 0) ∧
      (temp < at_ → exec (.thermalTrip ⟨d, temp⟩) s = .next s)) ∧
    (let tap (i : Instr) (x : Tap) : Prop := exec i s = .next { s with pkg := { s.pkg with pins := { p with tap := x } } }
     let test (x : Tap) : Tap := if p.resetN = false ∧ p.rails = true then x else .bypass
     tap .bypass .bypass ∧ tap .extest (test .extest) ∧ tap .highz (test .highz) ∧ tap .clamp (test .clamp) ∧
     goes .samplePreload fun t => t.pkg.pins.tap = .sample ∧ t.cores = s.cores ∧ t.mem = s.mem ∧ t.pkg.pins.cells.length = 31 ∧
       t.pkg.pins.cells[14]? = some p.resetN ∧ t.pkg.pins.cells[15]? = some p.pwrgood ∧ t.pkg.pins.cells[30]? = some p.thermtripN)

/-! ### Boot and attestation (R461 to R465, R489 to R505) -/

/-- R490, R492 to R498, R461, R462, R465: the steps of the boot flow. Step 1 runs the slot with the higher SVN that verifies, and stops with its error
where flash or firmware does not serve; step 2 puts in service what passed and what an accepted
hint does not mark failed, with no offset more than 10 mV below the hint's (R465), and elects HD0, or HD1 once 2 s have passed without HD0;
step 3 takes a failed stack out, clears the others and starts the cores in service in the monitor; step 4 announces the ports that trained,
and the first of them ends the start.
Where the spec leaves a choice open, the statement rests on the model's: log entries 7, 22 and 24. -/
def Obligations.BootSteps : Prop :=
  (∀ f : Flash, let a := fwImage f 0x100000
    let b := fwImage f 0x1900000
    (∀ x y, a = some x → b = some y → pickFw f = if x.svn.toNat < y.svn.toNat then some (true, y) else some (false, x)) ∧
    (∀ x, a = some x → b = none → pickFw f = some (false, x)) ∧ (∀ y, a = none → b = some y → pickFw f = some (true, y)) ∧
    (a = none → b = none → pickFw f = none)) ∧
  (∀ (s : State) (b : BootInput × BootInput), s.Counts → s.pkg.pins.resetN = false → s.pkg.pins.pwrgood = true → s.pkg.pins.rails = true →
    ∃ t, exec (.resetRelease b.1 b.2) s = .next t ∧ t.pkg.pins.resetN = true ∧ t.pkg.pins.up = true ∧ t.time = 0 ∧ t.mem = s.mem ∧ ∀ h, h < 2 →
      let x := if h = 0 then b.1 else b.2
      let f := x.flash.getD (s.hub h).flash
      let u := t.hub h
      ((s.hub h).refOk = false → u.step = (s.hub h).step) ∧
      ((s.hub h).refOk = true →
        (sfdpValid f = false → u.step = 1 ∧ u.err = 1) ∧
        (sfdpValid f = true → pickFw f = none → u.step = 1 ∧ u.err = 2 ∧ u.recov = true) ∧
        (∀ slot img, sfdpValid f = true → pickFw f = some (slot, img) → u.step = 2 ∧ u.slotB = slot ∧ u.svn = img.svn ∧ u.image = img.bytes ∧
          u.plimit = flashPlimit f ∧ u.hint = (judgeHint h (deriveKey h f x.puf).isSome f).1 ∧
          (∀ seed, deriveKey h f x.puf = some seed → u.key = some seed) ∧
          (deriveKey h f x.puf = none → u.key = (s.hub h).key ∧ u.err = 3)))) ∧
  (∀ (s : State) (r : SelfTest), s.Counts → (∀ h, h < 2 → (s.hub h).step = 2 ∧ (s.hub h).insvc = false) →
    s.pkg.power.railOn .vstk = false → (∀ n, n < 8 → (s.stack n).insvc = false) → r.failedHubs = [] → r.bridgeOk = true →
    .bridge ∉ r.failedLinks → .bridge ∉ s.pkg.linksDown → (∀ e ∈ s.hintRepairs ++ r.elems, ¬ (e.kind = .lane ∧ e.unit = 30)) →
    s.hintFails 152 = false → s.hintFails 153 = false → 2 ≤ (startMargin s r 152).slack → 2 ≤ (startMargin s r 153).slack →
    ∃ t, exec (.selfTestAndRepair r) s = .next t ∧ t.mem = s.mem ∧ t.pkg.lead = 0 ∧ t.pkg.power.railOn .vstk = true ∧
      (∀ h, h < 2 → (t.hub h).insvc = true) ∧ (∀ n, n < 8 → n ∈ r.failedStacks ∨ s.hintFails (154 + n) = true → (t.stack n).insvc = false) ∧
      (∀ d, d < 162 → s.hintVofs d ≤ 10 → s.hintVofs d ≤ (t.margin d).vofs + 2) ∧
      (∀ c, c < 144 → c ∈ r.failedPos ∨ s.hintFails c = true → (t.core c).pw.svc = .failed ∧ (t.core c).pw.volt = 0) ∧
      ((∀ d, d < 162 → s.hintFails d = false ∧ 4 ≤ (startMargin s r d).slack) → r.failedPos = [] → r.failedDies = [] →
        r.failedLinks = [] → s.pkg.linksDown = [] → r.elems = [] → s.hintRepairs = [] →
        (∀ h, h < 2 → (t.hub h).step = 3) ∧ (∀ n, n < 8 → n ∉ r.failedStacks → (t.stack n).insvc = true) ∧
        ∀ c, c < 144 → (t.core c).pw.svc = if c % 18 < 16 then .inService else .spare)) ∧
  (∀ s : State, s.Counts → s.pkg.power.railOn .vstk = true → (s.hub 0).insvc = false → (s.hub 1).insvc = false → (s.hub 1).step = 2 →
    ∃ t, exec .hubElectionTimeout s = .next t ∧ t.mem = s.mem ∧ t.time = (s.tickTo 2000000000).time ∧ t.pkg.lead = 1 ∧
      (t.hub 1).insvc = true ∧ (t.hub 0).insvc = false) ∧
  (∀ (s : State) (failed : List Nat), s.Counts → s.pkg.lead < 2 → (s.hub s.pkg.lead).insvc = true → (s.hub s.pkg.lead).step = 3 →
    ∃ t, exec (.bootStackTraining failed) s = .next t ∧ (t.hub s.pkg.lead).step = 4 ∧
      (∀ n, n < 8 → (t.stack n).insvc = ((s.stack n).insvc && !failed.contains n)) ∧
      (∀ n a, n < 8 → (t.stack n).insvc = true → homeOf a = some (1, n) ∨ homeOf a = some (2, n) → t.mem.get a = 0) ∧
      (∀ c, c < 144 → (s.core c).inSvc = true → (t.core c).inSvc = true ∧ (t.core c).tr.maint = false ∧ (t.core c).level = .m ∧
        (t.core c).bank = .b1) ∧
      ∀ k, k < 8 → (t.core (144 + 8 * s.pkg.lead + k)).inSvc = true) ∧
  (∀ (s : State) (r : LaneTest), s.HostQuiet → s.pkg.lead < 2 → (s.hub s.pkg.lead).insvc = true → (s.hub s.pkg.lead).step = 4 →
    let good (p : Nat) : Prop := (s.port p).st = .training ∧ r.trained.getLsbD p = true ∧
      (steerPort p ((r.failed.filter fun l => l.1 == p).map (·.2)) s).lanesOk p = true
    ∃ t, exec (.bootPortTraining r) s = .next t ∧
      ((∃ p, p < 4 ∧ good p) → (t.hub s.pkg.lead).step = 5) ∧ ((∀ p, p < 4 → ¬ good p) → (t.hub s.pkg.lead).step = 4) ∧
      ∀ p, p < 4 → (good p → (t.port p).st = .announced) ∧
        ((s.port p).st = .training → ¬ good p → (t.port p).st = .down) ∧ ((s.port p).st ≠ .training → (t.port p).st = (s.port p).st))

/-- R500 to R503 (the message layouts are log entry 26's, the digest and signature free functions): an endpoint that is served answers each request: in
the order GET_VERSION, GET_CAPABILITIES, NEGOTIATE_ALGORITHMS, and then certificates, challenges and measurements; out of order, in another version
or of another kind it answers an ERROR, and Busy while it serves another. MCTP control sets and reports the endpoint's ID. Nothing but the
endpoint's state changes, free values drawn apart. -/
def Obligations.Attestation : Prop :=
  ∀ (s : State) (e : Endpoint) (r : SpdmReq), epExists e = true → s.epServed e = true → s.pkg.eps.length = 6 →
    let q := s.ep e
    let h := epHub e
    let got (i : Instr) (P : Ep → Prop) : Prop := ∃ t, exec i s = .next t ∧ P (t.ep e) ∧ ∃ u n,
      t = { s.updEp e fun _ => u with fresh := n }
    let fails (i : Instr) (code : Byte) : Prop := got i fun u => u.reply = [0x12, 0x7F, code, 0] ∧ u.phase = q.phase
    let inOrder (i : Instr) (phase : Nat) : Prop := (r.version ≠ 0x12 → fails i 0x41) ∧ (r.version = 0x12 → q.phase ≠ phase → fails i 0x04)
    let busy : Prop := r.early = true ∧ ∃ since, q.since = some since ∧ s.time < since + 16384000
    (busy → ∀ i ∈ [Instr.getVersion e r, .getCapabilities e r, .negotiateAlgorithms e r, .getDigests e r, .getCertificate e r, .challenge e r,
      .getMeasurements e r, .spdmUnsupportedRequest e r], fails i 0x03) ∧
    (¬ busy →
      (r.version = 0x10 ∨ r.version = 0x12 → got (.getVersion e r) fun u =>
        u.phase = 1 ∧ u.reply = [0x10, 0x04, 0, 0, 0, 1, 0x00, 0x12]) ∧
      (r.version ≠ 0x10 → r.version ≠ 0x12 → fails (.getVersion e r) 0x41) ∧
      inOrder (.getCapabilities e r) 1 ∧ inOrder (.negotiateAlgorithms e r) 2 ∧ inOrder (.getDigests e r) 3 ∧
      inOrder (.getCertificate e r) 3 ∧ inOrder (.challenge e r) 3 ∧ inOrder (.getMeasurements e r) 3 ∧
      (r.version = 0x12 → q.phase = 1 → got (.getCapabilities e r) fun u => u.phase = 2 ∧ u.reply.take 6 = [0x12, 0x61, 0, 0, 0, 14]) ∧
      (r.version = 0x12 → q.phase = 2 →
        ((field r.body 4 4).testBit 9 = true ∨ (field r.body 8 4).testBit 2 = true →
          got (.negotiateAlgorithms e r) fun u => u.phase = 3 ∧ u.reply.length = 36) ∧
        ((field r.body 4 4).testBit 9 = false → (field r.body 8 4).testBit 2 = false → fails (.negotiateAlgorithms e r) 0x01)) ∧
      (r.version = 0x12 → q.phase = 3 →
        let chain := s.certChain h
        (got (.getDigests e r) fun u => u.reply = [0x12, 0x01, 0, BitVec.ofNat 8 (2 ^ h)] ++ Config.sha512 chain ∧ u.measLog = []) ∧
        (r.param1.toNat % 16 = h → field r.body 0 2 < chain.length → got (.getCertificate e r) fun u =>
          u.reply.take 4 = [0x12, 0x02, BitVec.ofNat 8 h, 0] ∧
            u.reply.drop 8 = ((chain.drop (field r.body 0 2)).take (field r.body 2 2)).take 4088) ∧
        (r.param1.toNat % 16 = h → 32 ≤ r.body.length → r.param2 = 0 →
          ((s.hub h).key = none → fails (.challenge e r) 0x05) ∧
          (∀ seed, (s.hub h).key = some seed → got (.challenge e r) fun u => u.certLog = [] ∧ ∃ body nonce, nonce.length = 32 ∧
            body = [0x12, 0x03, BitVec.ofNat 8 h, BitVec.ofNat 8 (2 ^ h)] ++ Config.sha512 chain ++ nonce ++ [0, 0] ∧
            u.reply = body ++ Config.ed25519Sign seed (signedBytes "responder-challenge_auth signing"
              (q.vca ++ q.certLog ++ reqBytes { r with code := 0x83 } ++ body)))) ∧
        (r.param1.getLsbD 0 = false → r.param2 = 0 → got (.getMeasurements e r) fun u =>
          u.reply.take 8 = [0x12, 0x60, 6, 0, 0, 0, 0, 0] ∧ u.reply.length = 42)) ∧
      (r.code ∉ knownCodes → (r.version = 0x12 → fails (.spdmUnsupportedRequest e r) 0x07) ∧
        (r.version ≠ 0x12 → fails (.spdmUnsupportedRequest e r) 0x41))) ∧
    (∀ eid : BitVec 8,
      (eid ≠ 0 → eid ≠ 0xFF → got (.setEndpointId e eid) fun u => u.eid = eid ∧ u.reply = [0, 0, eid, 0]) ∧
      (eid = 0 ∨ eid = 0xFF → got (.setEndpointId e eid) fun u => u.eid = q.eid ∧ u.reply = [2])) ∧
    (got (.getEndpointId e) fun u => u.reply = [0, q.eid, 0, 0]) ∧
    (got (.getMctpVersionSupport e) fun u => u.reply = 0 :: Config.mctpVersions) ∧
    (got (.getMessageTypeSupport e) fun u => u.reply = [0, 1, 5])
end

