-- ==== Sys2Proof/Laws/Exec.lean ====
section
/-! SUPPORT. Which meaning each command has, so that no proof unfolds the dispatcher. -/

namespace Sys2Proof.Machine

variable (s : State)

@[simp] theorem exec_add (c : Nat) (rd rs1 rs2 : Reg) : exec (.add c rd rs1 rs2) s = execAdd c rd rs1 rs2 s := rfl
@[simp] theorem exec_sub (c : Nat) (rd rs1 rs2 : Reg) : exec (.sub c rd rs1 rs2) s = execSub c rd rs1 rs2 s := rfl
@[simp] theorem exec_and (c : Nat) (rd rs1 rs2 : Reg) : exec (.and c rd rs1 rs2) s = execAnd c rd rs1 rs2 s := rfl
@[simp] theorem exec_or (c : Nat) (rd rs1 rs2 : Reg) : exec (.or c rd rs1 rs2) s = execOr c rd rs1 rs2 s := rfl
@[simp] theorem exec_xor (c : Nat) (rd rs1 rs2 : Reg) : exec (.xor c rd rs1 rs2) s = execXor c rd rs1 rs2 s := rfl
@[simp] theorem exec_sll (c : Nat) (rd rs1 rs2 : Reg) : exec (.sll c rd rs1 rs2) s = execSll c rd rs1 rs2 s := rfl
@[simp] theorem exec_srl (c : Nat) (rd rs1 rs2 : Reg) : exec (.srl c rd rs1 rs2) s = execSrl c rd rs1 rs2 s := rfl
@[simp] theorem exec_sra (c : Nat) (rd rs1 rs2 : Reg) : exec (.sra c rd rs1 rs2) s = execSra c rd rs1 rs2 s := rfl
@[simp] theorem exec_slt (c : Nat) (rd rs1 rs2 : Reg) : exec (.slt c rd rs1 rs2) s = execSlt c rd rs1 rs2 s := rfl
@[simp] theorem exec_sltu (c : Nat) (rd rs1 rs2 : Reg) : exec (.sltu c rd rs1 rs2) s = execSltu c rd rs1 rs2 s := rfl
@[simp] theorem exec_min (c : Nat) (rd rs1 rs2 : Reg) : exec (.min c rd rs1 rs2) s = execMin c rd rs1 rs2 s := rfl
@[simp] theorem exec_max (c : Nat) (rd rs1 rs2 : Reg) : exec (.max c rd rs1 rs2) s = execMax c rd rs1 rs2 s := rfl
@[simp] theorem exec_minu (c : Nat) (rd rs1 rs2 : Reg) : exec (.minu c rd rs1 rs2) s = execMinu c rd rs1 rs2 s := rfl
@[simp] theorem exec_maxu (c : Nat) (rd rs1 rs2 : Reg) : exec (.maxu c rd rs1 rs2) s = execMaxu c rd rs1 rs2 s := rfl
@[simp] theorem exec_mul (c : Nat) (rd rs1 rs2 : Reg) : exec (.mul c rd rs1 rs2) s = execMul c rd rs1 rs2 s := rfl
@[simp] theorem exec_mulh (c : Nat) (rd rs1 rs2 : Reg) : exec (.mulh c rd rs1 rs2) s = execMulh c rd rs1 rs2 s := rfl
@[simp] theorem exec_mulhu (c : Nat) (rd rs1 rs2 : Reg) : exec (.mulhu c rd rs1 rs2) s = execMulhu c rd rs1 rs2 s := rfl
@[simp] theorem exec_div (c : Nat) (rd rs1 rs2 : Reg) : exec (.div c rd rs1 rs2) s = execDiv c rd rs1 rs2 s := rfl
@[simp] theorem exec_divu (c : Nat) (rd rs1 rs2 : Reg) : exec (.divu c rd rs1 rs2) s = execDivu c rd rs1 rs2 s := rfl
@[simp] theorem exec_rem (c : Nat) (rd rs1 rs2 : Reg) : exec (.rem c rd rs1 rs2) s = execRem c rd rs1 rs2 s := rfl
@[simp] theorem exec_remu (c : Nat) (rd rs1 rs2 : Reg) : exec (.remu c rd rs1 rs2) s = execRemu c rd rs1 rs2 s := rfl
@[simp] theorem exec_addi (c : Nat) (rd rs1 : Reg) (imm : BitVec 16) : exec (.addi c rd rs1 imm) s = execAddi c rd rs1 imm s := rfl
@[simp] theorem exec_andi (c : Nat) (rd rs1 : Reg) (imm : BitVec 16) : exec (.andi c rd rs1 imm) s = execAndi c rd rs1 imm s := rfl
@[simp] theorem exec_ori (c : Nat) (rd rs1 : Reg) (imm : BitVec 16) : exec (.ori c rd rs1 imm) s = execOri c rd rs1 imm s := rfl
@[simp] theorem exec_xori (c : Nat) (rd rs1 : Reg) (imm : BitVec 16) : exec (.xori c rd rs1 imm) s = execXori c rd rs1 imm s := rfl
@[simp] theorem exec_slti (c : Nat) (rd rs1 : Reg) (imm : BitVec 16) : exec (.slti c rd rs1 imm) s = execSlti c rd rs1 imm s := rfl
@[simp] theorem exec_shi (c : Nat) (rd rs1 : Reg) (imm : BitVec 16) : exec (.shi c rd rs1 imm) s = execShi c rd rs1 imm s := rfl
@[simp] theorem exec_lui (c : Nat) (rd rs1 : Reg) (imm : BitVec 16) : exec (.lui c rd rs1 imm) s = execLui c rd rs1 imm s := rfl
@[simp] theorem exec_ori16 (c : Nat) (rd rs1 : Reg) (imm : BitVec 16) : exec (.ori16 c rd rs1 imm) s = execOri16 c rd rs1 imm s := rfl
@[simp] theorem exec_ori32 (c : Nat) (rd rs1 : Reg) (imm : BitVec 16) : exec (.ori32 c rd rs1 imm) s = execOri32 c rd rs1 imm s := rfl
@[simp] theorem exec_ori48 (c : Nat) (rd rs1 : Reg) (imm : BitVec 16) : exec (.ori48 c rd rs1 imm) s = execOri48 c rd rs1 imm s := rfl
@[simp] theorem exec_lb (c : Nat) (rd rs1 : Reg) (imm : BitVec 16) : exec (.lb c rd rs1 imm) s = execLb c rd rs1 imm s := rfl
@[simp] theorem exec_lbu (c : Nat) (rd rs1 : Reg) (imm : BitVec 16) : exec (.lbu c rd rs1 imm) s = execLbu c rd rs1 imm s := rfl
@[simp] theorem exec_lh (c : Nat) (rd rs1 : Reg) (imm : BitVec 16) : exec (.lh c rd rs1 imm) s = execLh c rd rs1 imm s := rfl
@[simp] theorem exec_lhu (c : Nat) (rd rs1 : Reg) (imm : BitVec 16) : exec (.lhu c rd rs1 imm) s = execLhu c rd rs1 imm s := rfl
@[simp] theorem exec_lw (c : Nat) (rd rs1 : Reg) (imm : BitVec 16) : exec (.lw c rd rs1 imm) s = execLw c rd rs1 imm s := rfl
@[simp] theorem exec_lwu (c : Nat) (rd rs1 : Reg) (imm : BitVec 16) : exec (.lwu c rd rs1 imm) s = execLwu c rd rs1 imm s := rfl
@[simp] theorem exec_ld (c : Nat) (rd rs1 : Reg) (imm : BitVec 16) : exec (.ld c rd rs1 imm) s = execLd c rd rs1 imm s := rfl
@[simp] theorem exec_ldf (c : Nat) (rd rs1 : Reg) (imm : BitVec 16) : exec (.ldf c rd rs1 imm) s = execLdf c rd rs1 imm s := rfl
@[simp] theorem exec_lwf (c : Nat) (rd rs1 : Reg) (imm : BitVec 16) : exec (.lwf c rd rs1 imm) s = execLwf c rd rs1 imm s := rfl
@[simp] theorem exec_sb (c : Nat) (rs2 rs1 : Reg) (imm : BitVec 16) : exec (.sb c rs2 rs1 imm) s = execSb c rs2 rs1 imm s := rfl
@[simp] theorem exec_sh (c : Nat) (rs2 rs1 : Reg) (imm : BitVec 16) : exec (.sh c rs2 rs1 imm) s = execSh c rs2 rs1 imm s := rfl
@[simp] theorem exec_sw (c : Nat) (rs2 rs1 : Reg) (imm : BitVec 16) : exec (.sw c rs2 rs1 imm) s = execSw c rs2 rs1 imm s := rfl
@[simp] theorem exec_sd (c : Nat) (rs2 rs1 : Reg) (imm : BitVec 16) : exec (.sd c rs2 rs1 imm) s = execSd c rs2 rs1 imm s := rfl
@[simp] theorem exec_stf (c : Nat) (rs2 rs1 : Reg) (imm : BitVec 16) : exec (.stf c rs2 rs1 imm) s = execStf c rs2 rs1 imm s := rfl
@[simp] theorem exec_swf (c : Nat) (rs2 rs1 : Reg) (imm : BitVec 16) : exec (.swf c rs2 rs1 imm) s = execSwf c rs2 rs1 imm s := rfl
@[simp] theorem exec_ldC (c : Nat) (rd xi : Reg) (set : BitVec 3) (size : BitVec 3) (sx : Bool) : exec (.ldC c rd xi set size sx) s = execLdC c rd xi set size sx s := rfl
@[simp] theorem exec_stC (c : Nat) (rs2 xi : Reg) (set : BitVec 3) (size : BitVec 3) (sx : Bool) : exec (.stC c rs2 xi set size sx) s = execStC c rs2 xi set size sx s := rfl
@[simp] theorem exec_beq (c : Nat) (rs1 rs2 : Reg) (off : BitVec 16) (sl : SlotLens) : exec (.beq c rs1 rs2 off sl) s = execBeq c rs1 rs2 off sl s := rfl
@[simp] theorem exec_bne (c : Nat) (rs1 rs2 : Reg) (off : BitVec 16) (sl : SlotLens) : exec (.bne c rs1 rs2 off sl) s = execBne c rs1 rs2 off sl s := rfl
@[simp] theorem exec_blt (c : Nat) (rs1 rs2 : Reg) (off : BitVec 16) (sl : SlotLens) : exec (.blt c rs1 rs2 off sl) s = execBlt c rs1 rs2 off sl s := rfl
@[simp] theorem exec_bge (c : Nat) (rs1 rs2 : Reg) (off : BitVec 16) (sl : SlotLens) : exec (.bge c rs1 rs2 off sl) s = execBge c rs1 rs2 off sl s := rfl
@[simp] theorem exec_bltu (c : Nat) (rs1 rs2 : Reg) (off : BitVec 16) (sl : SlotLens) : exec (.bltu c rs1 rs2 off sl) s = execBltu c rs1 rs2 off sl s := rfl
@[simp] theorem exec_bgeu (c : Nat) (rs1 rs2 : Reg) (off : BitVec 16) (sl : SlotLens) : exec (.bgeu c rs1 rs2 off sl) s = execBgeu c rs1 rs2 off sl s := rfl
@[simp] theorem exec_j (c : Nat) (off : BitVec 26) (sl : SlotLens) : exec (.j c off sl) s = execJ c off sl s := rfl
@[simp] theorem exec_jr (c : Nat) (rs1 : Reg) (sl : SlotLens) : exec (.jr c rs1 sl) s = execJr c rs1 sl s := rfl
@[simp] theorem exec_call (c : Nat) (off : BitVec 26) (sl : StackStep) : exec (.call c off sl) s = execCall c off sl s := rfl
@[simp] theorem exec_callr (c : Nat) (rs1 : Reg) (sl : StackStep) : exec (.callr c rs1 sl) s = execCallr c rs1 sl s := rfl
@[simp] theorem exec_ret (c : Nat) (sl : StackStep) : exec (.ret c sl) s = execRet c sl s := rfl
@[simp] theorem exec_fadd (c : Nat) (rd rs1 rs2 : Reg) : exec (.fadd c rd rs1 rs2) s = execFadd c rd rs1 rs2 s := rfl
@[simp] theorem exec_fsub (c : Nat) (rd rs1 rs2 : Reg) : exec (.fsub c rd rs1 rs2) s = execFsub c rd rs1 rs2 s := rfl
@[simp] theorem exec_fmul (c : Nat) (rd rs1 rs2 : Reg) : exec (.fmul c rd rs1 rs2) s = execFmul c rd rs1 rs2 s := rfl
@[simp] theorem exec_fdiv (c : Nat) (rd rs1 rs2 : Reg) : exec (.fdiv c rd rs1 rs2) s = execFdiv c rd rs1 rs2 s := rfl
@[simp] theorem exec_fsqrt (c : Nat) (rd rs1 : Reg) : exec (.fsqrt c rd rs1) s = execFsqrt c rd rs1 s := rfl
@[simp] theorem exec_fmin (c : Nat) (rd rs1 rs2 : Reg) : exec (.fmin c rd rs1 rs2) s = execFmin c rd rs1 rs2 s := rfl
@[simp] theorem exec_fmax (c : Nat) (rd rs1 rs2 : Reg) : exec (.fmax c rd rs1 rs2) s = execFmax c rd rs1 rs2 s := rfl
@[simp] theorem exec_fabs (c : Nat) (rd rs1 : Reg) : exec (.fabs c rd rs1) s = execFabs c rd rs1 s := rfl
@[simp] theorem exec_fneg (c : Nat) (rd rs1 : Reg) : exec (.fneg c rd rs1) s = execFneg c rd rs1 s := rfl
@[simp] theorem exec_feq (c : Nat) (rd rs1 rs2 : Reg) : exec (.feq c rd rs1 rs2) s = execFeq c rd rs1 rs2 s := rfl
@[simp] theorem exec_flt (c : Nat) (rd rs1 rs2 : Reg) : exec (.flt c rd rs1 rs2) s = execFlt c rd rs1 rs2 s := rfl
@[simp] theorem exec_fle (c : Nat) (rd rs1 rs2 : Reg) : exec (.fle c rd rs1 rs2) s = execFle c rd rs1 rs2 s := rfl
@[simp] theorem exec_fcvtSL (c : Nat) (rd rs1 : Reg) : exec (.fcvtSL c rd rs1) s = execFcvtSL c rd rs1 s := rfl
@[simp] theorem exec_fcvtLS (c : Nat) (rd rs1 : Reg) : exec (.fcvtLS c rd rs1) s = execFcvtLS c rd rs1 s := rfl
@[simp] theorem exec_fmvXF (c : Nat) (rd rs1 : Reg) : exec (.fmvXF c rd rs1) s = execFmvXF c rd rs1 s := rfl
@[simp] theorem exec_fmvFX (c : Nat) (rd rs1 : Reg) : exec (.fmvFX c rd rs1) s = execFmvFX c rd rs1 s := rfl
@[simp] theorem exec_fma (c : Nat) (fd fs1 fs2 fs3 : Reg) : exec (.fma c fd fs1 fs2 fs3) s = execFma c fd fs1 fs2 fs3 s := rfl
@[simp] theorem exec_fms (c : Nat) (fd fs1 fs2 fs3 : Reg) : exec (.fms c fd fs1 fs2 fs3) s = execFms c fd fs1 fs2 fs3 s := rfl
@[simp] theorem exec_fnma (c : Nat) (fd fs1 fs2 fs3 : Reg) : exec (.fnma c fd fs1 fs2 fs3) s = execFnma c fd fs1 fs2 fs3 s := rfl
@[simp] theorem exec_fnms (c : Nat) (fd fs1 fs2 fs3 : Reg) : exec (.fnms c fd fs1 fs2 fs3) s = execFnms c fd fs1 fs2 fs3 s := rfl
@[simp] theorem exec_fld (c : Nat) (rd rs1 : Reg) (cc : BitVec 4) (size : BitVec 3) (fp sx : Bool) : exec (.fld c rd rs1 cc size fp sx) s = execFld c rd rs1 cc size fp sx s := rfl
@[simp] theorem exec_fst (c : Nat) (rs2 rs1 : Reg) (cc : BitVec 4) (size : BitVec 3) (fp sx : Bool) : exec (.fst c rs2 rs1 cc size fp sx) s = execFst c rs2 rs1 cc size fp sx s := rfl
@[simp] theorem exec_resultLands (c : Nat) : exec (.resultLands c) s = execResultLands c s := rfl
@[simp] theorem exec_localLoadUe (e : LocalErr) : exec (.localLoadUe e) s = execLocalLoadUe e s := rfl
@[simp] theorem exec_farAccessComplete (id : Nat) (err : HomeErrs) : exec (.farAccessComplete id err) s = execFarAccessComplete id err s := rfl
@[simp] theorem exec_waitc (c : Nat) (rd rs1 : Reg) (cc : BitVec 4) (l test : Bool) (n : BitVec 10) : exec (.waitc c rd rs1 cc l test n) s = execWaitc c rd rs1 cc l test n s := rfl
@[simp] theorem exec_waitTimeout (c : Nat) : exec (.waitTimeout c) s = execWaitTimeout c s := rfl
@[simp] theorem exec_rep (c : Nat) (rs : Reg) (imm : BitVec 16) (nx : RepNext) : exec (.rep c rs imm nx) s = execRep c rs imm nx s := rfl
@[simp] theorem exec_repU (c : Nat) (rs : Reg) (imm : BitVec 16) (nx : RepNext) : exec (.repU c rs imm nx) s = execRepU c rs imm nx s := rfl
@[simp] theorem exec_csrWrite (c : Nat) (op : BitVec 4) (num : BitVec 12) (rs : CsrRegs) : exec (.csrWrite c op num rs) s = execCsrWrite c op num rs s := rfl
@[simp] theorem exec_dtwStore (c : Nat) (op : CsrOp) (rs1 : Reg) : exec (.dtwStore c op rs1) s = execDtwStore c op rs1 s := rfl
@[simp] theorem exec_dtwLoad (c : Nat) (op : CsrOp) (rs1 : Reg) : exec (.dtwLoad c op rs1) s = execDtwLoad c op rs1 s := rfl
@[simp] theorem exec_statusBankDiscard (c : Nat) (op : CsrOp) (rs1 : Reg) : exec (.statusBankDiscard c op rs1) s = execStatusBankDiscard c op rs1 s := rfl
@[simp] theorem exec_mctlWrite (c : Nat) (op : CsrOp) (rs1 : Reg) : exec (.mctlWrite c op rs1) s = execMctlWrite c op rs1 s := rfl
@[simp] theorem exec_exceptionEntry (c : Nat) (ev : SyncEvent) : exec (.exceptionEntry c ev) s = execExceptionEntry c ev s := rfl
@[simp] theorem exec_asyncInterruptTaken (c : Nat) : exec (.asyncInterruptTaken c) s = execAsyncInterruptTaken c s := rfl
@[simp] theorem exec_gate (c : Nat) (n : BitVec 8) : exec (.gate c n) s = execGate c n s := rfl
@[simp] theorem exec_eret (c : Nat) (nx : RetNext) : exec (.eret c nx) s = execEret c nx s := rfl
@[simp] theorem exec_vadd (c : Nat) (vd vs1 vs2 : Reg) (ty : BitVec 4) : exec (.vadd c vd vs1 vs2 ty) s = execVadd c vd vs1 vs2 ty s := rfl
@[simp] theorem exec_vsub (c : Nat) (vd vs1 vs2 : Reg) (ty : BitVec 4) : exec (.vsub c vd vs1 vs2 ty) s = execVsub c vd vs1 vs2 ty s := rfl
@[simp] theorem exec_vmul (c : Nat) (vd vs1 vs2 : Reg) (ty : BitVec 4) : exec (.vmul c vd vs1 vs2 ty) s = execVmul c vd vs1 vs2 ty s := rfl
@[simp] theorem exec_vmulh (c : Nat) (vd vs1 vs2 : Reg) (ty : BitVec 4) : exec (.vmulh c vd vs1 vs2 ty) s = execVmulh c vd vs1 vs2 ty s := rfl
@[simp] theorem exec_vmulhu (c : Nat) (vd vs1 vs2 : Reg) (ty : BitVec 4) : exec (.vmulhu c vd vs1 vs2 ty) s = execVmulhu c vd vs1 vs2 ty s := rfl
@[simp] theorem exec_vmin (c : Nat) (vd vs1 vs2 : Reg) (ty : BitVec 4) : exec (.vmin c vd vs1 vs2 ty) s = execVmin c vd vs1 vs2 ty s := rfl
@[simp] theorem exec_vmax (c : Nat) (vd vs1 vs2 : Reg) (ty : BitVec 4) : exec (.vmax c vd vs1 vs2 ty) s = execVmax c vd vs1 vs2 ty s := rfl
@[simp] theorem exec_vminu (c : Nat) (vd vs1 vs2 : Reg) (ty : BitVec 4) : exec (.vminu c vd vs1 vs2 ty) s = execVminu c vd vs1 vs2 ty s := rfl
@[simp] theorem exec_vmaxu (c : Nat) (vd vs1 vs2 : Reg) (ty : BitVec 4) : exec (.vmaxu c vd vs1 vs2 ty) s = execVmaxu c vd vs1 vs2 ty s := rfl
@[simp] theorem exec_vand (c : Nat) (vd vs1 vs2 : Reg) (ty : BitVec 4) : exec (.vand c vd vs1 vs2 ty) s = execVand c vd vs1 vs2 ty s := rfl
@[simp] theorem exec_vor (c : Nat) (vd vs1 vs2 : Reg) (ty : BitVec 4) : exec (.vor c vd vs1 vs2 ty) s = execVor c vd vs1 vs2 ty s := rfl
@[simp] theorem exec_vxor (c : Nat) (vd vs1 vs2 : Reg) (ty : BitVec 4) : exec (.vxor c vd vs1 vs2 ty) s = execVxor c vd vs1 vs2 ty s := rfl
@[simp] theorem exec_vandn (c : Nat) (vd vs1 vs2 : Reg) (ty : BitVec 4) : exec (.vandn c vd vs1 vs2 ty) s = execVandn c vd vs1 vs2 ty s := rfl
@[simp] theorem exec_vsll (c : Nat) (vd vs1 vs2 : Reg) (ty : BitVec 4) : exec (.vsll c vd vs1 vs2 ty) s = execVsll c vd vs1 vs2 ty s := rfl
@[simp] theorem exec_vsrl (c : Nat) (vd vs1 vs2 : Reg) (ty : BitVec 4) : exec (.vsrl c vd vs1 vs2 ty) s = execVsrl c vd vs1 vs2 ty s := rfl
@[simp] theorem exec_vsra (c : Nat) (vd vs1 vs2 : Reg) (ty : BitVec 4) : exec (.vsra c vd vs1 vs2 ty) s = execVsra c vd vs1 vs2 ty s := rfl
@[simp] theorem exec_vseq (c : Nat) (vd vs1 vs2 : Reg) (ty : BitVec 4) : exec (.vseq c vd vs1 vs2 ty) s = execVseq c vd vs1 vs2 ty s := rfl
@[simp] theorem exec_vslt (c : Nat) (vd vs1 vs2 : Reg) (ty : BitVec 4) : exec (.vslt c vd vs1 vs2 ty) s = execVslt c vd vs1 vs2 ty s := rfl
@[simp] theorem exec_vsltu (c : Nat) (vd vs1 vs2 : Reg) (ty : BitVec 4) : exec (.vsltu c vd vs1 vs2 ty) s = execVsltu c vd vs1 vs2 ty s := rfl
@[simp] theorem exec_vmac (c : Nat) (vd vs1 vs2 : Reg) (ty : BitVec 4) : exec (.vmac c vd vs1 vs2 ty) s = execVmac c vd vs1 vs2 ty s := rfl
@[simp] theorem exec_vfadd (c : Nat) (vd vs1 vs2 : Reg) (ty : BitVec 4) : exec (.vfadd c vd vs1 vs2 ty) s = execVfadd c vd vs1 vs2 ty s := rfl
@[simp] theorem exec_vfsub (c : Nat) (vd vs1 vs2 : Reg) (ty : BitVec 4) : exec (.vfsub c vd vs1 vs2 ty) s = execVfsub c vd vs1 vs2 ty s := rfl
@[simp] theorem exec_vfmul (c : Nat) (vd vs1 vs2 : Reg) (ty : BitVec 4) : exec (.vfmul c vd vs1 vs2 ty) s = execVfmul c vd vs1 vs2 ty s := rfl
@[simp] theorem exec_vfma (c : Nat) (vd vs1 vs2 : Reg) (ty : BitVec 4) : exec (.vfma c vd vs1 vs2 ty) s = execVfma c vd vs1 vs2 ty s := rfl
@[simp] theorem exec_vfnma (c : Nat) (vd vs1 vs2 : Reg) (ty : BitVec 4) : exec (.vfnma c vd vs1 vs2 ty) s = execVfnma c vd vs1 vs2 ty s := rfl
@[simp] theorem exec_vfmin (c : Nat) (vd vs1 vs2 : Reg) (ty : BitVec 4) : exec (.vfmin c vd vs1 vs2 ty) s = execVfmin c vd vs1 vs2 ty s := rfl
@[simp] theorem exec_vfmax (c : Nat) (vd vs1 vs2 : Reg) (ty : BitVec 4) : exec (.vfmax c vd vs1 vs2 ty) s = execVfmax c vd vs1 vs2 ty s := rfl
@[simp] theorem exec_vfabs (c : Nat) (vd vs1 vs2 : Reg) (ty : BitVec 4) : exec (.vfabs c vd vs1 vs2 ty) s = execVfabs c vd vs1 vs2 ty s := rfl
@[simp] theorem exec_vfneg (c : Nat) (vd vs1 vs2 : Reg) (ty : BitVec 4) : exec (.vfneg c vd vs1 vs2 ty) s = execVfneg c vd vs1 vs2 ty s := rfl
@[simp] theorem exec_vfeq (c : Nat) (vd vs1 vs2 : Reg) (ty : BitVec 4) : exec (.vfeq c vd vs1 vs2 ty) s = execVfeq c vd vs1 vs2 ty s := rfl
@[simp] theorem exec_vflt (c : Nat) (vd vs1 vs2 : Reg) (ty : BitVec 4) : exec (.vflt c vd vs1 vs2 ty) s = execVflt c vd vs1 vs2 ty s := rfl
@[simp] theorem exec_vfle (c : Nat) (vd vs1 vs2 : Reg) (ty : BitVec 4) : exec (.vfle c vd vs1 vs2 ty) s = execVfle c vd vs1 vs2 ty s := rfl
@[simp] theorem exec_vfrcpe (c : Nat) (vd vs1 vs2 : Reg) (ty : BitVec 4) : exec (.vfrcpe c vd vs1 vs2 ty) s = execVfrcpe c vd vs1 vs2 ty s := rfl
@[simp] theorem exec_vfrsqe (c : Nat) (vd vs1 vs2 : Reg) (ty : BitVec 4) : exec (.vfrsqe c vd vs1 vs2 ty) s = execVfrsqe c vd vs1 vs2 ty s := rfl
@[simp] theorem exec_vfexp2e (c : Nat) (vd vs1 vs2 : Reg) (ty : BitVec 4) : exec (.vfexp2e c vd vs1 vs2 ty) s = execVfexp2e c vd vs1 vs2 ty s := rfl
@[simp] theorem exec_vwmul (c : Nat) (vd vs1 vs2 : Reg) (ty : BitVec 4) (h : Bool) : exec (.vwmul c vd vs1 vs2 ty h) s = execVwmul c vd vs1 vs2 ty h s := rfl
@[simp] theorem exec_vwmulu (c : Nat) (vd vs1 vs2 : Reg) (ty : BitVec 4) (h : Bool) : exec (.vwmulu c vd vs1 vs2 ty h) s = execVwmulu c vd vs1 vs2 ty h s := rfl
@[simp] theorem exec_vwmac (c : Nat) (vd vs1 vs2 : Reg) (ty : BitVec 4) (h : Bool) : exec (.vwmac c vd vs1 vs2 ty h) s = execVwmac c vd vs1 vs2 ty h s := rfl
@[simp] theorem exec_vwmacu (c : Nat) (vd vs1 vs2 : Reg) (ty : BitVec 4) (h : Bool) : exec (.vwmacu c vd vs1 vs2 ty h) s = execVwmacu c vd vs1 vs2 ty h s := rfl
@[simp] theorem exec_vdot4 (c : Nat) (vd vs1 vs2 : Reg) (ty : BitVec 4) (h : Bool) : exec (.vdot4 c vd vs1 vs2 ty h) s = execVdot4 c vd vs1 vs2 ty h s := rfl
@[simp] theorem exec_vdot8 (c : Nat) (vd vs1 vs2 : Reg) (ty : BitVec 4) (h : Bool) : exec (.vdot8 c vd vs1 vs2 ty h) s = execVdot8 c vd vs1 vs2 ty h s := rfl
@[simp] theorem exec_vdot2 (c : Nat) (vd vs1 vs2 : Reg) (ty : BitVec 4) (h : Bool) : exec (.vdot2 c vd vs1 vs2 ty h) s = execVdot2 c vd vs1 vs2 ty h s := rfl
@[simp] theorem exec_vcvt (c : Nat) (vd vs1 : Reg) (tgt : BitVec 4) (ovf : Bool) (ty : BitVec 4) (h : Bool) (part : BitVec 3) : exec (.vcvt c vd vs1 tgt ovf ty h part) s = execVcvt c vd vs1 tgt ovf ty h part s := rfl
@[simp] theorem exec_vpk4 (c : Nat) (vd vs1 vs2 : Reg) (ty : BitVec 4) (h : Bool) : exec (.vpk4 c vd vs1 vs2 ty h) s = execVpk4 c vd vs1 vs2 ty h s := rfl
@[simp] theorem exec_vunpk4 (c : Nat) (vd vs1 vs2 : Reg) (ty : BitVec 4) (h : Bool) : exec (.vunpk4 c vd vs1 vs2 ty h) s = execVunpk4 c vd vs1 vs2 ty h s := rfl
@[simp] theorem exec_vslideD (c : Nat) (vd vs1 vs2 : Reg) (ty : BitVec 4) (h : Bool) : exec (.vslideD c vd vs1 vs2 ty h) s = execVslideD c vd vs1 vs2 ty h s := rfl
@[simp] theorem exec_vslideU (c : Nat) (vd vs1 vs2 : Reg) (ty : BitVec 4) (h : Bool) : exec (.vslideU c vd vs1 vs2 ty h) s = execVslideU c vd vs1 vs2 ty h s := rfl
@[simp] theorem exec_vperm (c : Nat) (vd vs1 vs2 : Reg) (ty : BitVec 4) (h : Bool) : exec (.vperm c vd vs1 vs2 ty h) s = execVperm c vd vs1 vs2 ty h s := rfl
@[simp] theorem exec_vany (c : Nat) (vd vs1 vs2 : Reg) (ty : BitVec 4) (h : Bool) : exec (.vany c vd vs1 vs2 ty h) s = execVany c vd vs1 vs2 ty h s := rfl
@[simp] theorem exec_vall (c : Nat) (vd vs1 vs2 : Reg) (ty : BitVec 4) (h : Bool) : exec (.vall c vd vs1 vs2 ty h) s = execVall c vd vs1 vs2 ty h s := rfl
@[simp] theorem exec_vmaxs (c : Nat) (vd vs1 vs2 : Reg) (ty : BitVec 4) (h : Bool) : exec (.vmaxs c vd vs1 vs2 ty h) s = execVmaxs c vd vs1 vs2 ty h s := rfl
@[simp] theorem exec_vmaxi (c : Nat) (vd vs1 vs2 : Reg) (ty : BitVec 4) (h : Bool) : exec (.vmaxi c vd vs1 vs2 ty h) s = execVmaxi c vd vs1 vs2 ty h s := rfl
@[simp] theorem exec_vsums (c : Nat) (vd vs1 vs2 : Reg) (ty : BitVec 4) (h : Bool) : exec (.vsums c vd vs1 vs2 ty h) s = execVsums c vd vs1 vs2 ty h s := rfl
@[simp] theorem exec_vld (c : Nat) (v rs1 f2 : Reg) (set : BitVec 3) (ew : BitVec 2) : exec (.vld c v rs1 f2 set ew) s = execVld c v rs1 f2 set ew s := rfl
@[simp] theorem exec_vlds (c : Nat) (v rs1 f2 : Reg) (set : BitVec 3) (ew : BitVec 2) : exec (.vlds c v rs1 f2 set ew) s = execVlds c v rs1 f2 set ew s := rfl
@[simp] theorem exec_vldC (c : Nat) (v rs1 f2 : Reg) (set : BitVec 3) (ew : BitVec 2) : exec (.vldC c v rs1 f2 set ew) s = execVldC c v rs1 f2 set ew s := rfl
@[simp] theorem exec_vgather (c : Nat) (v rs1 f2 : Reg) (set : BitVec 3) (ew : BitVec 2) : exec (.vgather c v rs1 f2 set ew) s = execVgather c v rs1 f2 set ew s := rfl
@[simp] theorem exec_vst (c : Nat) (v rs1 f2 : Reg) (set : BitVec 3) (ew : BitVec 2) : exec (.vst c v rs1 f2 set ew) s = execVst c v rs1 f2 set ew s := rfl
@[simp] theorem exec_vsts (c : Nat) (v rs1 f2 : Reg) (set : BitVec 3) (ew : BitVec 2) : exec (.vsts c v rs1 f2 set ew) s = execVsts c v rs1 f2 set ew s := rfl
@[simp] theorem exec_vstC (c : Nat) (v rs1 f2 : Reg) (set : BitVec 3) (ew : BitVec 2) : exec (.vstC c v rs1 f2 set ew) s = execVstC c v rs1 f2 set ew s := rfl
@[simp] theorem exec_vscatter (c : Nat) (v rs1 f2 : Reg) (set : BitVec 3) (ew : BitVec 2) : exec (.vscatter c v rs1 f2 set ew) s = execVscatter c v rs1 f2 set ew s := rfl
@[simp] theorem exec_localVloadUe (e : ReadErr) : exec (.localVloadUe e) s = execLocalVloadUe e s := rfl
@[simp] theorem exec_vfld (c : Nat) (v rs1 rs2 : Reg) (cc : BitVec 4) (ew : BitVec 2) (mode : Bool) : exec (.vfld c v rs1 rs2 cc ew mode) s = execVfld c v rs1 rs2 cc ew mode s := rfl
@[simp] theorem exec_vfst (c : Nat) (v rs1 rs2 : Reg) (cc : BitVec 4) (ew : BitVec 2) (mode : Bool) : exec (.vfst c v rs1 rs2 cc ew mode) s = execVfst c v rs1 rs2 cc ew mode s := rfl
@[simp] theorem exec_tcfg (c : Nat) (t : BitVec 4) (fmt : BitVec 4) (colsm1 : BitVec 11) (rowsm1 : BitVec 7) : exec (.tcfg c t fmt colsm1 rowsm1) s = execTcfg c t fmt colsm1 rowsm1 s := rfl
@[simp] theorem exec_tmov (c : Nat) (dst src : BitVec 4) (cvt ovf : Bool) (cc : BitVec 4) : exec (.tmov c dst src cvt ovf cc) s = execTmov c dst src cvt ovf cc s := rfl
@[simp] theorem exec_tzero (c : Nat) (dst : BitVec 4) (cc : BitVec 4) : exec (.tzero c dst cc) s = execTzero c dst cc s := rfl
@[simp] theorem exec_tget (c : Nat) (v : Reg) (t : BitVec 4) (rs : Reg) (imm : BitVec 6) : exec (.tget c v t rs imm) s = execTget c v t rs imm s := rfl
@[simp] theorem exec_tput (c : Nat) (v : Reg) (t : BitVec 4) (rs : Reg) (imm : BitVec 6) : exec (.tput c v t rs imm) s = execTput c v t rs imm s := rfl
@[simp] theorem exec_tgetUe (e : ReadErr) : exec (.tgetUe e) s = execTgetUe e s := rfl
@[simp] theorem exec_tld (c : Nat) (x : TileXfer) : exec (.tld c x) s = execTld c x s := rfl
@[simp] theorem exec_tst (c : Nat) (x : TileXfer) : exec (.tst c x) s = execTst c x s := rfl
@[simp] theorem exec_tileMoverComplete (id : Nat) (err : WordErr) : exec (.tileMoverComplete id err) s = execTileMoverComplete id err s := rfl
@[simp] theorem exec_apass (c : Nat) (x : PassOp) : exec (.apass c x) s = execApass c x s := rfl
@[simp] theorem exec_passStart (c : Nat) : exec (.passStart c) s = execPassStart c s := rfl
@[simp] theorem exec_passCommit (c : Nat) : exec (.passCommit c) s = execPassCommit c s := rfl
@[simp] theorem exec_parityMismatch (c : Nat) (idx : Nat) (row : BitVec 7) : exec (.parityMismatch c idx row) s = execParityMismatch c idx row s := rfl
@[simp] theorem exec_passAbandon (c : Nat) (idx : Nat) (addr : Word) : exec (.passAbandon c idx addr) s = execPassAbandon c idx addr s := rfl
@[simp] theorem exec_aquiet (c : Nat) (rs1 : Reg) : exec (.aquiet c rs1) s = execAquiet c rs1 s := rfl
@[simp] theorem exec_aelem (c : Nat) (dst srca srcb : BitVec 4) (op : BitVec 2) (brow : Bool) (cc : BitVec 4) : exec (.aelem c dst srca srcb op brow cc) s = execAelem c dst srca srcb op brow cc s := rfl
@[simp] theorem exec_adist (c : Nat) (x : DistOp) : exec (.adist c x) s = execAdist c x s := rfl
@[simp] theorem exec_tpass (c : Nat) (x : TrapOp) : exec (.tpass c x) s = execTpass c x s := rfl
@[simp] theorem exec_sliceEmission (c : Nat) (parity : Bool) : exec (.sliceEmission c parity) s = execSliceEmission c parity s := rfl
@[simp] theorem exec_updt (c : Nat) (vt : BitVec 4) (ns nh mask : Bool) (d : DescReg) (cc : BitVec 4) : exec (.updt c vt ns nh mask d cc) s = execUpdt c vt ns nh mask d cc s := rfl
@[simp] theorem exec_updateItemEnd (c : Nat) (ue : Option (Nat × Nat × Nat)) : exec (.updateItemEnd c ue) s = execUpdateItemEnd c ue s := rfl
@[simp] theorem exec_sopen (c : Nat) (slot : BitVec 4) (d : DescReg) (cc : BitVec 4) : exec (.sopen c slot d cc) s = execSopen c slot d cc s := rfl
@[simp] theorem exec_sjoin (c : Nat) (slot : BitVec 4) (cc : BitVec 4) : exec (.sjoin c slot cc) s = execSjoin c slot cc s := rfl
@[simp] theorem exec_sacq (c : Nat) (slot : BitVec 4) (rd rs1 : Reg) (l : Bool) : exec (.sacq c slot rd rs1 l) s = execSacq c slot rd rs1 l s := rfl
@[simp] theorem exec_srel (c : Nat) (slot : BitVec 4) : exec (.srel c slot) s = execSrel c slot s := rfl
@[simp] theorem exec_streamCancel (c : Nat) (slot : BitVec 4) : exec (.streamCancel c slot) s = execStreamCancel c slot s := rfl
@[simp] theorem exec_mcastDrop (c : Nat) (slot : BitVec 4) (rs : Reg) : exec (.mcastDrop c slot rs) s = execMcastDrop c slot rs s := rfl
@[simp] theorem exec_streamRequest (c : Nat) : exec (.streamRequest c) s = execStreamRequest c s := rfl
@[simp] theorem exec_pieceResponse (c : Nat) (slot : BitVec 4) (piece : PieceOp) : exec (.pieceResponse c slot piece) s = execPieceResponse c slot piece s := rfl
@[simp] theorem exec_pieceFail (c : Nat) (slot : BitVec 4) (piece : Nat) : exec (.pieceFail c slot piece) s = execPieceFail c slot piece s := rfl
@[simp] theorem exec_streamEnd (c : Nat) (slot : BitVec 4) : exec (.streamEnd c slot) s = execStreamEnd c slot s := rfl
@[simp] theorem exec_multicastBind (c : Nat) (slot : BitVec 4) (j : BitVec 3) : exec (.multicastBind c slot j) s = execMulticastBind c slot j s := rfl
@[simp] theorem exec_semAdd (c : Nat) (rd rs1 rs2 : Reg) (f : BitVec 5) : exec (.semAdd c rd rs1 rs2 f) s = execSemAdd c rd rs1 rs2 f s := rfl
@[simp] theorem exec_semAddRel (c : Nat) (rd rs1 rs2 : Reg) (f : BitVec 5) : exec (.semAddRel c rd rs1 rs2 f) s = execSemAddRel c rd rs1 rs2 f s := rfl
@[simp] theorem exec_semTake (c : Nat) (rd rs1 rs2 : Reg) (f : BitVec 5) (l test : Bool) : exec (.semTake c rd rs1 rs2 f l test) s = execSemTake c rd rs1 rs2 f l test s := rfl
@[simp] theorem exec_semOpAtHome (id : Nat) (err : HomeErrs) : exec (.semOpAtHome id err) s = execSemOpAtHome id err s := rfl
@[simp] theorem exec_sig (c : Nat) (rs1 rs2 : Reg) (f : BitVec 5) : exec (.sig c rs1 rs2 f) s = execSig c rs1 rs2 f s := rfl
@[simp] theorem exec_sigRel (c : Nat) (rs1 rs2 : Reg) (f : BitVec 5) : exec (.sigRel c rs1 rs2 f) s = execSigRel c rs1 rs2 f s := rfl
@[simp] theorem exec_signalQueued (id : Nat) : exec (.signalQueued id) s = execSignalQueued id s := rfl
@[simp] theorem exec_sigw (c : Nat) (rd rs2 : Reg) (l test : Bool) : exec (.sigw c rd rs2 l test) s = execSigw c rd rs2 l test s := rfl
@[simp] theorem exec_releaseTakesEffect (id : Nat) : exec (.releaseTakesEffect id) s = execReleaseTakesEffect id s := rfl
@[simp] theorem exec_barArr (c : Nat) (ch : BitVec 5) : exec (.barArr c ch) s = execBarArr c ch s := rfl
@[simp] theorem exec_barWait (c : Nat) (rd rs2 : Reg) (ch : BitVec 5) (l test : Bool) : exec (.barWait c rd rs2 ch l test) s = execBarWait c rd rs2 ch l test s := rfl
@[simp] theorem exec_bar (c : Nat) (rd rs2 : Reg) (ch : BitVec 5) (l : Bool) : exec (.bar c rd rs2 ch l) s = execBar c rd rs2 ch l s := rfl
@[simp] theorem exec_barrierComplete (ch : BitVec 5) : exec (.barrierComplete ch) s = execBarrierComplete ch s := rfl
@[simp] theorem exec_barmaskWrite (c : Nat) (op : CsrOp) (rs1 : Reg) : exec (.barmaskWrite c op rs1) s = execBarmaskWrite c op rs1 s := rfl
@[simp] theorem exec_longWaitLower (c : Nat) : exec (.longWaitLower c) s = execLongWaitLower c s := rfl
@[simp] theorem exec_coreResume (c : Nat) : exec (.coreResume c) s = execCoreResume c s := rfl
@[simp] theorem exec_ringStop (c : Nat) : exec (.ringStop c) s = execRingStop c s := rfl
@[simp] theorem exec_ringStart (c : Nat) : exec (.ringStart c) s = execRingStart c s := rfl
@[simp] theorem exec_alloc (c : Nat) : exec (.alloc c) s = execAlloc c s := rfl
@[simp] theorem exec_free (c : Nat) : exec (.free c) s = execFree c s := rfl
@[simp] theorem exec_hint (c : Nat) : exec (.hint c) s = execHint c s := rfl
@[simp] theorem exec_group (c : Nat) : exec (.group c) s = execGroup c s := rfl
@[simp] theorem exec_ungroup (c : Nat) : exec (.ungroup c) s = execUngroup c s := rfl
@[simp] theorem exec_share (c : Nat) : exec (.share c) s = execShare c s := rfl
@[simp] theorem exec_attach (c : Nat) : exec (.attach c) s = execAttach c s := rfl
@[simp] theorem exec_detach (c : Nat) : exec (.detach c) s = execDetach c s := rfl
@[simp] theorem exec_placeQuery (c : Nat) (rd rs1 : Reg) (cc : BitVec 4) (op : BitVec 4) : exec (.placeQuery c rd rs1 cc op) s = execPlaceQuery c rd rs1 cc op s := rfl
@[simp] theorem exec_pageMigration (part : Nat) (vpage : Nat) (faster : Bool) : exec (.pageMigration part vpage faster) s = execPageMigration part vpage faster s := rfl
@[simp] theorem exec_migrationSwitch (part : Nat) (page : PageCopy) : exec (.migrationSwitch part page) s = execMigrationSwitch part page s := rfl
@[simp] theorem exec_portTrainingDone (p : Nat) (r : PortTest) : exec (.portTrainingDone p r) s = execPortTrainingDone p r s := rfl
@[simp] theorem exec_portDown (p : Nat) (cause : BitVec 2) : exec (.portDown p cause) s = execPortDown p cause s := rfl
@[simp] theorem exec_portRetrain (p : Nat) : exec (.portRetrain p) s = execPortRetrain p s := rfl
@[simp] theorem exec_mgmtSetup (p : Nat) (m : SetupMsg) : exec (.mgmtSetup p m) s = execMgmtSetup p m s := rfl
@[simp] theorem exec_watchArm (c : Nat) (rd rs1 : Reg) (m : BitVec 6) (cc : BitVec 4) : exec (.watchArm c rd rs1 m cc) s = execWatchArm c rd rs1 m cc s := rfl
@[simp] theorem exec_watchDis (c : Nat) (m : BitVec 6) : exec (.watchDis c m) s = execWatchDis c m s := rfl
@[simp] theorem exec_watchWait (c : Nat) (rd rs1 : Reg) : exec (.watchWait c rd rs1) s = execWatchWait c rd rs1 s := rfl
@[simp] theorem exec_watchFire (c : Nat) (m : BitVec 6) (w : LineEvent) : exec (.watchFire c m w) s = execWatchFire c m w s := rfl
@[simp] theorem exec_taskRecord (ch : Nat) (r : TaskRec) : exec (.taskRecord ch r) s = execTaskRecord ch r s := rfl
@[simp] theorem exec_abortRecord (ch : Nat) (r : TaskRec) : exec (.abortRecord ch r) s = execAbortRecord ch r s := rfl
@[simp] theorem exec_nopRecord (ch : Nat) (r : TaskRec) : exec (.nopRecord ch r) s = execNopRecord ch r s := rfl
@[simp] theorem exec_partCreate (p : Nat) (h : MgmtHdr) (a : PartParams) : exec (.partCreate p h a) s = execPartCreate p h a s := rfl
@[simp] theorem exec_partChange (p : Nat) (h : MgmtHdr) (a : PartParams) : exec (.partChange p h a) s = execPartChange p h a s := rfl
@[simp] theorem exec_partRemove (p : Nat) (h : MgmtHdr) (part : BitVec 8) : exec (.partRemove p h part) s = execPartRemove p h part s := rfl
@[simp] theorem exec_chanOpen (p : Nat) (h : MgmtHdr) (a : ChanParams) : exec (.chanOpen p h a) s = execChanOpen p h a s := rfl
@[simp] theorem exec_chanClose (p : Nat) (h : MgmtHdr) (ch : BitVec 16) : exec (.chanClose p h ch) s = execChanClose p h ch s := rfl
@[simp] theorem exec_chanCredit (p : Nat) (h : MgmtHdr) (ch : BitVec 16) (credMin credMax : BitVec 32) : exec (.chanCredit p h ch credMin credMax) s = execChanCredit p h ch credMin credMax s := rfl
@[simp] theorem exec_hostReg (p : Nat) (h : MgmtHdr) (part rights : BitVec 8) (haddr length vaddr : Word) : exec (.hostReg p h part rights haddr length vaddr) s = execHostReg p h part rights haddr length vaddr s := rfl
@[simp] theorem exec_hostUnreg (p : Nat) (h : MgmtHdr) (part : BitVec 8) (vaddr : Word) : exec (.hostUnreg p h part vaddr) s = execHostUnreg p h part vaddr s := rfl
@[simp] theorem exec_place (p : Nat) (h : MgmtHdr) (part : BitVec 8) (r : PlaceRec) : exec (.place p h part r) s = execPlace p h part r s := rfl
@[simp] theorem exec_disable (p : Nat) (h : MgmtHdr) (kind : BitVec 8) (index : BitVec 16) (timeout : Word) : exec (.disable p h kind index timeout) s = execDisable p h kind index timeout s := rfl
@[simp] theorem exec_enable (p : Nat) (h : MgmtHdr) (kind : BitVec 8) (index : BitVec 16) : exec (.enable p h kind index) s = execEnable p h kind index s := rfl
@[simp] theorem exec_logRead (p : Nat) (h : MgmtHdr) (addr length : Word) : exec (.logRead p h addr length) s = execLogRead p h addr length s := rfl
@[simp] theorem exec_journalEntryDurable (j : Nat) : exec (.journalEntryDurable j) s = execJournalEntryDurable j s := rfl
@[simp] theorem exec_taskStart (seq : Nat) : exec (.taskStart seq) s = execTaskStart seq s := rfl
@[simp] theorem exec_taskEnd (c : Nat) : exec (.taskEnd c) s = execTaskEnd c s := rfl
@[simp] theorem exec_taskFail (c : Nat) : exec (.taskFail c) s = execTaskFail c s := rfl
@[simp] theorem exec_commitAppend (seq : Nat) : exec (.commitAppend seq) s = execCommitAppend seq s := rfl
@[simp] theorem exec_disableTimeout (d : Nat) : exec (.disableTimeout d) s = execDisableTimeout d s := rfl
@[simp] theorem exec_netCreate (c : Nat) : exec (.netCreate c) s = execNetCreate c s := rfl
@[simp] theorem exec_netAttach (c : Nat) : exec (.netAttach c) s = execNetAttach c s := rfl
@[simp] theorem exec_netStep (c : Nat) : exec (.netStep c) s = execNetStep c s := rfl
@[simp] theorem exec_netQuery (c : Nat) : exec (.netQuery c) s = execNetQuery c s := rfl
@[simp] theorem exec_netDrop (c : Nat) : exec (.netDrop c) s = execNetDrop c s := rfl
@[simp] theorem exec_netRendezvousTimeout (net : Nat) : exec (.netRendezvousTimeout net) s = execNetRendezvousTimeout net s := rfl
@[simp] theorem exec_chunkReadDone (net chunk : Nat) : exec (.chunkReadDone net chunk) s = execChunkReadDone net chunk s := rfl
@[simp] theorem exec_generationComplete (net : Nat) : exec (.generationComplete net) s = execGenerationComplete net s := rfl
@[simp] theorem exec_netRestore (net : Nat) (bad : List (Nat × Nat × Nat)) : exec (.netRestore net bad) s = execNetRestore net bad s := rfl
@[simp] theorem exec_coreHardFault (c : Nat) : exec (.coreHardFault c) s = execCoreHardFault c s := rfl
@[simp] theorem exec_plannedRetirement (c : Nat) : exec (.plannedRetirement c) s = execPlannedRetirement c s := rfl
@[simp] theorem exec_stackLoss (n : Nat) : exec (.stackLoss n) s = execStackLoss n s := rfl
@[simp] theorem exec_reReplication (net slot chunk : Nat) (stack : Nat) : exec (.reReplication net slot chunk stack) s = execReReplication net slot chunk stack s := rfl
@[simp] theorem exec_linkDown (l : LinkId) : exec (.linkDown l) s = execLinkDown l s := rfl
@[simp] theorem exec_laneSteered (l : LinkId) (lane : Nat) : exec (.laneSteered l lane) s = execLaneSteered l lane s := rfl
@[simp] theorem exec_hubHeartbeat (hub : Nat) : exec (.hubHeartbeat hub) s = execHubHeartbeat hub s := rfl
@[simp] theorem exec_hubTakeover (hub : Nat) : exec (.hubTakeover hub) s = execHubTakeover hub s := rfl
@[simp] theorem exec_stackLineRead (n : Nat) (sram : Bool) (line : Nat) (err : List (Nat × Byte)) (id : Option Nat) : exec (.stackLineRead n sram line err id) s = execStackLineRead n sram line err id s := rfl
@[simp] theorem exec_stackLineWrite (n : Nat) (sram : Bool) (line : Nat) (err : List (Nat × Byte)) (src : LineSrc) : exec (.stackLineWrite n sram line err src) s = execStackLineWrite n sram line err src s := rfl
@[simp] theorem exec_refreshDue (n die ch bank : Nat) : exec (.refreshDue n die ch bank) s = execRefreshDue n die ch bank s := rfl
@[simp] theorem exec_refreshRateChange (n die : Nat) (temp : Nat) : exec (.refreshRateChange n die temp) s = execRefreshRateChange n die temp s := rfl
@[simp] theorem exec_scrubRead (n : Nat) (sram : Bool) (bank : Nat) (err : List (Nat × Byte)) : exec (.scrubRead n sram bank err) s = execScrubRead n sram bank err s := rfl
@[simp] theorem exec_correctingWriteback (n : Nat) (sram : Bool) (line : LineRead) : exec (.correctingWriteback n sram line) s = execCorrectingWriteback n sram line s := rfl
@[simp] theorem exec_rowCopyForce (n : Nat) : exec (.rowCopyForce n) s = execRowCopyForce n s := rfl
@[simp] theorem exec_rowSwitch (n : Nat) (errs : List (Nat × WordErr)) : exec (.rowSwitch n errs) s = execRowSwitch n errs s := rfl
@[simp] theorem exec_coreStoreScrub (c : Nat) (err : List (Nat × Byte)) : exec (.coreStoreScrub c err) s = execCoreStoreScrub c err s := rfl
@[simp] theorem exec_scrubBurst (b : BurstOp) : exec (.scrubBurst b) s = execScrubBurst b s := rfl
@[simp] theorem exec_stackCalibration (n ch : Nat) (forced : Bool) : exec (.stackCalibration n ch forced) s = execStackCalibration n ch forced s := rfl
@[simp] theorem exec_canaryMeasurement (d : Nat) (slacks : List Nat) (tapOk : Bool) : exec (.canaryMeasurement d slacks tapOk) s = execCanaryMeasurement d slacks tapOk s := rfl
@[simp] theorem exec_calibrationBorrow (c : Nat) : exec (.calibrationBorrow c) s = execCalibrationBorrow c s := rfl
@[simp] theorem exec_calibForce (c : Nat) : exec (.calibForce c) s = execCalibForce c s := rfl
@[simp] theorem exec_calibPendingTimeout (c : Nat) : exec (.calibPendingTimeout c) s = execCalibPendingTimeout c s := rfl
@[simp] theorem exec_peRowTest (c : Nat) (row : BitVec 7) (pass : Bool) : exec (.peRowTest c row pass) s = execPeRowTest c row pass s := rfl
@[simp] theorem exec_repairHintWrite : exec .repairHintWrite s = execRepairHintWrite s := rfl
@[simp] theorem exec_powerPlan (noncore : Nat) (avg peak : Nat) : exec (.powerPlan noncore avg peak) s = execPowerPlan noncore avg peak s := rfl
@[simp] theorem exec_boostGrantLapse (c : Nat) : exec (.boostGrantLapse c) s = execBoostGrantLapse c s := rfl
@[simp] theorem exec_throttle (r : ThrottleSense) : exec (.throttle r) s = execThrottle r s := rfl
@[simp] theorem exec_throttleRelease (r : ThrottleSense) : exec (.throttleRelease r) s = execThrottleRelease r s := rfl
@[simp] theorem exec_plimitWrite (hub : Nat) (v : Word) : exec (.plimitWrite hub v) s = execPlimitWrite hub v s := rfl
@[simp] theorem exec_tcmpWrite (c : Nat) (op : CsrOp) (rs1 : Reg) : exec (.tcmpWrite c op rs1) s = execTcmpWrite c op rs1 s := rfl
@[simp] theorem exec_timerCompareFire (c : Nat) : exec (.timerCompareFire c) s = execTimerCompareFire c s := rfl
@[simp] theorem exec_telemetrySample (temps : List Nat) (lost : List Nat) : exec (.telemetrySample temps lost) s = execTelemetrySample temps lost s := rfl
@[simp] theorem exec_telemetryReadTimeout (c : Nat) : exec (.telemetryReadTimeout c) s = execTelemetryReadTimeout c s := rfl
@[simp] theorem exec_pwrgoodRise : exec .pwrgoodRise s = execPwrgoodRise s := rfl
@[simp] theorem exec_resetRelease (b0 b1 : BootInput) : exec (.resetRelease b0 b1) s = execResetRelease b0 b1 s := rfl
@[simp] theorem exec_resetAssert : exec .resetAssert s = execResetAssert s := rfl
@[simp] theorem exec_selfTestAndRepair (r : SelfTest) : exec (.selfTestAndRepair r) s = execSelfTestAndRepair r s := rfl
@[simp] theorem exec_hubElectionTimeout : exec .hubElectionTimeout s = execHubElectionTimeout s := rfl
@[simp] theorem exec_bootStackTraining (failed : List Nat) : exec (.bootStackTraining failed) s = execBootStackTraining failed s := rfl
@[simp] theorem exec_bootPortTraining (r : LaneTest) : exec (.bootPortTraining r) s = execBootPortTraining r s := rfl
@[simp] theorem exec_getVersion (e : Endpoint) (r : SpdmReq) : exec (.getVersion e r) s = execGetVersion e r s := rfl
@[simp] theorem exec_getCapabilities (e : Endpoint) (r : SpdmReq) : exec (.getCapabilities e r) s = execGetCapabilities e r s := rfl
@[simp] theorem exec_negotiateAlgorithms (e : Endpoint) (r : SpdmReq) : exec (.negotiateAlgorithms e r) s = execNegotiateAlgorithms e r s := rfl
@[simp] theorem exec_getDigests (e : Endpoint) (r : SpdmReq) : exec (.getDigests e r) s = execGetDigests e r s := rfl
@[simp] theorem exec_getCertificate (e : Endpoint) (r : SpdmReq) : exec (.getCertificate e r) s = execGetCertificate e r s := rfl
@[simp] theorem exec_challenge (e : Endpoint) (r : SpdmReq) : exec (.challenge e r) s = execChallenge e r s := rfl
@[simp] theorem exec_getMeasurements (e : Endpoint) (r : SpdmReq) : exec (.getMeasurements e r) s = execGetMeasurements e r s := rfl
@[simp] theorem exec_spdmUnsupportedRequest (e : Endpoint) (r : SpdmReq) : exec (.spdmUnsupportedRequest e r) s = execSpdmUnsupportedRequest e r s := rfl
@[simp] theorem exec_setEndpointId (e : Endpoint) (eid : BitVec 8) : exec (.setEndpointId e eid) s = execSetEndpointId e eid s := rfl
@[simp] theorem exec_getEndpointId (e : Endpoint) : exec (.getEndpointId e) s = execGetEndpointId e s := rfl
@[simp] theorem exec_getMctpVersionSupport (e : Endpoint) : exec (.getMctpVersionSupport e) s = execGetMctpVersionSupport e s := rfl
@[simp] theorem exec_getMessageTypeSupport (e : Endpoint) : exec (.getMessageTypeSupport e) s = execGetMessageTypeSupport e s := rfl
@[simp] theorem exec_pwrgoodFall : exec .pwrgoodFall s = execPwrgoodFall s := rfl
@[simp] theorem exec_railOutOfRange (r : Rail) : exec (.railOutOfRange r) s = execRailOutOfRange r s := rfl
@[simp] theorem exec_railCheckTimeout (r : Rail) : exec (.railCheckTimeout r) s = execRailCheckTimeout r s := rfl
@[simp] theorem exec_refclkLoss (hub : Nat) : exec (.refclkLoss hub) s = execRefclkLoss hub s := rfl
@[simp] theorem exec_thermalTrip (d : DieTemp) : exec (.thermalTrip d) s = execThermalTrip d s := rfl
@[simp] theorem exec_bypass : exec .bypass s = execBypass s := rfl
@[simp] theorem exec_samplePreload : exec .samplePreload s = execSamplePreload s := rfl
@[simp] theorem exec_extest : exec .extest s = execExtest s := rfl
@[simp] theorem exec_highz : exec .highz s = execHighz s := rfl
@[simp] theorem exec_clamp : exec .clamp s = execClamp s := rfl
@[simp] theorem exec_voltageMoveEnd (m : MoveUnit) : exec (.voltageMoveEnd m) s = execVoltageMoveEnd m s := rfl
@[simp] theorem exec_farAccessAtSlice (id : Nat) (err : HomeErrs) : exec (.farAccessAtSlice id err) s = execFarAccessAtSlice id err s := rfl

end Sys2Proof.Machine
end

