-- ==== Sys2Proof/Laws/State.lean ====
section
/-! SUPPORT. What each update of the state and of a core leaves as it was, one field at a time. -/

namespace Sys2Proof.Machine

variable (s : State) (k : Core)

/-! ### Updates of the state -/

@[simp] theorem State.upd_time (c : Nat) (f : Core → Core) : (s.upd c f).time = s.time := rfl
@[simp] theorem State.upd_mem (c : Nat) (f : Core → Core) : (s.upd c f).mem = s.mem := rfl
@[simp] theorem State.upd_poison (c : Nat) (f : Core → Core) : (s.upd c f).poison = s.poison := rfl
@[simp] theorem State.upd_works (c : Nat) (f : Core → Core) : (s.upd c f).works = s.works := rfl
@[simp] theorem State.upd_takes (c : Nat) (f : Core → Core) : (s.upd c f).takes = s.takes := rfl
@[simp] theorem State.upd_nextId (c : Nat) (f : Core → Core) : (s.upd c f).nextId = s.nextId := rfl
@[simp] theorem State.upd_gens (c : Nat) (f : Core → Core) : (s.upd c f).gens = s.gens := rfl
@[simp] theorem State.upd_armed (c : Nat) (f : Core → Core) : (s.upd c f).armed = s.armed := rfl
@[simp] theorem State.upd_place (c : Nat) (f : Core → Core) : (s.upd c f).place = s.place := rfl
@[simp] theorem State.upd_host (c : Nat) (f : Core → Core) : (s.upd c f).host = s.host := rfl
@[simp] theorem State.upd_nets (c : Nat) (f : Core → Core) : (s.upd c f).nets = s.nets := rfl
@[simp] theorem State.upd_pkg (c : Nat) (f : Core → Core) : (s.upd c f).pkg = s.pkg := rfl
@[simp] theorem State.upd_log (c : Nat) (f : Core → Core) : (s.upd c f).log = s.log := rfl
@[simp] theorem State.upd_fresh (c : Nat) (f : Core → Core) : (s.upd c f).fresh = s.fresh := rfl
@[simp] theorem State.upd_pending (c : Nat) (f : Core → Core) : (s.upd c f).pending = s.pending := rfl

@[simp] theorem State.setCore_time (c : Nat) (k : Core) : (s.setCore c k).time = s.time := rfl
@[simp] theorem State.setCore_mem (c : Nat) (k : Core) : (s.setCore c k).mem = s.mem := rfl
@[simp] theorem State.setCore_poison (c : Nat) (k : Core) : (s.setCore c k).poison = s.poison := rfl
@[simp] theorem State.setCore_works (c : Nat) (k : Core) : (s.setCore c k).works = s.works := rfl
@[simp] theorem State.setCore_takes (c : Nat) (k : Core) : (s.setCore c k).takes = s.takes := rfl
@[simp] theorem State.setCore_nextId (c : Nat) (k : Core) : (s.setCore c k).nextId = s.nextId := rfl
@[simp] theorem State.setCore_gens (c : Nat) (k : Core) : (s.setCore c k).gens = s.gens := rfl
@[simp] theorem State.setCore_armed (c : Nat) (k : Core) : (s.setCore c k).armed = s.armed := rfl
@[simp] theorem State.setCore_place (c : Nat) (k : Core) : (s.setCore c k).place = s.place := rfl
@[simp] theorem State.setCore_host (c : Nat) (k : Core) : (s.setCore c k).host = s.host := rfl
@[simp] theorem State.setCore_nets (c : Nat) (k : Core) : (s.setCore c k).nets = s.nets := rfl
@[simp] theorem State.setCore_pkg (c : Nat) (k : Core) : (s.setCore c k).pkg = s.pkg := rfl
@[simp] theorem State.setCore_log (c : Nat) (k : Core) : (s.setCore c k).log = s.log := rfl
@[simp] theorem State.setCore_fresh (c : Nat) (k : Core) : (s.setCore c k).fresh = s.fresh := rfl
@[simp] theorem State.setCore_pending (c : Nat) (k : Core) : (s.setCore c k).pending = s.pending := rfl

@[simp] theorem State.draw_cores : (s.draw).cores = s.cores := rfl
@[simp] theorem State.draw_time : (s.draw).time = s.time := rfl
@[simp] theorem State.draw_mem : (s.draw).mem = s.mem := rfl
@[simp] theorem State.draw_poison : (s.draw).poison = s.poison := rfl
@[simp] theorem State.draw_works : (s.draw).works = s.works := rfl
@[simp] theorem State.draw_takes : (s.draw).takes = s.takes := rfl
@[simp] theorem State.draw_nextId : (s.draw).nextId = s.nextId := rfl
@[simp] theorem State.draw_gens : (s.draw).gens = s.gens := rfl
@[simp] theorem State.draw_armed : (s.draw).armed = s.armed := rfl
@[simp] theorem State.draw_place : (s.draw).place = s.place := rfl
@[simp] theorem State.draw_host : (s.draw).host = s.host := rfl
@[simp] theorem State.draw_nets : (s.draw).nets = s.nets := rfl
@[simp] theorem State.draw_pkg : (s.draw).pkg = s.pkg := rfl
@[simp] theorem State.draw_log : (s.draw).log = s.log := rfl
@[simp] theorem State.draw_pending : (s.draw).pending = s.pending := rfl

@[simp] theorem State.tickTo_cores (t : Nat) : (s.tickTo t).cores = s.cores := rfl
@[simp] theorem State.tickTo_mem (t : Nat) : (s.tickTo t).mem = s.mem := rfl
@[simp] theorem State.tickTo_poison (t : Nat) : (s.tickTo t).poison = s.poison := rfl
@[simp] theorem State.tickTo_works (t : Nat) : (s.tickTo t).works = s.works := rfl
@[simp] theorem State.tickTo_takes (t : Nat) : (s.tickTo t).takes = s.takes := rfl
@[simp] theorem State.tickTo_nextId (t : Nat) : (s.tickTo t).nextId = s.nextId := rfl
@[simp] theorem State.tickTo_gens (t : Nat) : (s.tickTo t).gens = s.gens := rfl
@[simp] theorem State.tickTo_armed (t : Nat) : (s.tickTo t).armed = s.armed := rfl
@[simp] theorem State.tickTo_place (t : Nat) : (s.tickTo t).place = s.place := rfl
@[simp] theorem State.tickTo_host (t : Nat) : (s.tickTo t).host = s.host := rfl
@[simp] theorem State.tickTo_nets (t : Nat) : (s.tickTo t).nets = s.nets := rfl
@[simp] theorem State.tickTo_pkg (t : Nat) : (s.tickTo t).pkg = s.pkg := rfl
@[simp] theorem State.tickTo_log (t : Nat) : (s.tickTo t).log = s.log := rfl
@[simp] theorem State.tickTo_fresh (t : Nat) : (s.tickTo t).fresh = s.fresh := rfl
@[simp] theorem State.tickTo_pending (t : Nat) : (s.tickTo t).pending = s.pending := rfl

@[simp] theorem State.setTenant_cores (p : Nat) (hs : List Nat) : (s.setTenant p hs).cores = s.cores := rfl
@[simp] theorem State.setTenant_time (p : Nat) (hs : List Nat) : (s.setTenant p hs).time = s.time := rfl
@[simp] theorem State.setTenant_mem (p : Nat) (hs : List Nat) : (s.setTenant p hs).mem = s.mem := rfl
@[simp] theorem State.setTenant_poison (p : Nat) (hs : List Nat) : (s.setTenant p hs).poison = s.poison := rfl
@[simp] theorem State.setTenant_works (p : Nat) (hs : List Nat) : (s.setTenant p hs).works = s.works := rfl
@[simp] theorem State.setTenant_takes (p : Nat) (hs : List Nat) : (s.setTenant p hs).takes = s.takes := rfl
@[simp] theorem State.setTenant_nextId (p : Nat) (hs : List Nat) : (s.setTenant p hs).nextId = s.nextId := rfl
@[simp] theorem State.setTenant_gens (p : Nat) (hs : List Nat) : (s.setTenant p hs).gens = s.gens := rfl
@[simp] theorem State.setTenant_armed (p : Nat) (hs : List Nat) : (s.setTenant p hs).armed = s.armed := rfl
@[simp] theorem State.setTenant_host (p : Nat) (hs : List Nat) : (s.setTenant p hs).host = s.host := rfl
@[simp] theorem State.setTenant_nets (p : Nat) (hs : List Nat) : (s.setTenant p hs).nets = s.nets := rfl
@[simp] theorem State.setTenant_pkg (p : Nat) (hs : List Nat) : (s.setTenant p hs).pkg = s.pkg := rfl
@[simp] theorem State.setTenant_log (p : Nat) (hs : List Nat) : (s.setTenant p hs).log = s.log := rfl
@[simp] theorem State.setTenant_fresh (p : Nat) (hs : List Nat) : (s.setTenant p hs).fresh = s.fresh := rfl
@[simp] theorem State.setTenant_pending (p : Nat) (hs : List Nat) : (s.setTenant p hs).pending = s.pending := rfl

@[simp] theorem State.updNet_cores (n : Nat) (f : Net → Net) : (s.updNet n f).cores = s.cores := rfl
@[simp] theorem State.updNet_time (n : Nat) (f : Net → Net) : (s.updNet n f).time = s.time := rfl
@[simp] theorem State.updNet_mem (n : Nat) (f : Net → Net) : (s.updNet n f).mem = s.mem := rfl
@[simp] theorem State.updNet_poison (n : Nat) (f : Net → Net) : (s.updNet n f).poison = s.poison := rfl
@[simp] theorem State.updNet_works (n : Nat) (f : Net → Net) : (s.updNet n f).works = s.works := rfl
@[simp] theorem State.updNet_takes (n : Nat) (f : Net → Net) : (s.updNet n f).takes = s.takes := rfl
@[simp] theorem State.updNet_nextId (n : Nat) (f : Net → Net) : (s.updNet n f).nextId = s.nextId := rfl
@[simp] theorem State.updNet_gens (n : Nat) (f : Net → Net) : (s.updNet n f).gens = s.gens := rfl
@[simp] theorem State.updNet_armed (n : Nat) (f : Net → Net) : (s.updNet n f).armed = s.armed := rfl
@[simp] theorem State.updNet_place (n : Nat) (f : Net → Net) : (s.updNet n f).place = s.place := rfl
@[simp] theorem State.updNet_host (n : Nat) (f : Net → Net) : (s.updNet n f).host = s.host := rfl
@[simp] theorem State.updNet_pkg (n : Nat) (f : Net → Net) : (s.updNet n f).pkg = s.pkg := rfl
@[simp] theorem State.updNet_log (n : Nat) (f : Net → Net) : (s.updNet n f).log = s.log := rfl
@[simp] theorem State.updNet_fresh (n : Nat) (f : Net → Net) : (s.updNet n f).fresh = s.fresh := rfl
@[simp] theorem State.updNet_pending (n : Nat) (f : Net → Net) : (s.updNet n f).pending = s.pending := rfl

@[simp] theorem State.chg_cores : (s.chg).cores = s.cores := rfl
@[simp] theorem State.chg_time : (s.chg).time = s.time := rfl
@[simp] theorem State.chg_mem : (s.chg).mem = s.mem := rfl
@[simp] theorem State.chg_poison : (s.chg).poison = s.poison := rfl
@[simp] theorem State.chg_works : (s.chg).works = s.works := rfl
@[simp] theorem State.chg_takes : (s.chg).takes = s.takes := rfl
@[simp] theorem State.chg_nextId : (s.chg).nextId = s.nextId := rfl
@[simp] theorem State.chg_gens : (s.chg).gens = s.gens := rfl
@[simp] theorem State.chg_armed : (s.chg).armed = s.armed := rfl
@[simp] theorem State.chg_place : (s.chg).place = s.place := rfl
@[simp] theorem State.chg_host : (s.chg).host = s.host := rfl
@[simp] theorem State.chg_nets : (s.chg).nets = s.nets := rfl
@[simp] theorem State.chg_log : (s.chg).log = s.log := rfl
@[simp] theorem State.chg_fresh : (s.chg).fresh = s.fresh := rfl
@[simp] theorem State.chg_pending : (s.chg).pending = s.pending := rfl

@[simp] theorem State.updHub_cores (h : Nat) (f : Hub → Hub) : (s.updHub h f).cores = s.cores := rfl
@[simp] theorem State.updHub_time (h : Nat) (f : Hub → Hub) : (s.updHub h f).time = s.time := rfl
@[simp] theorem State.updHub_mem (h : Nat) (f : Hub → Hub) : (s.updHub h f).mem = s.mem := rfl
@[simp] theorem State.updHub_poison (h : Nat) (f : Hub → Hub) : (s.updHub h f).poison = s.poison := rfl
@[simp] theorem State.updHub_works (h : Nat) (f : Hub → Hub) : (s.updHub h f).works = s.works := rfl
@[simp] theorem State.updHub_takes (h : Nat) (f : Hub → Hub) : (s.updHub h f).takes = s.takes := rfl
@[simp] theorem State.updHub_nextId (h : Nat) (f : Hub → Hub) : (s.updHub h f).nextId = s.nextId := rfl
@[simp] theorem State.updHub_gens (h : Nat) (f : Hub → Hub) : (s.updHub h f).gens = s.gens := rfl
@[simp] theorem State.updHub_armed (h : Nat) (f : Hub → Hub) : (s.updHub h f).armed = s.armed := rfl
@[simp] theorem State.updHub_place (h : Nat) (f : Hub → Hub) : (s.updHub h f).place = s.place := rfl
@[simp] theorem State.updHub_host (h : Nat) (f : Hub → Hub) : (s.updHub h f).host = s.host := rfl
@[simp] theorem State.updHub_nets (h : Nat) (f : Hub → Hub) : (s.updHub h f).nets = s.nets := rfl
@[simp] theorem State.updHub_log (h : Nat) (f : Hub → Hub) : (s.updHub h f).log = s.log := rfl
@[simp] theorem State.updHub_fresh (h : Nat) (f : Hub → Hub) : (s.updHub h f).fresh = s.fresh := rfl
@[simp] theorem State.updHub_pending (h : Nat) (f : Hub → Hub) : (s.updHub h f).pending = s.pending := rfl

@[simp] theorem State.updStack_cores (n : Nat) (f : Stack → Stack) : (s.updStack n f).cores = s.cores := rfl
@[simp] theorem State.updStack_time (n : Nat) (f : Stack → Stack) : (s.updStack n f).time = s.time := rfl
@[simp] theorem State.updStack_mem (n : Nat) (f : Stack → Stack) : (s.updStack n f).mem = s.mem := rfl
@[simp] theorem State.updStack_poison (n : Nat) (f : Stack → Stack) : (s.updStack n f).poison = s.poison := rfl
@[simp] theorem State.updStack_works (n : Nat) (f : Stack → Stack) : (s.updStack n f).works = s.works := rfl
@[simp] theorem State.updStack_takes (n : Nat) (f : Stack → Stack) : (s.updStack n f).takes = s.takes := rfl
@[simp] theorem State.updStack_nextId (n : Nat) (f : Stack → Stack) : (s.updStack n f).nextId = s.nextId := rfl
@[simp] theorem State.updStack_gens (n : Nat) (f : Stack → Stack) : (s.updStack n f).gens = s.gens := rfl
@[simp] theorem State.updStack_armed (n : Nat) (f : Stack → Stack) : (s.updStack n f).armed = s.armed := rfl
@[simp] theorem State.updStack_place (n : Nat) (f : Stack → Stack) : (s.updStack n f).place = s.place := rfl
@[simp] theorem State.updStack_host (n : Nat) (f : Stack → Stack) : (s.updStack n f).host = s.host := rfl
@[simp] theorem State.updStack_nets (n : Nat) (f : Stack → Stack) : (s.updStack n f).nets = s.nets := rfl
@[simp] theorem State.updStack_log (n : Nat) (f : Stack → Stack) : (s.updStack n f).log = s.log := rfl
@[simp] theorem State.updStack_fresh (n : Nat) (f : Stack → Stack) : (s.updStack n f).fresh = s.fresh := rfl
@[simp] theorem State.updStack_pending (n : Nat) (f : Stack → Stack) : (s.updStack n f).pending = s.pending := rfl

@[simp] theorem State.updPort_cores (p : Nat) (f : Port → Port) : (s.updPort p f).cores = s.cores := rfl
@[simp] theorem State.updPort_time (p : Nat) (f : Port → Port) : (s.updPort p f).time = s.time := rfl
@[simp] theorem State.updPort_mem (p : Nat) (f : Port → Port) : (s.updPort p f).mem = s.mem := rfl
@[simp] theorem State.updPort_poison (p : Nat) (f : Port → Port) : (s.updPort p f).poison = s.poison := rfl
@[simp] theorem State.updPort_works (p : Nat) (f : Port → Port) : (s.updPort p f).works = s.works := rfl
@[simp] theorem State.updPort_takes (p : Nat) (f : Port → Port) : (s.updPort p f).takes = s.takes := rfl
@[simp] theorem State.updPort_nextId (p : Nat) (f : Port → Port) : (s.updPort p f).nextId = s.nextId := rfl
@[simp] theorem State.updPort_gens (p : Nat) (f : Port → Port) : (s.updPort p f).gens = s.gens := rfl
@[simp] theorem State.updPort_armed (p : Nat) (f : Port → Port) : (s.updPort p f).armed = s.armed := rfl
@[simp] theorem State.updPort_place (p : Nat) (f : Port → Port) : (s.updPort p f).place = s.place := rfl
@[simp] theorem State.updPort_nets (p : Nat) (f : Port → Port) : (s.updPort p f).nets = s.nets := rfl
@[simp] theorem State.updPort_pkg (p : Nat) (f : Port → Port) : (s.updPort p f).pkg = s.pkg := rfl
@[simp] theorem State.updPort_log (p : Nat) (f : Port → Port) : (s.updPort p f).log = s.log := rfl
@[simp] theorem State.updPort_fresh (p : Nat) (f : Port → Port) : (s.updPort p f).fresh = s.fresh := rfl
@[simp] theorem State.updPort_pending (p : Nat) (f : Port → Port) : (s.updPort p f).pending = s.pending := rfl

@[simp] theorem State.updChan_cores (n : Nat) (f : Chan → Chan) : (s.updChan n f).cores = s.cores := rfl
@[simp] theorem State.updChan_time (n : Nat) (f : Chan → Chan) : (s.updChan n f).time = s.time := rfl
@[simp] theorem State.updChan_mem (n : Nat) (f : Chan → Chan) : (s.updChan n f).mem = s.mem := rfl
@[simp] theorem State.updChan_poison (n : Nat) (f : Chan → Chan) : (s.updChan n f).poison = s.poison := rfl
@[simp] theorem State.updChan_works (n : Nat) (f : Chan → Chan) : (s.updChan n f).works = s.works := rfl
@[simp] theorem State.updChan_takes (n : Nat) (f : Chan → Chan) : (s.updChan n f).takes = s.takes := rfl
@[simp] theorem State.updChan_nextId (n : Nat) (f : Chan → Chan) : (s.updChan n f).nextId = s.nextId := rfl
@[simp] theorem State.updChan_gens (n : Nat) (f : Chan → Chan) : (s.updChan n f).gens = s.gens := rfl
@[simp] theorem State.updChan_armed (n : Nat) (f : Chan → Chan) : (s.updChan n f).armed = s.armed := rfl
@[simp] theorem State.updChan_place (n : Nat) (f : Chan → Chan) : (s.updChan n f).place = s.place := rfl
@[simp] theorem State.updChan_nets (n : Nat) (f : Chan → Chan) : (s.updChan n f).nets = s.nets := rfl
@[simp] theorem State.updChan_pkg (n : Nat) (f : Chan → Chan) : (s.updChan n f).pkg = s.pkg := rfl
@[simp] theorem State.updChan_log (n : Nat) (f : Chan → Chan) : (s.updChan n f).log = s.log := rfl
@[simp] theorem State.updChan_fresh (n : Nat) (f : Chan → Chan) : (s.updChan n f).fresh = s.fresh := rfl
@[simp] theorem State.updChan_pending (n : Nat) (f : Chan → Chan) : (s.updChan n f).pending = s.pending := rfl

@[simp] theorem State.updTask_cores (q : Nat) (f : Task → Task) : (s.updTask q f).cores = s.cores := rfl
@[simp] theorem State.updTask_time (q : Nat) (f : Task → Task) : (s.updTask q f).time = s.time := rfl
@[simp] theorem State.updTask_mem (q : Nat) (f : Task → Task) : (s.updTask q f).mem = s.mem := rfl
@[simp] theorem State.updTask_poison (q : Nat) (f : Task → Task) : (s.updTask q f).poison = s.poison := rfl
@[simp] theorem State.updTask_works (q : Nat) (f : Task → Task) : (s.updTask q f).works = s.works := rfl
@[simp] theorem State.updTask_takes (q : Nat) (f : Task → Task) : (s.updTask q f).takes = s.takes := rfl
@[simp] theorem State.updTask_nextId (q : Nat) (f : Task → Task) : (s.updTask q f).nextId = s.nextId := rfl
@[simp] theorem State.updTask_gens (q : Nat) (f : Task → Task) : (s.updTask q f).gens = s.gens := rfl
@[simp] theorem State.updTask_armed (q : Nat) (f : Task → Task) : (s.updTask q f).armed = s.armed := rfl
@[simp] theorem State.updTask_place (q : Nat) (f : Task → Task) : (s.updTask q f).place = s.place := rfl
@[simp] theorem State.updTask_nets (q : Nat) (f : Task → Task) : (s.updTask q f).nets = s.nets := rfl
@[simp] theorem State.updTask_pkg (q : Nat) (f : Task → Task) : (s.updTask q f).pkg = s.pkg := rfl
@[simp] theorem State.updTask_log (q : Nat) (f : Task → Task) : (s.updTask q f).log = s.log := rfl
@[simp] theorem State.updTask_fresh (q : Nat) (f : Task → Task) : (s.updTask q f).fresh = s.fresh := rfl
@[simp] theorem State.updTask_pending (q : Nat) (f : Task → Task) : (s.updTask q f).pending = s.pending := rfl

@[simp] theorem State.updPart_cores (p : Nat) (f : Part → Part) : (s.updPart p f).cores = s.cores := rfl
@[simp] theorem State.updPart_time (p : Nat) (f : Part → Part) : (s.updPart p f).time = s.time := rfl
@[simp] theorem State.updPart_mem (p : Nat) (f : Part → Part) : (s.updPart p f).mem = s.mem := rfl
@[simp] theorem State.updPart_poison (p : Nat) (f : Part → Part) : (s.updPart p f).poison = s.poison := rfl
@[simp] theorem State.updPart_works (p : Nat) (f : Part → Part) : (s.updPart p f).works = s.works := rfl
@[simp] theorem State.updPart_takes (p : Nat) (f : Part → Part) : (s.updPart p f).takes = s.takes := rfl
@[simp] theorem State.updPart_nextId (p : Nat) (f : Part → Part) : (s.updPart p f).nextId = s.nextId := rfl
@[simp] theorem State.updPart_gens (p : Nat) (f : Part → Part) : (s.updPart p f).gens = s.gens := rfl
@[simp] theorem State.updPart_armed (p : Nat) (f : Part → Part) : (s.updPart p f).armed = s.armed := rfl
@[simp] theorem State.updPart_host (p : Nat) (f : Part → Part) : (s.updPart p f).host = s.host := rfl
@[simp] theorem State.updPart_nets (p : Nat) (f : Part → Part) : (s.updPart p f).nets = s.nets := rfl
@[simp] theorem State.updPart_pkg (p : Nat) (f : Part → Part) : (s.updPart p f).pkg = s.pkg := rfl
@[simp] theorem State.updPart_log (p : Nat) (f : Part → Part) : (s.updPart p f).log = s.log := rfl
@[simp] theorem State.updPart_fresh (p : Nat) (f : Part → Part) : (s.updPart p f).fresh = s.fresh := rfl
@[simp] theorem State.updPart_pending (p : Nat) (f : Part → Part) : (s.updPart p f).pending = s.pending := rfl

@[simp] theorem State.journal_cores (w : JWhat) : (s.journal w).cores = s.cores := rfl
@[simp] theorem State.journal_time (w : JWhat) : (s.journal w).time = s.time := rfl
@[simp] theorem State.journal_mem (w : JWhat) : (s.journal w).mem = s.mem := rfl
@[simp] theorem State.journal_poison (w : JWhat) : (s.journal w).poison = s.poison := rfl
@[simp] theorem State.journal_works (w : JWhat) : (s.journal w).works = s.works := rfl
@[simp] theorem State.journal_takes (w : JWhat) : (s.journal w).takes = s.takes := rfl
@[simp] theorem State.journal_nextId (w : JWhat) : (s.journal w).nextId = s.nextId := rfl
@[simp] theorem State.journal_gens (w : JWhat) : (s.journal w).gens = s.gens := rfl
@[simp] theorem State.journal_armed (w : JWhat) : (s.journal w).armed = s.armed := rfl
@[simp] theorem State.journal_place (w : JWhat) : (s.journal w).place = s.place := rfl
@[simp] theorem State.journal_nets (w : JWhat) : (s.journal w).nets = s.nets := rfl
@[simp] theorem State.journal_pkg (w : JWhat) : (s.journal w).pkg = s.pkg := rfl
@[simp] theorem State.journal_log (w : JWhat) : (s.journal w).log = s.log := rfl
@[simp] theorem State.journal_fresh (w : JWhat) : (s.journal w).fresh = s.fresh := rfl
@[simp] theorem State.journal_pending (w : JWhat) : (s.journal w).pending = s.pending := rfl

@[simp] theorem State.logAdd_cores (a b c d e f g h : Nat) : (s.logAdd a b c d e f g h).cores = s.cores := rfl
@[simp] theorem State.logAdd_time (a b c d e f g h : Nat) : (s.logAdd a b c d e f g h).time = s.time := rfl
@[simp] theorem State.logAdd_mem (a b c d e f g h : Nat) : (s.logAdd a b c d e f g h).mem = s.mem := rfl
@[simp] theorem State.logAdd_poison (a b c d e f g h : Nat) : (s.logAdd a b c d e f g h).poison = s.poison := rfl
@[simp] theorem State.logAdd_works (a b c d e f g h : Nat) : (s.logAdd a b c d e f g h).works = s.works := rfl
@[simp] theorem State.logAdd_takes (a b c d e f g h : Nat) : (s.logAdd a b c d e f g h).takes = s.takes := rfl
@[simp] theorem State.logAdd_nextId (a b c d e f g h : Nat) : (s.logAdd a b c d e f g h).nextId = s.nextId := rfl
@[simp] theorem State.logAdd_gens (a b c d e f g h : Nat) : (s.logAdd a b c d e f g h).gens = s.gens := rfl
@[simp] theorem State.logAdd_armed (a b c d e f g h : Nat) : (s.logAdd a b c d e f g h).armed = s.armed := rfl
@[simp] theorem State.logAdd_place (a b c d e f g h : Nat) : (s.logAdd a b c d e f g h).place = s.place := rfl
@[simp] theorem State.logAdd_host (a b c d e f g h : Nat) : (s.logAdd a b c d e f g h).host = s.host := rfl
@[simp] theorem State.logAdd_nets (a b c d e f g h : Nat) : (s.logAdd a b c d e f g h).nets = s.nets := rfl
@[simp] theorem State.logAdd_pkg (a b c d e f g h : Nat) : (s.logAdd a b c d e f g h).pkg = s.pkg := rfl
@[simp] theorem State.logAdd_fresh (a b c d e f g h : Nat) : (s.logAdd a b c d e f g h).fresh = s.fresh := rfl
@[simp] theorem State.logAdd_pending (a b c d e f g h : Nat) : (s.logAdd a b c d e f g h).pending = s.pending := rfl

@[simp] theorem State.clearPoison_cores (u : Nat) : (s.clearPoison u).cores = s.cores := rfl
@[simp] theorem State.clearPoison_time (u : Nat) : (s.clearPoison u).time = s.time := rfl
@[simp] theorem State.clearPoison_mem (u : Nat) : (s.clearPoison u).mem = s.mem := rfl
@[simp] theorem State.clearPoison_works (u : Nat) : (s.clearPoison u).works = s.works := rfl
@[simp] theorem State.clearPoison_takes (u : Nat) : (s.clearPoison u).takes = s.takes := rfl
@[simp] theorem State.clearPoison_nextId (u : Nat) : (s.clearPoison u).nextId = s.nextId := rfl
@[simp] theorem State.clearPoison_gens (u : Nat) : (s.clearPoison u).gens = s.gens := rfl
@[simp] theorem State.clearPoison_armed (u : Nat) : (s.clearPoison u).armed = s.armed := rfl
@[simp] theorem State.clearPoison_place (u : Nat) : (s.clearPoison u).place = s.place := rfl
@[simp] theorem State.clearPoison_host (u : Nat) : (s.clearPoison u).host = s.host := rfl
@[simp] theorem State.clearPoison_nets (u : Nat) : (s.clearPoison u).nets = s.nets := rfl
@[simp] theorem State.clearPoison_pkg (u : Nat) : (s.clearPoison u).pkg = s.pkg := rfl
@[simp] theorem State.clearPoison_log (u : Nat) : (s.clearPoison u).log = s.log := rfl
@[simp] theorem State.clearPoison_fresh (u : Nat) : (s.clearPoison u).fresh = s.fresh := rfl
@[simp] theorem State.clearPoison_pending (u : Nat) : (s.clearPoison u).pending = s.pending := rfl

@[simp] theorem State.markDirty_cores (a n : Nat) : (s.markDirty a n).cores = s.cores := rfl
@[simp] theorem State.markDirty_time (a n : Nat) : (s.markDirty a n).time = s.time := rfl
@[simp] theorem State.markDirty_mem (a n : Nat) : (s.markDirty a n).mem = s.mem := rfl
@[simp] theorem State.markDirty_poison (a n : Nat) : (s.markDirty a n).poison = s.poison := rfl
@[simp] theorem State.markDirty_works (a n : Nat) : (s.markDirty a n).works = s.works := rfl
@[simp] theorem State.markDirty_takes (a n : Nat) : (s.markDirty a n).takes = s.takes := rfl
@[simp] theorem State.markDirty_nextId (a n : Nat) : (s.markDirty a n).nextId = s.nextId := rfl
@[simp] theorem State.markDirty_gens (a n : Nat) : (s.markDirty a n).gens = s.gens := rfl
@[simp] theorem State.markDirty_armed (a n : Nat) : (s.markDirty a n).armed = s.armed := rfl
@[simp] theorem State.markDirty_host (a n : Nat) : (s.markDirty a n).host = s.host := rfl
@[simp] theorem State.markDirty_nets (a n : Nat) : (s.markDirty a n).nets = s.nets := rfl
@[simp] theorem State.markDirty_pkg (a n : Nat) : (s.markDirty a n).pkg = s.pkg := rfl
@[simp] theorem State.markDirty_log (a n : Nat) : (s.markDirty a n).log = s.log := rfl
@[simp] theorem State.markDirty_fresh (a n : Nat) : (s.markDirty a n).fresh = s.fresh := rfl
@[simp] theorem State.markDirty_pending (a n : Nat) : (s.markDirty a n).pending = s.pending := rfl

@[simp] theorem State.withCommand_cores (i : Instr) : (s.withCommand i).cores = s.cores := rfl
@[simp] theorem State.withCommand_time (i : Instr) : (s.withCommand i).time = s.time := rfl
@[simp] theorem State.withCommand_mem (i : Instr) : (s.withCommand i).mem = s.mem := rfl
@[simp] theorem State.withCommand_poison (i : Instr) : (s.withCommand i).poison = s.poison := rfl
@[simp] theorem State.withCommand_works (i : Instr) : (s.withCommand i).works = s.works := rfl
@[simp] theorem State.withCommand_takes (i : Instr) : (s.withCommand i).takes = s.takes := rfl
@[simp] theorem State.withCommand_nextId (i : Instr) : (s.withCommand i).nextId = s.nextId := rfl
@[simp] theorem State.withCommand_gens (i : Instr) : (s.withCommand i).gens = s.gens := rfl
@[simp] theorem State.withCommand_armed (i : Instr) : (s.withCommand i).armed = s.armed := rfl
@[simp] theorem State.withCommand_place (i : Instr) : (s.withCommand i).place = s.place := rfl
@[simp] theorem State.withCommand_host (i : Instr) : (s.withCommand i).host = s.host := rfl
@[simp] theorem State.withCommand_nets (i : Instr) : (s.withCommand i).nets = s.nets := rfl
@[simp] theorem State.withCommand_pkg (i : Instr) : (s.withCommand i).pkg = s.pkg := rfl
@[simp] theorem State.withCommand_log (i : Instr) : (s.withCommand i).log = s.log := rfl
@[simp] theorem State.withCommand_fresh (i : Instr) : (s.withCommand i).fresh = s.fresh := rfl
/-! ### Reading a core after an update -/

theorem vget_vset_self {α : Type} {n : Nat} (v : Vector α n) (i : Nat) (x d : α) (h : i < n) : vget (vset v i x) i d = x := by
  simp [vget, vset, h]
theorem vget_vset_ne {α : Type} {n : Nat} (v : Vector α n) {i j : Nat} (x d : α) (h : i ≠ j) :
    vget (vset v i x) j d = vget v j d := by
  unfold vget vset
  split
  · rw [Vector.getElem_setIfInBounds]; simp [h]
  · rfl
theorem vset_vget {α : Type} {n : Nat} (v : Vector α n) (i : Nat) (d : α) : vset v i (vget v i d) = v := by
  ext j hj
  unfold vset vget
  rw [Vector.getElem_setIfInBounds]
  split
  · rename_i h; subst h; simp [hj]
  · rfl
theorem vset_vset {α : Type} {n : Nat} (v : Vector α n) (i : Nat) (x y : α) : vset (vset v i x) i y = vset v i y := by
  ext j hj
  simp only [vset, Vector.getElem_setIfInBounds]
  split <;> rfl

variable {s k}

theorem State.core_upd_self (c : Nat) (f : Core → Core) (h : c < 160) : (s.upd c f).core c = f (s.core c) :=
  vget_vset_self _ _ _ _ h
@[simp] theorem State.core_upd_ne {c d : Nat} (f : Core → Core) (h : c ≠ d) : (s.upd c f).core d = s.core d :=
  vget_vset_ne _ _ _ h
theorem State.upd_upd (c : Nat) (f g : Core → Core) (h : c < 160) :
    (s.upd c f).upd c g = s.upd c fun k => g (f k) := by
  have := State.core_upd_self (s := s) c f h
  simp only [State.upd, State.setCore] at *
  simp only [this, vset_vset]
theorem State.upd_same (c : Nat) (f : Core → Core) (h : f (s.core c) = s.core c) : s.upd c f = s := by
  unfold State.upd State.setCore
  rw [h]
  unfold State.core
  rw [vset_vget]

/-! ### Updates of a core -/

variable (s k)

@[simp] theorem Core.setX_v (b : Bank) (r : Reg) (v : Word) : (k.setX b r v).v = k.v := rfl
@[simp] theorem Core.setX_flow (b : Bank) (r : Reg) (v : Word) : (k.setX b r v).flow = k.flow := rfl
@[simp] theorem Core.setX_rsT (b : Bank) (r : Reg) (v : Word) : (k.setX b r v).rsT = k.rsT := rfl
@[simp] theorem Core.setX_rsS (b : Bank) (r : Reg) (v : Word) : (k.setX b r v).rsS = k.rsS := rfl
@[simp] theorem Core.setX_rsM (b : Bank) (r : Reg) (v : Word) : (k.setX b r v).rsM = k.rsM := rfl
@[simp] theorem Core.setX_ov (b : Bank) (r : Reg) (v : Word) : (k.setX b r v).ov = k.ov := rfl
@[simp] theorem Core.setX_dz (b : Bank) (r : Reg) (v : Word) : (k.setX b r v).dz = k.dz := rfl
@[simp] theorem Core.setX_ff (b : Bank) (r : Reg) (v : Word) : (k.setX b r v).ff = k.ff := rfl
@[simp] theorem Core.setX_tr (b : Bank) (r : Reg) (v : Word) : (k.setX b r v).tr = k.tr := rfl
@[simp] theorem Core.setX_tm (b : Bank) (r : Reg) (v : Word) : (k.setX b r v).tm = k.tm := rfl
@[simp] theorem Core.setX_cnt (b : Bank) (r : Reg) (v : Word) : (k.setX b r v).cnt = k.cnt := rfl
@[simp] theorem Core.setX_car (b : Bank) (r : Reg) (v : Word) : (k.setX b r v).car = k.car := rfl
@[simp] theorem Core.setX_ev (b : Bank) (r : Reg) (v : Word) : (k.setX b r v).ev = k.ev := rfl
@[simp] theorem Core.setX_wait (b : Bank) (r : Reg) (v : Word) : (k.setX b r v).wait = k.wait := rfl
@[simp] theorem Core.setX_syn (b : Bank) (r : Reg) (v : Word) : (k.setX b r v).syn = k.syn := rfl
@[simp] theorem Core.setX_mon (b : Bank) (r : Reg) (v : Word) : (k.setX b r v).mon = k.mon := rfl
@[simp] theorem Core.setX_idn (b : Bank) (r : Reg) (v : Word) : (k.setX b r v).idn = k.idn := rfl
@[simp] theorem Core.setX_tiles (b : Bank) (r : Reg) (v : Word) : (k.setX b r v).tiles = k.tiles := rfl
@[simp] theorem Core.setX_arr (b : Bank) (r : Reg) (v : Word) : (k.setX b r v).arr = k.arr := rfl
@[simp] theorem Core.setX_slots (b : Bank) (r : Reg) (v : Word) : (k.setX b r v).slots = k.slots := rfl
@[simp] theorem Core.setX_ssel (b : Bank) (r : Reg) (v : Word) : (k.setX b r v).ssel = k.ssel := rfl
@[simp] theorem Core.setX_pw (b : Bank) (r : Reg) (v : Word) : (k.setX b r v).pw = k.pw := rfl

@[simp] theorem Core.setF_x (r : Reg) (v : Word) : (k.setF r v).x = k.x := rfl
@[simp] theorem Core.setF_flow (r : Reg) (v : Word) : (k.setF r v).flow = k.flow := rfl
@[simp] theorem Core.setF_rsT (r : Reg) (v : Word) : (k.setF r v).rsT = k.rsT := rfl
@[simp] theorem Core.setF_rsS (r : Reg) (v : Word) : (k.setF r v).rsS = k.rsS := rfl
@[simp] theorem Core.setF_rsM (r : Reg) (v : Word) : (k.setF r v).rsM = k.rsM := rfl
@[simp] theorem Core.setF_ov (r : Reg) (v : Word) : (k.setF r v).ov = k.ov := rfl
@[simp] theorem Core.setF_dz (r : Reg) (v : Word) : (k.setF r v).dz = k.dz := rfl
@[simp] theorem Core.setF_ff (r : Reg) (v : Word) : (k.setF r v).ff = k.ff := rfl
@[simp] theorem Core.setF_tr (r : Reg) (v : Word) : (k.setF r v).tr = k.tr := rfl
@[simp] theorem Core.setF_tm (r : Reg) (v : Word) : (k.setF r v).tm = k.tm := rfl
@[simp] theorem Core.setF_cnt (r : Reg) (v : Word) : (k.setF r v).cnt = k.cnt := rfl
@[simp] theorem Core.setF_car (r : Reg) (v : Word) : (k.setF r v).car = k.car := rfl
@[simp] theorem Core.setF_ev (r : Reg) (v : Word) : (k.setF r v).ev = k.ev := rfl
@[simp] theorem Core.setF_wait (r : Reg) (v : Word) : (k.setF r v).wait = k.wait := rfl
@[simp] theorem Core.setF_syn (r : Reg) (v : Word) : (k.setF r v).syn = k.syn := rfl
@[simp] theorem Core.setF_mon (r : Reg) (v : Word) : (k.setF r v).mon = k.mon := rfl
@[simp] theorem Core.setF_idn (r : Reg) (v : Word) : (k.setF r v).idn = k.idn := rfl
@[simp] theorem Core.setF_tiles (r : Reg) (v : Word) : (k.setF r v).tiles = k.tiles := rfl
@[simp] theorem Core.setF_arr (r : Reg) (v : Word) : (k.setF r v).arr = k.arr := rfl
@[simp] theorem Core.setF_slots (r : Reg) (v : Word) : (k.setF r v).slots = k.slots := rfl
@[simp] theorem Core.setF_ssel (r : Reg) (v : Word) : (k.setF r v).ssel = k.ssel := rfl
@[simp] theorem Core.setF_pw (r : Reg) (v : Word) : (k.setF r v).pw = k.pw := rfl

@[simp] theorem Core.setV_x (r : Reg) (v : BitVec 4096) : (k.setV r v).x = k.x := rfl
@[simp] theorem Core.setV_flow (r : Reg) (v : BitVec 4096) : (k.setV r v).flow = k.flow := rfl
@[simp] theorem Core.setV_rsT (r : Reg) (v : BitVec 4096) : (k.setV r v).rsT = k.rsT := rfl
@[simp] theorem Core.setV_rsS (r : Reg) (v : BitVec 4096) : (k.setV r v).rsS = k.rsS := rfl
@[simp] theorem Core.setV_rsM (r : Reg) (v : BitVec 4096) : (k.setV r v).rsM = k.rsM := rfl
@[simp] theorem Core.setV_ov (r : Reg) (v : BitVec 4096) : (k.setV r v).ov = k.ov := rfl
@[simp] theorem Core.setV_dz (r : Reg) (v : BitVec 4096) : (k.setV r v).dz = k.dz := rfl
@[simp] theorem Core.setV_ff (r : Reg) (v : BitVec 4096) : (k.setV r v).ff = k.ff := rfl
@[simp] theorem Core.setV_tr (r : Reg) (v : BitVec 4096) : (k.setV r v).tr = k.tr := rfl
@[simp] theorem Core.setV_tm (r : Reg) (v : BitVec 4096) : (k.setV r v).tm = k.tm := rfl
@[simp] theorem Core.setV_cnt (r : Reg) (v : BitVec 4096) : (k.setV r v).cnt = k.cnt := rfl
@[simp] theorem Core.setV_car (r : Reg) (v : BitVec 4096) : (k.setV r v).car = k.car := rfl
@[simp] theorem Core.setV_ev (r : Reg) (v : BitVec 4096) : (k.setV r v).ev = k.ev := rfl
@[simp] theorem Core.setV_wait (r : Reg) (v : BitVec 4096) : (k.setV r v).wait = k.wait := rfl
@[simp] theorem Core.setV_syn (r : Reg) (v : BitVec 4096) : (k.setV r v).syn = k.syn := rfl
@[simp] theorem Core.setV_mon (r : Reg) (v : BitVec 4096) : (k.setV r v).mon = k.mon := rfl
@[simp] theorem Core.setV_idn (r : Reg) (v : BitVec 4096) : (k.setV r v).idn = k.idn := rfl
@[simp] theorem Core.setV_tiles (r : Reg) (v : BitVec 4096) : (k.setV r v).tiles = k.tiles := rfl
@[simp] theorem Core.setV_arr (r : Reg) (v : BitVec 4096) : (k.setV r v).arr = k.arr := rfl
@[simp] theorem Core.setV_slots (r : Reg) (v : BitVec 4096) : (k.setV r v).slots = k.slots := rfl
@[simp] theorem Core.setV_ssel (r : Reg) (v : BitVec 4096) : (k.setV r v).ssel = k.ssel := rfl
@[simp] theorem Core.setV_pw (r : Reg) (v : BitVec 4096) : (k.setV r v).pw = k.pw := rfl

@[simp] theorem Core.addPend_x (p : Pend) : (k.addPend p).x = k.x := rfl
@[simp] theorem Core.addPend_v (p : Pend) : (k.addPend p).v = k.v := rfl
@[simp] theorem Core.addPend_flow (p : Pend) : (k.addPend p).flow = k.flow := rfl
@[simp] theorem Core.addPend_rsT (p : Pend) : (k.addPend p).rsT = k.rsT := rfl
@[simp] theorem Core.addPend_rsS (p : Pend) : (k.addPend p).rsS = k.rsS := rfl
@[simp] theorem Core.addPend_rsM (p : Pend) : (k.addPend p).rsM = k.rsM := rfl
@[simp] theorem Core.addPend_ov (p : Pend) : (k.addPend p).ov = k.ov := rfl
@[simp] theorem Core.addPend_dz (p : Pend) : (k.addPend p).dz = k.dz := rfl
@[simp] theorem Core.addPend_ff (p : Pend) : (k.addPend p).ff = k.ff := rfl
@[simp] theorem Core.addPend_tr (p : Pend) : (k.addPend p).tr = k.tr := rfl
@[simp] theorem Core.addPend_cnt (p : Pend) : (k.addPend p).cnt = k.cnt := rfl
@[simp] theorem Core.addPend_car (p : Pend) : (k.addPend p).car = k.car := rfl
@[simp] theorem Core.addPend_ev (p : Pend) : (k.addPend p).ev = k.ev := rfl
@[simp] theorem Core.addPend_wait (p : Pend) : (k.addPend p).wait = k.wait := rfl
@[simp] theorem Core.addPend_syn (p : Pend) : (k.addPend p).syn = k.syn := rfl
@[simp] theorem Core.addPend_mon (p : Pend) : (k.addPend p).mon = k.mon := rfl
@[simp] theorem Core.addPend_idn (p : Pend) : (k.addPend p).idn = k.idn := rfl
@[simp] theorem Core.addPend_tiles (p : Pend) : (k.addPend p).tiles = k.tiles := rfl
@[simp] theorem Core.addPend_arr (p : Pend) : (k.addPend p).arr = k.arr := rfl
@[simp] theorem Core.addPend_slots (p : Pend) : (k.addPend p).slots = k.slots := rfl
@[simp] theorem Core.addPend_ssel (p : Pend) : (k.addPend p).ssel = k.ssel := rfl
@[simp] theorem Core.addPend_pw (p : Pend) : (k.addPend p).pw = k.pw := rfl

@[simp] theorem Core.land_x (d : Nat) (w : PendW) : (k.land d w).x = k.x := rfl
@[simp] theorem Core.land_v (d : Nat) (w : PendW) : (k.land d w).v = k.v := rfl
@[simp] theorem Core.land_flow (d : Nat) (w : PendW) : (k.land d w).flow = k.flow := rfl
@[simp] theorem Core.land_rsT (d : Nat) (w : PendW) : (k.land d w).rsT = k.rsT := rfl
@[simp] theorem Core.land_rsS (d : Nat) (w : PendW) : (k.land d w).rsS = k.rsS := rfl
@[simp] theorem Core.land_rsM (d : Nat) (w : PendW) : (k.land d w).rsM = k.rsM := rfl
@[simp] theorem Core.land_ov (d : Nat) (w : PendW) : (k.land d w).ov = k.ov := rfl
@[simp] theorem Core.land_dz (d : Nat) (w : PendW) : (k.land d w).dz = k.dz := rfl
@[simp] theorem Core.land_ff (d : Nat) (w : PendW) : (k.land d w).ff = k.ff := rfl
@[simp] theorem Core.land_tr (d : Nat) (w : PendW) : (k.land d w).tr = k.tr := rfl
@[simp] theorem Core.land_cnt (d : Nat) (w : PendW) : (k.land d w).cnt = k.cnt := rfl
@[simp] theorem Core.land_car (d : Nat) (w : PendW) : (k.land d w).car = k.car := rfl
@[simp] theorem Core.land_ev (d : Nat) (w : PendW) : (k.land d w).ev = k.ev := rfl
@[simp] theorem Core.land_wait (d : Nat) (w : PendW) : (k.land d w).wait = k.wait := rfl
@[simp] theorem Core.land_syn (d : Nat) (w : PendW) : (k.land d w).syn = k.syn := rfl
@[simp] theorem Core.land_mon (d : Nat) (w : PendW) : (k.land d w).mon = k.mon := rfl
@[simp] theorem Core.land_idn (d : Nat) (w : PendW) : (k.land d w).idn = k.idn := rfl
@[simp] theorem Core.land_tiles (d : Nat) (w : PendW) : (k.land d w).tiles = k.tiles := rfl
@[simp] theorem Core.land_arr (d : Nat) (w : PendW) : (k.land d w).arr = k.arr := rfl
@[simp] theorem Core.land_slots (d : Nat) (w : PendW) : (k.land d w).slots = k.slots := rfl
@[simp] theorem Core.land_ssel (d : Nat) (w : PendW) : (k.land d w).ssel = k.ssel := rfl
@[simp] theorem Core.land_pw (d : Nat) (w : PendW) : (k.land d w).pw = k.pw := rfl

@[simp] theorem Core.landX_x (d : Nat) (r : Reg) (v : Word) : (k.landX d r v).x = k.x := rfl
@[simp] theorem Core.landX_v (d : Nat) (r : Reg) (v : Word) : (k.landX d r v).v = k.v := rfl
@[simp] theorem Core.landX_flow (d : Nat) (r : Reg) (v : Word) : (k.landX d r v).flow = k.flow := rfl
@[simp] theorem Core.landX_rsT (d : Nat) (r : Reg) (v : Word) : (k.landX d r v).rsT = k.rsT := rfl
@[simp] theorem Core.landX_rsS (d : Nat) (r : Reg) (v : Word) : (k.landX d r v).rsS = k.rsS := rfl
@[simp] theorem Core.landX_rsM (d : Nat) (r : Reg) (v : Word) : (k.landX d r v).rsM = k.rsM := rfl
@[simp] theorem Core.landX_ov (d : Nat) (r : Reg) (v : Word) : (k.landX d r v).ov = k.ov := rfl
@[simp] theorem Core.landX_dz (d : Nat) (r : Reg) (v : Word) : (k.landX d r v).dz = k.dz := rfl
@[simp] theorem Core.landX_ff (d : Nat) (r : Reg) (v : Word) : (k.landX d r v).ff = k.ff := rfl
@[simp] theorem Core.landX_tr (d : Nat) (r : Reg) (v : Word) : (k.landX d r v).tr = k.tr := rfl
@[simp] theorem Core.landX_cnt (d : Nat) (r : Reg) (v : Word) : (k.landX d r v).cnt = k.cnt := rfl
@[simp] theorem Core.landX_car (d : Nat) (r : Reg) (v : Word) : (k.landX d r v).car = k.car := rfl
@[simp] theorem Core.landX_ev (d : Nat) (r : Reg) (v : Word) : (k.landX d r v).ev = k.ev := rfl
@[simp] theorem Core.landX_wait (d : Nat) (r : Reg) (v : Word) : (k.landX d r v).wait = k.wait := rfl
@[simp] theorem Core.landX_syn (d : Nat) (r : Reg) (v : Word) : (k.landX d r v).syn = k.syn := rfl
@[simp] theorem Core.landX_mon (d : Nat) (r : Reg) (v : Word) : (k.landX d r v).mon = k.mon := rfl
@[simp] theorem Core.landX_idn (d : Nat) (r : Reg) (v : Word) : (k.landX d r v).idn = k.idn := rfl
@[simp] theorem Core.landX_tiles (d : Nat) (r : Reg) (v : Word) : (k.landX d r v).tiles = k.tiles := rfl
@[simp] theorem Core.landX_arr (d : Nat) (r : Reg) (v : Word) : (k.landX d r v).arr = k.arr := rfl
@[simp] theorem Core.landX_slots (d : Nat) (r : Reg) (v : Word) : (k.landX d r v).slots = k.slots := rfl
@[simp] theorem Core.landX_ssel (d : Nat) (r : Reg) (v : Word) : (k.landX d r v).ssel = k.ssel := rfl
@[simp] theorem Core.landX_pw (d : Nat) (r : Reg) (v : Word) : (k.landX d r v).pw = k.pw := rfl

@[simp] theorem Core.bump_x (n : Nat) : (k.bump n).x = k.x := rfl
@[simp] theorem Core.bump_v (n : Nat) : (k.bump n).v = k.v := rfl
@[simp] theorem Core.bump_flow (n : Nat) : (k.bump n).flow = k.flow := rfl
@[simp] theorem Core.bump_rsT (n : Nat) : (k.bump n).rsT = k.rsT := rfl
@[simp] theorem Core.bump_rsS (n : Nat) : (k.bump n).rsS = k.rsS := rfl
@[simp] theorem Core.bump_rsM (n : Nat) : (k.bump n).rsM = k.rsM := rfl
@[simp] theorem Core.bump_ov (n : Nat) : (k.bump n).ov = k.ov := rfl
@[simp] theorem Core.bump_dz (n : Nat) : (k.bump n).dz = k.dz := rfl
@[simp] theorem Core.bump_ff (n : Nat) : (k.bump n).ff = k.ff := rfl
@[simp] theorem Core.bump_tr (n : Nat) : (k.bump n).tr = k.tr := rfl
@[simp] theorem Core.bump_tm (n : Nat) : (k.bump n).tm = k.tm := rfl
@[simp] theorem Core.bump_car (n : Nat) : (k.bump n).car = k.car := rfl
@[simp] theorem Core.bump_ev (n : Nat) : (k.bump n).ev = k.ev := rfl
@[simp] theorem Core.bump_wait (n : Nat) : (k.bump n).wait = k.wait := rfl
@[simp] theorem Core.bump_syn (n : Nat) : (k.bump n).syn = k.syn := rfl
@[simp] theorem Core.bump_mon (n : Nat) : (k.bump n).mon = k.mon := rfl
@[simp] theorem Core.bump_idn (n : Nat) : (k.bump n).idn = k.idn := rfl
@[simp] theorem Core.bump_tiles (n : Nat) : (k.bump n).tiles = k.tiles := rfl
@[simp] theorem Core.bump_arr (n : Nat) : (k.bump n).arr = k.arr := rfl
@[simp] theorem Core.bump_slots (n : Nat) : (k.bump n).slots = k.slots := rfl
@[simp] theorem Core.bump_ssel (n : Nat) : (k.bump n).ssel = k.ssel := rfl
@[simp] theorem Core.bump_pw (n : Nat) : (k.bump n).pw = k.pw := rfl

@[simp] theorem Core.raise_x (i : Nat) : (k.raise i).x = k.x := rfl
@[simp] theorem Core.raise_v (i : Nat) : (k.raise i).v = k.v := rfl
@[simp] theorem Core.raise_flow (i : Nat) : (k.raise i).flow = k.flow := rfl
@[simp] theorem Core.raise_rsT (i : Nat) : (k.raise i).rsT = k.rsT := rfl
@[simp] theorem Core.raise_rsS (i : Nat) : (k.raise i).rsS = k.rsS := rfl
@[simp] theorem Core.raise_rsM (i : Nat) : (k.raise i).rsM = k.rsM := rfl
@[simp] theorem Core.raise_ov (i : Nat) : (k.raise i).ov = k.ov := rfl
@[simp] theorem Core.raise_dz (i : Nat) : (k.raise i).dz = k.dz := rfl
@[simp] theorem Core.raise_ff (i : Nat) : (k.raise i).ff = k.ff := rfl
@[simp] theorem Core.raise_tm (i : Nat) : (k.raise i).tm = k.tm := rfl
@[simp] theorem Core.raise_cnt (i : Nat) : (k.raise i).cnt = k.cnt := rfl
@[simp] theorem Core.raise_car (i : Nat) : (k.raise i).car = k.car := rfl
@[simp] theorem Core.raise_ev (i : Nat) : (k.raise i).ev = k.ev := rfl
@[simp] theorem Core.raise_wait (i : Nat) : (k.raise i).wait = k.wait := rfl
@[simp] theorem Core.raise_syn (i : Nat) : (k.raise i).syn = k.syn := rfl
@[simp] theorem Core.raise_mon (i : Nat) : (k.raise i).mon = k.mon := rfl
@[simp] theorem Core.raise_idn (i : Nat) : (k.raise i).idn = k.idn := rfl
@[simp] theorem Core.raise_tiles (i : Nat) : (k.raise i).tiles = k.tiles := rfl
@[simp] theorem Core.raise_arr (i : Nat) : (k.raise i).arr = k.arr := rfl
@[simp] theorem Core.raise_slots (i : Nat) : (k.raise i).slots = k.slots := rfl
@[simp] theorem Core.raise_ssel (i : Nat) : (k.raise i).ssel = k.ssel := rfl
@[simp] theorem Core.raise_pw (i : Nat) : (k.raise i).pw = k.pw := rfl

@[simp] theorem Core.count_x (i n : Nat) : (k.count i n).x = k.x := by
  unfold Core.count; split; · rfl
  dsimp only; split; · rfl
  split <;> rfl
@[simp] theorem Core.count_v (i n : Nat) : (k.count i n).v = k.v := by
  unfold Core.count; split; · rfl
  dsimp only; split; · rfl
  split <;> rfl
@[simp] theorem Core.count_flow (i n : Nat) : (k.count i n).flow = k.flow := by
  unfold Core.count; split; · rfl
  dsimp only; split; · rfl
  split <;> rfl
@[simp] theorem Core.count_rsT (i n : Nat) : (k.count i n).rsT = k.rsT := by
  unfold Core.count; split; · rfl
  dsimp only; split; · rfl
  split <;> rfl
@[simp] theorem Core.count_rsS (i n : Nat) : (k.count i n).rsS = k.rsS := by
  unfold Core.count; split; · rfl
  dsimp only; split; · rfl
  split <;> rfl
@[simp] theorem Core.count_rsM (i n : Nat) : (k.count i n).rsM = k.rsM := by
  unfold Core.count; split; · rfl
  dsimp only; split; · rfl
  split <;> rfl
@[simp] theorem Core.count_ov (i n : Nat) : (k.count i n).ov = k.ov := by
  unfold Core.count; split; · rfl
  dsimp only; split; · rfl
  split <;> rfl
@[simp] theorem Core.count_dz (i n : Nat) : (k.count i n).dz = k.dz := by
  unfold Core.count; split; · rfl
  dsimp only; split; · rfl
  split <;> rfl
@[simp] theorem Core.count_ff (i n : Nat) : (k.count i n).ff = k.ff := by
  unfold Core.count; split; · rfl
  dsimp only; split; · rfl
  split <;> rfl
@[simp] theorem Core.count_tm (i n : Nat) : (k.count i n).tm = k.tm := by
  unfold Core.count; split; · rfl
  dsimp only; split; · rfl
  split <;> rfl
@[simp] theorem Core.count_cnt (i n : Nat) : (k.count i n).cnt = k.cnt := by
  unfold Core.count; split; · rfl
  dsimp only; split; · rfl
  split <;> rfl
@[simp] theorem Core.count_car (i n : Nat) : (k.count i n).car = k.car := by
  unfold Core.count; split; · rfl
  dsimp only; split; · rfl
  split <;> rfl
@[simp] theorem Core.count_wait (i n : Nat) : (k.count i n).wait = k.wait := by
  unfold Core.count; split; · rfl
  dsimp only; split; · rfl
  split <;> rfl
@[simp] theorem Core.count_syn (i n : Nat) : (k.count i n).syn = k.syn := by
  unfold Core.count; split; · rfl
  dsimp only; split; · rfl
  split <;> rfl
@[simp] theorem Core.count_mon (i n : Nat) : (k.count i n).mon = k.mon := by
  unfold Core.count; split; · rfl
  dsimp only; split; · rfl
  split <;> rfl
@[simp] theorem Core.count_idn (i n : Nat) : (k.count i n).idn = k.idn := by
  unfold Core.count; split; · rfl
  dsimp only; split; · rfl
  split <;> rfl
@[simp] theorem Core.count_tiles (i n : Nat) : (k.count i n).tiles = k.tiles := by
  unfold Core.count; split; · rfl
  dsimp only; split; · rfl
  split <;> rfl
@[simp] theorem Core.count_arr (i n : Nat) : (k.count i n).arr = k.arr := by
  unfold Core.count; split; · rfl
  dsimp only; split; · rfl
  split <;> rfl
@[simp] theorem Core.count_slots (i n : Nat) : (k.count i n).slots = k.slots := by
  unfold Core.count; split; · rfl
  dsimp only; split; · rfl
  split <;> rfl
@[simp] theorem Core.count_ssel (i n : Nat) : (k.count i n).ssel = k.ssel := by
  unfold Core.count; split; · rfl
  dsimp only; split; · rfl
  split <;> rfl
@[simp] theorem Core.count_pw (i n : Nat) : (k.count i n).pw = k.pw := by
  unfold Core.count; split; · rfl
  dsimp only; split; · rfl
  split <;> rfl
/-- A counter that wraps sets only a pending bit among the trap registers (R509). -/
@[simp] theorem Core.count_tr_status (i n : Nat) : (k.count i n).tr.status = k.tr.status := by
  unfold Core.count; split; · rfl
  dsimp only; split; · rfl
  split <;> rfl
@[simp] theorem Core.count_tr_ien (i n : Nat) : (k.count i n).tr.ien = k.tr.ien := by
  unfold Core.count; split; · rfl
  dsimp only; split; · rfl
  split <;> rfl
@[simp] theorem Core.count_tr_maint (i n : Nat) : (k.count i n).tr.maint = k.tr.maint := by
  unfold Core.count; split; · rfl
  dsimp only; split; · rfl
  split <;> rfl
@[simp] theorem Core.count_tr_trapdz (i n : Nat) : (k.count i n).tr.trapdz = k.tr.trapdz := by
  unfold Core.count; split; · rfl
  dsimp only; split; · rfl
  split <;> rfl
@[simp] theorem Core.count_tr_trapov (i n : Nat) : (k.count i n).tr.trapov = k.tr.trapov := by
  unfold Core.count; split; · rfl
  dsimp only; split; · rfl
  split <;> rfl
@[simp] theorem Core.count_tr_dtidx (i n : Nat) : (k.count i n).tr.dtidx = k.tr.dtidx := by
  unfold Core.count; split; · rfl
  dsimp only; split; · rfl
  split <;> rfl
@[simp] theorem Core.count_tr_dtd (i n : Nat) : (k.count i n).tr.dtd = k.tr.dtd := by
  unfold Core.count; split; · rfl
  dsimp only; split; · rfl
  split <;> rfl
@[simp] theorem Core.count_tr_save1 (i n : Nat) : (k.count i n).tr.save1 = k.tr.save1 := by
  unfold Core.count; split; · rfl
  dsimp only; split; · rfl
  split <;> rfl
@[simp] theorem Core.count_tr_save2 (i n : Nat) : (k.count i n).tr.save2 = k.tr.save2 := by
  unfold Core.count; split; · rfl
  dsimp only; split; · rfl
  split <;> rfl
@[simp] theorem Core.count_tr_rescue (i n : Nat) : (k.count i n).tr.rescue = k.tr.rescue := by
  unfold Core.count; split; · rfl
  dsimp only; split; · rfl
  split <;> rfl

@[simp] theorem Core.boosted_x (n : Nat) : (k.boosted n).x = k.x := by
  unfold Core.boosted; split <;> simp
@[simp] theorem Core.boosted_v (n : Nat) : (k.boosted n).v = k.v := by
  unfold Core.boosted; split <;> simp
@[simp] theorem Core.boosted_flow (n : Nat) : (k.boosted n).flow = k.flow := by
  unfold Core.boosted; split <;> simp
@[simp] theorem Core.boosted_rsT (n : Nat) : (k.boosted n).rsT = k.rsT := by
  unfold Core.boosted; split <;> simp
@[simp] theorem Core.boosted_rsS (n : Nat) : (k.boosted n).rsS = k.rsS := by
  unfold Core.boosted; split <;> simp
@[simp] theorem Core.boosted_rsM (n : Nat) : (k.boosted n).rsM = k.rsM := by
  unfold Core.boosted; split <;> simp
@[simp] theorem Core.boosted_ov (n : Nat) : (k.boosted n).ov = k.ov := by
  unfold Core.boosted; split <;> simp
@[simp] theorem Core.boosted_dz (n : Nat) : (k.boosted n).dz = k.dz := by
  unfold Core.boosted; split <;> simp
@[simp] theorem Core.boosted_ff (n : Nat) : (k.boosted n).ff = k.ff := by
  unfold Core.boosted; split <;> simp
@[simp] theorem Core.boosted_tm (n : Nat) : (k.boosted n).tm = k.tm := by
  unfold Core.boosted; split <;> simp
@[simp] theorem Core.boosted_cnt (n : Nat) : (k.boosted n).cnt = k.cnt := by
  unfold Core.boosted; split <;> simp
@[simp] theorem Core.boosted_car (n : Nat) : (k.boosted n).car = k.car := by
  unfold Core.boosted; split <;> simp
@[simp] theorem Core.boosted_wait (n : Nat) : (k.boosted n).wait = k.wait := by
  unfold Core.boosted; split <;> simp
@[simp] theorem Core.boosted_syn (n : Nat) : (k.boosted n).syn = k.syn := by
  unfold Core.boosted; split <;> simp
@[simp] theorem Core.boosted_mon (n : Nat) : (k.boosted n).mon = k.mon := by
  unfold Core.boosted; split <;> simp
@[simp] theorem Core.boosted_idn (n : Nat) : (k.boosted n).idn = k.idn := by
  unfold Core.boosted; split <;> simp
@[simp] theorem Core.boosted_tiles (n : Nat) : (k.boosted n).tiles = k.tiles := by
  unfold Core.boosted; split <;> simp
@[simp] theorem Core.boosted_arr (n : Nat) : (k.boosted n).arr = k.arr := by
  unfold Core.boosted; split <;> simp
@[simp] theorem Core.boosted_slots (n : Nat) : (k.boosted n).slots = k.slots := by
  unfold Core.boosted; split <;> simp
@[simp] theorem Core.boosted_ssel (n : Nat) : (k.boosted n).ssel = k.ssel := by
  unfold Core.boosted; split <;> simp
@[simp] theorem Core.boosted_pw (n : Nat) : (k.boosted n).pw = k.pw := by
  unfold Core.boosted; split <;> simp
@[simp] theorem Core.boosted_tr_status (n : Nat) : (k.boosted n).tr.status = k.tr.status := by
  unfold Core.boosted; split <;> simp
@[simp] theorem Core.boosted_tr_ien (n : Nat) : (k.boosted n).tr.ien = k.tr.ien := by
  unfold Core.boosted; split <;> simp
@[simp] theorem Core.boosted_tr_maint (n : Nat) : (k.boosted n).tr.maint = k.tr.maint := by
  unfold Core.boosted; split <;> simp
@[simp] theorem Core.boosted_tr_trapdz (n : Nat) : (k.boosted n).tr.trapdz = k.tr.trapdz := by
  unfold Core.boosted; split <;> simp
@[simp] theorem Core.boosted_tr_trapov (n : Nat) : (k.boosted n).tr.trapov = k.tr.trapov := by
  unfold Core.boosted; split <;> simp
@[simp] theorem Core.boosted_tr_dtidx (n : Nat) : (k.boosted n).tr.dtidx = k.tr.dtidx := by
  unfold Core.boosted; split <;> simp
@[simp] theorem Core.boosted_tr_dtd (n : Nat) : (k.boosted n).tr.dtd = k.tr.dtd := by
  unfold Core.boosted; split <;> simp
@[simp] theorem Core.boosted_tr_save1 (n : Nat) : (k.boosted n).tr.save1 = k.tr.save1 := by
  unfold Core.boosted; split <;> simp
@[simp] theorem Core.boosted_tr_save2 (n : Nat) : (k.boosted n).tr.save2 = k.tr.save2 := by
  unfold Core.boosted; split <;> simp
@[simp] theorem Core.boosted_tr_rescue (n : Nat) : (k.boosted n).tr.rescue = k.tr.rescue := by
  unfold Core.boosted; split <;> simp

@[simp] theorem Core.beat_x : (k.beat).x = k.x := by simp [Core.beat]
@[simp] theorem Core.beat_v : (k.beat).v = k.v := by simp [Core.beat]
@[simp] theorem Core.beat_flow : (k.beat).flow = k.flow := by simp [Core.beat]
@[simp] theorem Core.beat_rsT : (k.beat).rsT = k.rsT := by simp [Core.beat]
@[simp] theorem Core.beat_rsS : (k.beat).rsS = k.rsS := by simp [Core.beat]
@[simp] theorem Core.beat_rsM : (k.beat).rsM = k.rsM := by simp [Core.beat]
@[simp] theorem Core.beat_ov : (k.beat).ov = k.ov := by simp [Core.beat]
@[simp] theorem Core.beat_dz : (k.beat).dz = k.dz := by simp [Core.beat]
@[simp] theorem Core.beat_ff : (k.beat).ff = k.ff := by simp [Core.beat]
@[simp] theorem Core.beat_cnt : (k.beat).cnt = k.cnt := by simp [Core.beat]
@[simp] theorem Core.beat_car : (k.beat).car = k.car := by simp [Core.beat]
@[simp] theorem Core.beat_wait : (k.beat).wait = k.wait := by simp [Core.beat]
@[simp] theorem Core.beat_syn : (k.beat).syn = k.syn := by simp [Core.beat]
@[simp] theorem Core.beat_mon : (k.beat).mon = k.mon := by simp [Core.beat]
@[simp] theorem Core.beat_idn : (k.beat).idn = k.idn := by simp [Core.beat]
@[simp] theorem Core.beat_tiles : (k.beat).tiles = k.tiles := by simp [Core.beat]
@[simp] theorem Core.beat_arr : (k.beat).arr = k.arr := by simp [Core.beat]
@[simp] theorem Core.beat_slots : (k.beat).slots = k.slots := by simp [Core.beat]
@[simp] theorem Core.beat_ssel : (k.beat).ssel = k.ssel := by simp [Core.beat]
@[simp] theorem Core.beat_pw : (k.beat).pw = k.pw := by simp [Core.beat]
@[simp] theorem Core.beat_tr_status : (k.beat).tr.status = k.tr.status := by simp [Core.beat]
@[simp] theorem Core.beat_tr_ien : (k.beat).tr.ien = k.tr.ien := by simp [Core.beat]
@[simp] theorem Core.beat_tr_maint : (k.beat).tr.maint = k.tr.maint := by simp [Core.beat]
@[simp] theorem Core.beat_tr_trapdz : (k.beat).tr.trapdz = k.tr.trapdz := by simp [Core.beat]
@[simp] theorem Core.beat_tr_trapov : (k.beat).tr.trapov = k.tr.trapov := by simp [Core.beat]
@[simp] theorem Core.beat_tr_dtidx : (k.beat).tr.dtidx = k.tr.dtidx := by simp [Core.beat]
@[simp] theorem Core.beat_tr_dtd : (k.beat).tr.dtd = k.tr.dtd := by simp [Core.beat]
@[simp] theorem Core.beat_tr_save1 : (k.beat).tr.save1 = k.tr.save1 := by simp [Core.beat]
@[simp] theorem Core.beat_tr_save2 : (k.beat).tr.save2 = k.tr.save2 := by simp [Core.beat]
@[simp] theorem Core.beat_tr_rescue : (k.beat).tr.rescue = k.tr.rescue := by simp [Core.beat]
@[simp] theorem Core.beat_tm : (k.beat).tm = { k.tm with step := k.tm.step + 1 } := by simp [Core.beat]

@[simp] theorem Core.idle_x (n : Nat) : (k.idle n).x = k.x := by simp [Core.idle]
@[simp] theorem Core.idle_v (n : Nat) : (k.idle n).v = k.v := by simp [Core.idle]
@[simp] theorem Core.idle_flow (n : Nat) : (k.idle n).flow = k.flow := by simp [Core.idle]
@[simp] theorem Core.idle_rsT (n : Nat) : (k.idle n).rsT = k.rsT := by simp [Core.idle]
@[simp] theorem Core.idle_rsS (n : Nat) : (k.idle n).rsS = k.rsS := by simp [Core.idle]
@[simp] theorem Core.idle_rsM (n : Nat) : (k.idle n).rsM = k.rsM := by simp [Core.idle]
@[simp] theorem Core.idle_ov (n : Nat) : (k.idle n).ov = k.ov := by simp [Core.idle]
@[simp] theorem Core.idle_dz (n : Nat) : (k.idle n).dz = k.dz := by simp [Core.idle]
@[simp] theorem Core.idle_ff (n : Nat) : (k.idle n).ff = k.ff := by simp [Core.idle]
@[simp] theorem Core.idle_cnt (n : Nat) : (k.idle n).cnt = k.cnt := by simp [Core.idle]
@[simp] theorem Core.idle_car (n : Nat) : (k.idle n).car = k.car := by simp [Core.idle]
@[simp] theorem Core.idle_wait (n : Nat) : (k.idle n).wait = k.wait := by simp [Core.idle]
@[simp] theorem Core.idle_syn (n : Nat) : (k.idle n).syn = k.syn := by simp [Core.idle]
@[simp] theorem Core.idle_mon (n : Nat) : (k.idle n).mon = k.mon := by simp [Core.idle]
@[simp] theorem Core.idle_idn (n : Nat) : (k.idle n).idn = k.idn := by simp [Core.idle]
@[simp] theorem Core.idle_tiles (n : Nat) : (k.idle n).tiles = k.tiles := by simp [Core.idle]
@[simp] theorem Core.idle_arr (n : Nat) : (k.idle n).arr = k.arr := by simp [Core.idle]
@[simp] theorem Core.idle_slots (n : Nat) : (k.idle n).slots = k.slots := by simp [Core.idle]
@[simp] theorem Core.idle_ssel (n : Nat) : (k.idle n).ssel = k.ssel := by simp [Core.idle]
@[simp] theorem Core.idle_pw (n : Nat) : (k.idle n).pw = k.pw := by simp [Core.idle]
@[simp] theorem Core.idle_tr_status (n : Nat) : (k.idle n).tr.status = k.tr.status := by simp [Core.idle]
@[simp] theorem Core.idle_tr_ien (n : Nat) : (k.idle n).tr.ien = k.tr.ien := by simp [Core.idle]
@[simp] theorem Core.idle_tr_maint (n : Nat) : (k.idle n).tr.maint = k.tr.maint := by simp [Core.idle]
@[simp] theorem Core.idle_tr_trapdz (n : Nat) : (k.idle n).tr.trapdz = k.tr.trapdz := by simp [Core.idle]
@[simp] theorem Core.idle_tr_trapov (n : Nat) : (k.idle n).tr.trapov = k.tr.trapov := by simp [Core.idle]
@[simp] theorem Core.idle_tr_dtidx (n : Nat) : (k.idle n).tr.dtidx = k.tr.dtidx := by simp [Core.idle]
@[simp] theorem Core.idle_tr_dtd (n : Nat) : (k.idle n).tr.dtd = k.tr.dtd := by simp [Core.idle]
@[simp] theorem Core.idle_tr_save1 (n : Nat) : (k.idle n).tr.save1 = k.tr.save1 := by simp [Core.idle]
@[simp] theorem Core.idle_tr_save2 (n : Nat) : (k.idle n).tr.save2 = k.tr.save2 := by simp [Core.idle]
@[simp] theorem Core.idle_tr_rescue (n : Nat) : (k.idle n).tr.rescue = k.tr.rescue := by simp [Core.idle]
@[simp] theorem Core.idle_tm (n : Nat) : (k.idle n).tm = { k.tm with step := k.tm.step + n } := by simp [Core.idle]

@[simp] theorem Core.retire_x (w : Bool) : (k.retire w).x = k.x := by simp [Core.retire]
@[simp] theorem Core.retire_v (w : Bool) : (k.retire w).v = k.v := by simp [Core.retire]
@[simp] theorem Core.retire_rsT (w : Bool) : (k.retire w).rsT = k.rsT := by simp [Core.retire]
@[simp] theorem Core.retire_rsS (w : Bool) : (k.retire w).rsS = k.rsS := by simp [Core.retire]
@[simp] theorem Core.retire_rsM (w : Bool) : (k.retire w).rsM = k.rsM := by simp [Core.retire]
@[simp] theorem Core.retire_ov (w : Bool) : (k.retire w).ov = k.ov := by simp [Core.retire]
@[simp] theorem Core.retire_dz (w : Bool) : (k.retire w).dz = k.dz := by simp [Core.retire]
@[simp] theorem Core.retire_ff (w : Bool) : (k.retire w).ff = k.ff := by simp [Core.retire]
@[simp] theorem Core.retire_cnt (w : Bool) : (k.retire w).cnt = k.cnt := by simp [Core.retire]
@[simp] theorem Core.retire_car (w : Bool) : (k.retire w).car = k.car := by simp [Core.retire]
@[simp] theorem Core.retire_wait (w : Bool) : (k.retire w).wait = k.wait := by simp [Core.retire]
@[simp] theorem Core.retire_syn (w : Bool) : (k.retire w).syn = k.syn := by simp [Core.retire]
@[simp] theorem Core.retire_mon (w : Bool) : (k.retire w).mon = k.mon := by simp [Core.retire]
@[simp] theorem Core.retire_idn (w : Bool) : (k.retire w).idn = k.idn := by simp [Core.retire]
@[simp] theorem Core.retire_tiles (w : Bool) : (k.retire w).tiles = k.tiles := by simp [Core.retire]
@[simp] theorem Core.retire_arr (w : Bool) : (k.retire w).arr = k.arr := by simp [Core.retire]
@[simp] theorem Core.retire_slots (w : Bool) : (k.retire w).slots = k.slots := by simp [Core.retire]
@[simp] theorem Core.retire_ssel (w : Bool) : (k.retire w).ssel = k.ssel := by simp [Core.retire]
@[simp] theorem Core.retire_pw (w : Bool) : (k.retire w).pw = k.pw := by simp [Core.retire]
@[simp] theorem Core.retire_tr_status (w : Bool) : (k.retire w).tr.status = k.tr.status := by simp [Core.retire]
@[simp] theorem Core.retire_tr_ien (w : Bool) : (k.retire w).tr.ien = k.tr.ien := by simp [Core.retire]
@[simp] theorem Core.retire_tr_maint (w : Bool) : (k.retire w).tr.maint = k.tr.maint := by simp [Core.retire]
@[simp] theorem Core.retire_tr_trapdz (w : Bool) : (k.retire w).tr.trapdz = k.tr.trapdz := by simp [Core.retire]
@[simp] theorem Core.retire_tr_trapov (w : Bool) : (k.retire w).tr.trapov = k.tr.trapov := by simp [Core.retire]
@[simp] theorem Core.retire_tr_dtidx (w : Bool) : (k.retire w).tr.dtidx = k.tr.dtidx := by simp [Core.retire]
@[simp] theorem Core.retire_tr_dtd (w : Bool) : (k.retire w).tr.dtd = k.tr.dtd := by simp [Core.retire]
@[simp] theorem Core.retire_tr_save1 (w : Bool) : (k.retire w).tr.save1 = k.tr.save1 := by simp [Core.retire]
@[simp] theorem Core.retire_tr_save2 (w : Bool) : (k.retire w).tr.save2 = k.tr.save2 := by simp [Core.retire]
@[simp] theorem Core.retire_tr_rescue (w : Bool) : (k.retire w).tr.rescue = k.tr.rescue := by simp [Core.retire]
@[simp] theorem Core.retire_flow (w : Bool) : (k.retire w).flow = k.flow.advance w := by simp [Core.retire]
@[simp] theorem Core.retire_tm (w : Bool) : (k.retire w).tm = { k.tm with step := k.tm.step + 1 } := by simp [Core.retire]

/-! ### Registers -/

variable {s k}

/-- x0 reads as zero whatever was written (R49). -/
@[simp] theorem XRegs.get_zero (xs : XRegs) (b : Bank) : xs.get b 0 = 0 := rfl
/-- A write to x0 is discarded (R49). -/
@[simp] theorem XRegs.set_zero (xs : XRegs) (b : Bank) (v : Word) : xs.set b 0 v = xs := rfl
/-- A written register reads back. -/
theorem XRegs.get_set_self (xs : XRegs) (b : Bank) (r : Reg) (v : Word) (h : r ≠ 0) : (xs.set b r v).get b r = v := by
  have hr : r.toNat < 32 := r.isLt
  unfold XRegs.get XRegs.set
  rw [if_neg h, if_neg h]
  cases b <;> exact vget_vset_self _ _ _ _ hr
/-- Every other register, of this bank or another, reads as before. -/
theorem XRegs.get_set_ne (xs : XRegs) (b b' : Bank) (r r' : Reg) (v : Word) (h : b ≠ b' ∨ r ≠ r') :
    (xs.set b r v).get b' r' = xs.get b' r' := by
  by_cases h0 : r = 0
  · subst h0; rfl
  · unfold XRegs.get XRegs.set
    rw [if_neg h0]
    split
    · rfl
    · cases b <;> cases b' <;>
        first
        | rfl
        | (refine vget_vset_ne _ _ _ ?_
           intro e
           rcases h with h | h
           · exact h rfl
           · exact h (BitVec.eq_of_toNat_eq e))

end Sys2Proof.Machine
end

