-- ==== Sys2Proof/Laws/Issue.lean ====
section
/-! SUPPORT. What the issue of an instruction comes to on a core with nothing due before it. -/

namespace Sys2Proof.Machine

variable {s : State} {c : Nat} {w : Bool}

theorem landUpTo_nil (t : Nat) (h : (s.core c).tm.pend = []) : landUpTo c t s = s := by
  unfold landUpTo
  simp only [h, List.takeWhile_nil, List.foldl_nil]
  refine State.upd_same c _ ?_
  simp only [h, List.dropWhile_nil]
  rw [← h]

theorem landAll_nil (h : (s.core c).tm.pend = []) : landAll c s = s := landUpTo_nil _ h

/-- Steps in which no write comes due: only the count. -/
theorem stepsPass_nil (f : Nat → Core → Core) (n : Nat) (h : (s.core c).tm.pend = []) : stepsPass c f n s = s.upd c (f n) := by
  unfold stepsPass
  rw [h]; rfl

/-- With nothing in the array or on the update path, a step settles nothing. -/
theorem settleTo_nil (t u : Nat) (ha : (s.core c).arr.queue = []) (hu : (s.core c).arr.upd = []) : settleTo c t u s = s := by
  unfold settleTo; simp [ha, hu]

/-- Nothing comes due at a core that is idle. -/
theorem State.Idle.arrive (h : s.Idle c) : arrive c s = s := by
  have hc : catchUp c s = s := by
    unfold catchUp
    simp only [h.landed, List.map_nil, List.filter_nil, List.eraseDups_nil, List.foldl_nil]
    exact settleTo_nil _ _ h.array h.update
  unfold Machine.arrive heldBorrow
  rw [hc, h.borrow]

theorem State.Ready.idle (h : s.Ready c w) : s.Idle c :=
  ⟨h.core, h.issues, h.landed, h.clear, h.array, h.update, h.borrow, h.aligned⟩

/-- Nothing comes due at a core that is ready. -/
theorem State.Ready.arrive (h : s.Ready c w) : arrive c s = s := h.idle.arrive

theorem State.Ready.notDue (h : s.Ready c w) : (s.core c).delayedDue = false := by
  simp [Core.delayedDue, h.clear]

/-- Where both words can be fetched, so can the first. -/
theorem fetchFault_narrow {a b : WordErr} (h : fetchFault s c true a b = none) (w : Bool) : fetchFault s c w a b = none := by
  cases w
  · unfold fetchFault at h ⊢
    simp only at h ⊢
    split at h <;> simp_all
  · exact h

/-- The words of an instruction no longer than what a ready core may fetch can be fetched. -/
theorem State.Ready.fetched (h : s.Ready c w) {e : Enc} (he : e.wide = true → w = true) :
    fetchFault s c e.wide .clean .clean = none := by
  cases w
  · have : e.wide = false := by cases hw : e.wide <;> simp_all
    rw [this]; exact h.fetch
  · exact fetchFault_narrow h.fetch _

/-- An instruction that issues on a ready core: the first fault of its checks with what it marks, or its effect. -/
theorem issueBy_ready (h : s.Ready c w) {e : Enc} (he : e.wide = true → w = true) (ctl : Bool) (check : State → Option Trap)
    (mark : State → Trap → State → State) (run : State → State) :
    issueBy c e ctl check mark run s = match check s with
      | some t => done s (takeExceptionBy c t (mark s t) s)
      | none => done s (run s) := by
  have hr : (s.core c).repeats e = true := by simp [Core.repeats, h.rep]
  unfold issueBy
  rw [if_neg (Nat.not_le.2 h.core)]
  simp only [h.issues, hr, h.arrive, h.notDue, h.aligned, h.slots, h.fetched he]
  cases hk : check s <;> simp

/-- As `issueBy_ready`, where the fault does nothing beside its entry. -/
theorem issueI_ready (h : s.Ready c w) {e : Enc} (he : e.wide = true → w = true) (ctl : Bool) (check : State → Option Trap)
    (run : State → State) :
    issueI c e ctl check run s = match check s with
      | some t => done s (takeException c t s)
      | none => done s (run s) := issueBy_ready h he ctl check _ run

theorem issueP_ready (h : s.Ready c w) {e : Enc} (he : e.wide = true → w = true) (check : State → Option Trap) (eff : State → State) (hc : check s = none) :
    issueP c e check eff s = done s ((eff s).upd c fun k => k.retire e.wide) := by
  unfold issueP
  rw [issueI_ready h he, hc]

theorem issueP_trap (h : s.Ready c w) {e : Enc} (he : e.wide = true → w = true) (check : State → Option Trap) (eff : State → State) (t : Trap) (hc : check s = some t) :
    issueP c e check eff s = done s (takeException c t s) := by
  unfold issueP
  rw [issueI_ready h he, hc]

theorem issueE_ready (h : s.Ready c w) (hh : c < 144) {e : Enc} (he : e.wide = true → w = true) (check : State → Option Trap) (eff : State → State)
    (hc : check s = none) : issueE c e check eff s = done s ((eff s).upd c fun k => k.retire e.wide) := by
  unfold issueE
  rw [if_neg (by simp [isHub]; omega), issueP_ready h he check eff hc]

theorem done_upd (f : Core → Core) : done s (s.upd c f) = .next (s.upd c f) := rfl
theorem done_self : done s s = .next s := rfl
/-- Two updates of a core are one. -/
theorem done_upd_upd (f g : Core → Core) (h : c < 160) :
    done s ((s.upd c f).upd c g) = .next (s.upd c fun k => g (f k)) := by
  rw [State.upd_upd _ _ _ h]; rfl

/-- A core's instruction that only acts on that core: the whole next state. -/
theorem issueP_core (h : s.Ready c w) {e : Enc} (he : e.wide = true → w = true) (check : State → Option Trap) (f : Core → Core) (hc : check s = none) :
    issueP c e check (fun s => s.upd c f) s = .next (s.upd c fun k => (f k).retire e.wide) := by
  rw [issueP_ready h he check _ hc, done_upd_upd _ _ h.core]

end Sys2Proof.Machine
end

