-- ==== Sys2Proof/Laws/Host.lean ====
section
/-! SUPPORT. Outcomes of events: the queue they leave alone, the waits they end, and the taking of an exception with nothing under way. -/

namespace Sys2Proof.Machine

variable {s s0 s1 : State} {c : Nat}

/-- A command leaves the queue as it was. -/
theorem done_next (t : State) (h : done s0 s1 = .next t) : t = { s1 with pending := s0.pending } := by
  unfold done at h; injection h with h; exact h.symm
theorem done_pending (t : State) (h : done s0 s1 = .next t) : t.pending = s0.pending := by
  rw [done_next t h]

/-- A core that does not wait has no wait to end. -/
theorem endWait_none (h : (s.core c).wait = none) : endWait c s = s := by
  unfold endWait; rw [h]

theorem waitMoves_none (h : (s.core c).wait = none) : s.waitMoves s1 c = false := by
  unfold State.waitMoves; rw [h]

/-- Ending the waits of cores that do not wait changes nothing. -/
theorem endWaits_none (cs : List Nat) (h : ∀ c ∈ cs, (s.core c).wait = none) : cs.foldl (fun s c => endWait c s) s = s := by
  induction cs with
  | nil => rfl
  | cons d ds ih =>
    rw [List.foldl_cons, endWait_none (h d (by simp))]
    exact ih fun c hc => h c (List.mem_cons_of_mem _ hc)

/-- Where no core waits, before or after, an event is only itself. -/
theorem settleWaits_none (cs : List Nat) (f : State → State) (h : ∀ c ∈ cs, (s.core c).wait = none)
    (h1 : ∀ c ∈ cs, ((f s).core c).wait = none) : settleWaits cs f s = f s := by
  unfold settleWaits
  have hf : cs.filter (s.waitMoves (f s)) = [] := List.filter_eq_nil_iff.2 fun c hc => by simp [waitMoves_none (h c hc)]
  simp only [hf]
  exact endWaits_none cs h1

/-- The same of an event that has taken one state to another. -/
theorem settleAfter_none (cs : List Nat) (h : ∀ c ∈ cs, (s0.core c).wait = none) (h1 : ∀ c ∈ cs, (s1.core c).wait = none) :
    settleAfter cs s0 s1 = s1 := by
  unfold settleAfter
  suffices hs : ∀ (s : State), (∀ c ∈ cs, (s.core c).wait = none) → cs.foldl (fun (s : State) c =>
      endWait c (if s0.waitMoves s c then keepEvents c s0 s1 (idleSteps c (s0.causeNow c) s) else s)) s = s by
    exact hs s1 h1
  induction cs with
  | nil => intro s _; rfl
  | cons d ds ih =>
    intro s hs
    rw [List.foldl_cons, waitMoves_none (h d (by simp))]
    simp only [Bool.false_eq_true, if_false]
    rw [endWait_none (hs d (by simp))]
    exact ih (fun c hc => h c (List.mem_cons_of_mem _ hc)) (fun c hc => h1 c (List.mem_cons_of_mem _ hc)) s
      fun c hc => hs c (List.mem_cons_of_mem _ hc)

/-- No displaced task is to resume. -/
theorem bringBack_none (h : s.host.returning = []) : bringBack s = s := by
  unfold bringBack; simp [h]
/-- No net has come to hold a poisoned page. -/
theorem affectPoisoned_none (h : ∀ t ∈ s.nets, t.dirtyNeed = true ∨ t.lost = true ∨ s.netPoisoned t = false) : affectPoisoned s = s := by
  unfold affectPoisoned
  have hf : (s.nets.filter fun t => !t.dirtyNeed && !t.lost && s.netPoisoned t) = [] :=
    List.filter_eq_nil_iff.2 fun t ht => by rcases h t ht with h | h | h <;> simp [h]
  simp only [hf]

/-- What a host command answers where no core waits, before or after, no displaced task is to resume and no net has come to be poisoned:
what the rings come to owe is done, and a fall below the service minimum is logged. -/
theorem hostDone_noWaits (hb : s1.host.returning = [])
    (hn : ∀ t ∈ s1.nets, t.dirtyNeed = true ∨ t.lost = true ∨ s1.netPoisoned t = false) (h0 : s0.NoWaits) (h : (pump s1).NoWaits) :
    hostDone s0 s1 = done s0 (if s0.minService && !(pump s1).minService then
      (pump s1).logAdd 0x12 3 0xFF (unitOf 15 0) (pump s1).feat3 (pump s1).feat6 0 0 else pump s1) := by
  unfold hostDone
  simp only [bringBack_none hb, affectPoisoned_none hn]
  rw [settleAfter_none]
  · intro c hc; exact h0 c (by simpa using hc)
  · intro c hc
    have hc : c < 160 := by simpa using hc
    split
    · exact h c hc
    · exact h c hc

/-- An exception with no write pending and no delayed fault is its own cause's entry, at least 8 steps on. -/
theorem takeException_clear (t : Trap) (hp : (s.core c).tm.pend = []) (hd : (s.core c).tm.delayed = []) :
    takeException c t s = enterSync c t (max ((s.core c).tm.step + 8) ((s.core c).lastLand + 1)) s := by
  have hl : landEntry c s = s := by
    unfold landEntry
    simp only
    rw [if_pos (by simp [Core.lastLand, hp, hd])]
    exact landAll_nil hp
  unfold takeException takeExceptionBy
  simp [hl, hd]

/-- A cause whose descriptor is valid and reaches the level enters the descriptor's bank, or the other one where it is busy. -/
theorem routeOf_valid (n : Nat) (async : Bool) (hv : (s.desc c n).valid n = true) (hl : (s.core c).level.num ≤ (s.desc c n).tpriv)
    (hb : (s.core c).tr.status.busy (s.desc c n).bank = false) : routeOf s c n async = .enter n false (s.desc c n).bank := by
  unfold routeOf
  have : ¬ (s.desc c n).tpriv < (s.core c).level.num := by omega
  simp [hv, this, routeBank, hb]

/-- A ring that owes nothing is flushed to itself. -/
theorem flushRing_idle (r fuel : Nat) (h : ∀ p g, s.ring r = some (p, g) → g.waiting = []) : flushRing r fuel s = s := by
  cases fuel with
  | zero => rfl
  | succ n =>
    unfold flushRing
    cases hr : s.ring r with
    | none => rfl
    | some q =>
      obtain ⟨p, g⟩ := q
      have hw := h p g hr
      simp only [hw]
      split <;> rfl

/-- A channel that is not closing is not closed. -/
theorem closeDone_idle (ch : Nat) (h : ∀ x, s.chan ch = some x → x.closing = none) : closeDone ch s = s := by
  unfold closeDone
  cases hc : s.chan ch with
  | none => rfl
  | some x => simp [h x hc]

end Sys2Proof.Machine
end

