-- ==== Sys2Proof/Laws/Memory.lean ====
section
/-! SUPPORT. The store of bytes: every operation keeps its canonical form, and a read gives what the last write of the byte put there. -/

namespace Sys2Proof.Machine

variable {m n : Mem} {a b k : Nat}

/-! ### Canonical form -/

theorem Memory.wf_nil : Memory.wf [] := by simp [Memory.wf]

theorem Memory.wf_filter (p : Nat × Byte → Bool) (h : Memory.wf m) : Memory.wf (m.filter p) :=
  ⟨h.1.filter p, fun q hq => h.2 q (List.mem_of_mem_filter hq)⟩

/-- Three canonical stores, each wholly below the next, make one. -/
theorem Memory.wf_append {l r : Mem} (hl : Memory.wf l) (hm : Memory.wf m) (hr : Memory.wf r)
    (lm : ∀ p ∈ l, ∀ q ∈ m, p.1 < q.1) (lr : ∀ p ∈ l, ∀ q ∈ r, p.1 < q.1) (mr : ∀ p ∈ m, ∀ q ∈ r, p.1 < q.1) :
    Memory.wf (l ++ m ++ r) := by
  refine ⟨?_, ?_⟩
  · rw [List.pairwise_append, List.pairwise_append]
    refine ⟨⟨hl.1, hm.1, lm⟩, hr.1, ?_⟩
    intro p hp q hq
    rcases List.mem_append.1 hp with h | h
    · exact lr p h q hq
    · exact mr p h q hq
  · intro p hp
    rcases List.mem_append.1 hp with h | h
    · rcases List.mem_append.1 h with h | h
      · exact hl.2 p h
      · exact hm.2 p h
    · exact hr.2 p h

/-- Where the cells of written bytes lie. -/
theorem Mem.cells_range (bs : List Byte) : ∀ a, ∀ p ∈ Mem.cells a bs, a ≤ p.1 ∧ p.1 < a + bs.length := by
  induction bs with
  | nil => intro a p hp; simp [Mem.cells] at hp
  | cons x xs ih =>
    intro a p hp
    unfold Mem.cells at hp
    split at hp
    · have := ih (a + 1) p hp
      simp only [List.length_cons]; omega
    · rcases List.mem_cons.1 hp with rfl | h
      · simp
      · have := ih (a + 1) p h
        simp only [List.length_cons]; omega

theorem Memory.wf_cells (bs : List Byte) : ∀ a, Memory.wf (Mem.cells a bs) := by
  induction bs with
  | nil => intro a; exact Memory.wf_nil
  | cons x xs ih =>
    intro a
    unfold Mem.cells
    split
    · exact ih (a + 1)
    · rename_i hx
      refine ⟨List.pairwise_cons.2 ⟨fun q hq => ?_, (ih (a + 1)).1⟩, fun p hp => ?_⟩
      · have := Mem.cells_range xs (a + 1) q hq; omega
      · rcases List.mem_cons.1 hp with rfl | h
        · exact hx
        · exact (ih (a + 1)).2 p h

theorem Memory.wf_put (bs : List Byte) (h : Memory.wf m) : Memory.wf (m.put a bs) := by
  refine Memory.wf_append (Memory.wf_filter _ h) (Memory.wf_cells bs a) (Memory.wf_filter _ h) ?_ ?_ ?_
  · intro p hp q hq
    have := (List.mem_filter.1 hp).2
    have := Mem.cells_range bs a q hq
    simp at *; omega
  · intro p hp q hq
    have := (List.mem_filter.1 hp).2
    have := (List.mem_filter.1 hq).2
    simp at *; omega
  · intro p hp q hq
    have := Mem.cells_range bs a p hp
    have := (List.mem_filter.1 hq).2
    simp at *; omega

theorem Memory.wf_zero (h : Memory.wf m) : Memory.wf (m.zero a k) := by
  have w := Memory.wf_append (Memory.wf_filter (fun p => decide (p.1 < a)) h) Memory.wf_nil
    (Memory.wf_filter (fun p => decide (a + k ≤ p.1)) h) (by simp) ?_ (by simp)
  · simpa [Mem.zero] using w
  · intro p hp q hq
    have := (List.mem_filter.1 hp).2
    have := (List.mem_filter.1 hq).2
    simp at *; omega

/-- A store whose addresses are shifted by a rising map is canonical. -/
theorem Memory.wf_map (f : Nat → Nat) (h : Memory.wf m) (hf : ∀ p ∈ m, ∀ q ∈ m, p.1 < q.1 → f p.1 < f q.1) :
    Memory.wf (m.map fun p => (f p.1, p.2)) := by
  refine ⟨List.pairwise_map.2 (h.1.imp_of_mem fun hp hq hpq => hf _ hp _ hq hpq), ?_⟩
  intro p hp
  obtain ⟨q, hq, rfl⟩ := List.mem_map.1 hp
  exact h.2 q hq

theorem Memory.wf_window (h : Memory.wf m) : Memory.wf (m.window a k) := by
  refine Memory.wf_map (fun x => x - a) (Memory.wf_filter _ h) ?_
  intro p hp q hq hpq
  have := (List.mem_filter.1 hp).2
  have := (List.mem_filter.1 hq).2
  simp at *; omega

theorem Memory.wf_putWindow (h : Memory.wf m) (hn : Memory.wf n) : Memory.wf (m.putWindow a k n) := by
  refine Memory.wf_append (Memory.wf_filter _ h)
    (Memory.wf_map (fun x => x + a) (Memory.wf_filter _ hn) fun p _ q _ hpq => by simpa using hpq) (Memory.wf_filter _ h) ?_ ?_ ?_
  · intro p hp q hq
    obtain ⟨r, hr, rfl⟩ := List.mem_map.1 hq
    have := (List.mem_filter.1 hp).2
    simp at *; omega
  · intro p hp q hq
    have := (List.mem_filter.1 hp).2
    have := (List.mem_filter.1 hq).2
    simp at *; omega
  · intro p hp q hq
    obtain ⟨r, hr, rfl⟩ := List.mem_map.1 hp
    have := (List.mem_filter.1 hr).2
    have := (List.mem_filter.1 hq).2
    simp at *; omega

/-! ### Reading -/

theorem Mem.get_nil (x : Nat) : Mem.get [] x = 0 := rfl

theorem Mem.get_append (l r : Mem) (x : Nat) :
    Mem.get (l ++ r) x = if l.any (fun p => p.1 == x) then Mem.get l x else Mem.get r x := by
  unfold Mem.get
  rw [List.find?_append]
  cases hl : l.find? (fun p => p.1 == x) with
  | some p =>
    have : l.any (fun p => p.1 == x) = true :=
      List.any_eq_true.2 ⟨p, List.mem_of_find?_eq_some hl, List.find?_some (p := fun p : Nat × Byte => p.1 == x) hl⟩
    simp [this]
  | none =>
    have : l.any (fun p => p.1 == x) = false := by
      rw [List.any_eq_false]; intro q hq; simpa using List.find?_eq_none.1 hl q hq
    simp [this]

theorem Mem.get_none {x : Nat} (h : ∀ p ∈ m, p.1 ≠ x) : m.get x = 0 := by
  unfold Mem.get
  rw [List.find?_eq_none.2 fun p hp => by simpa using h p hp]

/-- A filter by address leaves a byte at an address it keeps, and nothing at one it drops. -/
theorem Mem.get_filter (f : Nat → Bool) (m : Mem) (x : Nat) :
    Mem.get (m.filter fun p => f p.1) x = if f x then m.get x else 0 := by
  induction m with
  | nil => simp [Mem.get]
  | cons q qs ih =>
    unfold Mem.get at *
    by_cases hx : q.1 = x
    · cases hf : f q.1 with
      | true => subst hx; simp [hf]
      | false => subst hx; simp only [List.filter_cons, hf] at ih ⊢; simpa using ih
    · cases hf : f q.1 <;> simp [hf, hx] at ih ⊢ <;> exact ih

theorem Mem.get_cons (a : Nat) (b : Byte) (m : Mem) (x : Nat) : Mem.get ((a, b) :: m) x = if a = x then b else m.get x := by
  by_cases h : a = x
  · simp [Mem.get, h]
  · unfold Mem.get
    rw [List.find?_cons_of_neg (by simpa using h)]
    simp [h]

theorem Mem.get_cells (bs : List Byte) : ∀ a x, (Mem.cells a bs).get x = if a ≤ x then bs.getD (x - a) 0 else 0 := by
  induction bs with
  | nil => intro a x; simp [Mem.cells, Mem.get]
  | cons b bs ih =>
    intro a x
    have step : (Mem.cells a (b :: bs)).get x = if a = x then b else (Mem.cells (a + 1) bs).get x := by
      have e : Mem.cells a (b :: bs) = if b = 0 then Mem.cells (a + 1) bs else (a, b) :: Mem.cells (a + 1) bs := rfl
      rw [e]
      split
      · rename_i hb
        split
        · rename_i hx
          subst hx
          rw [ih, if_neg (by omega), hb]
        · rfl
      · exact Mem.get_cons a b _ x
    rw [step]
    rcases Nat.lt_trichotomy x a with h | h | h
    · rw [if_neg (by omega), ih, if_neg (by omega), if_neg (by omega)]
    · subst h; simp
    · obtain ⟨d, rfl⟩ : ∃ d, x = a + 1 + d := ⟨x - (a + 1), by omega⟩
      have e1 : a + 1 + d - a = d + 1 := by omega
      have e2 : a + 1 + d - (a + 1) = d := by omega
      rw [if_neg (by omega), ih, if_pos (by omega), if_pos (by omega), e1, e2]
      simp

/-- A read after a write: the bytes written in their range, what stood there elsewhere. -/
theorem Mem.get_put (m : Mem) (a : Nat) (bs : List Byte) (x : Nat) :
    (m.put a bs).get x = if a ≤ x ∧ x < a + bs.length then bs.getD (x - a) 0 else m.get x := by
  unfold Mem.put
  rw [List.append_assoc, Mem.get_append, Mem.get_append]
  by_cases h1 : x < a
  · have : ¬ (a ≤ x ∧ x < a + bs.length) := by omega
    rw [if_neg this]
    split
    · rw [Mem.get_filter (fun y => decide (y < a))]; simp [h1]
    · rename_i hn
      have hz : m.get x = 0 := by
        have h := Mem.get_filter (fun y => decide (y < a)) m x
        simp only [h1, decide_true, if_true] at h
        rw [← h]
        refine Mem.get_none fun p hp he => hn (List.any_eq_true.2 ⟨p, hp, by simpa using he⟩)
      rw [hz]
      split
      · rw [Mem.get_cells]; simp [Nat.not_le.2 h1]
      · rw [Mem.get_filter (fun y => decide (a + bs.length ≤ y))]
        have : ¬ a + bs.length ≤ x := by omega
        simp [this]
  · have hl : (m.filter fun p => decide (p.1 < a)).any (fun p => p.1 == x) = false := by
      rw [List.any_eq_false]; intro p hp
      have := (List.mem_filter.1 hp).2
      simp at *; omega
    rw [if_neg (by simp [hl])]
    by_cases h2 : x < a + bs.length
    · have : a ≤ x ∧ x < a + bs.length := by omega
      rw [if_pos this]
      split
      · rw [Mem.get_cells]; simp [this.1]
      · rename_i hn
        have hz : (Mem.cells a bs).get x = 0 :=
          Mem.get_none fun p hp he => hn (List.any_eq_true.2 ⟨p, hp, by simpa using he⟩)
        rw [Mem.get_cells, if_pos this.1] at hz
        rw [hz, Mem.get_filter (fun y => decide (a + bs.length ≤ y))]
        have : ¬ a + bs.length ≤ x := by omega
        simp [this]
    · have : ¬ (a ≤ x ∧ x < a + bs.length) := by omega
      rw [if_neg this]
      have hc : (Mem.cells a bs).any (fun p => p.1 == x) = false := by
        rw [List.any_eq_false]; intro p hp
        have := Mem.cells_range bs a p hp
        simp; omega
      rw [if_neg (by simp [hc]), Mem.get_filter (fun y => decide (a + bs.length ≤ y))]
      have : a + bs.length ≤ x := by omega
      simp [this]

/-- A write read back at one of its bytes. -/
theorem Mem.get_put_at (m : Mem) (a : Nat) (bs : List Byte) (i : Nat) (h : i < bs.length) : (m.put a bs).get (a + i) = bs[i] := by
  rw [Mem.get_put, if_pos (by omega)]
  simp [h]

/-- A write leaves every byte outside its range. -/
theorem Mem.get_put_out (m : Mem) (a : Nat) (bs : List Byte) (x : Nat) (h : x < a ∨ a + bs.length ≤ x) : (m.put a bs).get x = m.get x := by
  rw [Mem.get_put, if_neg (by omega)]

theorem Mem.get_zero (m : Mem) (a k x : Nat) : (m.zero a k).get x = if a ≤ x ∧ x < a + k then 0 else m.get x := by
  have hf : m.zero a k = m.filter (fun p => decide (p.1 < a)) ++ m.filter (fun p => decide (a + k ≤ p.1)) := rfl
  rw [hf, Mem.get_append, Mem.get_filter (fun y => decide (y < a)), Mem.get_filter (fun y => decide (a + k ≤ y))]
  by_cases h1 : x < a
  · have : ¬ (a ≤ x ∧ x < a + k) := by omega
    rw [if_neg this]
    split
    · simp [h1]
    · rename_i hn
      have h := Mem.get_filter (fun y => decide (y < a)) m x
      simp only [h1, decide_true, if_true] at h
      rw [← h, Mem.get_none fun p hp he => hn (List.any_eq_true.2 ⟨p, hp, by simpa using he⟩)]
      have : ¬ a + k ≤ x := by omega
      simp [this]
  · have hl : (m.filter fun p => decide (p.1 < a)).any (fun p => p.1 == x) = false := by
      rw [List.any_eq_false]; intro p hp
      have := (List.mem_filter.1 hp).2
      simp at *; omega
    rw [if_neg (by simp [hl])]
    by_cases h2 : a + k ≤ x
    · have : ¬ (a ≤ x ∧ x < a + k) := by omega
      simp [h2, this]
    · have : a ≤ x ∧ x < a + k := by omega
      simp [h2, this]

/-- A byte at a place where a rising shift by `d` maps one. -/
theorem Mem.get_shift_up (m : Mem) (d x : Nat) :
    Mem.get (m.map fun p => (p.1 + d, p.2)) x = if d ≤ x then m.get (x - d) else 0 := by
  induction m with
  | nil => simp [Mem.get]
  | cons q qs ih =>
    obtain ⟨a, b⟩ := q
    rw [List.map_cons, Mem.get_cons, Mem.get_cons, ih]
    by_cases h : d ≤ x
    · by_cases e : a = x - d
      · have : a + d = x := by omega
        simp [h, e]
      · have : ¬ a + d = x := by omega
        simp [h, e, this]
    · have : ¬ a + d = x := by omega
      simp [h, this]

/-- A window reads as the store does, from its base. -/
theorem Mem.get_window (m : Mem) (a k x : Nat) : (m.window a k).get x = if x < k then m.get (a + x) else 0 := by
  have key : ∀ l : Mem, (∀ p ∈ l, a ≤ p.1) → Mem.get (l.map fun p => (p.1 - a, p.2)) x = l.get (a + x) := by
    intro l
    induction l with
    | nil => intro _; rfl
    | cons q qs ih =>
      intro h
      obtain ⟨u, b⟩ := q
      have hu : a ≤ u := h (u, b) (by simp)
      rw [List.map_cons, Mem.get_cons, Mem.get_cons, ih fun p hp => h p (List.mem_cons_of_mem _ hp)]
      by_cases e : u = a + x
      · have : u - a = x := by omega
        simp [e]
      · have : ¬ u - a = x := by omega
        simp [e, this]
  unfold Mem.window
  rw [key _ fun p hp => by have := (List.mem_filter.1 hp).2; simp at this; omega,
    Mem.get_filter (fun y => decide (a ≤ y ∧ y < a + k))]
  by_cases h : x < k
  · simp [h]
  · simp [h]

/-- A write of a range leaves the bytes outside it, and reads as its source inside. -/
theorem Mem.get_putWindow (m : Mem) (a k : Nat) (src : Mem) (x : Nat) :
    (m.putWindow a k src).get x = if a ≤ x ∧ x < a + k then src.get (x - a) else m.get x := by
  unfold Mem.putWindow
  have none_of (l : Mem) (h : ∀ p ∈ l, p.1 ≠ x) : l.any (fun p => p.1 == x) = false := by
    rw [List.any_eq_false]; intro p hp; simpa using h p hp
  have zero_of (l : Mem) (h : ¬ l.any (fun p => p.1 == x) = true) : l.get x = 0 :=
    Mem.get_none fun p hp he => h (List.any_eq_true.2 ⟨p, hp, by simpa using he⟩)
  rw [List.append_assoc, Mem.get_append, Mem.get_append]
  have e1 := Mem.get_filter (fun y => decide (y < a)) m x
  have e2 := Mem.get_filter (fun y => decide (a + k ≤ y)) m x
  have e3 := Mem.get_shift_up (src.filter fun p => decide (p.1 < k)) a x
  rw [Mem.get_filter (fun y => decide (y < k))] at e3
  rw [e2, e3]
  by_cases h1 : x < a
  · rw [if_neg (show ¬ (a ≤ x ∧ x < a + k) by omega)]
    simp only [h1, decide_true, if_true] at e1
    split
    · exact e1
    · rename_i hn
      rw [← e1, zero_of _ hn]
      have u1 : ¬ a ≤ x := by omega
      have u2 : ¬ a + k ≤ x := by omega
      simp [u1, u2]
  · rw [none_of (m.filter fun p => decide (p.1 < a)) (fun p hp => by
      have := (List.mem_filter.1 hp).2; simp at this; omega)]
    have u1 : a ≤ x := by omega
    by_cases h2 : x < a + k
    · have u3 : x - a < k := by omega
      have u4 : ¬ a + k ≤ x := by omega
      rw [if_pos (show a ≤ x ∧ x < a + k from ⟨u1, h2⟩)]
      simp only [u1, u3, u4, decide_true, decide_false, if_true, if_false, Bool.false_eq_true] at e3 ⊢
      split
      · rfl
      · rename_i hn
        rw [← e3, zero_of _ hn]
    · have u3 : ¬ x - a < k := by omega
      have u4 : a + k ≤ x := by omega
      rw [if_neg (show ¬ (a ≤ x ∧ x < a + k) by omega),
        none_of _ (fun p hp => by
          obtain ⟨q, hq, rfl⟩ := List.mem_map.1 hp
          have := (List.mem_filter.1 hq).2
          simp at this ⊢; omega)]
      simp [u4]

/-! ### Reads of several bytes -/

theorem Mem.bytes_length (m : Mem) (a k : Nat) : (m.bytes a k).length = k := by simp [Mem.bytes]

/-- Two stores that agree on a range read the same bytes there. -/
theorem Mem.bytes_congr {m n : Mem} {a k : Nat} (h : ∀ i, i < k → m.get (a + i) = n.get (a + i)) : m.bytes a k = n.bytes a k := by
  unfold Mem.bytes
  exact List.map_congr_left fun i hi => h i (by simpa using hi)

theorem Mem.bytes_put_self (m : Mem) (a : Nat) (bs : List Byte) : (m.put a bs).bytes a bs.length = bs := by
  refine List.ext_getElem (by simp [Mem.bytes]) fun i h1 h2 => ?_
  simp [Mem.bytes, Mem.get_put_at m a bs i h2]

theorem Mem.bytes_put_out (m : Mem) (a : Nat) (bs : List Byte) (x k : Nat) (h : x + k ≤ a ∨ a + bs.length ≤ x) :
    (m.put a bs).bytes x k = m.bytes x k :=
  Mem.bytes_congr fun i hi => Mem.get_put_out m a bs (x + i) (by omega)

theorem leBytes_length (k v : Nat) : (leBytes k v).length = k := by
  induction k generalizing v with
  | zero => rfl
  | succ k ih => simp [leBytes, ih]

/-- A number stored little-endian reads back, modulo its width. -/
theorem leNat_leBytes (k v : Nat) : leNat (leBytes k v) = v % 256 ^ k := by
  induction k generalizing v with
  | zero => simp [leBytes, leNat, Nat.mod_one]
  | succ k ih =>
    have e : 256 ^ (k + 1) = 256 * 256 ^ k := by rw [Nat.pow_succ, Nat.mul_comm]
    rw [leBytes, leNat, ih, BitVec.toNat_ofNat, e, Nat.mod_mul]

/-- A stored number reads back (R10). -/
theorem Mem.nat_put_self (m : Mem) (a k v : Nat) (h : v < 256 ^ k) : (m.put a (leBytes k v)).nat a k = v := by
  unfold Mem.nat
  have e := Mem.bytes_put_self m a (leBytes k v)
  rw [leBytes_length] at e
  rw [e, leNat_leBytes, Nat.mod_eq_of_lt h]

/-! ### The state's memory -/

/-- Memory lists nothing at reset. -/
theorem Memory.wf_reset : Memory.wf State.reset.mem := Memory.wf_nil

end Sys2Proof.Machine
end

