-- ==== Sys2Proof/Laws/Store.lean ====
section
/-! SUPPORT. What the state's own reads and writes of memory do: the bytes they put, and the canonical form they keep. -/

namespace Sys2Proof.Machine

variable {s : State}

theorem timeFires_mem (pa n : Nat) (ms : List (Nat × Nat × Nat)) : (s.timeFires pa n ms).mem = s.mem := by
  unfold State.timeFires
  induction ms generalizing s with
  | nil => rfl
  | cons m ms ih =>
    rw [List.foldl_cons, ih]
    split <;> rfl

theorem timeFires_poison (pa n : Nat) (ms : List (Nat × Nat × Nat)) : (s.timeFires pa n ms).poison = s.poison := by
  unfold State.timeFires
  induction ms generalizing s with
  | nil => rfl
  | cons m ms ih =>
    rw [List.foldl_cons, ih]
    split <;> rfl

theorem fireAll_mem (ms : List (Nat × Nat × Nat)) : (s.fireAll ms).mem = s.mem := by
  unfold State.fireAll
  induction ms generalizing s with
  | nil => rfl
  | cons m ms ih =>
    rw [List.foldl_cons, ih, State.upd_mem]

theorem fireOn_mem (pa n who : Nat) : (s.fireOn pa n who).mem = s.mem := by
  unfold State.fireOn
  split
  · rfl
  · rw [fireAll_mem, timeFires_mem]

theorem fireAll_poison (ms : List (Nat × Nat × Nat)) : (s.fireAll ms).poison = s.poison := by
  unfold State.fireAll
  induction ms generalizing s with
  | nil => rfl
  | cons m ms ih =>
    rw [List.foldl_cons, ih, State.upd_poison]

theorem fireOn_poison (pa n who : Nat) : (s.fireOn pa n who).poison = s.poison := by
  unfold State.fireOn
  split
  · rfl
  · rw [fireAll_poison, timeFires_poison]

/-- A write puts its bytes at the physical address. -/
theorem writePhys_mem (pa : Nat) (bs : List Byte) (who : Nat) : (s.writePhys pa bs who).mem = s.mem.put pa bs := by
  unfold State.writePhys
  rw [fireOn_mem]; rfl

theorem writePhys_poison (pa : Nat) (bs : List Byte) (who : Nat) : (s.writePhys pa bs who).poison = s.poison := by
  unfold State.writePhys
  rw [fireOn_poison]; rfl

theorem clearPoison_mem (u : Nat) : (s.clearPoison u).mem = s.mem := rfl
theorem setPoison_mem (u : Nat) : (s.setPoison u).mem = s.mem := by unfold State.setPoison; split <;> rfl

/-- A local store puts its bytes, whatever words lose their poison by it (R72, R451). -/
theorem storeLocal_mem (pa : Nat) (bs : List Byte) (who : Nat) : (s.storeLocal pa bs who).mem = s.mem.put pa bs := by
  unfold State.storeLocal
  have fold : ∀ (l : List (Nat × List Byte)) (t : State),
      (l.foldl (fun s p => if p.2.length = 32 then s.clearPoison p.1 else s) t).mem = t.mem := by
    intro l
    induction l with
    | nil => intro t; rfl
    | cons p ps ih =>
      intro t
      rw [List.foldl_cons, ih]
      split <;> rfl
  rw [fold, writePhys_mem]

/-- A far write keeps the canonical form. -/
theorem storeFar_wf (pa : Nat) (bs : List Byte) (who : Nat) (h : Memory.wf s.mem) : Memory.wf (s.storeFar pa bs who).1.mem := by
  unfold State.storeFar
  simp only
  split
  · rw [writePhys_mem]; exact Memory.wf_put bs h
  · have fold : ∀ (u : Nat) (l : List (Nat × List Byte)) (r : State × Option Byte), Memory.wf r.1.mem →
        Memory.wf (l.foldl (fun (r : State × Option Byte) p =>
          if r.1.lostAt p.1 then (r.1, r.2.orElse fun _ => some 0x52)
          else if p.2.length = u then ((r.1.writePhys p.1 p.2 who).clearPoison p.1, r.2)
          else if r.1.isPoisoned p.1 p.2.length then (r.1, r.2.orElse fun _ => some 0x52)
          else (r.1.writePhys p.1 p.2 who, r.2)) r).1.mem := by
      intro u l
      induction l with
      | nil => intro r hr; exact hr
      | cons p ps ih =>
        intro r hr
        rw [List.foldl_cons]
        refine ih _ ?_
        split
        · exact hr
        · split
          · rw [clearPoison_mem, writePhys_mem]; exact Memory.wf_put _ hr
          · split
            · exact hr
            · rw [writePhys_mem]; exact Memory.wf_put _ hr
    exact fold _ _ (s, none) h

theorem writePhys_wf (pa : Nat) (bs : List Byte) (who : Nat) (h : Memory.wf s.mem) : Memory.wf (s.writePhys pa bs who).mem := by
  rw [writePhys_mem]; exact Memory.wf_put bs h
theorem storeLocal_wf (pa : Nat) (bs : List Byte) (who : Nat) (h : Memory.wf s.mem) : Memory.wf (s.storeLocal pa bs who).mem := by
  rw [storeLocal_mem]; exact Memory.wf_put bs h
theorem zeroHome_wf (a n : Nat) (h : Memory.wf s.mem) : Memory.wf (s.zeroHome a n).mem := Memory.wf_zero h

theorem readPhys_ok (pa n : Nat) (h : s.isPoisoned pa n = false) (hl : s.lostAt pa = false) :
    s.readPhys pa n = .ok (s.mem.bytes pa n) := by
  unfold State.readPhys; simp [h, hl]

end Sys2Proof.Machine
end

