-- ==== Sys2Proof/Tests/Slice0.lean ====
section
/-! SUPPORT. Tests of single steps on small states, and for each statement a state and operands that meet its premises. -/

namespace Sys2Proof.Tests

open Sys2Proof Sys2Proof.Machine

set_option Elab.async false

/-! ### Helpers: outcomes, small states, the premises of the statements -/

/-- What a next state has; false of a stop. -/
def nx (o : Out) (P : State → Bool) : Bool :=
  match o with
  | .next t => P t
  | _ => false
def unknownUnit (o : Out) : Bool :=
  match o with
  | .refused r => decide (r = .noSuchUnit)
  | _ => false
/-- A core in service whose ring beats. -/
def serve (k : Core) : Core :=
  { k with pw := { k.pw with
    svc := .inService
    ring := true
    volt := 800
    vset := 800
    target := 800 } }
/-- The reset state with core 0 in service, changed by `f`, and the first page of its slice mapped where it lies, for code. -/
def one (f : Core → Core) : State :=
  let s := State.reset.upd 0 fun k => f (serve k)
  { s with place := { s.place with pages := [⟨0, 0, 0, 15, 0, 0, none, false, false, false⟩] } }
def x (r : Reg) (v : Word) (k : Core) : Core := k.setX k.bank r v
/-- Level T in the main bank, not in maintenance; likewise S. -/
def atT (k : Core) : Core := { k with tr := { k.tr with
  maint := false
  status := ⟨.t, .main, false, false, false, false⟩ } }
def atS (k : Core) : Core := { k with tr := { k.tr with
  maint := false
  status := ⟨.s, .b1, true, false, false, false⟩ } }
/-- A window of 64 KiB at address 0x10000. -/
def win (k : Core) : Core := { k with idn := { k.idn with
  lwb := 0x10000
  lwl := 0x10000 } }
def two (a b : Word) : State := one fun k => x 11 b (x 10 a k)
def pend (i : Instr) (s : State) (p : List Pend) : Bool := nx (exec i s) fun t => decide ((t.core 0).tm.pend = p)
/-- A write of x5 of bank 1 that lands at step `d`. -/
def px (d : Nat) (v : Word) : List Pend := [⟨d, .x .b1 5 v, none⟩]
/-- The instruction raises a cause: no descriptor is valid, so the rescue record takes ECAUSE, as escalated, and EDATA0 (R115). -/
def traps (i : Instr) (s : State) (cause data : Word) : Bool :=
  nx (exec i s) fun t => (t.core 0).pw.stopped && decide ((t.core 0).tr.rescue.mrcause = cause ∧ (t.core 0).tr.rescue.mredata0 = data)

def readyB (s : State) (c : Nat) (wide : Bool) : Bool :=
  decide (c < 160) && (s.core c).canIssue && (s.core c).tm.pend.isEmpty && (s.core c).tm.delayed.isEmpty &&
  (s.core c).arr.queue.isEmpty && (s.core c).arr.upd.isEmpty && (s.core c).pw.calHold.isNone &&
  decide ((s.core c).flow.pc.toNat % 4 = 0) && decide ((s.core c).flow.slots = 0) && (s.core c).flow.rep.isNone &&
  (fetchFault s c wide .clean .clean).isNone
theorem ready_of {s : State} {c : Nat} {wide : Bool} (h : readyB s c wide = true) : s.Ready c wide := by
  simp only [readyB, Bool.and_eq_true, decide_eq_true_eq, List.isEmpty_iff, Option.isNone_iff_eq_none] at h
  obtain ⟨⟨⟨⟨⟨⟨⟨⟨⟨⟨a, b⟩, c⟩, d⟩, e⟩, f⟩, g⟩, i⟩, j⟩, l⟩, m⟩ := h
  exact ⟨a, b, c, d, e, f, g, i, j, l, m⟩
theorem counts_of {s : State} (h : decide (s.pkg.hubs.length = 2 ∧ s.pkg.stks.length = 8 ∧ s.host.ports.length = 4 ∧
    s.pkg.mtab.length = 162 ∧ s.pkg.eps.length = 6) = true) : s.Counts := by
  simpa [State.Counts] using h
def noWaitsB (s : State) : Bool := (List.range 160).all fun c => (s.core c).wait.isNone
theorem noWaits_of {s : State} (h : noWaitsB s = true) : s.NoWaits := by
  intro c hc
  have := List.all_eq_true.mp h c (List.mem_range.mpr hc)
  simpa using this
def hostIdleB (s : State) : Bool :=
  decide (s.pkg.hubs.length = 2 ∧ s.pkg.stks.length = 8 ∧ s.host.ports.length = 4 ∧ s.pkg.mtab.length = 162 ∧
    s.pkg.eps.length = 6) && (s.host.chans.all fun c => decide (c.num < 256) && c.ring.waiting.isEmpty && c.closing.isNone) &&
    (s.host.ports.all fun p => match p.ring with | none => true | some g => g.waiting.isEmpty) &&
    s.host.returning.isEmpty && s.pkg.retireWait.isEmpty && s.nets.all fun t => t.dirtyNeed || t.lost ||
      ((t.pages.all fun va => (s.netPage t va).isSome) && s.place.pages.all fun q => decide (q.part = t.part →
        q.home < 2 ^ 48 ∧ s.isPoisoned q.home 0x10000 = false))
theorem hostIdle_of {s : State} (h : hostIdleB s = true) : s.HostIdle := by
  simp only [hostIdleB, Bool.and_eq_true, decide_eq_true_eq, List.all_eq_true, List.isEmpty_iff, Option.isNone_iff_eq_none,
    Bool.or_eq_true] at h
  obtain ⟨⟨⟨⟨⟨a, b⟩, c⟩, d⟩, e⟩, f⟩ := h
  refine ⟨a, fun q hq => ⟨(b q hq).1.1, (b q hq).1.2, (b q hq).2⟩, fun p hp g hg => ?_, d, e, fun t ht => ?_⟩
  · have := c p hp
    rw [hg] at this
    simpa using this
  · rcases f t ht with (g | g) | g
    · exact .inl g
    · exact .inr (.inl g)
    · exact .inr (.inr g)
theorem hostQuiet_of {s : State} (h : (noWaitsB s && hostIdleB s) = true) : s.HostQuiet := by
  rw [Bool.and_eq_true] at h
  exact ⟨noWaits_of h.1, hostIdle_of h.2⟩

/-! ### Ill-formed commands are refused -/

theorem test_wf_core : wellFormed (.add 159 1 2 3) = true ∧ wellFormed (.add 160 1 2 3) = false := by decide
theorem test_wf_position : wellFormed (.ringStop 143) = true ∧ wellFormed (.ringStop 144) = false := by decide
theorem test_wf_hub : wellFormed (.hubHeartbeat 1) = true ∧ wellFormed (.hubHeartbeat 2) = false := by decide
theorem test_wf_port : wellFormed (.portRetrain 3) = true ∧ wellFormed (.portRetrain 4) = false := by decide
theorem test_wf_stack : wellFormed (.stackLoss 7) = true ∧ wellFormed (.stackLoss 8) = false := by decide
theorem test_wf_net : wellFormed (.generationComplete 63) = true ∧ wellFormed (.generationComplete 64) = false := by decide
theorem test_wf_replica : wellFormed (.reReplication 63 1 0 7) = true ∧ wellFormed (.reReplication 63 2 0 7) = false ∧
    wellFormed (.reReplication 63 1 0 8) = false := by decide
theorem test_wf_move : wellFormed (.voltageMoveEnd (.core 143)) = true ∧ wellFormed (.voltageMoveEnd (.core 144)) = false ∧
    wellFormed (.voltageMoveEnd (.rail 7)) = true ∧ wellFormed (.voltageMoveEnd (.rail 8)) = false := by decide
theorem test_wf_link : wellFormed (.linkDown (.row 5)) = true ∧ wellFormed (.linkDown (.row 6)) = false ∧
    wellFormed (.linkDown (.column 4)) = false ∧ wellFormed (.linkDown (.stack 8)) = false ∧
    wellFormed (.linkDown (.bypass 8)) = false ∧ wellFormed (.linkDown (.hub 4)) = false ∧
    wellFormed (.linkDown (.tightrope 16)) = false := by decide
theorem test_wf_rail : wellFormed (.railOutOfRange (.vcore 7)) = true ∧ wellFormed (.railOutOfRange (.vcore 8)) = false := by decide
theorem test_wf_throttle : wellFormed (.throttle (.thermal 23 96)) = true ∧ wellFormed (.throttle (.thermal 10 96)) = false ∧
    wellFormed (.throttle (.thermal 24 96)) = false ∧ wellFormed (.throttle (.vrfault 12)) = false ∧
    wellFormed (.thermalTrip ⟨9, 110⟩) = true ∧ wellFormed (.thermalTrip ⟨15, 110⟩) = false := by decide
theorem test_wf_endpoint : wellFormed (.getEndpointId (.i3c 1)) = true ∧ wellFormed (.getEndpointId (.i3c 2)) = false ∧
    wellFormed (.getEndpointId (.port 3)) = true ∧ wellFormed (.getEndpointId (.port 4)) = false := by decide
theorem test_wf_line : wellFormed (.correctingWriteback 7 false ⟨Machine.lineCount false - 1, []⟩) = true ∧
    wellFormed (.correctingWriteback 7 false ⟨Machine.lineCount false, []⟩) = false ∧
    wellFormed (.correctingWriteback 7 true ⟨Machine.lineCount true, []⟩) = false := by decide
theorem test_wf_bank : wellFormed (.refreshDue 7 11 31 3) = true ∧ wellFormed (.refreshDue 7 12 31 3) = false ∧
    wellFormed (.refreshDue 7 11 32 3) = false ∧ wellFormed (.refreshDue 7 11 31 4) = false ∧
    wellFormed (.refreshRateChange 0 12 60) = false ∧ wellFormed (.stackCalibration 0 32 false) = false := by decide
theorem test_wf_scrub : wellFormed (.scrubRead 0 false (Machine.bankCount false - 1) []) = true ∧
    wellFormed (.scrubRead 0 false (Machine.bankCount false) []) = false := by decide
theorem test_wf_domain : wellFormed (.canaryMeasurement 161 [] true) = true ∧ wellFormed (.canaryMeasurement 162 [] true) = false := by
  decide
theorem test_unknown_units_refused :
    (unknownUnit (exec (.add 160 1 2 3) State.reset) && unknownUnit (exec (.ringStop 144) State.reset) &&
     unknownUnit (exec (.portRetrain 4) State.reset) && unknownUnit (exec (.stackLoss 8) State.reset) &&
     unknownUnit (exec (.hubHeartbeat 2) State.reset) && unknownUnit (exec (.linkDown (.row 6)) State.reset) &&
     unknownUnit (exec (.generationComplete 64) State.reset) && unknownUnit (exec (.railOutOfRange (.vcore 8)) State.reset) &&
     unknownUnit (exec (.throttle (.thermal 24 96)) State.reset) && unknownUnit (exec (.getEndpointId (.port 4)) State.reset)) = true := by
  decide +kernel

/-! ### The queue, memory -/

theorem test_step_front : nx (step { one id with pending := [.addi 0 5 0 7, .bypass] })
    (fun t => decide (t.pending = [.bypass] ∧ (t.core 0).tm.pend = px 1 7) && t.pending.all wellFormed) = true := by decide +kernel
theorem test_step_idle : nx (step { State.reset with pkg := { State.reset.pkg with pins := { State.reset.pkg.pins with up := true } } })
    (fun t => decide (t.time = 10)) = true := by decide +kernel
theorem test_step_idle_in_reset : nx (step State.reset) (fun t => decide (t.time = 0)) = true := by decide +kernel
/-- The premises of MemoryInvariant: stored bytes in canonical form, and a step that changes one. -/
theorem test_memory_step : State.StoresOk { one (fun k => x 5 0x10003 (win k)) with mem := [(3, 7)] } ∧
    nx (step { one (fun k => x 5 0x10003 (win k)) with
      mem := [(3, 7)]
      pending := [.sb 0 0 5 0] }) (fun t => decide (t.mem = [])) = true := by
  refine ⟨?_, by decide +kernel⟩
  unfold State.StoresOk
  decide +kernel

/-! ### Scalar integer (R56, R57) -/

theorem test_ready : (two 1 2).Ready 0 false := ready_of (by decide +kernel)
theorem test_logic : (pend (.and 0 5 10 11) (two 0xF0 0x3C) (px 1 0x30) && pend (.or 0 5 10 11) (two 0xF0 0x3C) (px 1 0xFC) &&
    pend (.xor 0 5 10 11) (two 0xF0 0x3C) (px 1 0xCC)) = true := by decide +kernel
/-- Shifts take bits 5:0 of the distance. -/
theorem test_shifts : (pend (.sll 0 5 10 11) (two 3 65) (px 1 6) && pend (.srl 0 5 10 11) (two (-1) 63) (px 1 1) &&
    pend (.sra 0 5 10 11) (two (-8) 1) (px 1 (-4))) = true := by decide +kernel
theorem test_compares : (pend (.slt 0 5 10 11) (two (-1) 1) (px 1 1) && pend (.sltu 0 5 10 11) (two (-1) 1) (px 1 0) &&
    pend (.min 0 5 10 11) (two (-1) 1) (px 1 (-1)) && pend (.max 0 5 10 11) (two (-1) 1) (px 1 1) &&
    pend (.minu 0 5 10 11) (two (-1) 1) (px 1 1) && pend (.maxu 0 5 10 11) (two (-1) 1) (px 1 (-1))) = true := by decide +kernel
theorem test_mul_high : (pend (.mulh 0 5 10 11) (two (-1) 2) (px 3 (-1)) && pend (.mulhu 0 5 10 11) (two (-1) 2) (px 3 1)) = true := by
  decide +kernel
theorem test_immediates : (pend (.andi 0 5 10 0xFFFF) (two (-1) 0) (px 1 0xFFFF) && pend (.ori 0 5 10 0x8000) (two 1 0) (px 1 0x8001) &&
    pend (.xori 0 5 10 1) (two 1 0) (px 1 0) && pend (.slti 0 5 10 0xFFFF) (two (-2) 0) (px 1 1) &&
    pend (.ori16 0 5 10 1) (two 0 0) (px 1 0x10000) && pend (.ori32 0 5 10 1) (two 0 0) (px 1 0x100000000) &&
    pend (.ori48 0 5 10 0x8000) (two 0 0) (px 1 0x8000000000000000) && pend (.lui 0 5 0 0x8000) (two 0 0) (px 1 (-0x80000000))) = true := by
  decide +kernel
/-- SHI at the two ends of each of its ranges. -/
theorem test_shi : (pend (.shi 0 5 10 0) (two 3 0) (px 1 3) && pend (.shi 0 5 10 63) (two 3 0) (px 1 0x8000000000000000) &&
    pend (.shi 0 5 10 64) (two 3 0) (px 1 3) && pend (.shi 0 5 10 127) (two (-1) 0) (px 1 1) &&
    pend (.shi 0 5 10 128) (two (-2) 0) (px 1 (-2)) && pend (.shi 0 5 10 191) (two (-2) 0) (px 1 (-1)) &&
    traps (.shi 0 5 10 192) (two 1 0) 0x11E (encI 7 5 10 192).data && traps (.lui 0 5 1 0) (two 1 0) 0x11E (encI 8 5 1 0).data) = true := by
  decide +kernel
/-- The exact result fits, or not; the trap of the maintenance state. -/
theorem test_overflow : (pend (.add 0 5 10 11) (two 1 2) (px 1 3) &&
    pend (.add 0 5 10 11) (two 0x7FFFFFFFFFFFFFFF 1) (px 1 0x8000000000000000 ++ [⟨1, .aflags true false, none⟩]) &&
    pend (.sub 0 5 10 11) (two 0x8000000000000000 1) (px 1 0x7FFFFFFFFFFFFFFF ++ [⟨1, .aflags true false, none⟩]) &&
    pend (.mul 0 5 10 11) (two 0x4000000000000000 2) (px 3 0x8000000000000000 ++ [⟨3, .aflags true false, none⟩]) &&
    pend (.addi 0 5 10 0xFFFF) (two 1 0) (px 1 0)) = true := by decide +kernel
def trapov (k : Core) : Core := { k with tr := { k.tr with
  trapov := true
  trapdz := true } }
theorem test_overflow_trap : ((one fun k => trapov (x 11 1 (x 10 0x7FFFFFFFFFFFFFFF k))).Ready 0 false) ∧
    nx (exec (.add 0 5 10 11) (one fun k => trapov (x 11 1 (x 10 0x7FFFFFFFFFFFFFFF k))))
      (fun t => decide ((t.core 0).tm.pend = [⟨1, .aflags true false, none⟩] ∧
        (t.core 0).tm.delayed = [⟨0, 1, none, { cause := 0x0D, edata0 := 0 }⟩])) = true :=
  ⟨ready_of (by decide +kernel), by decide +kernel⟩
/-- Division by zero, and −2^63 by −1. -/
theorem test_divide : (pend (.div 0 5 10 11) (two (-7) 2) (px 18 (-3)) && pend (.rem 0 5 10 11) (two (-7) 2) (px 18 (-1)) &&
    pend (.divu 0 5 10 11) (two 7 2) (px 18 3) && pend (.remu 0 5 10 11) (two 7 2) (px 18 1) &&
    pend (.div 0 5 10 11) (two 9 0) (px 18 (-1) ++ [⟨18, .aflags false true, none⟩]) &&
    pend (.remu 0 5 10 11) (two 9 0) (px 18 9 ++ [⟨18, .aflags false true, none⟩]) &&
    pend (.div 0 5 10 11) (two 0x8000000000000000 (-1)) (px 18 0x8000000000000000 ++ [⟨18, .aflags true false, none⟩]) &&
    pend (.rem 0 5 10 11) (two 0x8000000000000000 (-1)) (px 18 0 ++ [⟨18, .aflags true false, none⟩])) = true := by decide +kernel
theorem test_divide_trap : nx (exec (.div 0 5 10 11) (one fun k => trapov (x 10 9 k)))
    (fun t => (t.core 0).dz && decide ((t.core 0).tm.pend = [] ∧ (t.core 0).tr.rescue.mrcause = 0xC1E)) = true := by decide +kernel

/-! ### Flow, landing, control transfers, local memory -/

def slot1 (k : Core) : Core := { k with flow := { k.flow with
  slots := 1
  btgt := 0x400 } }
def slot2 (k : Core) : Core := { k with flow := { k.flow with
  slots := 2
  btgt := 0x400 } }
/-- The words of an instruction that may be repeated, ADD x5, x10, x11; of a wide one that may; of one that may not, a jump. -/
def nxAdd : RepNext := ⟨(encR 1 0 5 10 11).w0, 0⟩
def nxWide : RepNext := ⟨0xFD000000, 0⟩
def nxJump : RepNext := ⟨(encJ 0x26 3).w0, 0⟩
def rept (n : Nat) (k : Core) : Core := { k with flow := { k.flow with rep := some ⟨n, false, 0, false, nxAdd⟩ } }
theorem test_flow : let go (f : Core → Core) : Word × Nat := let g := ((f (serve .reset)).retire false).flow; (g.pc, g.slots)
    go id = (4, 0) ∧ go slot2 = (4, 1) ∧ go slot1 = (0x400, 0) ∧ go (rept 2) = (0, 0) ∧ go (rept 1) = (4, 0) := by decide +kernel
/-- REP by a count of 2, of 0, past 65,535 and, at T, past 2,048. -/
theorem test_rep : (nx (exec (.rep 0 0 2 nxAdd) (one id)) (fun t => decide ((t.core 0).flow.rep = some ⟨2, false, 0, false, nxAdd⟩)) &&
    nx (exec (.repU 0 0 0 nxWide) (one id)) (fun t => decide ((t.core 0).flow.pc = 12 ∧ (t.core 0).flow.rep = none)) &&
    nx (exec (.repU 0 10 0 nxAdd) (one fun k => x 10 2048 (atT k))) (fun t => (t.core 0).flow.rep.isSome) &&
    traps (.repU 0 10 0 nxAdd) (one fun k => x 10 2049 (atT k)) 0x11E (encP 10 true 0).data &&
    traps (.rep 0 10 0 nxAdd) (two 65536 0) 0x11E (encP 10 false 0).data &&
    traps (.rep 0 0 2 nxJump) (two 0 0) 0x11E (encP 0 false 2).data) = true := by decide +kernel
/-- A repeat in progress: the repeated ADD issues, another instruction is ignored. -/
theorem test_repeat : (one (rept 2)).Idle 0 ∧ fetchFault (one (rept 2)) 0 false .clean .clean = none ∧
    repEnc nxAdd = encR 1 0 5 10 11 ∧ addOv ((one (rept 2)).core 0 |>.rx 10) ((one (rept 2)).core 0 |>.rx 11) = false ∧
    repEnc nxAdd ≠ encR 1 0 5 10 12 ∧
    nx (exec (.add 0 5 10 11) (one (rept 2))) (fun t => decide ((t.core 0).flow.rep.map (·.left) = some 1)) = true ∧
    nx (exec (.add 0 5 10 12) (one (rept 2))) (fun t => decide ((t.core 0).tm.step = 0)) = true :=
  ⟨⟨by decide, by decide +kernel, by decide +kernel, by decide +kernel, by decide +kernel, by decide +kernel, by decide +kernel,
    by decide +kernel⟩, by decide +kernel⟩
def waiting (p : Pend) (k : Core) : Core := { k with tm := { k.tm with pend := [p] } }
/-- A write lands at its step and not before; RESULT_LANDS goes there. -/
theorem test_landing : let s := one (waiting ⟨3, .x .b1 5 7, none⟩)
    ((landUpTo 0 2 s).core 0).rx 5 = 0 ∧ ((landUpTo 0 3 s).core 0).rx 5 = 7 ∧
    nx (exec (.resultLands 0) s) (fun t => decide ((t.core 0).rx 5 = 7 ∧ (t.core 0).tm.step = 3)) = true := by decide +kernel
/-- Uncorrectable loads: the premise of each clause, and the delayed fault. -/
theorem test_load_errors : let p (l : LoadKind) : Pend := ⟨6, .x .b1 5 7, some (l, 0x10008, 0)⟩
    (nx (exec (.localLoadUe ⟨0, .bad, none⟩) (one (waiting (p .scalar)))) (fun t => decide ((t.core 0).tm.pend = [] ∧
       (t.core 0).tm.delayed = [⟨0, 6, some .scalar, { cause := 3, reason := 0x54, edata0 := 0x10008 }⟩])) &&
     nx (exec (.localVloadUe ⟨0, .bad⟩) (one (waiting { p .vector with land := 10 }))) (fun t => decide ((t.core 0).tm.delayed.length = 1)) &&
     nx (exec (.tgetUe ⟨0, .bad⟩) (one (waiting { p (.tget 12) with land := 10 }))) (fun t =>
       decide ((t.core 0).tm.delayed.map (·.trap.index) = [12]))) = true := by decide +kernel
def goes (i : Instr) (s : State) (target : Word) : Bool :=
  nx (exec i s) fun t => decide ((t.core 0).flow.pc = 4 ∧ (t.core 0).flow.slots = 2 ∧ (t.core 0).flow.btgt = target)
/-- Taken: PC + 4·off; not taken: past the two slots, here of 4 and 8 bytes. -/
theorem test_branches : (goes (.beq 0 10 11 3 ⟨false, true⟩) (two 1 1) 12 && goes (.beq 0 10 11 3 ⟨false, true⟩) (two 1 2) 16 &&
    goes (.bne 0 10 11 3 ⟨false, true⟩) (two 1 2) 12 && goes (.blt 0 10 11 0xFFFF ⟨false, true⟩) (two (-1) 1) (-4) &&
    goes (.bge 0 10 11 3 ⟨false, true⟩) (two 1 1) 12 && goes (.bltu 0 10 11 3 ⟨false, true⟩) (two (-1) 1) 16 &&
    goes (.bgeu 0 10 11 3 ⟨false, true⟩) (two (-1) 1) 12 && goes (.j 0 0x3FFFFFF ⟨false, false⟩) (two 0 0) (-4) &&
    goes (.jr 0 10 ⟨false, false⟩) (two 0x800 0) 0x800) = true := by decide +kernel
/-- The words after an ERET's target, ADD, and a first slot of one word. -/
def back : RetNext := ⟨nxAdd, false⟩
theorem test_no_transfer_in_slot : (one slot1).Idle 0 ∧ ((one slot1).core 0).flow.slots ≠ 0 ∧
    (traps (.j 0 3 ⟨false, false⟩) (one slot1) 0x11E (encJ 0x26 3).data && traps (.eret 0 back) (one slot1) 0x11E (encGate 1 0).data) = true :=
  ⟨⟨by decide, by decide +kernel, by decide +kernel, by decide +kernel, by decide +kernel, by decide +kernel, by decide +kernel,
    by decide +kernel⟩, by decide +kernel, by decide +kernel⟩
def rstack (p b l : BitVec 16) (k : Core) : Core := { k with rsM := ⟨p, b, l⟩ }
/-- The premises of a call, of a return, of an overflow and of an underflow, with what each does. -/
theorem test_call : nx (exec (.call 0 4 ⟨⟨false, false⟩, .clean⟩) (one (rstack 8 0 16))) (fun t =>
    decide ((t.core 0).flow.btgt = 16 ∧ (t.core 0).tm.pend = [⟨1, .rsp .m 16, none⟩] ∧
      t.mem.nat (sliceBase 0 + rsRegion .m + 8) 8 = 12)) = true := by decide +kernel
theorem test_return : nx (exec (.ret 0 ⟨⟨false, false⟩, .clean⟩) { one (rstack 8 0 16) with mem := [(sliceBase 0 + rsRegion .m, 0x40)] }) (fun t =>
    decide ((t.core 0).flow.btgt = 0x40 ∧ (t.core 0).tm.pend = [⟨1, .rsp .m 0, none⟩])) = true := by decide +kernel
theorem test_call_bounds : (traps (.call 0 4 ⟨⟨false, false⟩, .clean⟩) (one (rstack 16 0 16)) 0x61E 16 &&
    traps (.ret 0 ⟨⟨false, false⟩, .clean⟩) (one (rstack 0 0 16)) 0x71E 0) = true := by decide +kernel
def box (m : List Host.Cell) (a v : Word) : State := { one (fun k => x 6 v (x 10 a (win k))) with mem := m }
def bytes3 : List Host.Cell := [(0x0, 0x81), (1, 0x82), (7, 0x83)]
def lx (d : Nat) (a v : Word) : List Pend := [⟨d, .x .b1 5 v, some (.scalar, a, 0)⟩]
/-- The premises of the aligned clauses at the foot of the window, of the misaligned one, and of the one past its end. -/
theorem test_loads : (pend (.lb 0 5 10 0) (box bytes3 0x10000 0) (lx 6 0x10000 (-127)) &&
    pend (.lbu 0 5 10 0) (box bytes3 0x10000 0) (lx 6 0x10000 0x81) &&
    pend (.lh 0 5 10 0) (box bytes3 0x10000 0) (lx 6 0x10000 (-32127)) && pend (.lhu 0 5 10 0) (box bytes3 0x10000 0) (lx 6 0x10000 0x8281) &&
    pend (.lw 0 5 10 4) (box bytes3 0x10000 0) (lx 6 0x10004 (-0x7D000000)) &&
    pend (.lwu 0 5 10 4) (box bytes3 0x10000 0) (lx 6 0x10004 0x83000000) &&
    pend (.ld 0 5 10 0) (box bytes3 0x10000 0) (lx 6 0x10000 0x8300000000008281) &&
    pend (.lwf 0 5 10 0) (box bytes3 0x10000 0) [⟨6, .f 5 0x8281, some (.scalar, 0x10000, 0)⟩] &&
    pend (.ldf 0 5 10 0) (box bytes3 0x10000 0) [⟨6, .f 5 0x8300000000008281, some (.scalar, 0x10000, 0)⟩] &&
    traps (.ld 0 5 10 4) (box [] 0x10000 0) 0x21E 0x10004 && traps (.ld 0 5 10 0) (box [] 0x20000 0) 0x31E 0x20000 &&
    traps (.sh 0 6 10 1) (box [] 0x10000 0) 0x21E 0x10001 && traps (.stf 0 6 10 0) (box [] 0x20000 0) 0x31E 0x20000) = true := by
  decide +kernel
def stored (i : Instr) (a v : Word) (m : List Host.Cell) : Bool := nx (exec i (box bytes3 a v)) fun t => decide (t.mem = m)
/-- A store at the foot and at the end of the window. -/
theorem test_stores : (stored (.sb 0 6 10 0) 0x10000 0x1234 [(0, 0x34), (1, 0x82), (7, 0x83)] &&
    stored (.sh 0 6 10 0) 0x1FFFE 0x1234 [(0, 0x81), (1, 0x82), (7, 0x83), (0xFFFE, 0x34), (0xFFFF, 0x12)] &&
    stored (.sw 0 6 10 4) 0x10000 0x5678 [(0, 0x81), (1, 0x82), (4, 0x78), (5, 0x56)] &&
    stored (.sd 0 6 10 0) 0x10000 1 [(0, 1)]) = true := by decide +kernel
/-- A store into a poisoned word stands, the word stays poisoned, and it is logged; a word found bad or corrected as a store merges. -/
theorem test_store_merge : let s := { box bytes3 0x10040 5 with poison := [0x40] }
    let m := one fun k => { k with tm := { k.tm with
      step := 1
      merged := ⟨0, 0, [0]⟩ } }
    (s.isPoisoned (s.windowPa 0 0x10040) 1 && nx (exec (.sb 0 6 10 0) s) (fun t => decide (t.poison = [0x40] ∧ t.mem.get 0x40 = 5 ∧ t.log.next = s.log.next + 1 ∧
      (t.core 0).tm.merged.words = [0x40])) &&
    nx (exec (.localLoadUe ⟨0, .bad, some 0⟩) m) (fun t => decide (t.poison = [0] ∧ t.log.next = m.log.next + 1)) &&
    nx (exec (.localLoadUe ⟨0, .fixed 3, some 0⟩) m) (fun t => decide (t.poison = [] ∧ t.log.next = m.log.next + 1))) = true := by decide +kernel
theorem test_call_corrected : nx (exec (.call 0 4 ⟨⟨false, false⟩, .fixed 3⟩) (one (rstack 8 0 16))) (fun t =>
    decide (t.log.next = (one id).log.next + 1 ∧ (t.core 0).flow.btgt = 16)) = true := by decide +kernel
theorem test_float_stores : let s := { one (fun k => x 10 0x10000 ((win k).setF 6 0x100000002)) with mem := bytes3 }
    (nx (exec (.stf 0 6 10 0) s) (fun t => decide (t.mem = [(0, 2), (4, 1)])) &&
     nx (exec (.swf 0 6 10 0) s) (fun t => decide (t.mem = [(0, 2), (7, 0x83)]))) = true := by decide +kernel
/-- A Carousel set of 4 elements of 8 bytes, linear: base, length, stride 3. -/
def car (k : Core) : Core := { win k with car := { k.car with
  cb := k.car.cb.set 1 0x10000
  cl := k.car.cl.set 1 32
  cs := k.car.cs.set 1 24 } }
theorem test_carousel : ((one car).Ready 0 false) ∧ ((one car).core 0).carOk 1 8 = true ∧ ((one car).core 0).carMode 1 = false ∧
    (let s := { one (fun k => x 10 40 (car k)) with mem := bytes3 }
     nx (exec (.ldC 0 5 10 1 3 false) s) (fun t => decide ((t.core 0).tm.pend =
       [⟨1, .x .b1 10 0, none⟩, ⟨6, .x .b1 5 0, some (.scalar, 0x10008, 0)⟩])) = true ∧
     nx (exec (.stC 0 10 10 1 3 false) s) (fun t => decide (t.mem = [(0, 0x81), (1, 0x82), (7, 0x83), (8, 40)])) = true) ∧
    traps (.ldC 0 5 10 2 3 false) (one car) 0x2041E 0 = true :=
  ⟨ready_of (by decide +kernel), by decide +kernel, by decide +kernel, by decide +kernel, by decide +kernel⟩
/-- A base so high that the sum passes the end of the address space. -/
def carHigh (k : Core) : Core := { car k with car := { (car k).car with cb := k.car.cb.set 1 0xFFFFFFFFFFFFFFF8 } }
theorem test_carousel_past_end : let s := one fun k => x 10 8 (carHigh k)
    s.Ready 0 false ∧ (s.core 0).carOk 1 8 = true ∧ ((s.core 0).carAddr 1 8 ((s.core 0).rx 10)).toNat % 8 = 0 ∧
    2 ^ 64 ≤ (s.core 0).carSum 1 8 ((s.core 0).rx 10) ∧ traps (.ldC 0 5 10 1 3 false) s 0x31E 0 = true :=
  ⟨ready_of (by decide +kernel), by decide +kernel⟩
/-- A base off its element. -/
def carOff4 (k : Core) : Core := { car k with car := { (car k).car with cb := k.car.cb.set 1 0x10004 } }
/-- A size above 3, a load into its own index, no set, a misaligned address, one past the end. -/
theorem test_carousel_bad : ((one carOff4).Ready 0 false ∧ ((one carOff4).core 0).carOk 1 8 = true) ∧
    (traps (.stC 0 5 10 1 4 false) (one car) 0x11E (encC 5 10 1 4 1 false).data &&
     traps (.ldC 0 10 10 1 3 false) (one car) 0x11E (encC 10 10 1 3 0 false).data && traps (.stC 0 5 10 2 3 false) (one car) 0x2041E 0 &&
     traps (.ldC 0 5 10 1 3 false) (one carOff4) 0x21E 0x10004 && traps (.stC 0 5 10 1 3 false) (one carOff4) 0x21E 0x10004 &&
     traps (.stC 0 5 10 1 3 false) (one fun k => x 10 8 (carHigh k)) 0x31E 0) = true :=
  ⟨⟨ready_of (by decide +kernel), by decide +kernel⟩, by decide +kernel⟩

/-! ### Number formats and scalar floating point (R125 to R141) -/

/-- The premises of the corner cases: a NaN operand that signals, unlike infinities, zeros, a negative number. -/
theorem test_special_values : (f32 0x7F800001).isNan = true ∧ (f32 0x7F800001).isSig = true ∧ f32 0x7F800000 = .inf false ∧
    f32 0xFF800000 = .inf true ∧ (f32 0x80000000).isZero = true ∧ f32 0xBF800000 = .fin true 0x800000 (-23) ∧
    faddB 0x7F800001 0 = (0x7FC00000, ffNV) ∧ faddB 0x7F800000 0xFF800000 = (0x7FC00000, ffNV) ∧
    fmulB 0x7F800000 0 = (0x7FC00000, ffNV) ∧ fdivB 0 0 = (0x7FC00000, ffNV) ∧ fdivB 0xBF800000 0 = (0xFF800000, ffDZ) ∧
    fsqrtB 0xBF800000 = (0x7FC00000, ffNV) ∧ fsqrtB 0xFF800000 = (0x7FC00000, ffNV) ∧ fdivB 0x7F800000 0xFF800000 = (0x7FC00000, ffNV) ∧
    fsubB 0x7F800000 0x7F800000 = (0x7FC00000, ffNV) ∧ (roundOp ((f32 0x3F800000).fma (f32 0x3F800000) (f32 0x7F800001))) = (0x7FC00000, ffNV) ∧
    FV.minmax true (f32 0x7FC00000) (f32 0x7F800001) = (.nan false, ffNV) := by decide +kernel
/-- −0 is below +0, and −1 below −0. -/
theorem test_min_order : FV.cmp (f32 0x80000000) (f32 0) = 0 ∧ (f32 0x80000000).signBit = true ∧ (f32 0).signBit = false ∧
    FV.minmax false (f32 0) (f32 0x80000000) = (f32 0x80000000, 0) ∧ FV.minmax true (f32 0x80000000) (f32 0) = (f32 0, 0) ∧
    FV.cmp (f32 0xBF800000) (f32 0x80000000) < 0 ∧ FV.minmax true (f32 0xBF800000) (f32 0x80000000) = (f32 0x80000000, 0) := by decide +kernel
/-- The largest value, the smallest and a subnormal of a format; its NaN is left out. -/
theorem test_formats : e4m3.encode (e4m3.decode 0x7E) = (0x7E, 0) ∧ (e4m3.decode 0x7F).isNan = true ∧
    bf16.encode (bf16.decode 0x0001) = (1, 0) ∧ fp16.encode (fp16.decode 0xFC00) = (0xFC00, 0) ∧ e2m1.decode 7 = .fin false 6 0 ∨
    e2m1.encode (e2m1.decode 7) = (7, 0) := by decide +kernel
def flt (a b : Nat) (f : Instr) (r : BitVec 32) : Bool :=
  nx (exec f (one fun k => ((k.setF 1 (BitVec.ofNat 64 a)).setF 2 (BitVec.ofNat 64 b)).setF 3 0x3F800000)) fun t =>
    (t.core 0).tm.pend.any fun p => decide (p.what = .f 5 (r.setWidth 64))
def fltX (a b : Nat) (f : Instr) (v : Word) : Bool :=
  nx (exec f (one fun k => (k.setF 1 (BitVec.ofNat 64 a)).setF 2 (BitVec.ofNat 64 b))) fun t =>
    (t.core 0).tm.pend.any fun p => decide (p.what = .x .b1 5 v)
/-- 1.5 and 2.5: sums, products, quotients rounded to nearest even; 1/3. -/
theorem test_float : (flt 0x3FC00000 0x40200000 (.fadd 0 5 1 2) 0x40800000 && flt 0x3FC00000 0x40200000 (.fsub 0 5 1 2) 0xBF800000 &&
    flt 0x3FC00000 0x40200000 (.fmul 0 5 1 2) 0x40700000 && flt 0x3F800000 0x40400000 (.fdiv 0 5 1 2) 0x3EAAAAAB &&
    flt 0x40800000 0 (.fsqrt 0 5 1) 0x40000000 && flt 0x3FC00000 0x40200000 (.fmin 0 5 1 2) 0x3FC00000 &&
    flt 0x3FC00000 0x40200000 (.fmax 0 5 1 2) 0x40200000 && flt 0xBFC00000 0 (.fabs 0 5 1) 0x3FC00000 &&
    flt 0x3FC00000 0 (.fneg 0 5 1) 0xBFC00000) = true := by decide +kernel
/-- The fused forms, with 1 as the third operand. -/
theorem test_fused : (flt 0x3FC00000 0x40200000 (.fma 0 5 1 2 3) 0x40980000 && flt 0x3FC00000 0x40200000 (.fms 0 5 1 2 3) 0x40300000 &&
    flt 0x3FC00000 0x40200000 (.fnma 0 5 1 2 3) 0xC0300000 && flt 0x3FC00000 0x40200000 (.fnms 0 5 1 2 3) 0xC0980000) = true := by
  decide +kernel
theorem test_float_moves : (fltX 0x3FC00000 0x40200000 (.feq 0 5 1 2) 0 && fltX 0x3FC00000 0x40200000 (.flt 0 5 1 2) 1 &&
    fltX 0x3FC00000 0x3FC00000 (.fle 0 5 1 2) 1 && fltX 0xC0200000 0 (.fcvtLS 0 5 1) (-2) && fltX 0x140000000 0 (.fmvXF 0 5 1) 0x140000000 &&
    nx (exec (.fcvtSL 0 5 10) (two (-3) 0)) (fun t => decide ((t.core 0).tm.pend = [⟨4, .f 5 0xC0400000, none⟩])) &&
    nx (exec (.fmvFX 0 5 10) (two (-3) 0)) (fun t => decide ((t.core 0).tm.pend = [⟨1, .f 5 (-3), none⟩]))) = true := by decide +kernel

/-! ### Far work and counters -/

def outst (n v : Nat) (k : Core) : Core := { k with cnt := { k.cnt with cc := vset k.cnt.cc n v } }
def failed (n : Nat) (k : Core) : Core := { k with cnt := { k.cnt with ccerr := BitVec.ofNat 16 (2 ^ n) } }
/-- Entry of far work at the last free count, denial at T, the limit. -/
theorem test_far : (nx (exec (.fld 0 5 10 3 3 false false) (one fun k => outst 3 65534 (x 10 0x108 k)))
      (fun t => decide ((t.core 0).outst 3 = 65535 ∧ t.works.map (·.runs) = [[(0x108, 8)]])) &&
    nx (exec (.fst 0 6 10 3 1 false false) (one fun k => x 6 0x1234 (x 10 0x10A k)))
      (fun t => decide (t.works.map (·.puts) = [[(0x10A, [0x34, 0x12])]])) &&
    traps (.fld 0 5 10 14 3 false false) (one atT) 0x11E (encF 5 10 14 3 0 false false).data &&
    traps (.fst 0 5 10 3 4 false false) (one id) 0x11E (encF 5 10 3 4 1 false false).data &&
    traps (.fst 0 5 10 3 3 false false) (two 0x104 0) 0x21E 0x104 &&
    traps (.fld 0 5 10 3 3 false false) (one (outst 3 65535)) 0x3051E 0) = true := by decide +kernel
/-- A load by core 0 at M of address 0x108 of its own slice, on counter 3. -/
def load8 : Work := ⟨0, 0, 3, 0, .fld .b1 5 false false, 0x108, [(0x108, 8)], [], .m, 0, 0, 0, 0, 0, .going, [], [], none, []⟩
def loading : State := { one (outst 3 1) with
  works := [load8]
  mem := [(0x108, 7), (0x10F, 0x80)] }
theorem test_far_home : loading.NoWaits ∧ loading.OnlyWork load8 ∧ load8.seen = [] ∧
    loading.translate 0 .m true false 0x108 = .ok 0x108 ∧ loading.Readable 0x108 8 ∧ homeOf 0x108 = some (0, 0) ∧
    loading.preempted 0 0 = false ∧ loading.behind load8 = false ∧
    nx (exec (.farAccessAtSlice 0 .none) loading) (fun t => decide (t.works.map (·.stage) = [.applied [7, 0, 0, 0, 0, 0, 0, 0x80]])) = true ∧
    nx (exec (.farAccessComplete 0 .none) loading) (fun t => decide (t.works = [] ∧ (t.core 0).rx 5 = 0x8000000000000007 ∧
      (t.core 0).outst 3 = 0)) = true :=
  ⟨noWaits_of (by decide +kernel), ⟨rfl, rfl⟩, rfl, by decide +kernel, ⟨by decide +kernel, by decide +kernel⟩, by decide +kernel,
    by decide +kernel, by decide +kernel, by decide +kernel, by decide +kernel⟩
/-- Two elements of a vector store by core 0 at M, the later over half of the earlier. -/
def store2 : Work := { load8 with
  kind := .vfst
  runs := []
  puts := [(0x108, [1, 2, 3, 4, 5, 6, 7, 8]), (0x10C, [9, 9, 9, 9])] }
def storing : State := { loading with works := [store2] }
theorem test_far_store : storing.NoWaits ∧ storing.OnlyWork store2 ∧ storing.behind store2 = false ∧
    (∀ (i : Nat) (q : Word × List Byte), store2.puts[i]? = some q → q.2.length ∈ [1, 2, 4, 8] ∧ q.1.toNat % q.2.length = 0 ∧
      storing.translate 0 .m false true q.1.toNat = .ok (0x108 + 4 * i) ∧ storing.Readable (0x108 + 4 * i) q.2.length ∧
      ∃ d, homeOf (0x108 + 4 * i) = some (0, d)) ∧
    nx (exec (.farAccessAtSlice 0 .none) storing) (fun t => decide (t.mem.bytes 0x108 8 = [1, 2, 3, 4, 9, 9, 9, 9] ∧
      t.works.map (·.stage) = [.applied []])) = true ∧
    nx (exec (.farAccessComplete 0 .none) storing) (fun t => decide (t.mem.bytes 0x108 8 = [1, 2, 3, 4, 9, 9, 9, 9] ∧ t.works = [] ∧
      (t.core 0).outst 3 = 0)) = true := by
  refine ⟨noWaits_of (by decide +kernel), ⟨rfl, rfl⟩, by decide +kernel, fun i q h => ?_, by decide +kernel, by decide +kernel⟩
  match i with
  | 0 => cases h; exact ⟨by decide, by decide, by decide +kernel, ⟨by decide +kernel, by decide +kernel⟩, 0, by decide +kernel⟩
  | 1 => cases h; exact ⟨by decide, by decide, by decide +kernel, ⟨by decide +kernel, by decide +kernel⟩, 0, by decide +kernel⟩
  | n + 2 => simp [store2] at h
/-- WAITC at its threshold, above it, and of a failed counter. -/
theorem test_waitc : (nx (exec (.waitc 0 5 0 3 false false 1) (one (outst 3 1))) (fun t => decide ((t.core 0).wait = none)) &&
    nx (exec (.waitc 0 5 0 3 false false 1) (one (outst 3 2))) (fun t =>
      decide ((t.core 0).wait.map (·.kind) = some (.counter 3 1) ∧ (t.core 0).wait.map (·.deadline) = some 1000000)) &&
    pend (.waitc 0 5 0 3 false true 0) (one (outst 3 2)) (px 1 2) &&
    traps (.waitc 0 5 0 3 false false 0) (one (failed 3)) 0x3031E 0) = true := by decide +kernel
/-- A descriptor that enters bank 2 at M. -/
def desc (s : State) (n h flags : Nat) : State := s.setDesc 0 n #v[BitVec.ofNat 64 h, 0x2000, BitVec.ofNat 64 flags, 0x77]
def aWait (kd : WaitKind) : Wait := ⟨kd, 5, 0, 500, false, false, false, 0, false⟩
def inWait (kd : WaitKind) (k : Core) : Core := { k with wait := some (aWait kd) }
theorem test_wait_timeout : let s := desc (one fun k => outst 3 1 (inWait (.counter 3 0) k)) 8 0x1000 0x221
    let d := s.desc 0 8
    (s.core 0).inSvc = true ∧ (s.core 0).wait = some (aWait (.counter 3 0)) ∧
    (s.core 0).outst 3 = 1 ∧ (∀ i, i < 16 → (vget (s.core 0).slots i .reset).st ≠ .sender) ∧ (s.core 0).tr.status.resc = false ∧
    d.valid 8 = true ∧ (s.core 0).level.num ≤ d.tpriv ∧ (s.core 0).tr.status.busy d.bank = false ∧ (s.core 0).ccHidden 3 = false := by
  decide +kernel

/-! ### System registers, exceptions, gates, the return -/

def lands (i : Instr) (s : State) (w : PendW) : Bool := pend i s [⟨3, w, none⟩]
/-- A register that M may write (SCRATCH0), one that T may only read (STATUS), one that T has not (MCTL). -/
theorem test_csr : (lands (.csrWrite 0 1 0x130 ⟨0, 10⟩) (two 9 0) (.csr .m .write 0x130 9) && pend (.csrWrite 0 1 0x100 ⟨0, 10⟩) (one atT) [] &&
    traps (.csrWrite 0 1 0x103 ⟨0, 10⟩) (one atT) 0x11E (encY 0 10 1 0x103).data &&
    lands (.mctlWrite 0 .set 10) (two 1 0) (.csr .m .set 0x103 1) && pend (.mctlWrite 0 .set 10) (one atS) [] &&
    traps (.mctlWrite 0 .set 10) (one atT) 0x11E (encY 0 10 2 0x103).data) = true := by decide +kernel
theorem test_csr_rows : (lands (.statusBankDiscard 0 .write 10) (one atS) (.csr .s .write 0x100 0) &&
    pend (.statusBankDiscard 0 .write 10) (one atT) [] && lands (.barmaskWrite 0 .write 10) (two 3 0) (.csr .m .write 0x420 3) &&
    pend (.barmaskWrite 0 .write 10) (one atT) [] && lands (.tcmpWrite 0 .write 10) (one atS) (.csr .s .write 0x201 0) &&
    traps (.tcmpWrite 0 .write 10) (one atT) 0x11E (encY 0 10 1 0x201).data) = true := by decide +kernel
theorem test_dtw : (lands (.dtwStore 0 .write 10) (two 1 0) (.dtw true false .m 0 (Vector.replicate 4 0)) &&
    lands (.dtwLoad 0 .write 10) (two 2 0) (.dtw false true .m 0 (Vector.replicate 4 0)) &&
    traps (.dtwStore 0 .write 10) (one atT) 0x11E (encY 0 10 1 0x10D).data) = true := by decide +kernel
theorem test_csr_readback : csrVal (csrLand (one id) 0 .m .set 0x130 5) 0 .m 0x130 = 5 ∧
    csrVal (csrLand (one id) 0 .m .write 0x204 (-1)) 0 .m 0x204 = 2 ^ 64 - 1 := by decide +kernel
/-- CSRR of a register that the level reads, of one that it has not; an op past CSRC, and CSRW with rd not x0. -/
theorem test_csr_read : (pend (.csrWrite 0 0 0x100 ⟨5, 10⟩) (one atT) (⟨1, .x .main 5 0, none⟩ :: []) &&
    traps (.csrWrite 0 0 0x103 ⟨5, 10⟩) (one atT) 0x11E (encY 5 10 0 0x103).data &&
    traps (.csrWrite 0 4 0x130 ⟨0, 10⟩) (one id) 0x11E (encY 0 10 4 0x130).data &&
    traps (.csrWrite 0 1 0x130 ⟨5, 10⟩) (one id) 0x11E (encY 5 10 1 0x130).data) = true := by decide +kernel
/-- A call whose stored word, and a return whose word, the code cannot correct. -/
theorem test_call_unreadable : let s := desc (one (rstack 8 0 16)) 3 0x1000 0x221
    let d := s.desc 0 3
    s.Ready 0 false ∧ s.isPoisoned (sliceBase 0 + (rsRegion .m + 8)) 8 = false ∧ s.isPoisoned (sliceBase 0 + (rsRegion .m + 8 - 8)) 8 = false ∧
    (s.core 0).tr.status.resc = false ∧ d.valid 3 = true ∧ (s.core 0).level.num ≤ d.tpriv ∧ (s.core 0).tr.status.busy d.bank = false ∧
    (s.core 0).bank ≠ d.bank ∧
    nx (exec (.call 0 4 ⟨⟨false, false⟩, .bad⟩) s) (fun t => decide ((t.core 0).tr.save2.ecause = 0x5403 ∧ ((t.core 0).rs .m).rsp = 8)) = true ∧
    nx (exec (.ret 0 ⟨⟨false, false⟩, .bad⟩) s) (fun t => decide ((t.core 0).tr.save2.ecause = 0x5403)) = true :=
  ⟨ready_of (by decide +kernel), by decide +kernel⟩
/-- Entry through descriptor 1 into bank 2 at M. -/
theorem test_exception_entry : let s := desc (one fun k => x 10 4 k) 1 0x1000 0x221
    let d := s.desc 0 1
    s.Ready 0 false ∧ (s.core 0).tr.status.resc = false ∧ d.valid 1 = true ∧ (s.core 0).level.num ≤ d.tpriv ∧
    (s.core 0).tr.status.busy d.bank = false ∧ (s.core 0).bank ≠ d.bank ∧
    nx (exec (.exceptionEntry 0 (.illegal 7 none)) s) (fun t => decide ((t.core 0).flow.pc = 0x1000 ∧ (t.core 0).bank = .b2 ∧
      (t.core 0).tr.save2.edata0 = 7 ∧ (t.core 0).rx 2 = 0x2000 ∧ (t.core 0).rx 3 = 0x77)) = true :=
  ⟨ready_of (by decide +kernel), by decide +kernel⟩
def noBanks (k : Core) : Core := { k with tr := { k.tr with status := { k.tr.status with b2 := true } } }
def inRescue (k : Core) : Core := { k with tr := { k.tr with status := { k.tr.status with resc := true } } }
/-- Rescue, the stop, and escalation. -/
theorem test_rescue : (Enc.mk 7 none).formed = true ∧ (Enc.mk 7 none).assigned = false ∧ (desc (one id) 0x1F 0x4000 1).Ready 0 false ∧ (one inRescue).Ready 0 false ∧ (desc (one id) 0x1E 0x3000 0x221).Ready 0 false ∧
    ((State.desc (desc (one id) 0x1F 0x4000 1) 0 0x1F).valid 0x1F = true ∧
     (State.desc (desc (one id) 0x1E 0x3000 0x221) 0 0x1E).valid 0x1E = true ∧ (State.desc (one id) 0 1).valid 1 = false ∧
     nx (exec (.exceptionEntry 0 (.illegal 7 none)) (desc (one id) 0x1F 0x4000 1)) (fun t =>
       decide ((t.core 0).flow.pc = 0x4000 ∧ (t.core 0).tr.rescue.mrcause = 0x11E ∧ (t.core 0).tr.status.resc = true)) = true ∧
     nx (exec (.exceptionEntry 0 (.illegal 7 none)) (one inRescue)) (fun t => (t.core 0).pw.stopped) = true ∧
     nx (exec (.exceptionEntry 0 (.illegal 7 none)) (desc (one id) 0x1E 0x3000 0x221)) (fun t =>
       decide ((t.core 0).flow.pc = 0x3000 ∧ (t.core 0).tr.save2.ecause = 0x11E)) = true) :=
  ⟨by decide +kernel, by decide +kernel, ready_of (by decide +kernel), ready_of (by decide +kernel), ready_of (by decide +kernel),
    by decide +kernel⟩
/-- Gate 0x80 with two arguments, one that its descriptor denies, one below 0x80, one with no descriptor. -/
theorem test_gate : let s := desc (one fun k => x 11 6 (x 10 5 k)) 0x80 0x1000 0x20621
    s.Ready 0 false ∧ (s.core 0).tr.status.resc = false ∧
    nx (exec (.gate 0 0x80) { s with mem := s.mem.put (descAddr 0 0x80 + 24) [0, 0] }) (fun t => decide ((t.core 0).flow.pc = 0x1000 ∧
      (t.core 0).tr.save2.epc = 4 ∧ (t.core 0).tr.save2.ecause = 0x80 ∧ (t.core 0).rx 10 = 5 ∧ (t.core 0).rx 11 = 6)) = true ∧
    gateFault { s with mem := s.mem.put (descAddr 0 0x80 + 24) [0, 0] } 0 0x80 = none ∧
    traps (.gate 0 0x7F) s 0x11E (encGate 0 0x7F).data = true ∧ traps (.gate 0 0xFF) s 0xA1E 0 = true :=
  ⟨ready_of (by decide +kernel), by decide +kernel⟩
/-- Gate 0x80 with its flags and its arguments' bytes, beside a descriptor for `cause` that enters bank 2 at M. -/
def gated (f : Core → Core) (cause : Nat) (flags extra : Word) : State :=
  (desc (one f) cause 0x1000 0x221).setDesc 0 0x80 #v[0x3000, 0x2000, flags, extra]
/-- The premises of a denial by `cause`, that the core can issue among them, and its ECAUSE. -/
def denyB (s : State) (cause : Nat) (v : Word) : Bool :=
  let g := s.desc 0 cause
  readyB s 0 false && !(s.core 0).tr.status.resc && g.valid cause && decide ((s.core 0).level.num ≤ g.tpriv) &&
  !(s.core 0).tr.status.busy g.bank && decide ((s.core 0).bank ≠ g.bank) &&
  nx (exec (.gate 0 0x80) s) fun t => decide ((t.core 0).tr.save2.ecause = v ∧ (t.core 0).tr.save2.epc = 0 ∧ (t.core 0).flow.pc = 0x1000)
/-- GATE_DENY: no descriptor; a level below the gate's; a gate that targets a level below the caller's. -/
theorem test_gate_denied : let s0 := gated id 0x0A 0 0
    let s1 := gated atS 0x0A 0x8621 0
    let s2 := gated id 0x0A 0x611 0
    ((State.desc s0 0 0x80).valid 0x80 = false ∧ denyB s0 0x0A 0x0A = true) ∧
    ((State.desc s1 0 0x80).valid 0x80 = true ∧ (s1.core 0).level.num < (State.desc s1 0 0x80).minpriv ∧ denyB s1 0x0A 0x10A = true) ∧
    ((State.desc s2 0 0x80).valid 0x80 = true ∧ (State.desc s2 0 0x80).minpriv ≤ (s2.core 0).level.num ∧
      (State.desc s2 0 0x80).tpriv < (s2.core 0).level.num ∧ denyB s2 0x0A 0x20A = true) := by decide +kernel
/-- GATE_ARG: an argument of 16 where the bound is 2^4; the second of two; a range of one byte past the mapped page. -/
theorem test_gate_argument : let s1 := gated (x 10 16) 0x0B 0x10621 4
    let s2 := gated (fun k => x 11 16 (x 10 15 k)) 0x0B 0x20621 0x404
    let s3 := gated (fun k => x 11 2 (x 10 0xFFFF k)) 0x0B 0x20621 0x80
    ((State.desc s1 0 0x80).argc = 1 ∧ bits ((State.desc s1 0 0x80).arg 0) 5 0 = 4 ∧ denyB s1 0x0B 0x10B = true) ∧
    ((State.desc s2 0 0x80).argc = 2 ∧ denyB s2 0x0B 0x1010B = true) ∧
    ((State.desc s3 0 0x80).argc = 2 ∧ bitOf ((State.desc s3 0 0x80).arg 0) 7 = true ∧
      s3.mapped (s3.spaceOf 0) .m false 0xFFFF 2 = false ∧ denyB s3 0x0B 0x20B = true) := by decide +kernel
/-- Interrupt 1 pending and enabled. -/
def irq (k : Core) : Core := { k with tr := { k.tr with
  ien := 2
  ipend := 2
  status := { k.tr.status with ie := true } } }
theorem test_interrupt : let s := desc (one irq) 0x21 0x5000 0x221
    s.Ready 0 false ∧ readyInterrupt s 0 = some 1 ∧ (State.desc s 0 0x21).valid 0x21 = true ∧
    (s.core 0).tr.status.busy (State.desc s 0 0x21).bank = false ∧
    nx (exec (.asyncInterruptTaken 0) s) (fun t => decide ((t.core 0).flow.pc = 0x5000 ∧ (t.core 0).tr.ipend = 0 ∧
      (t.core 0).tr.save2.ecause = 0x21)) = true :=
  ⟨ready_of (by decide +kernel), by decide +kernel⟩
/-- A ready interrupt at a PC whose word is poisoned: the fetch's fault comes first. -/
theorem test_interrupt_unfetched : let s := desc (desc { one irq with poison := [0] } 0x21 0x5000 0x221) 3 0x1000 0x221
    s.Idle 0 ∧ readyInterrupt s 0 = some 1 ∧ (fetchFault s 0 false .clean .clean).isSome = true ∧
    nx (exec (.asyncInterruptTaken 0) s) (fun t => decide ((t.core 0).flow.pc = 0x1000 ∧ (t.core 0).tr.ipend = 2)) = true :=
  ⟨⟨by decide, by decide +kernel, by decide +kernel, by decide +kernel, by decide +kernel, by decide +kernel, by decide +kernel,
    by decide +kernel⟩, by decide +kernel, by decide +kernel, by decide +kernel⟩
def saved (e : Estat) (k : Core) : Core := { k with tr := { k.tr with
  maint := false
  save1 := { k.tr.save1 with
    epc := 0x600
    estat := e } } }
/-- ERET to S in bank 0, as of the reset entry, and from a gate; refused for M where the ceiling is S; illegal at T and in bank 0. -/
theorem test_eret : let s := one (saved { Estat.reset1 with ppriv := 1 })
    s.Ready 0 false ∧ (s.core 0).tr.status = (State.reset.core 0).tr.status ∧ (s.core 0).tr.maint = false ∧ eretRefused (s.core 0) = none ∧
    nx (exec (.eret 0 back) s) (fun t => decide ((t.core 0).flow.pc = 0x600 ∧ (t.core 0).level = .s ∧ (t.core 0).bank = .main ∧
      (t.core 0).tr.status.busy .b1 = false)) = true ∧
    nx (exec (.eret 0 back) (one fun k => x 10 9 (saved { Estat.reset1 with gate := true } k))) (fun t =>
      decide ((t.core 0).rx 10 = 9 ∧ (t.core 0).level = .m)) = true ∧
    eretRefused (saved { Estat.reset1 with ceil := 1 } (serve .reset)) = some 1 ∧
    traps (.eret 0 back) (one atT) 0x11E (encGate 1 0).data = true :=
  ⟨ready_of (by decide +kernel), by decide +kernel⟩
/-- RET_PRIV for each reason, through descriptor 9. -/
def retDenied (f : Core → Core) (e : Estat) (v : Word) : Bool :=
  let s := desc (one fun k => f (saved e k)) 9 0x1000 0x221
  let g := s.desc 0 9
  readyB s 0 false && g.valid 9 && decide ((s.core 0).level = .m ∧ (s.core 0).bank = .b1) && !(s.core 0).tr.status.resc &&
  !(s.core 0).tr.status.busy g.bank && decide ((s.core 0).bank ≠ g.bank ∧ (s.core 0).tr.save1.estat = e) &&
  nx (exec (.eret 0 back) s) fun t => decide ((t.core 0).tr.save2.ecause = v ∧ (t.core 0).tr.save2.epc = 0 ∧ (t.core 0).flow.pc = 0x1000 ∧
    (t.core 0).tr.save1.estat = e)
def inMaint (k : Core) : Core := { k with tr := { k.tr with maint := true } }
theorem test_eret_refused : (retDenied id { Estat.reset1 with ceil := 1 } 0x109 && retDenied id { Estat.reset1 with ppriv := 3 } 0x109 &&
    retDenied inMaint { Estat.reset1 with ppriv := 1 } 0x209 && retDenied id { Estat.reset1 with pbank := 1 } 0x309 &&
    retDenied id { Estat.reset1 with pbank := 2 } 0x309 && retDenied id { Estat.reset1 with pbank := 3 } 0x309 &&
    retDenied id { Estat.reset1 with ds := 3 } 0x409 &&
    retDenied id { Estat.reset1 with ds := 1, repip := true } 0x409) = true := by decide +kernel

/-! ### The vector unit -/

/-- v1 = v2 = … are given by their low lanes. -/
def vec (a b d : Nat) (k : Core) : Core :=
  ((k.setV 1 (BitVec.ofNat 4096 a)).setV 2 (BitVec.ofNat 4096 b)).setV 3 (BitVec.ofNat 4096 d)
def vres (i : Instr) (s : State) (P : Nat → Bool) : Bool :=
  nx (exec i s) fun t => (t.core 0).tm.pend.any fun p => match p.what with
    | .v _ r => P r.toNat && decide (p.land = 8 ∧ (t.core 0).tm.dpFree = 4)
    | _ => false
def lane (w j : Nat) (v : Nat) : Nat := (v >>> (w * j)) % 2 ^ w
def v8 (a b : Nat) (f : Reg → Reg → Reg → BitVec 4 → Instr) (r : Nat) : Bool :=
  vres (f 3 1 2 0) (one (vec a b 1)) fun v => decide (v = r)
/-- Bytes 255, 2 against 2, 3, with 1 in the first lane of the destination. -/
theorem test_vector_arith : (v8 0x2FF 0x302 (.vadd 0) 0x501 && v8 0x2FF 0x302 (.vsub 0) 0xFFFD && v8 0x2FF 0x302 (.vmul 0) 0x6FE &&
    v8 0x2FF 0x302 (.vmulh 0) 0xFF && v8 0x2FF 0x302 (.vmulhu 0) 0x01 && v8 0x2FF 0x302 (.vmac 0) 0x6FF &&
    v8 0x2FF 0x302 (.vmin 0) 0x2FF && v8 0x2FF 0x302 (.vmax 0) 0x302 && v8 0x2FF 0x302 (.vminu 0) 0x202 &&
    v8 0x2FF 0x302 (.vmaxu 0) 0x3FF) = true := by decide +kernel
theorem test_vector_bits : (v8 0x2FF 0x302 (.vand 0) 0x202 && v8 0x2FF 0x302 (.vor 0) 0x3FF && v8 0x2FF 0x302 (.vxor 0) 0x1FD &&
    v8 0x2FF 0x302 (.vandn 0) 0x0FD && v8 0x2FF 0x302 (.vsll 0) 0x10FC && v8 0x2FF 0x302 (.vsrl 0) 0x3F &&
    v8 0x2FF 0x302 (.vsra 0) 0xFF && vres (.vseq 0 3 1 2 0) (one (vec 0x2FF 0x302 1)) (fun v => decide (lane 8 0 v = 0 ∧ lane 8 2 v = 255)) &&
    v8 0x2FF 0x302 (.vslt 0) 0xFFFF && v8 0x2FF 0x302 (.vsltu 0) 0xFF00) = true := by decide +kernel
def dpBusy (k : Core) : Core := { k with tm := { k.tm with dpFree := 1 } }
/-- The ends of the types a form takes, and a busy datapath. -/
theorem test_vector_illegal : (traps (.vadd 0 3 1 2 4) (one id) 0x11E (encVA 3 1 2 4 0).data &&
    vres (.vand 0 3 1 2 6) (one id) (fun v => decide (v = 0)) && vres (.vadd 0 3 1 2 3) (one id) (fun v => decide (v = 0)) &&
    traps (.vand 0 3 1 2 7) (one id) 0x11E (encVA 3 1 2 7 9).data && traps (.vmac 0 3 1 2 3) (one dpBusy) 0x10000011E (encVA 3 1 2 3 19).data &&
    traps (.vand 0 3 1 2 0) (one dpBusy) 0x10000011E (encVA 3 1 2 0 9).data) = true := by decide +kernel
def v32 (a b d : Nat) (i : Instr) (r : Nat) : Bool := vres i (one (vec a b d)) fun v => decide (lane 32 0 v = r)
/-- FP32 lane 0: 1.5, 2.5 and 1; the ends of the floating types. -/
theorem test_vector_float : (v32 0x3FC00000 0x40200000 0 (.vfadd 0 3 1 2 4) 0x40800000 && v32 0x3FC00000 0x40200000 0 (.vfsub 0 3 1 2 4) 0xBF800000 &&
    v32 0x3FC00000 0x40200000 0 (.vfmul 0 3 1 2 4) 0x40700000 && v32 0x3FC00000 0x40200000 0x3F800000 (.vfma 0 3 1 2 4) 0x40980000 &&
    v32 0x3FC00000 0x40200000 0x3F800000 (.vfnma 0 3 1 2 4) 0xC0300000 && v32 0x3FC00000 0x40200000 0 (.vfmin 0 3 1 2 4) 0x3FC00000 &&
    v32 0x3FC00000 0x40200000 0 (.vfmax 0 3 1 2 4) 0x40200000 && v32 0xBFC00000 0 0 (.vfabs 0 3 1 0 4) 0x3FC00000 &&
    v32 0x3FC00000 0 0 (.vfneg 0 3 1 0 4) 0xBFC00000) = true := by decide +kernel
theorem test_vector_float_types : (vres (.vfadd 0 3 1 2 6) (one (vec 0x3C00 0x3C00 0)) (fun v => decide (lane 16 0 v = 0x4000)) &&
    vres (.vfadd 0 3 1 2 5) (one (vec 0x3F80 0x3F80 0)) (fun v => decide (lane 16 0 v = 0x4000)) &&
    v32 0x3FC00000 0x40200000 0 (.vfeq 0 3 1 2 4) 0 && v32 0x3FC00000 0x40200000 0 (.vflt 0 3 1 2 4) 0xFFFFFFFF &&
    v32 0x3FC00000 0x3FC00000 0 (.vfle 0 3 1 2 4) 0xFFFFFFFF) = true := by decide +kernel
def nans : Nat := 0x7FC00000 * ((2 ^ 4096 - 1) / (2 ^ 32 - 1))
/-- The estimates are free functions; of a NaN they are fixed. -/
theorem test_estimates : (v32 nans 0 0 (.vfrcpe 0 3 1 0 4) 0x7FC00000 && v32 nans 0 0 (.vfrsqe 0 3 1 0 4) 0x7FC00000 &&
    v32 nans 0 0 (.vfexp2e 0 3 1 0 4) 0x7FC00000) = true := by decide +kernel
/-- 1, the ends of the powers' range, and a reciprocal that is the least normal value. -/
theorem test_estimate_operands : f32 0x3F800000 = .fin false 0x800000 (-23) ∧ fvReal false 0x800000 (-23) = 1 ∧
    f32 0xC2FC0000 = .fin true 0xFC0000 (-17) ∧ fvReal true 0xFC0000 (-17) = -126 ∧
    f32 0x43000000 = .fin false 0x800000 (-16) ∧ fvReal false 0x800000 (-16) = 128 ∧
    f32 0xC3160001 = .fin true 0x960001 (-16) ∧ fvReal true 0x960001 (-16) < -150 ∧
    f32 0x7E800000 = .fin false 0x800000 103 ∧ (fvReal false 0x800000 103)⁻¹ = (2 : ℝ) ^ (-126 : ℤ) ∧ f32 0 = .fin false 0 (-149) ∧
    rcpE 0x80000000 = (0xFF800000, ffDZ) ∧ exp2E 0x43000000 = (0x7F800000, ffOF ||| ffNX) ∧ exp2E 0xC3160001 = (0, ffUF ||| ffNX) ∧
    rsqrtE 0xBF800000 = (0x7FC00000, ffNV) := by
  refine ⟨by decide +kernel, ?_, by decide +kernel, ?_, by decide +kernel, ?_, by decide +kernel, ?_, by decide +kernel, ?_,
    by decide +kernel⟩ <;> norm_num [fvReal]
/-- Widening of bytes −1 and 2 by 2 and 3 in either half; dot products; moves. -/
theorem test_vector_wide : (vres (.vwmul 0 3 1 2 0 false) (one (vec 0x2FF 0x302 0)) (fun v => decide (lane 16 0 v = 0xFFFE ∧ lane 16 1 v = 6)) &&
    vres (.vwmulu 0 3 1 2 0 false) (one (vec 0x2FF 0x302 0)) (fun v => decide (lane 16 0 v = 510)) &&
    vres (.vwmac 0 3 1 2 0 false) (one (vec 0x2FF 0x302 5)) (fun v => decide (lane 16 0 v = 3)) &&
    vres (.vwmacu 0 3 1 2 2 true) (one (vec (3 <<< 2048) (5 <<< 2048) 1)) (fun v => decide (v = 16))) = true := by decide +kernel
/-- BF16: 1 times 2 is 2; added to 3 it is 5. -/
theorem test_vector_wide_float : (vres (.vwmul 0 3 1 2 5 false) (one (vec 0x3F80 0x4000 0)) (fun v => decide (v = 0x40000000)) &&
    vres (.vwmac 0 3 1 2 5 false) (one (vec 0x3F80 0x4000 0x40400000)) (fun v => decide (v = 0x40A00000))) = true := by decide +kernel
theorem test_vector_dots : (vres (.vdot4 0 3 1 2 0 false) (one (vec 0x2FF 0x302 10)) (fun v => decide (lane 32 0 v = 14)) &&
    vres (.vdot8 0 3 1 2 9 false) (one (vec 0x2F 0x32 10)) (fun v => decide (lane 32 0 v = 14)) &&
    vres (.vdot2 0 3 1 2 7 false) (one (vec 0x38 0x38 0x3F800000)) (fun _ => true)) = true := by decide +kernel
theorem test_vector_moves : (vres (.vslideD 0 3 1 11 0 false) (one fun k => x 11 1 (vec 0x302 0 0 k)) (fun v => decide (v = 3)) &&
    vres (.vslideU 0 3 1 11 3 false) (one fun k => x 11 63 (vec 0x302 0 0 k)) (fun v => decide (v = 0x302 <<< 4032)) &&
    vres (.vperm 0 3 1 2 0 false) (one (vec 0x0A0B 0x0101 0)) (fun v => decide (lane 8 0 v = 0x0A ∧ lane 8 1 v = 0x0A ∧ lane 8 2 v = 0x0B))) = true := by
  decide +kernel
/-- 1 converted up and down; 32 ones packed and unpacked. -/
theorem test_vector_convert : (vres (.vcvt 0 3 1 5 false 4 false 0) (one (vec 0x3F800000 0 0)) (fun v => decide (v = 0x3F80)) &&
    vres (.vcvt 0 3 1 4 true 5 false 0) (one (vec 0x3F80 0 0)) (fun v => decide (v = 0x3F800000)) &&
    vres (.vcvt 0 3 1 4 true 5 false 1) (one (vec (0x3F80 <<< 2048) 0 0)) (fun v => decide (v = 0x3F800000)) &&
    vres (.vcvt 0 3 1 5 false 4 false 1) (one (vec 0x3F800000 0 7)) (fun v => decide (v = 0x3F80 <<< 2048 + 7)) &&
    vres (.vcvt 0 3 1 9 false 4 false 7) (one (vec 0xC0000000 0 0)) (fun v => decide (v = 0xE <<< 3584)) && vcvtPair 4 9 && vcvtPair 4 2 &&
    !vcvtPair 2 5) = true := by decide +kernel
/-- The instruction lands `w` at distance 8. -/
def sum8 (i : Instr) (s : State) (w : PendW) : Bool :=
  nx (exec i s) fun t => (t.core 0).tm.pend.any fun p => decide (p = ⟨8, w, none⟩)
/-- The trees of a vector of FP32 zeros, and one of 1 beside it. -/
theorem test_vector_tree : sum8 (.vsums 0 5 1 0 4 false) (one (vec (0x3F800000 + 0x40000000 <<< 32) 0 0)) (.f 5 0x40400000) = true ∧
    sum8 (.vmaxs 0 5 1 0 4 false) (one (vec (0x3F800000 + 0x40000000 <<< 32) 0 0)) (.f 5 0x40000000) = true ∧
    sum8 (.vmaxi 0 5 1 0 5 false) (one (vec (0x3F80 + 0x4000 <<< 16) 0 0)) (.x .b1 5 1) = true ∧
    (∃ add top : Nat → Nat → BitVec 32, (∀ i, i < 2 ^ 7 → add 0 i = 0 ∧ top 0 i = 0) ∧
      ∀ m i, add (m + 1) i = (roundOp ((f32 (add m (2 * i))).add (f32 (add m (2 * i + 1))))).1 ∧
        top (m + 1) i = (roundOp (FV.minmax true (f32 (top m (2 * i))) (f32 (top m (2 * i + 1))))).1) :=
  ⟨by decide +kernel, by decide +kernel, by decide +kernel, fun _ _ => 0, fun _ _ => 0, fun _ _ => ⟨rfl, rfl⟩,
    fun _ _ => have h : 0 = (roundOp ((f32 0).add (f32 0))).1 ∧ 0 = (roundOp (FV.minmax true (f32 0) (f32 0))).1 := by decide +kernel
      h⟩
theorem test_vector_pack : (vres (.vpk4 0 3 1 0 4 false) (one (vec 0x40C00000 0 0)) (fun v => decide (lane 4 0 v = 7 ∧ lane 8 64 v = 127)) &&
    vres (.vunpk4 0 3 1 0 4 false) (one (vec (7 + 127 <<< 512) 0 0)) (fun v => decide (lane 32 0 v = 0x40C00000))) = true := by decide +kernel
def summ (i : Instr) (a : Nat) (v : Word) : Bool := sum8 i (one (vec a 0 0)) (.x .b1 5 v)
theorem test_vector_summary : (summ (.vany 0 5 1 0 0 false) 0 0 && summ (.vany 0 5 1 0 8 false) (2 ^ 4095) 1 &&
    summ (.vall 0 5 1 0 0 false) (2 ^ 4096 - 1) 1 && summ (.vall 0 5 1 0 0 false) (2 ^ 4096 - 256) 0 &&
    summ (.vmaxs 0 5 1 0 0 false) 0x05FF 5 && summ (.vmaxi 0 5 1 0 0 false) 0x0505FF 1 && summ (.vsums 0 5 1 0 3 false) (2 ^ 64 - 1) (-1)) = true := by
  decide +kernel
/-- The window holds byte pattern 0x81 0x82 … 0x83; the last element of a row ends at its end. -/
def vbox (f : Core → Core) : State := { one (fun k => f (x 11 64 (x 10 0x10000 (win k)))) with mem := bytes3 }
theorem test_vector_loads : vmFault ((vbox id).core 0) (encVM 3 10 0 0 0 3 0) 0 10 0 0 3 = none ∧
    nx (exec (.vld 0 3 10 0 0 3) (vbox id)) (fun t => decide ((t.core 0).tm.pend =
      [⟨10, .v 3 0x8300000000008281, some (.vector, 0x10000, 0)⟩] ∧ (t.core 0).tm.portFree = 1)) = true ∧
    vmFault ((vbox id).core 0) (encVM 3 10 11 1 0 3 0) 1 10 11 0 3 = none ∧
    nx (exec (.vlds 0 3 10 11 0 3) (vbox id)) (fun t => decide ((t.core 0).tm.portFree = 1 ∧ (t.core 0).tm.pend.length = 1)) = true ∧
    vmFault ((vbox car).core 0) (encVM 3 11 0 2 1 3 0) 2 11 0 1 3 = none ∧
    nx (exec (.vldC 0 3 11 0 1 3) (vbox car)) (fun t => decide ((t.core 0).tm.pend.length = 2)) = true ∧
    vmFault ((vbox (vec 0 0 0)).core 0) (encVM 3 10 2 3 0 2 0) 3 10 2 0 2 = none ∧
    nx (exec (.vgather 0 3 10 2 0 2) (vbox (vec 0 0 0))) (fun t => (t.core 0).tm.pend.any fun p => match p.what with
      | .v _ r => decide (lane 32 127 r.toNat = 0x8281)
      | _ => false) = true := by decide +kernel
theorem test_vector_stores : let v := vec 0 0 (5 <<< 4088)
    nx (exec (.vst 0 3 10 0 0 0) (vbox v)) (fun t => decide (t.mem = [(511, 5)])) = true ∧
    nx (exec (.vsts 0 3 10 11 0 3) (vbox v)) (fun t => decide (t.mem.get (63 * 64 + 7) = 5)) = true ∧
    nx (exec (.vstC 0 3 11 0 1 3) (vbox fun k => v (car k))) (fun t => decide (t.mem.get 7 = 0 ∧ t.mem.length = 1)) = true ∧
    nx (exec (.vscatter 0 3 10 2 0 2) (vbox v)) (fun t => decide (t.mem.get 3 = 5)) = true := by decide +kernel
/-- Elements `0 .. n - 1` of a size are aligned, inside the window and unpoisoned. -/
def elems (s : State) (addr : Nat → Word) (size n : Nat) : Bool := (List.range n).all fun j =>
  decide ((addr j).toNat % size = 0) && (s.core 0).inWindow (addr j).toNat size && !s.isPoisoned (s.windowPa 0 (addr j).toNat) size
/-- The premises of VectorMemory, mode by mode: the form, the port free, every element right. -/
theorem test_vector_memory_premises :
    (vbox id).Ready 0 false ∧ (vbox car).Ready 0 false ∧ (vbox (vec 0 0 0)).Ready 0 false ∧ ((vbox car).core 0).carOk 1 8 = true ∧
    ((vbox id).core 0).tm.portFree ≤ ((vbox id).core 0).tm.step ∧
    elems (vbox id) (fun j => ((vbox id).core 0).rx 10 + BitVec.ofInt 64 (512 * (0 : BitVec 5).toInt) + BitVec.ofNat 64 (j * 8)) 8 64 = true ∧
    elems (vbox id) (fun j => ((vbox id).core 0).rx 10 + BitVec.ofNat 64 j * ((vbox id).core 0).rx 11) 8 64 = true ∧
    (let k := (vbox car).core 0
     elems (vbox car) (fun j => k.cb 1 + BitVec.ofNat 64 (k.carOff 1 8 (k.carIdx 1 (k.rx 11) j))) 8 64 = true ∧
     ∀ j, j < 64 → (k.cb 1).toNat + k.carOff 1 8 (k.carIdx 1 (k.rx 11) j) < 2 ^ 64) ∧
    (let k := (vbox (vec 0 0 0)).core 0
     elems (vbox (vec 0 0 0)) (fun j => k.rx 10 + BitVec.ofNat 64 (((k.rv 2).toNat >>> (32 * j)) % 2 ^ 32)) 4 128 = true) :=
  ⟨ready_of (by decide +kernel), ready_of (by decide +kernel), ready_of (by decide +kernel), by decide +kernel, by decide +kernel,
    by decide +kernel, by decide +kernel, by decide +kernel, by decide +kernel⟩
/-- The first element off its size; the last of a row outside the window. -/
theorem test_vector_faults : (traps (.vld 0 3 10 0 0 3) (one fun k => x 10 0x10001 (win k)) 0x21E 0x10001 &&
    traps (.vst 0 3 10 1 0 0) (one fun k => x 10 0x1FE00 (win k)) 0x31E 0x20000 &&
    traps (.vlds 0 3 10 11 0 3) (one fun k => x 11 0x400 (x 10 0x10400 (win k))) 0x3F031E 0x20000 &&
    traps (.vldC 0 3 10 0 1 3) (one fun k => x 10 8 (carHigh k)) 0x31E 0 &&
    traps (.vgather 0 3 10 2 0 2) (vbox (vec 0 (1 <<< 32) 0)) 0x1021E 0x10001) = true := by decide +kernel
theorem test_vector_far : (nx (exec (.vfld 0 3 10 11 3 3 true) (two 0x100 16)) (fun t =>
      decide (t.works.map (·.runs) = [(List.range 64).map fun j => (BitVec.ofNat 64 (0x100 + 16 * j), 8)])) &&
    nx (exec (.vfst 0 3 10 11 3 3 false) (two 0x100 0)) (fun t =>
      decide (t.works.map (fun w => w.puts.length) = [64] ∧ (t.core 0).outst 3 = 1))) = true := by decide +kernel

/-! ### Tile files -/

def shaped (n : Nat) (sh : TShape) (k : Core) : Core := { k with tiles := vset k.tiles n { vget k.tiles n .reset with shape := sh } }
def shI8 (cols rows : Nat) : TShape := ⟨true, 0, cols, rows⟩
/-- The widest INT8 tile, one column past it, a format that the file does not take, a shape for a tile in flight. -/
def moving (k : Core) : Core := shaped 1 (shI8 2 2) (shaped 0 (shI8 2 2) k)
def moveWork : Work := ⟨0, 0, 3, 0, .tzero 0 (shI8 2 2), 0, [], [], .m, 0, 0, 0, 0, 0, .going, [], [], none, []⟩
theorem test_tcfg : (nx (exec (.tcfg 0 0 0 255 127) (one id)) (fun t => decide ((t.core 0).shape 0 = shI8 256 128)) &&
    traps (.tcfg 0 0 0 256 0) (one id) 0x3_0000_0E1E (encTcfg 0 0 256 0).data && traps (.tcfg 0 0 2 0 0) (one id) 0x2_0000_0E1E (encTcfg 0 2 0 0).data) = true := by
  decide +kernel
theorem test_tcfg_busy : let s := { one (fun k => outst 3 1 (moving k)) with works := [moveWork] }
    s.inflight 0 0 = true ∧ (s.core 0).shape 0 ≠ shI8 3 2 ∧ traps (.tcfg 0 0 0 2 1) s 0x1_0000_0F1E (encTcfg 0 0 2 1).data = true := by
  decide +kernel
theorem ccFree_of {k : Core} {cc : BitVec 4} (h : (!k.ccDenied cc && !k.ccResv cc && !k.ccHidden cc.toNat && decide (k.outst cc.toNat < 65535)) = true) :
    k.CcFree cc := by
  simp only [Bool.and_eq_true, Bool.not_eq_true', decide_eq_true_eq] at h
  exact ⟨h.1.1.1, h.1.1.2, h.1.2, h.2⟩
theorem test_tile_moves : ((one moving).core 0).CcFree 15 ∧
    (nx (exec (.tmov 0 0 1 false false 15) (one moving)) (fun t => decide (t.works.map (·.kind) = [.tmov 0 1 false false (shI8 2 2) (shI8 2 2)])) &&
     nx (exec (.tzero 0 0 15) (one moving)) (fun t => decide (t.works.map (·.kind) = [.tzero 0 (shI8 2 2)])) &&
     traps (.tzero 0 2 15) (one moving) 0x1_0000_0E1E (encTmov 2 0 false false true 15).data &&
     nx (exec (.tmov 0 0 1 true false 15) (one fun k => shaped 1 ⟨true, 4, 2, 2⟩ (shaped 0 ⟨true, 5, 2, 2⟩ k))) (fun _ => true)) = true :=
  ⟨ccFree_of (by decide +kernel), by decide +kernel⟩
/-- TMOV of a source with no shape, of another shape, of another format, of a pair that no conversion joins; OVF without CVT. -/
theorem test_tile_move_bad : let two (sh : TShape) : State := one fun k => shaped 1 sh (shaped 0 (shI8 2 2) k)
    let bad (v : Bool) (sh : TShape) (w : Word) : Bool := traps (.tmov 0 0 1 v false 15) (two sh) w (encTmov 0 1 v false false 15).data
    (traps (.tmov 0 2 1 false false 15) (one moving) 0x1_0000_0E1E (encTmov 2 1 false false false 15).data &&
     bad false ⟨false, 0, 2, 2⟩ 0x1_0001_0E1E && bad false (shI8 3 2) 0x4_0001_0E1E && bad false ⟨true, 2, 2, 2⟩ 0x5_0001_0E1E &&
     bad true ⟨true, 2, 2, 2⟩ 0x5_0001_0E1E && !cvtPair 2 0 &&
     traps (.tmov 0 0 1 false true 15) (one moving) 0x11E (encTmov 0 1 false true false 15).data) = true := by decide +kernel
def filled (n : Nat) (m : List Host.Cell) (k : Core) : Core := { k with tiles := vset k.tiles n { vget k.tiles n .reset with data := m } }
def mover (kd : WorkKind) (runs : List (Word × Nat)) (f : Core → Core) : State :=
  { one (fun k => outst 3 1 (f k)) with works := [{ moveWork with
    kind := kd
    runs := runs }] }
theorem test_mover : let f (k : Core) := filled 1 [(1, 5)] (filled 0 [(0, 9)] (moving k))
    (mover (.tzero 0 (shI8 2 2)) [] f).Quiet 0 ∧ ((mover (.tzero 0 (shI8 2 2)) [] f).core 0).wait = none ∧
    (mover (.tzero 0 (shI8 2 2)) [] f).preempted 0 0 = false ∧ (shI8 2 2).cols ≤ maxCols (fileOf 0) 0 ∧
    nx (exec (.tileMoverComplete 0 .clean) (mover (.tzero 0 (shI8 2 2)) [] f)) (fun t =>
      decide (((t.core 0).tile 0).data = [] ∧ ((t.core 0).tile 1).data = [(1, 5)] ∧ (t.core 0).outst 3 = 0)) = true ∧
    nx (exec (.tileMoverComplete 0 .clean) (mover (.tmov 0 1 false false (shI8 2 2) (shI8 2 2)) [] f)) (fun t =>
      decide (((t.core 0).tile 0).data = [(1, 5)])) = true ∧
    nx (exec (.tileMoverComplete 0 .clean) (mover (.tmov 0 1 true false ⟨true, 5, 2, 2⟩ ⟨true, 4, 2, 2⟩) [] f)) (fun t =>
      decide ((t.core 0).outst 3 = 0)) = true :=
  ⟨⟨by decide, by decide +kernel, by decide +kernel, by decide +kernel, by decide +kernel, by decide +kernel, by decide +kernel⟩,
    by decide +kernel⟩
/-- A word corrected on the way; one in error that fails the work. -/
theorem test_mover_words : let s := mover (.tmov 0 1 false false (shI8 2 2) (shI8 2 2)) [] fun k => filled 1 [(1, 5)] (filled 0 [(0, 9)] (moving k))
    (∃ w, s.OnlyWork w ∧ w.kind = .tmov 0 1 false false (shI8 2 2) (shI8 2 2) ∧ w.cc < 16 ∧ w.tags = 0) ∧
    nx (exec (.tileMoverComplete 0 (.fixed 2)) s) (fun t => decide (((t.core 0).tile 0).data = [(1, 5)] ∧ t.log.next = s.log.next + 1)) = true ∧
    (s.core 0).cnt.ccerr.getLsbD 3 = false ∧
    nx (exec (.tileMoverComplete 0 .bad) s) (fun t => decide (((t.core 0).tile 0).data = [(0, 9)] ∧ (t.core 0).cnt.ccerr = 8#16 ∧
      vget (t.core 0).cnt.recs 3 .zero = ⟨0, 1, 0x54⟩)) = true :=
  ⟨⟨_, ⟨rfl, rfl⟩, rfl, by decide, rfl⟩, by decide +kernel⟩
def xfer (mfmt : BitVec 4) (raw : Bool) : TileXfer := ⟨0, mfmt, false, false, false, false, raw, false, 0, 10, 11, 0, 3⟩
theorem test_tld_ends : let s := { mover (.tld (xfer 0 false) (shI8 2 1)) [(0x100, 2)] moving with mem := [(0x100, 7), (0x101, 8)] }
    (readWork { moveWork with
      kind := .tld (xfer 0 false) (shI8 2 1)
      runs := [(0x100, 2)] } .none false s).2 = .ok [7, 8] ∧ (2 * fmtBits 0) % 8 = 0 ∧
    nx (exec (.tileMoverComplete 0 .clean) s) (fun t => decide (((t.core 0).tile 0).data = [(0, 7), (1, 8)])) = true := by decide +kernel
/-- Two rows stored one over the end of the other; memory mapped, unpoisoned. -/
theorem test_tst_ends : let x := xfer 0 false
    let s := mover (.tst x (shI8 2 2) 0 none) [(0x100, 2), (0x101, 2)] fun k => filled 0 [(0, 9), (1, 8), (256, 7)] (moving k)
    s.heldWork { moveWork with
      kind := .tst x (shI8 2 2) 0 none
      runs := [(0x100, 2), (0x101, 2)] } = [] ∧ 2 * fmtBits 0 / 8 = 2 ∧ 0x101 % 0x10000 + 2 ≤ 0x10000 ∧
    s.translate 0 .m false true 0x100 = .ok 0x100 ∧ s.translate 0 .m false true 0x101 = .ok 0x101 ∧ ((∀ u ∈ unitsOf 0x100 2, s.isPoisoned u (ecUnit u) = false ∧ s.lostAt u = false) ∧
      ∀ u ∈ unitsOf 0x101 2, s.isPoisoned u (ecUnit u) = false ∧ s.lostAt u = false) ∧
    (s.isPoisoned 0x100 3 || s.lostAt 0x100 || s.lostAt 0x101) = false ∧
    nx (exec (.tileMoverComplete 0 .clean) s) (fun t => decide (t.mem = [(0x100, 9), (0x101, 7)])) = true ∧
    nx (exec (.tileMoverComplete 0 .bad) s) (fun t => decide (t.mem = [] ∧ (t.core 0).cnt.ccerr = 8#16 ∧
      vget (t.core 0).cnt.recs 3 .zero = ⟨0, 0, 0x54⟩)) = true ∧
    nx (exec (.tileMoverComplete 0 .bad) (mover (.tzero 1 (shI8 2 2)) [] fun k => filled 1 [(1, 5)] (moving k))) (fun t =>
      decide (((t.core 0).tile 1).data = [(1, 5)] ∧ vget (t.core 0).cnt.recs 3 .zero = ⟨0, 1, 0x54⟩)) = true := by decide +kernel
/-- The fields of TileTransfers for a load and a store. -/
def fieldsB (x : TileXfer) (store : Bool) : Bool := decide (x.mfmt.toNat ∈ [0, 2, 4, 5, 6, 7, 8, 9, 10, 11] ∧ (x.sr = true → store = true ∧ x.cvt = true) ∧
  (x.ovf = true → x.cvt = true) ∧ (x.car = false → x.set = 0) ∧ (x.car = true → x.rs2 = 0 ∧ x.mfmt.toNat ≠ 10) ∧ (x.mfmt.toNat ≠ 10 → x.rs3 = 0) ∧
  (x.raw = true → x.tr = false ∧ x.cvt = false ∧ x.sr = false ∧ x.ovf = false ∧ x.car = false ∧ x.mfmt.toNat = 0 ∧ x.rs2 = 0 ∧ x.rs3 = 0))
/-- A plain transfer of two rows at a pitch of 16; a raw one, also off its line; a pitch off its element; no shape. -/
theorem test_transfers : let s := one fun k => x 11 16 (x 10 0x100 (moving k))
    s.Ready 0 ∧ (s.core 0).CcFree 3 ∧ fieldsB (xfer 0 false) false = true ∧ fieldsB (xfer 0 false) true = true ∧ (s.core 0).shape 0 = shI8 2 2 ∧
    nx (exec (.tld 0 (xfer 0 false)) s) (fun t => decide (t.works.map (·.runs) = [[(0x100, 2), (0x110, 2)]])) = true ∧
    nx (exec (.tst 0 (xfer 0 false)) s) (fun t => decide (t.works.map (·.runs) = [[(0x100, 2), (0x110, 2)]])) = true ∧
    fieldsB { xfer 0 true with rs2 := 0 } false = true ∧
    nx (exec (.tld 0 { xfer 0 true with rs2 := 0 }) s) (fun t => decide (t.works.map (·.runs) = [[(0x100, 34816)]])) = true ∧
    traps (.tld 0 { xfer 0 true with rs2 := 0 }) (one fun k => x 10 0x20 (moving k)) 0x21E 0x20 = true ∧
    fieldsB (xfer 4 false) false = true ∧
    traps (.tld 0 (xfer 4 false)) (one fun k => x 10 0x101 (shaped 0 ⟨true, 4, 2, 2⟩ k)) 0x21E 0x101 = true ∧
    traps (.tld 0 { xfer 0 false with set := 1 }) s 0x11E (encXfer 4 { xfer 0 false with set := 1 }).data = true ∧
    traps (.tst 0 { xfer 0 true with rs2 := 0 }) (one fun k => x 10 0x20 (moving k)) 0x21E 0x20 = true ∧
    traps (.tst 0 (xfer 4 false)) (one fun k => x 10 0x101 (shaped 0 ⟨true, 4, 2, 2⟩ k)) 0x21E 0x101 = true ∧
    traps (.tst 0 (xfer 0 false)) (one id) 0x1_0000_0E1E (encXfer 5 (xfer 0 false)).data = true :=
  ⟨ready_of (by decide +kernel), ccFree_of (by decide +kernel), by decide +kernel⟩
/-- A Carousel transfer of two rows of 8 bytes, 24 apart in a ring of 32 at the window's base; a converting store. -/
theorem test_transfer_forms : let s := one fun k => shaped 1 ⟨true, 6, 2, 2⟩ (shaped 0 (shI8 8 2) (x 10 8 (car k)))
    let c : TileXfer := { xfer 0 false with
      car := true
      set := 1
      rs2 := 0 }
    let v : TileXfer := { xfer 4 false with
      tile := 1
      cvt := true
      sr := true
      ovf := true
      rs2 := 0 }
    let k := s.core 0
    fieldsB c false = true ∧ k.carOk 1 8 = true ∧ k.inWindow (0x10000 + k.carOff 1 8 (k.carIdx 1 8 1)) 8 = true ∧
    nx (exec (.tld 0 c) s) (fun t => decide (t.works.map (·.runs) = [[(0x10008, 8), (0x10000, 8)]] ∧ (t.core 0).tm.pend = [⟨1, .x .b1 10 24, none⟩])) = true ∧
    fieldsB v true = true ∧ cvtPair 6 4 = true ∧
    nx (exec (.tst 0 v) s) (fun t => decide (t.works.map (fun w => w.runs.length) = [2])) = true := by decide +kernel
def portBusy (k : Core) : Core := { k with tm := { k.tm with portFree := 1 } }
/-- The last segment of vt0; an accumulator; a busy port. -/
theorem test_segments : (nx (exec (.tget 0 3 12 10 63) (one fun k => x 10 64 (filled 12 [(512 * 63, 7)] k))) (fun t =>
      decide ((t.core 0).tm.pend = [⟨10, .v 3 7, some (.tget 12, 0, 0)⟩])) &&
    nx (exec (.tput 0 3 12 10 63) (one fun k => vec 0 0 0x905 (filled 12 [(512 * 63, 7)] k))) (fun t =>
      decide (((t.core 0).tile 12).data = [(512 * 63, 5), (512 * 63 + 1, 9)])) &&
    traps (.tget 0 3 11 10 0) (one id) 0x2_0000_0E1E (encTget 0 3 11 10 0).data &&
    traps (.tput 0 3 11 10 0) (one id) 0x2_0000_0E1E (encTget 1 3 11 10 0).data &&
    traps (.tput 0 3 12 10 0) (one portBusy) 0x2_0000_011E (encTget 1 3 12 10 0).data &&
    traps (.tget 0 3 12 10 0) (one portBusy) 0x2_0000_011E (encTget 0 3 12 10 0).data) = true := by decide +kernel

/-! ### The matrix array and the update path -/

/-- Tiles 0 and 1 of 2 by 2 INT8 values, acc0 of 2 by 2 in a format, vt0. -/
def grid (accFmt : BitVec 4) (k : Core) : Core :=
  shaped 8 ⟨true, accFmt, 2, 2⟩ (filled 1 [(0, 3), (256, 0xFF)] (filled 0 [(0, 1), (1, 2)] (shaped 1 (shI8 2 2) (shaped 0 (shI8 2 2) k))))
def apassOp : PassOp := ⟨8, 0, 1, false, false, 0, 0, 0, 0, 3, 0, 0⟩
/-- A pass on an idle array starts on the next step: stall load 128, two rows, 134. -/
theorem test_apass : let s := one (grid 4)
    s.Ready 0 ∧ s.fenced 0 = false ∧ (s.core 0).pw.disArray = false ∧ (s.core 0).CcFree 3 ∧ pairOk 0 0 = true ∧
    nx (exec (.apass 0 apassOp) s) (fun t => decide ((t.core 0).arr.queue.map (fun p => (p.start, p.commitAt, p.dst)) = [(1, 265, [8])] ∧
      (t.core 0).outst 3 = 1)) = true :=
  ⟨ready_of (by decide +kernel), by decide +kernel, by decide +kernel, ccFree_of (by decide +kernel), by decide +kernel⟩
theorem test_aelem : nx (exec (.aelem 0 8 9 8 0 false 3) (one fun k => shaped 9 ⟨true, 4, 2, 2⟩ (grid 4 k))) (fun t =>
    decide ((t.core 0).arr.queue.map (fun p => (p.start, p.commitAt)) = [(1, 136)])) = true := by decide +kernel
/-- The premises of a pass in every form, and what it enters with. -/
def passB (s : State) (p : PassOp) (q : Pass → Bool) : Bool :=
  let k := s.core 0
  let pl := passPlan s 0 p
  !passIllegal k p && (if k.arr.tent = true then tentFault s 0 (encPass p) p else gangedFault s 0 (encPass p) p).isNone &&
  decide (passLen (loadNow k p.load.toNat pl.form p.sta.toNat false k.arr.tent) pl.str 0 ≤ 2048) &&
  (!p.feed || (feedFault k p.rs1 p.rs2 p.rs3 (elemBytes p.ffmt.toNat) (p.ffmt == 10) (passFeed k p)).isNone) &&
  nx (exec (.apass 0 p) s) fun t => match (t.core 0).arr.queue with
    | [r] => q r && decide (r.data = pl.data ∧ r.dst = pl.dst ∧ r.dem = pl.dem)
    | _ => false
/-- Two rows from the window, a KEEP of the stationary tile that the array holds, a parade load. -/
def fedOp : PassOp := { apassOp with
  mov := 0
  feed := true
  rs1 := 10
  rs2 := 11
  frowsm1 := 1 }
def keeping (k : Core) : Core := { k with arr := { k.arr with
  svalid := true
  stag := 0
  held := some (.ganged (lanesM 0))
  peForm := some (.ganged (lanesM 0)) } }
theorem test_apass_forms : let fed := { one (fun k => x 11 16 (x 10 0x10000 (win (grid 4 k)))) with mem := bytes3 }
    (passB fed fedOp (fun r => decide (r.load = .stall ∧ r.dem = 2)) &&
     passB (one fun k => keeping (grid 4 k)) { apassOp with load := 2 } (fun r => decide (r.load = .keep ∧ r.commitAt = 137)) &&
     passB (one (grid 4)) { apassOp with load := 1 } (fun r => decide (r.load = .parade))) = true := by decide +kernel
/-- The premises of a tent pass, 128 rows fed from one. -/
theorem test_apass_tent : let s := one fun k => x 10 0x10000 (win (shaped 8 ⟨true, 4, 128, 32⟩ (shaped 0 (shI8 256 32) { k with arr := { k.arr with
      tent := true } })))
    let p := { fedOp with
      rs2 := 0
      frowsm1 := 0 }
    let k := s.core 0
    passIllegal k p = false ∧ (k.arr.tent = true ∧ tentFault s 0 (encPass p) p = none) ∧
    feedFault k p.rs1 p.rs2 p.rs3 (elemBytes p.ffmt.toNat) (p.ffmt == 10) (passFeed k p) = none ∧
    passLen .stall (tentSteps 0 128 256) 0 ≤ 2048 := by decide +kernel
/-- Each row of a BF16 tile with the first row of an accumulator. -/
theorem test_aelem_row : nx (exec (.aelem 0 8 0 9 2 true 3) (one fun k => shaped 9 ⟨true, 4, 2, 1⟩ (shaped 0 ⟨true, 5, 2, 2⟩ (grid 4 k)))) (fun t =>
    (t.core 0).arr.queue.any fun p => match p.data with
      | .elem 2 true _ b => decide (b.length = 2 ∧ p.commitAt = 136)
      | _ => false) = true := by decide +kernel
def adistOp : DistOp := ⟨8, 0, 1, false, false, 0, 0, 0, 0, 0, 3, 0, false, 0⟩
/-- |3 − 1| + |0 − 0| = 2 in the first element. -/
theorem test_adist : nx (exec (.adist 0 adistOp) (one (grid 2))) (fun t => (t.core 0).arr.queue.any fun p =>
    match p.data with
    | .dist 0 d _ => decide ((d.getD 0 []).getD 0 0 = 2 ∧ (d.getD 1 []).getD 1 0 = 3)
    | _ => false) = true := by decide +kernel
/-- The premises of a distance pass in every form, and what it enters with. -/
def distB (s : State) (d : DistOp) (q : Pass → Bool) : Bool :=
  let k := s.core 0
  let pl := distPlan s 0 d
  !distIllegal d && decide (1 ≤ distCount k d ∧ distCount k d ≤ 8192) && (distFault s 0 (encDist d) d).isNone &&
  decide (passLen (loadNow k d.load.toNat pl.form d.sta.toNat false false) pl.str pl.tail ≤ 2048) &&
  (!d.feed || (feedFault k d.rs1 d.rs2 0 1 false (distFeed k d)).isNone) &&
  nx (exec (.adist 0 d) s) fun t => match (t.core 0).arr.queue with
    | [r] => q r && decide (r.data = pl.data ∧ r.dst = pl.dst ∧ r.dem = pl.dem)
    | _ => false
/-- Least distances of the two rows; two rows fed. -/
theorem test_adist_forms : (distB (one fun k => shaped 8 ⟨true, 2, 2, 2⟩ (grid 2 k)) { adistOp with sel := 1 } (fun r => decide (r.commitAt = 273)) &&
    distB { one (fun k => x 12 2 (x 11 16 (x 10 0x10000 (win (grid 2 k))))) with mem := bytes3 } { adistOp with
      mov := 0
      feed := true
      rs1 := 10
      rs2 := 11
      rs4 := 12 } (fun r => decide (r.dem = 2 ∧ r.commitAt = 265))) = true := by decide +kernel
def aPass (data : PassData) : Pass :=
  ⟨0, 0x20, 3, .elem, .keep, 5, 1, 0, 0, [], [8], false, false, false, none, 0, 0, 0, data⟩
def queued (p : Pass) (k : Core) : Core := { outst 3 1 k with arr := { k.arr with queue := [p] } }
def one32 : FV := .fin false 1 0
def elemData : PassData := .elem 0 false [[one32, one32], [one32, one32]] [[one32, one32], [one32, one32]]
def atStep (n : Nat) (k : Core) : Core := { k with tm := { k.tm with step := n } }
/-- Start and commit of an element pass, of a distance pass (2 by 2 distances), of a product pass. -/
theorem test_pass_life : ((one fun k => queued (aPass elemData) (grid 4 k)).core 0).beats = true ∧
    nx (exec (.passStart 0) (one fun k => queued (aPass elemData) (grid 4 k))) (fun t => decide ((t.core 0).tm.step = 5)) = true ∧
    nx (exec (.passCommit 0) (one fun k => queued (aPass elemData) (grid 4 k))) (fun t => decide ((t.core 0).arr.queue = [] ∧
      (t.core 0).tm.step = 140 ∧ (t.core 0).outst 3 = 0)) = true ∧ elemOp 0 one32 one32 = (0x40000000, 0) ∧
    nx (exec (.passCommit 0) (one fun k => queued (aPass (.dist 0 [[2, 3], [4, 5]] 0)) (grid 2 k))) (fun t =>
      decide ((t.core 0).arr.queue = [])) = true := by decide +kernel
/-- R220: four steps of 4096 bytes, one of which the vector memory port shortens by 512: one step more, counted in EVC9. -/
theorem test_feed_wait : let p := { aPass elemData with dem := 4096, str := 4 }
    let at_ (l : List (Nat × Nat)) : State := one fun k => let k := queued p (grid 4 k); { k with arr := { k.arr with portUse := l } }
    (p.commitAt = 143 ∧ p.b = 5) ∧
    (nx (exec (.passCommit 0) (at_ [(6, 512)])) (fun t => decide ((t.core 0).tm.step = 144 ∧ vget (t.core 0).ev.evc 9 0 = 1)) &&
     nx (exec (.passCommit 0) (at_ [(6, 512), (8, 512)])) (fun t => decide ((t.core 0).tm.step = 144)) &&
     nx (exec (.passCommit 0) (at_ [(9, 512)])) (fun t => decide ((t.core 0).tm.step = 143))) = true := by decide +kernel
theorem test_product_pass : let p := aPass (.mm false 1 [[one32], [one32]] [[one32], [one32]] 0)
    ((one fun k => queued p (grid 4 k)).core 0).arr.queue = [p] ∧ ((one fun k => queued p (grid 4 k)).core 0).shape 8 = ⟨true, 4, 2, 2⟩ := by
  decide +kernel
/-- AQUIET of an empty array at M and S, and at T. -/
theorem test_aquiet : (nx (exec (.aquiet 0 0) (one id)) (fun t => decide ((t.core 0).wait = none ∧ (t.core 0).flow.pc = 8)) &&
    nx (exec (.aquiet 0 0) (one atS)) (fun t => decide ((t.core 0).wait = none)) &&
    traps (.aquiet 0 0) (one atT) 0x11E (encWide 0x21 0 0).data) = true := by decide +kernel
/-- At its first step and one step before its commit: a restart of a stall load, the second mismatch, an abandoned pass. -/
theorem test_pass_failures : let st (n : Nat) (p : Pass) := one fun k => atStep n (queued p (grid 4 k))
    (nx (exec (.parityMismatch 0 0 127) (st 5 { aPass elemData with load := .stall })) (fun t =>
       decide ((t.core 0).arr.queue.map (fun p => (p.start, p.restarted)) = [(6, true)])) &&
     nx (exec (.parityMismatch 0 0 0) (st 139 (aPass elemData))) (fun t => decide ((t.core 0).arr.queue = [] ∧
       vget (t.core 0).cnt.recs 3 .zero = ⟨0x20, 0, 0x21⟩)) &&
     nx (exec (.parityMismatch 0 0 0) (st 139 { aPass elemData with restarted := true })) (fun t => decide ((t.core 0).arr.queue = [])) &&
     nx (exec (.passAbandon 0 0 0x40) (st 5 (aPass elemData))) (fun t =>
       decide (vget (t.core 0).cnt.recs 3 .zero = ⟨0x20, 0x40, 0x20⟩ ∧ (t.core 0).outst 3 = 0))) = true := by decide +kernel
def trapOp : TrapOp := ⟨8, 0, 1, 2, 0, 12, false, false, false, false, false, 0, 3, .clean⟩
def trapTiles (k : Core) : Core :=
  shaped 12 ⟨true, 4, 2, 2⟩ (shaped 8 ⟨true, 4, 2, 2⟩ (shaped 2 ⟨true, 5, 2, 2⟩ (shaped 1 ⟨true, 5, 2, 2⟩ (shaped 0 ⟨true, 5, 2, 2⟩ k))))
theorem test_tpass : let s := one trapTiles
    s.Ready 0 ∧ (s.core 0).CcFree 3 ∧ trapM 5 = some 1 ∧ s.passFenced 0 (.trapeze 1) = false ∧
    nx (exec (.tpass 0 trapOp) s) (fun t => decide ((t.core 0).arr.queue.map (fun p => (p.start, p.commitAt, p.dst)) = [(1, 265, [8])])) = true :=
  ⟨ready_of (by decide +kernel), ccFree_of (by decide +kernel), by decide +kernel⟩
/-- A descriptor of form 1 at 0x10000: pitch 4, weight at 0x10200, momentum at 0x10204, lr 0.5, gscale 1. -/
def updAt (pitch m1 : Nat) : List Host.Cell := (Mem.put [] 0 ([1, 0, 0, 0] ++ leBytes 4 pitch ++ List.replicate 8 0 ++ leBytes 8 0x10200 ++ leBytes 8 m1 ++
  List.replicate 16 0 ++ leBytes 4 0x3F000000 ++ List.replicate 16 0 ++ leBytes 4 0x3F800000)).put 0x200 (leBytes 4 0x3F800000)
def updBytes : List Host.Cell := updAt 4 0x10204
/-- A pass with the upper window of 65 columns, a parade load and an update: its premises and what it enters with. -/
theorem test_tpass_forms : let s := { one (fun k => x 10 0x10000 (win (shaped 12 ⟨true, 4, 1, 2⟩ (shaped 8 ⟨true, 4, 2, 2⟩ (shaped 2 ⟨true, 5, 2, 2⟩
        (shaped 1 ⟨true, 5, 2, 65⟩ (shaped 0 ⟨true, 5, 65, 2⟩ k))))))) with
      mem := updAt 0x200 0x10800 }
    let p := { trapOp with
      wt := 1
      dy := 0
      xt := 2
      load := 1
      nh := true
      upd := true
      rs1 := 10 }
    let w := trapWin (s.core 0) p
    trapIllegal p = false ∧ trapFault s 0 (encTrap p) p = none ∧ (1 ≤ w.n ∧ w.m ≠ 2 ∧ p.err = .clean) ∧
    descFault s 0 (encTrap p) ((s.core 0).rx 10) w.kk (w.n0 + w.n) .clean = none ∧ s.passFenced 0 (trapPlan s 0 p).form = false ∧
    nx (exec (.tpass 0 p) s) (fun t => decide ((t.core 0).arr.queue.map (fun r => (r.load, r.commitAt, r.dst)) = [(.parade, 137, [8])])) = true := by
  decide +kernel
/-- UPDT of two slices of one column each, with the mask. -/
theorem test_updt_two : let s := { one (fun k => x 10 0x10000 (win (shaped 13 ⟨true, 4, 1, 1⟩ (shaped 12 ⟨true, 4, 1, 1⟩ k)))) with
      mem := updAt 8 0x10208 }
    (s.core 0).shape 12 = ⟨true, 4, 1, 1⟩ ∧ (s.core 0).shape 13 = ⟨true, 4, 1, 1⟩ ∧
    descFault s 0 (encUpdt 12 true false true 10 3) ((s.core 0).rx 10) 1 2 .clean = none ∧
    nx (exec (.updt 0 12 true false true ⟨10, .clean⟩ 3) s) (fun t => decide ((t.core 0).arr.upd.map (fun u => (u.slices.length, u.mask)) =
      [(2, true)])) = true := by decide +kernel
def updBox (f : Core → Core) : State := { one (fun k => f (x 10 0x10000 (win (filled 12 [(2, 0x80), (3, 0x3F)] (shaped 12 ⟨true, 4, 1, 1⟩ k))))) with
  mem := updBytes }
theorem test_updt : let s := updBox id
    s.Ready 0 ∧ (s.core 0).CcFree 3 ∧ s.fenced 0 = false ∧ (s.core 0).pw.disUpd = false ∧ s.fieldBusy 0 = false ∧
    descFault s 0 (encUpdt 12 false false false 10 3) 0x10000 1 1 .clean = none ∧ (s.updDesc 0 0x10000).skipnf = false ∧
    nx (exec (.updt 0 12 false false false ⟨10, .clean⟩ 3) s) (fun t => decide ((t.core 0).arr.upd.map (·.endAt) = [some 2] ∧ (t.core 0).outst 3 = 1)) = true :=
  ⟨ready_of (by decide +kernel), ccFree_of (by decide +kernel), by decide +kernel⟩
def item (d : Option UpdDesc) (emit fin : Option Nat) : UpdItem :=
  ⟨0, 0, 3, [⟨12, 1, 1, 0⟩], emit, [[0x40000000]], false, false, .reset, d, fin, true, [], 0, 0, none⟩
def withItem (u : UpdItem) (k : Core) : Core := { outst 3 1 k with arr := { k.arr with upd := [u] } }
/-- The emission of a slice: one gradient of 2.0; and form 1 on w = 1, m1 = 0, gradient 1: v = 1, w' = 0.5. -/
theorem test_slice_emission : nx (exec (.sliceEmission 0 false) (updBox (withItem (item none (some 5) none)))) (fun t =>
    decide ((t.core 0).arr.upd = [] ∧ (t.core 0).tm.step = 21 ∧ (t.core 0).vtCode 12 0 0 = 0x40000000 ∧ (t.core 0).outst 3 = 0)) = true := by
  decide +kernel
theorem test_update_item : let d := readUpdDesc (Mem.bytes updBytes 0 128)
    let s := updBox (withItem (item (some d) none (some 9)))
    (let u := item (some d) none (some 9); u.done = 0 ∧ u.next < 9 ∧ u.bad = none ∧ u.mask = false) ∧ d.form = 1 ∧ d.cfmt = 0 ∧ s.windowPa 0 d.waddr.toNat = 0x200 ∧ s.windowPa 0 d.m1addr.toNat = 0x204 ∧ s.isPoisoned 0x200 8 = false ∧
    nx (exec (.updateItemEnd 0 none) s) (fun t => decide ((t.core 0).arr.upd = [] ∧ t.mem.nat 0x200 4 = 0x3F000000 ∧
      t.mem.nat 0x204 4 = 0x3F800000 ∧ (t.core 0).outst 3 = 0 ∧ (t.core 0).tm.step = 9)) = true := by decide +kernel

/-! ### Juggler -/

/-- Two rows of 64 bytes from address 0x200, a ring of two segments at 0x10100. -/
def sDesc : SDesc := ⟨false, false, 2, false, 0, 0x200, 64, 64, 1, 2, 0x10100, 0, 0, []⟩
def sBytes : List Host.Cell := Mem.put [] 0 ([0, 0, 2, 0, 0, 0, 0, 0] ++ leBytes 8 0x200 ++ leBytes 8 64 ++ leBytes 4 64 ++ leBytes 4 1 ++ leBytes 8 2 ++
  leBytes 8 0x10100)
def openBox (f : Core → Core) : State := { one (fun k => f (x 10 0x10000 (win k))) with mem := sBytes }
def slotIs (n : Nat) (sl : Slot) (k : Core) : Core := { outst 3 1 k with slots := vset k.slots n sl }
def sSlot (st : SlotSt) (prog : SlotProg) : Slot := { Slot.reset with
  st := st
  cc := 3
  desc := some sDesc
  priv := .m
  prog := prog
  idn := { Ident.reset with
    lwb := 0x10000
    lwl := 0x10000 } }
def arrived (n acq rel : Nat) : SlotProg := { SlotProg.reset with
  reqRow := n
  doneRows := n
  acq := acq
  rel := rel }
theorem test_sopen : let s := openBox id
    s.Ready 0 ∧ (s.core 0).slotDenied 15 = false ∧ (s.core 0).CcFree 3 ∧ s.fenced 0 = false ∧ (s.core 0).pw.disJug = false ∧
    (s.core 0).inWindow 0x10000 128 = true ∧ s.windowBad 0 0x10000 128 = false ∧ streamBad s 0 (s.mem.bytes 0 128) = none ∧
    readStream (s.mem.bytes 0 128) = sDesc ∧ (s.core 0).inWindow sDesc.rbase.toNat 128 = true ∧
    nx (exec (.sopen 0 15 ⟨10, .clean⟩ 3) s) (fun t => decide (((t.core 0).slot 15).st = .read ∧ ((t.core 0).slot 15).desc = some sDesc ∧
      (t.core 0).outst 3 = 1)) = true ∧
    nx (exec (.sjoin 0 2 3) s) (fun t => decide (((t.core 0).slot 2).st = .joined)) = true ∧
    traps (.sopen 0 2 ⟨10, .clean⟩ 3) (openBox (slotIs 2 (sSlot .read .reset))) 0x1_0002_111E (encStream 0x60 2 10 0 false 3).data = true ∧
    traps (.sjoin 0 2 3) (openBox (slotIs 2 (sSlot .read .reset))) 0x1_0002_111E (encStream 0x61 2 0 0 false 3).data = true :=
  ⟨ready_of (by decide +kernel), by decide +kernel, ccFree_of (by decide +kernel), by decide +kernel⟩
/-- A segment ready, none yet, none any more; a release; the slots T may not name. -/
theorem test_sacq : (nx (exec (.sacq 0 2 5 0 false) (openBox (slotIs 2 (sSlot .read (arrived 2 1 0))))) (fun t =>
      decide ((t.core 0).wait = none ∧ (t.core 0).rx 5 = 0x10140 ∧ ((t.core 0).slot 2).prog.acq = 2)) &&
    nx (exec (.sacq 0 2 5 0 false) (openBox (slotIs 2 (sSlot .receive (arrived 1 1 0))))) (fun t =>
      decide ((t.core 0).wait.map (·.kind) = some (.stream 2))) &&
    nx (exec (.sacq 0 2 5 0 false) (openBox (slotIs 2 { sSlot .read (arrived 1 1 0) with ended := true }))) (fun t =>
      decide ((t.core 0).rx 5 = BitVec.allOnes 64)) &&
    nx (exec (.srel 0 2) (openBox (slotIs 2 (sSlot .read (arrived 2 1 0))))) (fun t => decide (((t.core 0).slot 2).prog.rel = 1)) &&
    traps (.sopen 0 14 ⟨10, .clean⟩ 3) (one atT) 0x11E (encStream 0x60 14 10 0 false 3).data &&
    traps (.sacq 0 15 5 0 true) (one atT) 0x11E (encStream 0x62 15 5 0 true 0).data &&
    traps (.mcastDrop 0 14 6) (one atT) 0x11E (encStream 0x65 14 6 0 false 0).data &&
    traps (.srel 0 14) (one atT) 0x11E (encStream 0x63 14 0 0 false 0).data) = true := by decide +kernel
theorem test_stream_cancel : (nx (exec (.streamCancel 0 2) (openBox id)) (fun t => decide ((t.core 0).slot 2 = .reset)) &&
    nx (exec (.streamCancel 0 2) (openBox (slotIs 2 { sSlot .joined .reset with desc := none }))) (fun t =>
      decide ((t.core 0).slot 2 = .reset ∧ (t.core 0).outst 3 = 0)) &&
    nx (exec (.streamCancel 0 2) (openBox (slotIs 2 (sSlot .read (arrived 2 1 0))))) (fun t =>
      decide (((t.core 0).slot 2).st = .draining ∧ ((t.core 0).slot 2).prog.disc = 64 ∧ ((t.core 0).slot 2).cutSeg = some 1))) = true := by
  decide +kernel
def aRcv (live : Bool) : Rcv := ⟨1, 0, false, live⟩
def sending (k : Core) : Core := slotIs 2 { sSlot .sender .reset with
  rcvs := [aRcv true]
  idn := { (sSlot .sender .reset).idn with group := 7 } } k
def aGroup (ms : List Nat) : Group := ⟨7, 0, 0, 0x10000, ms, [], 0, false, none, false, [], [], []⟩
def grouped (ms : List Nat) (s : State) : State := { s with place := { s.place with groups := [aGroup ms] } }
theorem test_mcast_drop : (one sending).NoWaits ∧ ((one sending).core 0).slot 2 ≠ .reset ∧
    nx (exec (.mcastDrop 0 2 0) (one sending)) (fun t => decide (((t.core 0).slot 2).rcvs = [aRcv false])) = true :=
  ⟨noWaits_of (by decide +kernel), by decide +kernel⟩
/-- The requests of two rows of 64 bytes from 0x200; its response in the ring; its failure; the end. -/
def aPiece : Piece := ⟨0, 0, 0, 0, 0, 64, 0x200, true, []⟩
def inFlight : SlotProg := { SlotProg.reset with
  reqRow := 1
  pieces := [aPiece] }
theorem test_stream_events : (openBox (slotIs 2 (sSlot .read .reset))).NoWaits ∧ State.tags (openBox (slotIs 2 (sSlot .read .reset))) 0 false = 0 ∧
    (openBox (slotIs 2 (sSlot .read .reset))).works = [] ∧ (∀ j, j < 16 → j ≠ 2 → (((openBox (slotIs 2 (sSlot .read .reset))).core 0).slot j).st = .free) ∧
    State.lineBusy (openBox (slotIs 2 (sSlot .read inFlight))) 0 2 aPiece = false ∧
    nx (exec (.streamRequest 0) (openBox (slotIs 2 (sSlot .read .reset)))) (fun t =>
      decide (((t.core 0).slot 2).prog.pieces.map (fun p => (p.row, p.off, p.len, p.addr)) = [(0, 0, 64, 0x200), (1, 0, 64, 0x240)])) = true ∧
    (getVa 0 0 .none [] 0 .m false 0x200 64 (openBox (slotIs 2 (sSlot .read inFlight)))).2 = .ok (List.replicate 64 0) ∧
    State.granted (openBox (slotIs 2 (sSlot .read inFlight))) 0 0 (unitsOf 0x200 64) = true ∧
    nx (exec (.pieceResponse 0 2 ⟨0, .none⟩) { openBox (slotIs 2 (sSlot .read inFlight)) with mem := [(0x23F, 9)] }) (fun t =>
      decide (t.mem = [(0x13F, 9), (0x23F, 9)] ∧ ((t.core 0).slot 2).prog.doneRows = 1)) = true ∧
    nx (exec (.pieceFail 0 2 0) (openBox (slotIs 2 (sSlot .read inFlight)))) (fun t =>
      decide (((t.core 0).slot 2).st = .draining ∧ ((t.core 0).slot 2).err = some ⟨0, 0x200, 0x30⟩)) = true ∧
    nx (exec (.streamEnd 0 2) (openBox (slotIs 2 (sSlot .read (arrived 2 2 2))))) (fun t =>
      decide ((t.core 0).slot 2 = .reset ∧ (t.core 0).outst 3 = 0)) = true :=
  ⟨noWaits_of (by decide +kernel), by decide +kernel⟩
def sendPair : State := grouped [1] (((one fun k => sending (win k)).upd 1 serve).upd 1 fun k => win (slotIs 1 { sSlot .joined .reset with desc := none } k))
theorem test_multicast_bind : sendPair.NoWaits ∧ sendPair.memberCore 7 0 = some 1 ∧ ((sendPair.core 0).slot 2).rcvs[0]? = some (aRcv true) ∧
    ((sendPair.core 1).slot 1).st = .joined ∧ ((sendPair.core 1).slot 1).idn.inWindow 0x10100 sDesc.ringBytes = true ∧
    nx (exec (.multicastBind 0 2 0) sendPair) (fun t => decide (((t.core 1).slot 1).st = .receive ∧ ((t.core 1).slot 1).sender = some (0, 2))) = true :=
  ⟨noWaits_of (by decide +kernel), by decide +kernel⟩

/-! ### Synchronisation -/

def semWork (kd : WorkKind) : Work := ⟨0, 0, 3, 0, kd, 0x108, [(0x108, 8)], [], .m, 0, 0, 0, 0, 0, .going, [], [], none, []⟩
def someWrite : Work := { load8 with
  kind := .fst
  runs := []
  puts := [(0x200, [1])] }
theorem test_sem_issue : let s := one fun k => x 11 5 (x 10 0x108 k)
    s.Ready 0 ∧ (s.core 0).CcFree 3 ∧ s.outWrites 0 = [] ∧ s.outSegs 0 = [] ∧ State.outWrites { s with works := [someWrite] } 0 ≠ [] ∧
    nx (exec (.semAdd 0 5 10 11 3) s) (fun t => decide (t.works.map (·.kind) = [.semAdd .b1 5 5])) = true ∧
    nx (exec (.semAddRel 0 5 10 11 3) s) (fun t => decide (t.works.map (·.stage) = [.going])) = true ∧
    nx (exec (.semAddRel 0 5 10 11 3) { s with works := [someWrite] }) (fun t => decide (t.works.map (·.stage) = [.going, .held])) = true ∧
    nx (exec (.semTake 0 5 10 0 31 false false) s) (fun t => decide (t.works.map (·.kind) = [.semTake .b1 5 32 false])) = true ∧
    traps (.semAdd 0 5 10 11 3) (two 0x104 0) 0x21E 0x104 = true ∧ traps (.semAddRel 0 5 10 11 3) (two 0x104 0) 0x21E 0x104 = true ∧
    traps (.semTake 0 5 10 0 0 false false) (two 0x104 0) 0x21E 0x104 = true :=
  ⟨ready_of (by decide +kernel), ccFree_of (by decide +kernel), by decide +kernel⟩
def taking : State := { one (inWait (.sem 0 0x108)) with
  works := [semWork (.semTake .b1 5 1 false)]
  mem := [(0x108, 1)] }
theorem test_sem_home : let s := { one (outst 3 1) with
      works := [semWork (.semAdd .b1 5 (-1))]
      mem := [(0x108, 7)] }
    s.OnlyWork (semWork (.semAdd .b1 5 (-1))) ∧ s.NoWaits ∧ s.translate 0 .m true true 0x108 = .ok 0x108 ∧ s.Readable 0x108 8 ∧ taking.Readable 0x108 8 ∧
    s.behind (semWork (.semAdd .b1 5 (-1))) = false ∧ taking.behind (semWork (.semTake .b1 5 1 false)) = false ∧
    nx (exec (.semOpAtHome 0 .none) s) (fun t => decide (t.mem.nat 0x108 8 = 6)) = true ∧
    taking.takes = [] ∧ (taking.core 0).wait = some (aWait (.sem 0 0x108)) ∧ (∀ d, d < 160 → d ≠ 0 → (taking.core d).wait = none) ∧
    taking.mem.nat 0x108 8 = 1 ∧
    nx (exec (.semOpAtHome 0 .none) { taking with mem := [] }) (fun t => decide (t.takes = [⟨0, 0x108, 1⟩])) = true :=
  ⟨⟨rfl, rfl⟩, noWaits_of (by decide +kernel), by decide +kernel, ⟨by decide +kernel, by decide +kernel⟩, ⟨by decide +kernel, by decide +kernel⟩,
    by decide +kernel⟩
def sigs (n : Nat) (k : Core) : Core := { k with syn := { k.syn with sigq := List.replicate n ⟨9, 2, 7⟩ } }
theorem test_sig : let s := one fun k => x 11 9 (x 10 0 k)
    nx (exec (.sig 0 10 11 3) s) (fun t => decide (t.works.map (·.kind) = [.sig 0 9])) = true ∧
    nx (exec (.sigRel 0 10 11 3) s) (fun t => decide (t.works.map (·.stage) = [.going])) = true ∧
    ((one (sigs 1)).core 0).sigSeen .m = [⟨9, 2, 7⟩] ∧
    nx (exec (.sigw 0 5 0 false false) (one (sigs 2))) (fun t => decide ((t.core 0).wait = none ∧ (t.core 0).syn.sigq.length = 1)) = true ∧
    pend (.sigw 0 5 0 false true) (one (sigs 1)) (px 1 0x2000000000009) = true ∧
    pend (.sigw 0 5 0 false true) (one id) (px 1 (-1)) = true ∧
    nx (exec (.sigw 0 5 0 false false) (one id)) (fun t => decide ((t.core 0).wait.map (·.kind) = some .signal)) = true := by decide +kernel
def sigWork : Work := { semWork (.sig 0 9) with
  addr := 0
  group := 7 }
/-- The last place of the queue; no such member. -/
theorem test_signal_queued : let s := { grouped [1] ((one id).upd 1 fun k => sigs 15 (serve k)) with works := [sigWork] }
    s.OnlyWork sigWork ∧ s.NoWaits ∧ s.liveMember 7 0 = some 1 ∧ (s.core 1).syn.sigq.length = 15 ∧
    nx (exec (.signalQueued 0) s) (fun t => decide ((t.core 1).syn.sigq.length = 16 ∧ (t.core 1).tr.ipend = 4)) = true ∧
    nx (exec (.signalQueued 0) { one id with works := [sigWork] }) (fun t => decide (t.works.map (·.stage) = [.failed ⟨0, 0, 0x40⟩])) = true ∧
    (let s := { grouped [1] (one id) with works := [sigWork] }
     s.liveMember 7 0 = some 1 ∧ (s.core 1).inSvc = false ∧
     nx (exec (.signalQueued 0) s) (fun t => decide (t.works.map (·.stage) = [.failed ⟨0, 0, 0x32⟩])) = true) :=
  ⟨⟨rfl, rfl⟩, noWaits_of (by decide +kernel), by decide +kernel⟩
theorem test_release : let w (kd : WorkKind) : Work := { semWork kd with stage := .held }
    nx (exec (.releaseTakesEffect 0) { one id with works := [w (.semAdd .b1 5 1)] }) (fun t => decide (t.works.map (·.stage) = [.going])) = true ∧
    State.preempted (one id) 0 0 = false ∧
    nx (exec (.releaseTakesEffect 0) { one id with works := [w (.barArr 31)] }) (fun t => decide (t.works = [] ∧ (t.core 0).syn.wires = 0x80000000)) = true := by
  decide +kernel
def member (n : Nat) (arr fail : Bool) (k : Core) : Core := { k with syn := { k.syn with
  barmask := BitVec.ofNat 32 (2 ^ n)
  barpend := if arr then BitVec.ofNat 32 (2 ^ n) else 0
  wires := if arr then BitVec.ofNat 32 (2 ^ n) else 0
  barfail := if fail then BitVec.ofNat 32 (2 ^ n) else 0 } }
theorem test_barriers : (nx (exec (.barArr 0 31) (one (member 31 false false))) (fun t =>
      decide ((t.core 0).syn.barpend = 0x80000000 ∧ (t.core 0).syn.wires = 0x80000000)) &&
    nx (exec (.bar 0 5 0 31 false) (one (member 31 false false))) (fun t => decide ((t.core 0).wait.map (·.bar) = some true)) &&
    pend (.barWait 0 5 0 31 false true) (one (member 31 true false)) (px 1 0) &&
    nx (exec (.barWait 0 5 0 31 false false) (one (member 31 false false))) (fun t => decide ((t.core 0).wait = none)) &&
    nx (exec (.barWait 0 5 0 31 false false) (one (member 31 true false))) (fun t => decide ((t.core 0).wait.map (·.kind) = some (.barrier 31))) &&
    traps (.bar 0 5 0 0 true) (one id) 0x30000011E (encSync 8 5 0 0 true false 0).data &&
    traps (.barWait 0 5 0 0 false true) (one id) 0x30000011E (encSync 7 5 0 0 false true 0).data &&
    traps (.barArr 0 0) (one id) 0x30000011E (encSync 6 0 0 0 false false 0).data) = true := by decide +kernel
/-- With hub n in service. -/
def hubUp (n : Nat) (s : State) : State := s.updHub n fun h => { h with insvc := true }
theorem test_barrier_complete : let s := hubUp 0 (one (member 31 true false))
    s.NoWaits ∧ (s.hub s.pkg.lead).insvc = true ∧ s.barMembers 31 ≠ [] ∧ s.laggards 31 = [] ∧
    nx (exec (.barrierComplete 31) s) (fun t => decide (vget t.gens 31 0 = 1 ∧ (t.core 0).syn.barpend = 0 ∧ (t.core 0).syn.wires = 0)) = true :=
  ⟨noWaits_of (by decide +kernel), by decide +kernel⟩
def volts (v tgt : Nat) (ring : Bool) (k : Core) : Core := { k with pw := { k.pw with
  volt := v
  vset := tgt
  target := tgt
  ring := ring } }
def longWait (lowered : Bool) (k : Core) : Core := { outst 3 1 k with
  syn := { k.syn with lwmin := 400 }
  wait := some { aWait (.counter 3 0) with
    long := true
    lowered := lowered } }
/-- A long wait past LWMIN; a ring that stops just below the floor and starts at it; a core that resumes. -/
theorem test_long_wait : (nx (exec (.longWaitLower 0) (hubUp 0 (one (longWait false)))) (fun t => decide ((t.core 0).pw.vset = 450 ∧ t.time = 400)) &&
    nx (exec (.ringStop 0) (one (volts 550 549 true))) (fun t => !(t.core 0).pw.ring) &&
    nx (exec (.ringStart 0) (one (volts 549 550 false))) (fun t => (t.core 0).pw.ring)) = true ∧
    (hubUp 0 (one id)).leadUp = true ∧ ((one (volts 550 549 true)).core 0).powered = true ∧ (one id).floorMv 0 = 550 := by decide +kernel
theorem test_resume : let s := one fun k => volts 450 450 false (outst 3 0 (longWait true k))
    (s.core 0).wait.map (·.lowered) = some true ∧ (s.core 0).outst 3 = 0 ∧ bitOf (s.core 0).cnt.ccerr.toNat 3 = false ∧
    (s.core 0).inSvc = true ∧ (s.core 0).pw.ring = false := by decide +kernel

/-! ### Placement -/

def part1 : Part := ⟨1, 0, false, 0, 128, 2 ^ 30, 2 ^ 30, 2 ^ 30, 0x10000, 0, [], Vector.replicate 16 0, Vector.replicate 4 0, false, 100000⟩
/-- Cores 0 and 1, stacks 0 and 1 and both hubs in service; partition 1 of port 0. -/
def world : State := { ((((one id).upd 1 serve).updStack 0 fun k => { k with insvc := true }).updStack 1 fun k => { k with insvc := true }).updHub 0
    (fun h => { h with insvc := true }) |>.updHub 1 fun h => { h with insvc := true } with
  place := { Placement.reset with parts := [part1] } }
def inGate (n : Nat) (len : Word) (k : Core) : Core := x 11 len (x 10 0x1000 { k with
  idn := { k.idn with part := 1 }
  tr := { k.tr with save1 := { k.tr.save1 with
    ecause := BitVec.ofNat 64 n
    estat := { k.tr.save1.estat with gate := true } } } })
def placeRec (op : BitVec 8) : PlaceRec := ⟨op, 0, 0, 0, 0, 0, 1, 0x20000, 0, 1, 0, 0, 0, 0, 0, 0, 0, 0, true⟩
/-- Core 0 in gate 0xF0 with a record at 0x1000. -/
def asking (r : PlaceRec) (s : State) : State :=
  let s := s.upd 0 (inGate 0xF0 64)
  { s with mem := s.mem.put 0x1000 (placeBytes r) }
def alloc1 : Alloc := ⟨1, 1, 0x20000, 1, false, false, false, true, 0, 0, 15, [(5, 1, 1)], [(6, 1, 0x90000)], 2, []⟩
def page1 : Page := ⟨1, 2, 0x10000000000, 15, 1, 0, none, false, false, false⟩
def holding (s : State) : State := { s with place := { s.place with
  allocs := [alloc1]
  pages := [page1] } }
def status (i : Instr) (s : State) (st : Nat) (P : State → Bool) : Bool :=
  nx (exec i s) fun t => decide ((t.core 0).rx 10 = BitVec.ofNat 64 st) && P t
theorem test_gate_service : (asking (placeRec 1) world).Ready 0 ∧ ((asking (placeRec 1) world).core 0).inGate 0xF0 = true ∧
    ((asking (placeRec 1) world).part 1).isSome = true ∧
    (match (asking (placeRec 1) world).readVa 1 .m true 0x1000 64 with | .ok bs => decide (placeOfBytes bs = placeRec 1) | _ => false) = true :=
  ⟨ready_of (by decide +kernel), by decide +kernel⟩
/-- ALLOC of one page at 0x20000: its premises, and that it maps a page. -/
theorem test_alloc : let s := asking (placeRec 1) world
    s.vaFree 1 0x20000 0x10000 = true ∧
    (match s.choose ⟨some 0, 0, 1⟩ 1 true (s.tierOrder ⟨some 0, 0, 1⟩ 0 0 1 none []) false with | .ok h => decide (h.length = 1) | _ => false) = true ∧
    status (.alloc 0) s 0 (fun t => decide (t.place.allocs.map (·.vaddr) = [0x20000] ∧ t.place.pages.length = 1)) = true := by decide +kernel
theorem test_free : let s := holding (asking (placeRec 2) world)
    s.allocAt 1 0x20000 = some alloc1 ∧ status (.free 0) s 0 (fun t => decide (t.place.allocs = [] ∧ t.place.pages = [])) = true ∧
    status (.free 0) (asking (placeRec 2) world) 5 (fun t => decide (t.place.allocs = [])) = true := by decide +kernel
def net1 : Net := ⟨1, 1, [(0x20000, 0x10000)], [], 4, 0, false, List.replicate 64 0, none, none, 1, none, false, none, [], none, [], false, false, none⟩
def withNet (n : Net) (s : State) : State := { s with nets := [n] }
/-- An access at the page's home that has not completed: a FREE waits for it, as a DETACH does. -/
def busyAt (a : Word) (s : State) : State := { s with works := [{ load8 with
  part := 1
  addr := a
  runs := [(a, 8)]
  stage := .applied [] }] }
/-- A FREE that waits, and one of memory that a net covers; a grant of such memory without a right to write. -/
theorem test_free_kept : (busyAt 0x20008 (holding (asking (placeRec 2) world))).freeWaits ⟨some 0, 0, 1⟩ (placeRec 2) = true ∧
    (busyAt 0x90008 (holding (asking { placeRec 8 with grant := 6 } world))).freeWaits ⟨some 0, 0, 1⟩ { placeRec 8 with grant := 6 } = true ∧
    State.freeWaits (holding (asking (placeRec 2) world)) ⟨some 0, 0, 1⟩ (placeRec 2) = false ∧
    State.inNet (holding (asking (placeRec 2) world)) alloc1 = false ∧
    State.inNet (withNet net1 (holding (asking (placeRec 2) world))) alloc1 = true ∧
    status (.free 0) (withNet net1 (holding (asking (placeRec 2) world))) 6 (fun t => decide (t.place.allocs = [alloc1])) = true ∧
    status (.share 0) (withNet net1 (holding (asking { placeRec 6 with
      part := 2
      rights := 5 } { world with place := { world.place with parts := [part1, { part1 with num := 2 }] } }))) 0
        (fun t => decide (t.place.allocs.map (·.grants) = [[(5, 1, 1), (1, 2, 5)]])) = true := by decide +kernel
theorem test_hint : status (.hint 0) (holding (asking { placeRec 3 with rights := 3 } world)) 0 (fun t =>
    decide (t.place.allocs.map (·.rights) = [3])) = true := by decide +kernel
theorem test_share : status (.share 0) (holding (asking { placeRec 6 with
      part := 1
      rights := 3 } world)) 0 (fun t => decide (t.place.allocs.map (·.grants) = [[(5, 1, 1), (1, 1, 3)]])) = true := by decide +kernel
theorem test_attach : status (.attach 0) (holding (asking { placeRec 7 with
      part := 1
      grant := 5
      vaddr := 0x30000 } world)) 0 (fun t => decide (t.place.allocs.map (·.att) = [[(6, 1, 0x90000), (5, 1, 0x30000)]])) = true := by decide +kernel
theorem test_detach : status (.detach 0) (holding (asking { placeRec 8 with grant := 6 } world)) 0 (fun t =>
    decide (t.place.allocs.map (·.att) = [[]])) = true := by decide +kernel
theorem test_bad_request : let s := (asking (placeRec 1) world).upd 0 (x 11 0)
    status (.alloc 0) s 3 (fun t => decide (t.place = s.place ∧ t.mem = s.mem)) = true := by decide +kernel
def placeOps : List (BitVec 8 × Instr) := [(1, .alloc 0), (2, .free 0), (3, .hint 0), (4, .group 0), (5, .ungroup 0), (6, .share 0), (7, .attach 0),
  (8, .detach 0)]
/-- Every request of a length of 63, with a byte that is not zero, and as operation 0 or 9. -/
theorem test_bad_requests : (placeOps.all fun q =>
    let bad (s : State) : Bool := status q.2 s 3 fun t => decide (t.place = s.place)
    let s := holding (asking (placeRec q.1) world)
    !(placeOfBytes ((placeBytes (placeRec q.1)).set 50 1)).zeroOk && bad (s.upd 0 (x 11 63)) &&
    bad { s with mem := s.mem.put 0x1032 [1] } && bad (holding (asking (placeRec 0) world)) && bad (holding (asking (placeRec 9) world))) = true := by
  decide +kernel
/-- Nothing there to free, hint or share, no such group, no partition to share with, no grant to attach or detach. -/
theorem test_not_found : (([(2, .free 0), (3, .hint 0), (6, .share 0), (5, .ungroup 0), (8, .detach 0)] : List (BitVec 8 × Instr)).all fun q =>
      status q.2 (asking (placeRec q.1) world) 5 fun t => decide (t.place.allocs = [] ∧ t.place.groups = [])) = true ∧
    status (.share 0) (holding (asking { placeRec 6 with part := 63 } world)) 5 (fun t => decide (t.place.allocs = [alloc1])) = true ∧
    status (.attach 0) (holding (asking { placeRec 7 with
      part := 1
      grant := 4
      vaddr := 0x30000 } world)) 7 (fun t => decide (t.place.allocs = [alloc1])) = true := by decide +kernel
theorem pickVa_some {s : State} {p n a b : Nat}
    (h : (minOf ((b :: (s.mappedRanges p).map fun r => roundUp (r.1 + r.2) a).filter fun v => decide (b ≤ v) && s.vaFree p v n)).isSome = true) :
    ∃ v, s.pickVa p n a b = some v := by
  unfold State.pickVa
  simp only
  split
  · exact ⟨_, rfl⟩
  · exact Option.isSome_iff_exists.mp h
/-- A group of core 1 can be formed, wherever its apertures come to lie. -/
def groupAsk : GroupAsk := ⟨1, 1, 1, false, 0, 0x10000, 32⟩
theorem joined_frame (g : Group) (cs : List (Nat × Nat)) (s : State) :
    let t := cs.foldl (fun s p => joinGroup g false p.2 p.1 s) s
    t.host = s.host ∧ t.pkg = s.pkg ∧ t.nets = s.nets := by
  induction cs generalizing s with
  | nil => exact ⟨rfl, rfl, rfl⟩
  | cons c cs ih => exact ih (joinGroup g false c.2 c.1 s)
theorem hostIdle_congr {s t : State} (h : s.HostIdle) (hn : s.nets = []) (e : t.host = s.host ∧ t.pkg = s.pkg ∧ t.nets = s.nets) :
    t.HostIdle :=
  ⟨by simpa [State.Counts, e] using h.counts, by simpa [e] using h.chans, by simpa [e] using h.ports, by simpa [e] using h.back,
    by simpa [e] using h.retire, by simp [e, hn]⟩
theorem formOn_ok {s : State} {q : GroupAsk} {ws : List (Nat × List Nat)} (hc : decide ((s.freeChans q.bars).length < q.bars) = false)
    (hv : ∃ v, s.pickVa q.part ((ws.map (·.1)).length * 0x4000000) 0x4000000 0x10000000000 = some v)
    (hw : ((clearWindows ws { s with fresh := s.fresh + 1 }).any fun t =>
      let u := ws.foldl (clearStale q.part) t; hostIdleB u && u.nets.isEmpty) = true) : ∃ r, formOn q false ws s = .ok r ∧ r.1.HostIdle := by
  obtain ⟨v, hv⟩ := hv
  unfold formOn
  simp only [of_decide_eq_false hc, if_false, hv]
  cases ht : clearWindows ws { s with fresh := s.fresh + 1 } with
  | none => simp [ht] at hw
  | some t =>
    simp only [ht, Option.any_some, Bool.and_eq_true, List.isEmpty_iff] at hw
    exact ⟨_, rfl, hostIdle_congr (hostIdle_of hw.1) hw.2 (joined_frame ..)⟩
def groupRec : PlaceRec := { placeRec 4 with
  count := 1
  bars := 32 }
theorem test_group_premises : let s := asking groupRec world
    s.pickCores groupAsk false 128 s.freeCores = some [(0, [0])] ∧ lwlOk 0x10000 = true ∧ ∃ r, formOn groupAsk false [(0, [0])] s = .ok r ∧ r.1.HostIdle :=
  ⟨by decide +kernel, by decide +kernel, formOn_ok (by decide +kernel) (pickVa_some (by decide +kernel)) (by decide +kernel)⟩
theorem test_ungroup : let g : Group := { aGroup [1] with
      part := 1
      gbase := 0x10000000000 }
    let s := asking { placeRec 5 with group := 7 } world
    status (.ungroup 0) { s with place := { s.place with groups := [g] } } 0 (fun t => decide (t.place.groups = [])) = true := by decide +kernel
theorem test_place_query : (nx (exec (.placeQuery 0 5 10 3 2) (two 0x20000 0)) (fun t => decide (t.works.map (·.kind) = [.query .b1 5 2])) &&
    traps (.placeQuery 0 5 10 3 3) (two 0x20000 0) 0x11E (encQuery 5 10 3 3).data) = true := by decide +kernel
/-- A page of stack DRAM that may move nearer, one that is pinned, the switch; one whose source is in error; one pinned meanwhile. -/
theorem test_migration : let s := holding world
    (homeOf page1.home = some (2, 0)) ∧ s.quotaOk 1 1 (1 + s.tierComing 1 1) = true ∧ homeOf 0x400000000 = some (1, 0) ∧ ecUnit 0x400000000 ≠ 0 ∧ (s.stackPlace 1 8 1).head?.isSome = true ∧
    nx (exec (.pageMigration 1 2 true) s) (fun t => t.place.pages.all fun q => q.moving.isSome) = true ∧
    nx (exec (.pageMigration 1 2 true) { s with place := { s.place with allocs := [{ alloc1 with pinned := true }] } }) (fun t =>
      decide (t.place.pages = [page1])) = true ∧
    (let m := { s with place := { s.place with pages := [{ page1 with moving := some 0x400000000 }] } }
     nx (exec (.migrationSwitch 1 ⟨2, some 0⟩) m) (fun t => decide (t.place.pages.map (·.home) = [0x400000000]) && t.isPoisoned 0x40000FFFF 1) = true ∧
     nx (exec (.migrationSwitch 1 ⟨2, none⟩) { m with place := { m.place with allocs := [{ alloc1 with pinned := true }] } }) (fun t =>
       decide (t.place.pages = [page1])) = true) ∧ world.NoWaits ∧
    nx (exec (.migrationSwitch 1 ⟨2, none⟩) { s with
      mem := [(0x10000000005, 7)]
      place := { s.place with pages := [{ page1 with moving := some 0x400000000 }] } }) (fun t =>
        decide (t.place.pages.map (fun q => (q.home, q.moves)) = [(0x400000000, 1)] ∧ t.mem.get 0x400000005 = 7)) = true :=
  ⟨by decide +kernel, by decide +kernel, by decide +kernel, by decide +kernel, by decide +kernel, by decide +kernel, by decide +kernel, by decide +kernel,
    noWaits_of (by decide +kernel), by decide +kernel⟩

/-! ### Ports and WATCH -/

def portIs (st : PortSt) (s : State) : State := s.updPort 0 fun p => { p with st := st }
def setupMsg : SetupMsg := ⟨true, true, 0, 0x2000, 0x3000, 0x3040, 64, 64⟩
def portEnds (i : Instr) (s : State) (st : PortSt) : Bool := nx (exec i s) fun t => decide ((t.port 0).st = st)
theorem test_ports : (portIs .training world).HostQuiet ∧ (portIs .announced world).HostQuiet ∧ (portIs .down world).HostQuiet ∧
    (portEnds (.portTrainingDone 0 ⟨true, []⟩) (portIs .training world) .announced && portEnds (.portTrainingDone 0 ⟨false, []⟩) (portIs .training world) .down &&
     portEnds (.portDown 0 1) (portIs .announced world) .down && portEnds (.portDown 0 1) (portIs .active world) .down &&
     nx (exec (.portRetrain 0) (portIs .down world)) (fun t => decide ((t.port 0).st = .training ∧ t.time = 10000000)) &&
     setupOk setupMsg && portEnds (.mgmtSetup 0 setupMsg) (portIs .announced world) .active && !setupOk { setupMsg with e := 32 } &&
     portEnds (.mgmtSetup 0 { setupMsg with e := 32 }) (portIs .announced world) .announced &&
     portEnds (.mgmtSetup 0 setupMsg) (portIs .active world) .active) = true :=
  ⟨hostQuiet_of (by decide +kernel), hostQuiet_of (by decide +kernel), hostQuiet_of (by decide +kernel), by decide +kernel⟩
/-- Two spares in each direction: two lanes of one and two of the other, and three of one; the message announced. -/
theorem test_port_lanes : (steerPort 0 [(true, 0), (true, 33), (false, 0), (false, 33)] (portIs .training world)).lanesOk 0 = true ∧
    (steerPort 0 [(true, 0), (true, 1), (true, 33)] (portIs .training world)).lanesOk 0 = false ∧
    portEnds (.portTrainingDone 0 ⟨true, [(true, 0), (true, 1), (true, 33)]⟩) (portIs .training world) .down = true ∧
    nx (exec (.portTrainingDone 0 ⟨true, []⟩) (portIs .training world)) (fun t => decide ((t.port 0).sent.length = 1)) = true ∧
    (announceBytes 7 0 0 1 2 3 4 5).length = 64 := by decide +kernel
def firedMon (k : Core) : Core := { k with mon := { k.mon with fired := 8 } }
/-- The last monitor a compute core has, the first that it lacks. -/
theorem test_watch : (nx (exec (.watchArm 0 5 10 3 3) (two 0x108 0)) (fun t => decide (t.works.map (·.kind) = [.arm .b1 5 3])) &&
    nx (exec (.watchDis 0 3) { one firedMon with armed := [(0, 3, 0x100), (1, 3, 0x100)] }) (fun t =>
      decide (t.armed = [(1, 3, 0x100)] ∧ (t.core 0).mon.fired = 8)) &&
    nx (exec (.watchWait 0 5 0) (one firedMon)) (fun t => decide ((t.core 0).wait = none)) &&
    nx (exec (.watchWait 0 5 0) (one id)) (fun t => decide ((t.core 0).wait.map (·.kind) = some .watch)) &&
    traps (.watchArm 0 5 10 3 3) (two 0x104 0) 0x21E 0x104 && traps (.watchArm 0 5 10 8 3) (one id) 0x11E (encWatch 0 5 10 3 8).data &&
    traps (.watchDis 0 8) (one id) 0x11E (encWatch 1 0 0 0 8).data) = true := by decide +kernel
def hidden (k : Core) : Core := { k with idn := { k.idn with hide := true } }
/-- A monitor that TRESV.HIDE hides from a core at T. -/
theorem test_watch_hidden : (((one fun k => hidden (atT k)).core 0).ccHidden 6 = true ∧ (one fun k => hidden (atT k)).Ready 0 false) ∧
    traps (.watchArm 0 5 10 3 9) (one fun k => hidden (atT k)) 0x40000011E (encWatch 0 5 10 9 3).data = true ∧
    traps (.watchDis 0 3) (one fun k => hidden (atT k)) 0x40000011E (encWatch 1 0 0 0 3).data = true :=
  ⟨⟨by decide +kernel, ready_of (by decide +kernel)⟩, by decide +kernel⟩
def armedAt : State := { one id with armed := [(0, 3, 0x140)] }
theorem test_watch_fire : armedAt.HostQuiet ∧ armedAt.host.chans = [] ∧ (armedAt.host.ports.all fun p => p.ring.isNone) = true ∧
    (∀ i, i < 64 → armedAt.lostAt (0x140 + i) = false) ∧
    nx (exec (.watchFire 0 3 .takenBack) armedAt) (fun t => decide ((t.core 0).mon.fired = 8 ∧ t.armed = [] ∧ (t.core 0).tr.ipend = 8)) = true ∧
    nx (exec (.watchFire 0 3 (.written (List.replicate 64 1))) armedAt) (fun t => decide (t.mem.length = 64 ∧ t.mem.get 0x17F = 1)) = true :=
  ⟨hostQuiet_of (by decide +kernel), by decide +kernel⟩

/-! ### Records of a host -/

def ring0 : Ring := ⟨0, 0x10000, 0x20000, 0x20040, 64, 64, 0, 0, []⟩
def chan4 : Chan := ⟨4, 1, 0, { ring0 with sqbase := 0x40000 }, 1, 8, [], none⟩
/-- Port 0 ACTIVE with its rings, channel 4 of partition 1. -/
def linked : State :=
  let s := world.updPort 0 fun p => { p with
    st := .active
    ring := some ring0 }
  { s with host := { s.host with chans := [chan4] } }
def taskRec : TaskRec := ⟨1, 1, 0, 0x77, 0x100, 5, 0, 1, 0, 0, 0, 0, 0, 0, 0, 0, true⟩
def aTask (st : TaskSt) : Task :=
  ⟨9, 4, 0, taskRec, st, none, none, 0, 0, 0, 0, 0, none, 0, 0, false, false, none, []⟩
def withTask (x : Task) (s : State) : State := { s with host := { s.host with
  tasks := [x]
  nextSeq := 10 } }
theorem test_task_records : linked.HostQuiet ∧ linked.chan 4 = some chan4 ∧ linked.mayTake chan4 1 2 = true ∧ linked.slotFree chan4 = true ∧
    taskBad part1 taskRec = none ∧ linked.known chan4 0x77 = none ∧ reserveStaging chan4 (taskRec.olen0.toNat + taskRec.olen1.toNat) linked = .ok (linked, none) ∧
    nx (exec (.taskRecord 4 taskRec) linked) (fun t => decide (t.host.tasks.map (fun x => (x.seq, x.st)) = [(1, .accepted)] ∧ t.host.nextSeq = 2 ∧
      t.ringPos 4 = some (1, 0))) = true ∧
    taskBad part1 { taskRec with count := 129 } = some 1 ∧
    nx (exec (.nopRecord 4 { taskRec with
      op := 3
      entry := 0 }) linked) (fun t => decide (t.ringPos 4 = some (1, 0))) = true :=
  ⟨hostQuiet_of (by decide +kernel), by decide +kernel⟩
theorem test_abort : let r := { taskRec with
      op := 2
      entry := 0 }
    otherBad r = false ∧ (withTask (aTask .queued) linked).known chan4 0x77 = some (9, false) ∧
    nx (exec (.abortRecord 4 r) (withTask (aTask .queued) linked)) (fun t =>
      decide ((t.task 9).map (·.st) = some .aborted ∧ t.ringPos 4 = some (1, 0))) = true := by decide +kernel
def hdr (op : BitVec 8) : MgmtHdr := ⟨op, 1, 0x55, true⟩
def partParams : PartParams := ⟨0, 0, 0, 0, 128, 0x10000, 0, 0, 0, 0, 0⟩
/-- The premise of ManagementRecords for each operation, an unassigned one included. -/
theorem test_mgmt_ring : linked.HostQuiet ∧ ([0x10, 0x11, 0x12, 0x18, 0x19, 0x1A, 0x20, 0x21, 0x28, 0x30, 0x31, 0x38, 0x7F].all fun o : BitVec 8 =>
    decide (linked.mgmtRing 0 (hdr o) o.toNat 1 = some ring0)) = true ∧ mgmtOps.contains 0x7F = false :=
  ⟨hostQuiet_of (by decide +kernel), by decide +kernel⟩
theorem test_partitions :
    (linked.applyAttrs 0 partParams 0x1FF (Part.blank 0)).isSome = true ∧
    lowestFree 64 1 (linked.place.parts.map (·.num)) ≠ [] ∧ linked.minSum 64 ≤ linked.inSvcCores.length ∧
    (linked.applyAttrs 0 partParams 4 part1).map (·.score) = some part1.score ∧ linked.ownStatus 0 1 = 0 ∧
    linked.place.groups = [] ∧ State.hasChannel { linked with host := { linked.host with chans := [] } } 1 = false := by decide +kernel
def chanParams : ChanParams := ⟨1, 0x80000, 0x90000, 0xA0000, 0xA0040, 64, 64, 1, 8⟩
theorem test_channels : Machine.chanOk chanParams = true ∧ linked.credSum 256 + 1 ≤ 8192 ∧ lowestFree 256 1 (linked.host.chans.map (·.num)) = [0] ∧
    linked.chanStatus 0 4 = 0 ∧ linked.host.tasks = [] ∧ linked.credSum 4 + 2 ≤ 8192 ∧ 2 * 31 + 2 ≤ chan4.ring.c ∧
    linked.chan 4 = some chan4 ∧ linked.abortsDue 4 = 0 ∧
    nx (exec (.chanClose 0 (hdr 0x19) 4) (withTask (aTask .accepted) linked)) (fun t => t.host.chans.all fun c => c.closing.isSome) = true := by
  decide +kernel
def hostAlloc : Alloc := ⟨2, 1, 0x50000, 1, true, false, true, false, 0, 0, 3, [], [], 3, []⟩
theorem test_host_ranges : linked.vaFree 1 0x50000 0x10000 = true ∧ inAperture 0xFFFFFFF0000 0x10000 = true ∧
    [hostAlloc].find? (fun a => a.host && a.part == 1 && a.vaddr == 0x50000) = some hostAlloc ∧
    linked.rangeBusy 1 0x50000 0x10000 = false ∧ (busyAt 0x50008 linked).rangeBusy 1 0x50000 0x10000 = true := by decide +kernel
theorem test_host_place : let s := { linked with place := { linked.place with
      allocs := [alloc1]
      pages := [page1] } }
    s.mgmtRing 0 (hdr 0x28) 0x28 2 = some ring0 ∧ s.freeWaits ⟨none, 8, 1⟩ (placeRec 2) = false ∧ (placeOp ⟨none, 8, 1⟩ (placeRec 2) (takeEntry 256 s)).1.HostQuiet ∧
    (placeOp ⟨none, 8, 1⟩ (placeRec 2) (takeEntry 256 s)).2.1 = 0 :=
  ⟨by decide +kernel, by decide +kernel, hostQuiet_of (by decide +kernel), by decide +kernel⟩
theorem test_disable : linked.targetStatus 0 0 0 = 0 ∧ linked.coresOn 0 0 = [0] ∧
    nx (exec (.disable 0 (hdr 0x30) 0 0 1000) linked) (fun t => decide ((t.core 0).pw.disabled = true ∧ (t.core 0).tr.ipend = 0x40 ∧
      t.host.disables.map (·.due) = [1000])) = true ∧
    (linked.host.disables.any fun d => d.kind == 0 && d.index == 0) = false := by decide +kernel
theorem test_log_read : (0x100000 : Word).toNat % 64 = 0 ∧ inAperture 0x100000 64 = true ∧ inAperture 0xFFFFFFFFFC0 64 = true := by decide
theorem test_log_bytes : (logBytes ⟨3, 5, 0, 3, 0, 0, 0, 7, 0, 0, 0⟩).length = 64 := by decide +kernel

/-! ### Tasks -/

def journaled (w : JWhat) (durable : Bool) (s : State) : State := { s with host := { s.host with
  journal := [⟨0, w, 0, durable⟩]
  nextJ := 1
  mirrors := [0, 1] } }
theorem test_journal_durable : (journaled (.accept 9) false (withTask (aTask .accepted) linked)).HostQuiet ∧
    (journaled (.accept 9) false (withTask (aTask .accepted) linked)).task 9 = some (aTask .accepted) :=
  ⟨hostQuiet_of (by decide +kernel), by decide +kernel⟩
def queuedTask : State := journaled (.accept 9) true (withTask (aTask .queued) linked)
theorem test_task_start_premises : queuedTask.HostQuiet ∧ queuedTask.mayStart (aTask .queued) = true ∧ queuedTask.holder 0 = none ∧
    queuedTask.coresFor ⟨1, 1, 0, false, 0, 0x10000, 0⟩ false 128 = some [(0, [0])] ∧ ∃ r, formOn ⟨1, 1, 0, false, 0, 0x10000, 0⟩ false [(0, [0])] queuedTask = .ok r ∧ r.1.HostIdle :=
  ⟨hostQuiet_of (by decide +kernel), by decide +kernel, by decide +kernel, by decide +kernel,
    formOn_ok (by decide +kernel) (pickVa_some (by decide +kernel)) (by decide +kernel)⟩
def taskGroup : Group := { aGroup [0] with
  part := 1
  gbase := 0x10000000000
  task := some 9 }
/-- Task 9 on core 0, in gate `n`, in state `st`. -/
def running (n : Nat) (st : TaskSt) : State :=
  let s := (withTask { aTask st with group := some 7 } linked).upd 0 fun k => { inGate n 64 k with idn := { k.idn with
    part := 1
    group := 7
    count := 1
    taskseq := 9 } }
  { s with place := { s.place with groups := [taskGroup] } }
theorem test_task_end : (running 0xF1 .running).Ready 0 ∧ (running 0xF1 .running).HostQuiet ∧
    ((running 0xF1 .running).core 0).inGate 0xF1 = true ∧
    (running 0xF1 .running).taskOf 0 = some ({ aTask .running with group := some 7 }, taskGroup, 0) ∧
    nx (exec (.taskEnd 0) (running 0xF1 .running)) (fun t => decide ((t.task 9).map (fun x => (x.st, x.result, x.failed)) = some (.ending, 0x1000, none))) = true ∧
    nx (exec (.taskFail 0) (running 0xF2 .running)) (fun t => decide ((t.task 9).map (fun x => (x.st, x.failed)) = some (.ending, some 1))) = true :=
  ⟨ready_of (by decide +kernel), hostQuiet_of (by decide +kernel), by decide +kernel⟩
theorem test_commit : let s := running 0 .ending
    s.HostQuiet ∧ s.underDisable { aTask .ending with group := some 7 } = false ∧ s.taskGroup { aTask .ending with group := some 7 } = some taskGroup ∧
    (∀ q ∈ taskGroup.live, s.memberIdle q.2 7 = true ∧ (s.core q.2).level = .m) ∧
    s.host.tasks.all (fun y => y.saved.isEmpty) = true :=
  ⟨hostQuiet_of (by decide +kernel), by decide +kernel⟩
theorem test_disable_timeout : let s := { linked with host := { linked.host with disables := [⟨3, 0, hdr 0x30, 0, 0, 0, 500⟩] } }
    s.tasksOn 0 0 = [] ∧ s.workOn 0 0 = false ∧
    (journaled (.disable 3 0 0 0 0 false) true s).host.journal.map (fun e => (e.what, e.durable)) = [(.disable 3 0 0 0 0 false, true)] := by
  decide +kernel

/-! ### Safety Net -/

/-- A descriptor of one region, the page at 0x20000, at interval 4; the request record of core 0 in gate 0xF3. -/
def netDesc : List Byte := [1, 0, 0, 0] ++ leBytes 4 4 ++ List.replicate 56 0 ++ leBytes 8 0x20000 ++ leBytes 8 0x10000
def netAsk (op net : Nat) (addr len step : Nat) : State :=
  let s := { world.upd 0 fun k => { inGate 0xF3 64 (win k) with idn := { (win k).idn with
      part := 1
      group := 7
      count := 1 } } with
    place := { world.place with
      allocs := [{ alloc1 with
        grants := []
        att := [] }]
      pages := [page1]
      groups := [taskGroup] } }
  { s with mem := (s.mem.put 0x1000 (leBytes 4 op ++ leBytes 4 net ++ leBytes 8 addr ++ leBytes 8 len ++ leBytes 8 step ++ List.replicate 32 0)).put 0x2000 netDesc }
theorem test_net_create : let s := netAsk 1 0 0x2000 80 0
    s.Ready 0 ∧ s.HostQuiet ∧ (s.core 0).inGate 0xF3 = true ∧ (s.core 0).callerPriv = .m ∧ netDescOk netDesc 80 = true ∧
    s.regionStatus 1 (0x20000, 0x10000) = 0 ∧ s.stacksUp ≠ [] ∧ netReserve 0x10000 ≤ s.dramFree ∧ s.quotaOk 1 2 (netReserve 0x10000) = true ∧
    status (.netCreate 0) s 0 (fun t => decide (t.nets = [{ net1 with num := 0 }])) = true :=
  ⟨ready_of (by decide +kernel), hostQuiet_of (by decide +kernel), by decide +kernel⟩
theorem test_net_requests : (status (.netQuery 0) (withNet net1 (netAsk 4 1 0 0 0)) 0 (fun t => decide (t.nets = [net1])) &&
    status (.netQuery 0) (netAsk 4 1 0 0 0) 5 (fun t => decide (t.nets = [])) &&
    status (.netDrop 0) (withNet net1 (netAsk 5 1 0 0 0)) 0 (fun t => decide (t.nets = [])) &&
    status (.netAttach 0) (withNet net1 (netAsk 2 1 0x10000 0 0)) 0 (fun t => decide (t.nets.map (·.bound) = [some 7])) &&
    status (.netStep 0) (withNet { net1 with bound := some 7 } (netAsk 3 1 0x10000 0 1)) 0 (fun t => decide (t.nets.map (·.lastStep) = [1])) &&
    status (.netStep 0) (withNet { net1 with bound := some 7 } (netAsk 3 1 0x10000 0 0)) 10 (fun t => decide (t.nets.map (·.stepped) = [false]))) = true := by
  decide +kernel
def gen1 : Gen := ⟨1, 4, 0, List.replicate 64 3, [], [[(5, 9)]], [[]], [], [(some 0, none)]⟩
def capturing (todo : List Nat) : Net := { net1 with cap := some ⟨false, gen1, todo, [], [0]⟩ }
theorem test_net_premises : let s := withNet (capturing [0]) world
    s.urgentChunks = [] ∧ (world.stack 1).insvc = true ∧ (linked.hub linked.pkg.lead).insvc = true ∧
    (netAsk 2 1 0x10000 0 0).group 7 = some taskGroup ∧ ((netAsk 2 1 0x10000 0 0).core 0).inWindow 0x10000 64 = true ∧
    disjointRanges (descRegions netDesc ++ ([] : List Net).flatMap (·.regions)) = true := by decide +kernel
theorem test_net_events : (nx (exec (.netRendezvousTimeout 1) (withNet { net1 with calls := [⟨0, false, 1, 0, 0⟩] } ((netAsk 3 1 0 0 1).upd 0 fun k =>
        { k with wait := some (aWait (.netGate 1)) }))) (fun t => decide ((t.core 0).rx 10 = 6 ∧ t.time = 1000000 ∧ t.nets = [net1])) &&
    nx (exec (.chunkReadDone 1 0) (withNet (capturing [0]) world)) (fun t => decide (t.nets.map (fun n => n.cap.map (·.copied)) = [some [0]])) &&
    nx (exec (.generationComplete 1) (withNet (capturing []) world)) (fun t => decide (t.nets.map (fun n => (n.cap, n.genA)) = [(none, some gen1)])) &&
    nx (exec (.reReplication 1 0 0 1) (withNet { net1 with genA := some gen1 } world)) (fun t =>
      decide (t.nets.map (fun n => n.genA.map (·.reps)) = [some [(some 0, some 1)]]))) = true := by decide +kernel
def damaged (g : Option Gen) : Net := { net1 with
  dirtyNeed := true
  genA := g }
/-- The premises of a rendezvous that times out and of a restore: the page's home, no unit poisoned across its start. -/
theorem test_net_restore : let s := withNet (damaged (some gen1)) { world with place := { world.place with pages := [page1] } }
    let r := withNet { net1 with calls := [⟨0, false, 1, 0, 0⟩] } (netAsk 3 1 0 0 1)
    s.HostQuiet ∧ r.HostIdle ∧ s.place.groups = [] ∧ s.host.chans = [] ∧ (s.host.ports.all fun p => p.ring.isNone) = true ∧
    s.netPage net1 0x20000 = some page1 ∧ page1.home < 2 ^ 48 ∧ s.poison = [] ∧ s.genOk gen1 0 [] = true ∧
    nx (exec (.netRestore 1 []) (withNet (damaged none) world)) (fun t => decide (t.nets.map (·.lost) = [true])) = true ∧
    nx (exec (.netRestore 1 []) s) (fun t => decide (t.nets.map (fun n => (n.lost, n.dirtyNeed, n.lastStep)) = [(false, false, 4)] ∧
      t.mem.get (page1.home + 5) = 9)) = true :=
  ⟨hostQuiet_of (by decide +kernel), hostIdle_of (by decide +kernel), by decide +kernel⟩

/-! ### Failures, stacks, margins, repair -/

def hubCore : State := world.upd 144 serve
theorem test_supervisor_failure : hubCore.HostQuiet ∧ (hubCore.core 144).inSvc = true ∧ hubCore.host.journal = [] ∧
    (hubCore.core 2).pw.svc = .spare ∧ isHub 144 = true :=
  ⟨hostQuiet_of (by decide +kernel), by decide +kernel⟩
theorem test_spare_fails : nx (exec (.coreHardFault 2) world) (fun t => decide ((t.core 2).pw.svc = .failed)) = true := by decide +kernel
theorem test_part_failures : world.HostQuiet ∧ (world.core 0).inSvc = true ∧ world.spares ≠ [] ∧ world.recoveringNow = false ∧
    nx (exec (.stackLoss 1) world) (fun t => decide (t.stacksUp = [0])) = true :=
  ⟨hostQuiet_of (by decide +kernel), by decide +kernel⟩
/-- A planned retirement where task 9 runs: the core serves on, disabled. -/
theorem test_planned_retirement : let s := running 0 .running
    (s.HostQuiet ∧ (s.core 0).inSvc = true ∧ s.recoveringNow = false ∧ s.place.pages = [] ∧ (s.tasksOn 0 0).length = 1 ∧ s.coresOn 0 0 = [0]) ∧
    nx (exec (.plannedRetirement 0) s) (fun t => (t.core 0).inSvc && (t.core 0).pw.disabled &&
      decide (t.host.disables.map (fun d => (d.port, d.kind, d.index)) = [(4, 0, 0)] ∧ (t.core 0).tr.ipend = 0x40)) = true :=
  ⟨⟨hostQuiet_of (by decide +kernel), by decide +kernel⟩, by decide +kernel⟩
theorem test_links : nx (exec (.linkDown (.row 5)) world) (fun t => decide (t.pkg.linksDown = [.row 5])) = true ∧
    0 < spareLanes (.row 5) ∧ nx (exec (.laneSteered (.row 5) (dataLanes (.row 5) + spareLanes (.row 5) - 1)) world) (fun t => decide (t.sparesOf (.row 5) = 1 ∧ t.pkg.linksDown = [])) = true ∧
    nx (exec (.laneSteered (.row 5) 3) { world with pkg := { world.pkg with steered := (List.range (spareLanes (.row 5))).map fun n => (.row 5, n) } }) (fun t =>
      decide (t.pkg.linksDown = [.row 5])) = true := by decide +kernel
theorem test_hubs : nx (exec (.hubHeartbeat 1) { world with time := 7 }) (fun t => decide ((t.hub 1).lastBeat = 7)) = true ∧
    (world.hub 1).insvc = true ∧ world.pkg.lead = 0 := by decide +kernel
def rd8 : Work := { load8 with
  addr := 0x10000000000
  runs := [(0x10000000000, 8)] }
/-- Line 0 of stack 0 read clean, with one symbol wrong, with two, and poisoned; the last line of a stack. -/
theorem test_line_read : (world.stack 0).insvc = true ∧ linePa 0 false 0 = 0x10000000000 ∧
    world.lineAt 0 false 0 [] = .clean (List.replicate 64 0) ∧ world.lineAt 0 false 0 [(3, 1)] = .fixed (List.replicate 64 0) 3 ∧
    world.lineAt 0 false 0 [(3, 1), (4, 1)] = .bad ∧
    nx (exec (.stackLineRead 0 false 0 [(3, 1)] none) world) (fun t => decide ((t.stack 0).ce = 1 ∧ (t.stack 0).wbs = [(false, 0)])) = true ∧
    nx (exec (.stackLineRead 0 false (lineCount false - 1) [(3, 1), (4, 1)] none) world) (fun t =>
      decide ((t.stack 0).ue = 1 ∧ t.poison = [linePa 0 false (lineCount false - 1)])) = true ∧
    nx (exec (.stackLineRead 0 false 0 [] (some 0)) { world with
      works := [rd8]
      poison := [0x10000000000] }) (fun t => decide (t.works.map (·.stage) = [.failed ⟨0, 0x10000000000, 0x52⟩])) = true := by decide +kernel
/-- A whole write heals a poisoned line, a part of one does not; a part of a clean line up to its end. -/
theorem test_line_write : nx (exec (.stackLineWrite 0 false 0 [] (.bytes 0 (List.replicate 64 5))) { world with poison := [0x10000000000] }) (fun t =>
      decide (t.poison = [] ∧ t.mem.length = 64)) = true ∧
    nx (exec (.stackLineWrite 0 false 0 [] (.bytes 63 [5])) { world with poison := [0x10000000000] }) (fun t =>
      decide (t.poison = [0x10000000000] ∧ t.mem = [])) = true ∧
    nx (exec (.stackLineWrite 0 false 0 [] (.bytes 63 [5])) world) (fun t => decide (t.mem = [(0x1000000003F, 5)])) = true := by decide +kernel
theorem test_upkeep : (nx (exec (.correctingWriteback 0 false ⟨0, []⟩) (world.updStack 0 fun k => { k with wbs := [(false, 0)] })) (fun t =>
      decide ((t.stack 0).wbs = [])) &&
    nx (exec (.refreshDue 0 11 31 3) world) (fun t => decide ((t.stack 0).refreshed = [(1535, 1)])) &&
    nx (exec (.refreshRateChange 0 11 86) world) (fun t => decide ((t.stack 0).hot = 0x800)) &&
    nx (exec (.refreshRateChange 0 11 84) (world.updStack 0 fun k => { k with hot := 0x800 })) (fun t => decide ((t.stack 0).hot = 0x800)) &&
    nx (exec (.refreshRateChange 0 11 82) (world.updStack 0 fun k => { k with hot := 0x800 })) (fun t => decide ((t.stack 0).hot = 0)) &&
    nx (exec (.scrubRead 0 true 0 []) world) (fun t => decide ((t.stack 0).scrubAt true 0 = (1, 0)))) = true := by decide +kernel
def copying : State := world.updStack 0 fun k => { k with copy := some ⟨2, 5, 0, 0, false⟩ }
theorem test_row_copy : (nx (exec (.rowCopyForce 0) copying) (fun t => decide ((t.stack 0).copy.map (·.forced) = some true ∧ t.time = 1000000000)) &&
    nx (exec (.rowSwitch 0 []) copying) (fun t => decide ((t.stack 0).copy = none ∧ (t.stack 0).rows = [(2, 5)] ∧ (t.stack 0).spares = [(2, 1)])) &&
    nx (exec (.stackCalibration 0 31 true) world) (fun t => decide ((t.stack 0).calib = [(31, 60000000000)])) &&
    nx (exec (.stackCalibration 0 31 false) world) (fun t => decide ((t.stack 0).calib = [(31, 0)]))) = true := by decide +kernel
theorem test_store_scrub : (nx (exec (.coreStoreScrub 0 []) (one fun k => { k with pw := { k.pw with scrubPos := 0x1FFFFF } })) (fun t =>
      decide ((t.core 0).pw.scrubPos = 0)) &&
    nx (exec (.scrubBurst ⟨0, [], none⟩) (one (volts 450 450 false))) (fun t => decide (t.time = 7800))) = true := by decide +kernel
def slacks (v : Nat) : List Nat := [v, 9, 9, 9, 9, 9, 9, 9]
/-- A core at retention whose scrub burst has just ended, as core 2, a spare, is: a measurement of it borrows nothing more. -/
def retained : State := (world.upd 0 fun k => { volts 450 450 false k with pw := { (volts 450 450 false k).pw with burst := some 0 } }).upd 2
  fun k => { k with pw := { k.pw with burst := some 0 } }
/-- SLACK 6 and 3, and what the two retiring clauses ask; a core whose burst was cut is not measured, one whose ring beats is borrowed. -/
theorem test_margins : retained.HostQuiet ∧ borrowDomain 0 retained = some retained ∧ borrowDomain 2 retained = some retained ∧
    borrowDomain 0 (one (volts 450 450 false)) = none ∧ (borrowDomain 0 world).isSome = true ∧ retained.leadUp = true ∧
    retained.domainUp 0 = true ∧ retained.domainUp 2 = true ∧ (slacks 6).length = chainsOf 0 ∧
    nx (exec (.canaryMeasurement 0 (slacks 6) true) retained) (fun t => decide ((t.margin 0).slack = 6 ∧ (t.margin 0).vofs = 0)) = true ∧
    nx (exec (.canaryMeasurement 0 (slacks 3) true) retained) (fun t => decide ((t.margin 0).vofs = 1)) = true ∧
    nx (exec (.canaryMeasurement 2 (slacks 3) true) retained) (fun t => decide ((t.core 2).pw.svc = .failed)) = true ∧
    (retained.core 0).inSvc = true ∧ retained.place.groups = [] ∧ retained.host.tasks = [] ∧ retained.nets = [] ∧
    (retained.core 2).pw.svc = .spare :=
  ⟨hostQuiet_of (by decide +kernel), by decide +kernel⟩
def forced (k : Core) : Core := { k with
  pw := { k.pw with calForced := some 5 }
  tr := { k.tr with ipend := 0x80 } }
theorem test_calibration_ready : (one forced).Ready 0 ∧ ((one forced).core 0).tr.ipend.getLsbD 7 = true :=
  ⟨ready_of (by decide +kernel), by decide +kernel⟩
theorem test_calibration : (nx (exec (.calibrationBorrow 0) { one forced with time := 9 }) (fun t => decide ((t.core 0).pw.lastCal = 9)) &&
    nx (exec (.calibForce 0) (one id)) (fun t => decide (t.time = 60000000000 ∧ (t.core 0).tr.ipend = 0x80)) &&
    nx (exec (.calibPendingTimeout 0) (one forced)) (fun t => decide (t.time = 1000000010))) = true := by decide +kernel
def thrice : State := { world with pkg := { world.pkg with peFaults := [(0, 127, 0, 1), (0, 127, 1, 2), (0, 127, 3600000000000, 3)] } }
theorem test_pe_row : thrice.Idle 0 ∧ hitThrice (thrice.pkg.peFaults.map (·.2.2)) = true ∧ (3600000000000 : Nat) ≤ 0 + 3600000000000 ∧
    vget (thrice.core 0).arr.bypass 3 none = none ∧
    nx (exec (.peRowTest 0 127 true) thrice) (fun t => decide (t.pkg.peFaults = [])) = true :=
  ⟨⟨by decide, by decide +kernel, by decide +kernel, by decide +kernel, by decide +kernel, by decide +kernel, by decide +kernel,
    by decide +kernel⟩, by decide +kernel⟩
theorem test_hint_write : let s := (world.updHub 0 fun h => { h with
      key := some [1]
      step := 5 })
    s.Counts ∧ nx (exec .repairHintWrite s) (fun t => decide ((t.hub 0).seqNext = 1) && (t.hub 0).slotNext && decide ((t.hub 0).flash.hint0.take 16 = hintMagic ++ leBytes 8 0)) = true :=
  ⟨counts_of (by decide +kernel), by decide +kernel⟩

/-! ### Power, timers, pins -/

def busy : State := world.upd 0 fun k => { k with idn := { k.idn with count := 1 } }
theorem test_power_plan : (busy.hub 0).insvc = true ∧ (allCores.filter fun c => busy.working c) = [0] ∧
    nx (exec (.powerPlan 500 900 950) busy) (fun t => decide (t.pkg.power.avg = 900 ∧ t.pkg.power.noncore = 525 ∧ 550 ≤ (t.core 0).pw.vset ∧
      (t.core 0).pw.vset ≤ 900)) = true := by decide +kernel
theorem test_power_events : (nx (exec (.boostGrantLapse 0) (one fun k => { volts 850 850 true k with pw := { (volts 850 850 true k).pw with
      boostTill := some 70 } })) (fun t => decide ((t.core 0).pw.vset = 780 ∧ t.time = 70)) &&
    world.leadUp && nx (exec (.throttle (.vrfault 0)) world) (fun t => decide ((t.core 0).pw.vset = 550 ∧ t.pkg.power.thr = 1)) &&
    nx (exec (.throttleRelease (.power 0 3039)) { world with pkg := { world.pkg with power := { world.pkg.power with active := [.power] } } }) (fun t =>
      decide (t.pkg.power.active = [])) &&
    nx (exec (.plimitWrite 1 3600) world) (fun t => decide (t.pkg.power.plimit = 3600)) &&
    nx (exec (.plimitWrite 1 1499) world) (fun t => decide (t.pkg.power.plimit = 3200) && t.pkg.power.badlim)) = true := by decide +kernel
/-- Each limit and the value next to it: nothing begins at a limit, nothing is released at the lower one. -/
theorem test_throttle_limits : let on (m : ThrottleSense) : Bool := nx (exec (.throttle m) world) fun t => decide (t.pkg.power.active = [m.why])
    let off (m : ThrottleSense) : Bool :=
      nx (exec (.throttleRelease m) { world with pkg := { world.pkg with power := { world.pkg.power with active := [m.why] } } }) fun t =>
        decide (t.pkg.power.active = [])
    (on (.power 3201 0) && on (.power 0 3521) && !on (.power 3200 3520) && on (.thermal 9 96) && !on (.thermal 9 95) && on (.thermal 23 93) &&
     !on (.thermal 23 92) && off (.power 9999 3039) && !off (.power 0 3040) && off (.thermal 9 91) && !off (.thermal 9 92) &&
     off (.thermal 23 88) && !off (.thermal 23 89)) = true := by decide +kernel
theorem test_voltage_end : (nx (exec (.voltageMoveEnd (.core 0)) (one fun k => { k with pw := { k.pw with target := 549 } })) (fun t =>
      decide ((t.core 0).pw.volt = 549) && !(t.core 0).pw.ring) &&
    nx (exec (.voltageMoveEnd (.core 0)) (one fun k => { volts 450 450 false k with pw := { (volts 450 450 false k).pw with target := 550 } })) (fun t =>
      (t.core 0).pw.ring) &&
    nx (exec (.voltageMoveEnd (.rail 7)) { world with pkg := { world.pkg with power := { world.pkg.power with railTo := Vector.replicate 8 700 } } })
      (fun t => decide (t.pkg.power.rails[7] = 700))) = true := by decide +kernel
theorem test_timer : nx (exec (.timerCompareFire 0) (one fun k => { k with ev := { k.ev with
      tcmpEn := true
      tcmp := 44 } })) (fun t => decide (t.time = 50 ∧ (t.core 0).tr.ipend = 2) && !(t.core 0).ev.tcmpEn) = true := by decide +kernel
theorem test_telemetry : (world.log.telCount + world.inSvcCores.length ≤ 65535) ∧
    nx (exec (.telemetrySample [] []) world) (fun t => decide (t.log.telCount = 2 ∧ t.log.telNext = 1000000)) = true ∧
    nx (exec (.telemetryReadTimeout 1) { world with log := { world.log with telPend := [1] } }) (fun t =>
      decide (t.log.teldrop = 1 ∧ t.log.telPend = [])) = true := by decide +kernel
def released (s : State) : State := { s with pkg := { s.pkg with pins := { s.pkg.pins with
  resetN := true
  up := true
  pwrgood := true
  rails := true } } }
def allStopped (t : State) : Bool := t.works.isEmpty && t.mem.isEmpty && !(t.core 0).canIssue && !t.pkg.pins.up
theorem test_pins : (nx (exec .resetAssert (released world)) allStopped && nx (exec .pwrgoodRise State.reset) (fun t => t.pkg.pins.rails) &&
    nx (exec .pwrgoodFall (released world)) (fun t => allStopped t && decide (t.log.next = 1)) &&
    nx (exec .pwrgoodFall State.reset) (fun t => !t.pkg.pins.pwrgood) && nx (exec (.thermalTrip ⟨23, 100⟩) (released world)) (fun t => allStopped t && !t.pkg.pins.thermtripN) &&
    nx (exec (.thermalTrip ⟨9, 110⟩) State.reset) (fun t => !t.pkg.pins.thermtripN && decide (t.log.next = 0))) = true := by decide +kernel
def withVstk (s : State) : State := { s with pkg := { s.pkg with power := { s.pkg.power with pmbus := [(0x40, true)] } } }
theorem test_rails_vstk : (withVstk (released world)).HostQuiet ∧ (withVstk (released world)).pkg.power.railOn .vstk = true :=
  ⟨hostQuiet_of (by decide +kernel), by decide +kernel⟩
theorem test_rails : (released world).HostQuiet ∧ (released world).place.groups = [] ∧ (released world).host.tasks = [] ∧
    (released world).nets = [] ∧ (((released world).hub 1).insvc && ((released world).hub 1).refOk && ((released world).hub 0).refOk) = true ∧
    (released world).pkg.hubs.length = 2 :=
  ⟨hostQuiet_of (by decide +kernel), by decide +kernel⟩
theorem test_rail_vstk : nx (exec (.railOutOfRange .vstk) (released world)) (fun t => decide (t.stacksUp = [])) = true := by decide +kernel
theorem test_rail_vphy : nx (exec (.railOutOfRange .vphy) (released world)) (fun t => allStopped t && !t.pkg.pins.rails) = true := by decide +kernel
/-- A reference lost where the other is gone, and one of a hub that is not in service. -/
theorem test_refclk : (nx (exec (.refclkLoss 1) ((released world).updHub 0 fun h => { h with refOk := false })) allStopped &&
    nx (exec (.refclkLoss 1) ((released world).updHub 1 fun h => { h with insvc := false })) (fun t => decide ((t.hub 1).step = 0) &&
      !(t.hub 1).refOk && t.pkg.pins.up)) = true := by decide +kernel
/-- VCORE of die 7, commanded on and not in range; VHUB, with which the log goes. -/
def withVcore (s : State) : State := { s with pkg := { s.pkg with power := { s.pkg.power with pmbus := [(0x4F, true)] } } }
theorem test_rail_core : (withVcore (released world)).HostQuiet ∧ (withVcore (released world)).pkg.power.railOn (.vcore 7) = true ∧
    (withVcore (released world)).pkg.power.active = [] ∧
    nx (exec (.railOutOfRange .vhub) (released world)) (fun t => decide (t.log.ring = [])) = true :=
  ⟨hostQuiet_of (by decide +kernel), by decide +kernel⟩
def rails0 : State := { State.reset with pkg := { State.reset.pkg with pins := { State.reset.pkg.pins with rails := true } } }
theorem test_scan : (nx (exec .extest rails0) (fun t => decide (t.pkg.pins.tap = .extest)) && nx (exec .highz rails0) (fun t => decide (t.pkg.pins.tap = .highz)) &&
    nx (exec .clamp rails0) (fun t => decide (t.pkg.pins.tap = .clamp)) && nx (exec .extest State.reset) (fun t => decide (t.pkg.pins.tap = .bypass)) &&
    nx (exec .samplePreload State.reset) (fun t => decide (t.pkg.pins.tap = .sample)) && nx (exec .bypass rails0) (fun t => decide (t.pkg.pins.tap = .bypass))) = true := by
  decide +kernel

/-! ### Boot and attestation -/

def powered0 : State := { State.reset with pkg := { State.reset.pkg with pins := { State.reset.pkg.pins with
  pwrgood := true
  rails := true } } }
def bootIn (f : Flash) : BootInput := ⟨some f, [], 0x1234⟩
/-- The first bytes of an SFDP space whose table stands at 16; the header of a firmware slot of 64 bytes, with its SVN. -/
def sfdp0 : List Byte := [0x53, 0x46, 0x44, 0x50, 0, 0, 0, 0, 0, 0, 0, 0, 16, 0, 0, 0xFF, 0, 0, 0x42]
def fwHead (svn : Nat) : List Byte := [0x48, 0x42, 0x58, 0x5A, 0x34, 0x38, 0x46, 0x57] ++ leBytes 4 1 ++ leBytes 4 0 ++ leBytes 8 svn ++ leBytes 8 64 ++
  leBytes 8 0 ++ List.replicate 216 0 ++ List.replicate 64 7
def flash1 : Flash := { Flash.erased with
  sfdp := sfdp0
  board := List.replicate 8 0 ++ leBytes 2 3600
  fwA := fwHead 1
  fwB := fwHead 2 }
/-- An image whose header holds: whether its signature does is the free function's. Its S value is below the group order. -/
theorem test_firmware : fwImage flash1 0x1900000 = if sigOk (Config.vendorKey 0) (Config.sha512 ((fwHead 2).take 128 ++ List.replicate 64 7))
    (List.replicate 64 0) = true then some ⟨2, (fwHead 2).take 128 ++ List.replicate 64 7⟩ else none := by
  have a : flashRead flash1 0x1900000 256 = (fwHead 2).take 256 := by decide +kernel
  have b : flashRead flash1 (0x1900000 + 256) 64 = List.replicate 64 7 := by decide +kernel
  have c : field ((fwHead 2).take 256) 24 8 = 64 ∧ field ((fwHead 2).take 256) 12 4 = 0 ∧ field ((fwHead 2).take 256) 16 8 = 2 ∧
      (((fwHead 2).take 256).drop 128).take 64 = List.replicate 64 0 ∧ ((fwHead 2).take 256).take 128 = (fwHead 2).take 128 := by decide +kernel
  unfold fwImage
  simp only [a, b, c]
  rw [if_pos (by decide +kernel)]
  rfl
theorem test_flash : (∀ key msg, sigOk key msg (List.replicate 64 0) = Config.ed25519Verify key msg (List.replicate 64 0)) ∧
    slotSvn flash1 0x100000 = 1 ∧ slotSvn flash1 0x1900000 = 2 ∧ sfdpValid flash1 = true ∧ (flashGeom flash1).quad = true ∧ flashPlimit flash1 = 3600 ∧
    fwImage Flash.erased 0x100000 = none ∧ deriveKey 0 flash1 [] = none := by
  refine ⟨fun key msg => ?_, by decide +kernel⟩
  unfold sigOk
  rw [show decide (field (List.replicate 64 (0 : Byte)) 32 32 < ed25519Order) = true by decide +kernel, Bool.true_and]
/-- No flash that holds tables; tables and no firmware. -/
theorem test_boot_rom : powered0.Counts ∧
    nx (exec (.resetRelease (bootIn .erased) (bootIn { Flash.erased with sfdp := sfdp0 })) powered0) (fun t =>
      decide ((t.hub 0).err = 1 ∧ (t.hub 0).step = 1 ∧ (t.hub 1).err = 2 ∧ (t.hub 1).step = 1 ∧ t.time = 0) && (t.hub 1).recov && t.pkg.pins.up) = true :=
  ⟨counts_of (by decide +kernel), by decide +kernel⟩
def selfTest : SelfTest := ⟨[], [], [], [], [], [], [], [], true, true⟩
def atBoot (a b : Nat) : State := (released State.reset).updHub 0 (fun h => { h with step := a }) |>.updHub 1 fun h => { h with step := b }
/-- With a hint accepted that marks core 5 failed and gives core 6 an offset of 30 mV. -/
def hinted : State := (atBoot 2 2).updHub 0 fun h => { h with
  hint := 1
  hintBytes := some (List.replicate 175 0 ++ [0xC0] ++ [0, 0, 6, 0, 0, 0, 0, 0] ++ List.replicate 1240 0) }
theorem test_hint_used : hinted.hintFails 5 = true ∧ hinted.hintFails 6 = false ∧ hinted.hintVofs 6 = 6 ∧
    hinted.hintFails 152 = false ∧ hinted.hintFails 153 = false ∧
    nx (exec (.selfTestAndRepair { selfTest with margins := List.replicate 7 ⟨0, 0, []⟩ }) hinted) (fun t => decide ((t.core 5).pw.svc = .failed ∧ (t.core 16).pw.svc = .inService ∧
      (t.margin 6).vofs = 4 ∧ (t.margin 7).vofs = 0)) = true := by decide +kernel
theorem test_self_test : (atBoot 2 2).Counts ∧ (List.range 162).all (fun d => decide (4 ≤ (startMargin (atBoot 2 2) selfTest d).slack)) = true ∧
    (atBoot 2 2).pkg.power.railOn .vstk = false ∧ (atBoot 2 2).hintRepairs = [] ∧ (atBoot 2 2).pkg.linksDown = [] ∧ (List.range 162).all (fun d => !(atBoot 2 2).hintFails d) = true ∧
    nx (exec (.selfTestAndRepair selfTest) (atBoot 2 2)) (fun t => decide (t.pkg.lead = 0 ∧ (t.hub 1).step = 3 ∧ (t.core 15).pw.svc = .inService ∧
      (t.core 16).pw.svc = .spare ∧ t.stacksUp.length = 8)) = true ∧
    nx (exec (.selfTestAndRepair { selfTest with
      failedStacks := [3]
      failedPos := [143] }) (atBoot 2 2)) (fun t => decide ((t.stack 3).insvc = false ∧ (t.core 143).pw.svc = .failed)) = true :=
  ⟨counts_of (by decide +kernel), by decide +kernel⟩
theorem test_election : let s := { atBoot 1 2 with pkg := { (atBoot 1 2).pkg with power := { (atBoot 1 2).pkg.power with pmbus := [(0x40, true)] } } }
    s.Counts ∧ nx (exec .hubElectionTimeout s) (fun t => decide (t.pkg.lead = 1 ∧ t.time = 2000000000) && (t.hub 1).insvc) = true :=
  ⟨counts_of (by decide +kernel), by decide +kernel⟩
def led (n : Nat) : State := (released world).updHub 0 fun h => { h with step := n }
theorem test_boot_stacks : (led 3).Counts ∧ nx (exec (.bootStackTraining [1]) { led 3 with mem := [(0x10000000000, 1)] }) (fun t =>
    decide ((t.hub 0).step = 4 ∧ (t.core 0).level = .m) && (t.core 151).inSvc && !(t.core 0).tr.maint) = true :=
  ⟨counts_of (by decide +kernel), by decide +kernel⟩
theorem test_boot_ports : (portIs .training (led 4)).HostQuiet ∧
    nx (exec (.bootPortTraining ⟨1, []⟩) (portIs .training (led 4))) (fun t => decide ((t.hub 0).step = 5 ∧ (t.port 0).st = .announced)) = true :=
  ⟨hostQuiet_of (by decide +kernel), by decide +kernel⟩
def req (v code p1 p2 : Byte) (body : List Byte) : SpdmReq := ⟨v, code, p1, p2, body, false⟩
def epAt (n : Nat) : State := world.updEp (.i3c 1) fun e => { e with phase := n }
def replies (i : Instr) (s : State) (n : Nat) (r : List Byte) : Bool :=
  nx (exec i s) fun t => decide ((t.ep (.i3c 1)).phase = n ∧ (t.ep (.i3c 1)).reply.take r.length = r)
theorem test_spdm : epExists (.i3c 1) = true ∧ world.epServed (.i3c 1) = true ∧ world.pkg.eps.length = 6 ∧
    (replies (.getVersion (.i3c 1) (req 0x10 0x84 0 0 [])) (epAt 3) 1 [0x10, 0x04] &&
     replies (.getCapabilities (.i3c 1) (req 0x12 0xE1 0 0 [])) (epAt 1) 2 [0x12, 0x61] &&
     replies (.getCapabilities (.i3c 1) (req 0x12 0xE1 0 0 [])) (epAt 2) 2 [0x12, 0x7F, 4] &&
     replies (.getCapabilities (.i3c 1) (req 0x11 0xE1 0 0 [])) (epAt 1) 1 [0x12, 0x7F, 0x41] &&
     replies (.negotiateAlgorithms (.i3c 1) (req 0x12 0xE3 0 0 (List.replicate 5 0 ++ [2]))) (epAt 2) 3 [0x12, 0x63] &&
     replies (.negotiateAlgorithms (.i3c 1) (req 0x12 0xE3 0 0 [])) (epAt 2) 2 [0x12, 0x7F, 1] &&
     replies (.challenge (.i3c 1) (req 0x12 0x83 1 0 (List.replicate 32 0))) (epAt 3) 3 [0x12, 0x7F, 5] &&
     replies (.getMeasurements (.i3c 1) (req 0x12 0xE0 0 0 [])) (epAt 3) 3 [0x12, 0x60, 6] &&
     replies (.spdmUnsupportedRequest (.i3c 1) (req 0x12 0xFE 0 0 [])) (epAt 3) 3 [0x12, 0x7F, 7]) = true := by decide +kernel
theorem test_spdm_chain : let s := (epAt 3).updHub 1 fun h => { h with key := some [1] }
    (s.hub 1).key = some [1] ∧ (req 0x12 0x83 1 0 (List.replicate 32 0)).param1.toNat % 16 = epHub (.i3c 1) ∧
    replies (.getDigests (.i3c 1) (req 0x12 0x81 0 0 [])) s 3 [0x12, 0x01, 0, 2] = true := by decide +kernel
/-- A request that comes while its endpoint serves another is answered Busy within 2^14 µs and served after; a GET_VERSION of 1.2, and of 1.1. -/
theorem test_spdm_busy : let s (t : Nat) : State := { (epAt 1).updEp (.i3c 1) (fun e => { e with since := some 5 }) with time := t }
    let q : SpdmReq := { req 0x12 0xE1 0 0 [] with early := true }
    (replies (.getCapabilities (.i3c 1) q) (s 16384004) 1 [0x12, 0x7F, 3] && replies (.getCapabilities (.i3c 1) q) (s 16384005) 2 [0x12, 0x61] &&
     replies (.getVersion (.i3c 1) (req 0x12 0x84 0 0 [])) (epAt 3) 1 [0x10, 0x04] &&
     replies (.getVersion (.i3c 1) (req 0x11 0x84 0 0 [])) (epAt 3) 3 [0x12, 0x7F, 0x41]) = true := by decide +kernel
/-- Chain 1 stands after chain 0, each with its length first. -/
theorem test_certificates : let s := (epAt 3).updHub 1 fun h => { h with flash := { Flash.erased with certs := [4, 0, 0, 0, 6, 0, 0, 0, 8, 9] } }
    (s.hub 0).flash = .erased ∧ s.certChain 1 = [6, 0, 0, 0, 8, 9] ∧
    replies (.getCertificate (.i3c 1) (req 0x12 0x82 1 0 [2, 0, 3, 0])) s 3 [0x12, 0x02, 1, 0, 3, 0, 1, 0, 0, 0, 8] = true := by decide +kernel
theorem test_mctp : (replies (.setEndpointId (.i3c 1) 0xFE) world 0 [0, 0, 0xFE, 0] && replies (.setEndpointId (.i3c 1) 0xFF) world 0 [2] &&
    replies (.setEndpointId (.i3c 1) 0) world 0 [2] && replies (.getEndpointId (.i3c 1)) world 0 [0, 0, 0, 0] &&
    replies (.getMctpVersionSupport (.i3c 1)) world 0 [0] && replies (.getMessageTypeSupport (.i3c 1)) world 0 [0, 1, 5]) = true := by decide +kernel

end Sys2Proof.Tests
end

section
/-! SUPPORT. What reset leaves in the part, in each core and in memory, and the return from the reset entry (R91, R96, R108, R109,
R120 to R122, R263, R342, R491, R516). -/

namespace Sys2Proof.Machine

/-! ### The units of the part at reset -/

@[simp] theorem State.core_reset (c : Nat) : State.reset.core c = Core.reset := by
  unfold State.core vget
  split
  · exact Vector.getElem_replicate _
  · rfl

@[simp] theorem State.stack_reset {n : Nat} (h : n < 8) : State.reset.stack n = Stack.reset := List.getD_replicate _ h
@[simp] theorem State.hub_reset {h : Nat} (hh : h < 2) : State.reset.hub h = Hub.reset := List.getD_replicate _ hh
@[simp] theorem State.port_reset {p : Nat} (h : p < 4) : State.reset.port p = Port.reset := List.getD_replicate _ h

theorem State.reset_counts : State.reset.Counts := by
  refine ⟨?_, ?_, ?_, ?_, ?_⟩ <;> exact List.length_replicate

theorem State.reset_noWaits : State.reset.NoWaits := fun c _ => by rw [State.core_reset]; rfl

/-- Nothing stands in any store of the reset state: no task, no displaced task, no net. -/
theorem State.reset_storesOk : State.reset.StoresOk :=
  ⟨Memory.wf_reset, List.forall_mem_nil _, List.forall_mem_nil _, List.forall_mem_nil _⟩

theorem State.reset_hostIdle : State.reset.HostIdle where
  counts := State.reset_counts
  chans := List.forall_mem_nil _
  ports p hp g hg := by
    have hp : p = Port.reset := List.eq_of_mem_replicate hp
    subst hp
    exact absurd hg (by simp [Port.reset])
  back := rfl
  retire := rfl
  nets := List.forall_mem_nil _

/-! ### Descriptors at reset -/

theorem leNat_replicate_zero (n : Nat) : leNat (List.replicate n 0) = 0 := by
  induction n with
  | zero => rfl
  | succ n ih => rw [List.replicate_succ, leNat, ih]; rfl

/-- Every number read of a store that lists nothing is 0. -/
theorem Mem.nat_nil (a n : Nat) : Mem.nat [] a n = 0 := by
  have h : Mem.bytes [] a n = List.replicate n 0 := List.eq_replicate_iff.2 ⟨by simp [Mem.bytes], fun b hb => by
    obtain ⟨i, -, rfl⟩ := List.mem_map.1 hb
    exact Mem.get_nil _⟩
  rw [Mem.nat, h, leNat_replicate_zero]

/-- FLAGS of zero have VALID clear (R100). -/
theorem Desc.valid_of_flags_zero {d : Desc} (h : d.flags = 0) (n : Nat) : d.valid n = false := by
  simp [Desc.valid, bitOf, h]

theorem State.reset_desc_invalid (c n i : Nat) : (State.reset.desc c n).valid i = false :=
  Desc.valid_of_flags_zero (Mem.nat_nil _ _) i

/-! ### The landing before an entry or a return -/

section
variable {s : State} {c : Nat} {w : Bool}

theorem Core.lastLand_clear {k : Core} (hp : k.tm.pend = []) (hd : k.tm.delayed = []) : k.lastLand = 0 := by
  simp [Core.lastLand, hp, hd]

/-- With no write pending and no delayed fault, nothing lands before an entry. -/
theorem landEntry_clear (hp : (s.core c).tm.pend = []) (hd : (s.core c).tm.delayed = []) : landEntry c s = s := by
  unfold landEntry
  rw [if_pos (by rw [Core.lastLand_clear hp hd]; exact Nat.zero_le _)]
  exact landAll_nil hp

@[simp] theorem Core.idleTo_tr_status (k : Core) (t : Nat) : (k.idleTo t).tr.status = k.tr.status := by
  unfold Core.idleTo; split <;> simp
@[simp] theorem Core.idleTo_flow (k : Core) (t : Nat) : (k.idleTo t).flow = k.flow := by
  unfold Core.idleTo; split <;> simp

/-! ### ERET (R120) -/

/-- An ERET that nothing refuses, on a ready core in a shadow bank above T: its beat, the return, and the steps up to the fourth. -/
theorem exec_eret_ready (h : s.Ready c w) (nx : RetNext) (hl : (s.core c).level ≠ .t) (hb : (s.core c).bank ≠ .main)
    (hr : eretRefused (s.core c) = none) :
    exec (.eret c nx) s = .next (s.upd c fun k => (returnFrom k.beat nx).idleTo ((s.core c).tm.step + 4)) := by
  have hland : landEntry c s = s := landEntry_clear h.landed h.clear
  have hbeat : landEntry c (s.upd c Core.beat) = s.upd c Core.beat :=
    landEntry_clear (by simp [State.core_upd_self _ _ h.core, h.landed]) (by simp [State.core_upd_self _ _ h.core, h.clear])
  have hmax : max ((s.core c).tm.step + 4) ((s.core c).lastLand + 1) = (s.core c).tm.step + 4 := by
    rw [Core.lastLand_clear h.landed h.clear]; omega
  rw [exec_eret, execEret, issueI_ready h (fun he => absurd he (by decide))]
  simp only [noFault, hland, hbeat, h.clear, hr, hmax]
  rw [if_neg (by simp [hl, hb]), done_upd_upd _ _ h.core]

/-- What R120 asks of a return by the ESTAT `e`: a level no higher than the ceiling, M in the maintenance state, another bank that is in
use, and a slot count that stands beside no repeat. -/
theorem eretRefused_eq_none {k : Core} {e : Estat} (he : (k.tr.save k.bank).estat = e)
    (hlevel : e.ppriv ≠ 3 ∧ e.ppriv.toNat ≤ e.ceil.toNat) (hmaint : k.tr.maint = true → e.ppriv = 2)
    (hbank : e.pbank.toNat ≠ k.bank.num ∧ e.pbank ≠ 3 ∧ (e.pbank ≠ 0 → k.tr.status.busy (Bank.dec e.pbank.toNat) = true))
    (hslots : e.ds ≠ 3 ∧ (e.ds ≠ 0 → e.repip = false)) : eretRefused k = none := by
  unfold eretRefused
  simp only [he]
  rw [if_neg (by simpa using hlevel), if_neg (by simpa using hmaint), if_neg (by simpa using hbank), if_neg (by simpa using hslots)]

/-- The level and the bank that a return by the ESTAT `e` enters, and the bank that it frees. -/
theorem returnFrom_status {k : Core} {e : Estat} (he : (k.tr.save k.bank).estat = e) (nx : RetNext) : (returnFrom k nx).tr.status =
    { (k.tr.status.setBusy k.bank false) with priv := Priv.dec e.ppriv.toNat, bank := Bank.dec e.pbank.toNat, ie := e.pie } := by
  subst he; rfl
theorem returnFrom_flow (k : Core) (nx : RetNext) : (returnFrom k nx).flow = resumeFlow k.flow (k.tr.save k.bank) nx := rfl

/-- Where the entry stood in no delay slot and in no repeat, the return resumes at the PC it saved (R113). -/
theorem resumeFlow_pc_plain (f : Flow) (sv : SaveSet) (nx : RetNext) (hr : sv.estat.repip = false) (hd : sv.estat.ds = 0) :
    (resumeFlow f sv nx).pc = sv.epc := by
  simp [resumeFlow, hr, hd]

theorem Priv.num_dec {p : BitVec 2} (h : p ≠ 3) : (Priv.dec p.toNat).num = p.toNat := by
  revert p; decide

end

/-! ### The return from the reset entry (R122) -/

/-- A core that stands in the entry that reset leaves, out of the maintenance state, with the level `p` written to return to. -/
structure Core.InResetEntry (k : Core) (p : BitVec 2) : Prop where
  status : k.tr.status = .reset
  maint : k.tr.maint = false
  estat : k.tr.save1.estat = { Estat.reset1 with ppriv := p }

section
variable {k : Core} {p : BitVec 2}

theorem Core.InResetEntry.level (h : k.InResetEntry p) : k.level = .m := by rw [Core.level, h.status]; rfl
theorem Core.InResetEntry.bank (h : k.InResetEntry p) : k.bank = .b1 := by rw [Core.bank, h.status]; rfl
theorem Core.InResetEntry.beat (h : k.InResetEntry p) : k.beat.InResetEntry p :=
  ⟨by simpa using h.status, by simpa using h.maint, by simpa using h.estat⟩
theorem Core.InResetEntry.saved (h : k.InResetEntry p) : k.tr.save k.bank = k.tr.save1 := by rw [h.bank]; rfl

theorem Core.InResetEntry.savedEstat (h : k.InResetEntry p) : (k.tr.save k.bank).estat = { Estat.reset1 with ppriv := p } := by
  rw [h.saved, h.estat]

/-- The ceiling M of the reset entry allows a return to every level, and its bank 0 is another than the handler's. -/
theorem Core.InResetEntry.eretRefused (h : k.InResetEntry p) (hp : p ≠ 3) : eretRefused k = none := by
  refine eretRefused_eq_none h.savedEstat ⟨hp, ?_⟩ ?_ ?_ ?_
  · show p.toNat ≤ 2
    bv_omega
  · simp [h.maint]
  · simp [h.bank, Bank.num, Estat.reset1]
  · simp [Estat.reset1]

theorem Core.InResetEntry.returnFrom_status (h : k.InResetEntry p) (nx : RetNext) :
    (returnFrom k nx).tr.status = ⟨Priv.dec p.toNat, .main, false, false, false, false⟩ := by
  rw [Machine.returnFrom_status h.savedEstat, h.status, h.bank]; rfl
theorem Core.InResetEntry.returnFrom_pc (h : k.InResetEntry p) (nx : RetNext) : (returnFrom k nx).flow.pc = k.tr.save1.epc := by
  rw [returnFrom_flow, h.saved]
  exact resumeFlow_pc_plain _ _ _ (by rw [h.estat]; rfl) (by rw [h.estat]; rfl)

/-- The first ERET enters the level that the reset entry's PPRIV names, in bank 0, at the saved PC, and frees bank 1. -/
theorem exec_eret_of_inResetEntry {s : State} {c : Nat} {w : Bool} (hs : s.Ready c w) (nx : RetNext) (h : (s.core c).InResetEntry p)
    (hp : p ≠ 3) :
    ∃ t, exec (.eret c nx) s = .next t ∧ (t.core c).level.num = p.toNat ∧ (t.core c).bank = .main ∧
      (t.core c).flow.pc = (s.core c).tr.save1.epc ∧ (t.core c).tr.status.busy .b1 = false := by
  refine ⟨_, exec_eret_ready hs nx (by simp [h.level]) (by simp [h.bank]) (h.eretRefused hp), ?_⟩
  have hstatus := h.beat.returnFrom_status nx
  have hpc : (returnFrom (s.core c).beat nx).flow.pc = (s.core c).tr.save1.epc := by simpa using h.beat.returnFrom_pc nx
  simp only [State.core_upd_self _ _ hs.core, Core.level, Core.bank, Core.idleTo_tr_status, Core.idleTo_flow, hstatus, hpc]
  exact ⟨Priv.num_dec hp, trivial, trivial, rfl⟩

end

/-- Settles O3: every core, stack, hub and port reads as its reset value, memory lists nothing, so that no descriptor is valid and
every store is in canonical form; and the return from the reset entry is one that no check of R120 refuses. -/
theorem resetState : Obligations.ResetState := by
  unfold Obligations.ResetState
  simp only [State.core_reset]
  refine ⟨⟨rfl, rfl, rfl, State.reset_storesOk, State.reset_counts, State.reset_hostIdle, State.reset_noWaits, rfl, rfl, rfl, rfl, rfl, rfl,
    fun n hn => ?_, fun h hh => ?_, fun p hp => ?_, fun c _ => ?_⟩,
    fun _ _ => trivial, rfl, rfl, rfl, rfl, rfl, rfl, fun s c nx p hs hstatus hmaint hp hestat => ?_⟩
  · rw [State.stack_reset hn]; rfl
  · rw [State.hub_reset hh]; exact ⟨rfl, rfl⟩
  · rw [State.port_reset hp]; rfl
  · exact ⟨rfl, rfl, rfl, rfl, rfl, rfl, rfl, rfl, rfl, rfl, rfl, fun n _ => State.reset_desc_invalid c n n⟩
  · exact exec_eret_of_inResetEntry hs nx ⟨hstatus, hmaint, hestat⟩ hp

end Sys2Proof.Machine
end

section
/-! SUPPORT. The front of the queue, where issue goes next, and the repeat prefixes (R34, R43, R65, R87 to R90). -/

namespace Sys2Proof.Machine

/-- An update of a core depends on what it makes of that core alone. -/
theorem State.upd_congr {s : State} (c : Nat) {f g : Core → Core} (h : f (s.core c) = g (s.core c)) : s.upd c f = s.upd c g := by
  unfold State.upd; rw [h]

/-! ### The queue (R43) -/

/-- Settles O1: `step` takes the front command off the queue and runs it, and with none waiting is the idle tick. -/
theorem stepRunsFront : Obligations.StepRunsFront := by
  unfold Obligations.StepRunsFront
  refine ⟨fun s i => rfl, fun s i rest h => ?_, fun s h => ?_⟩
  · unfold step; rw [h]
  · have hstep : step s = .next (idleTick s) := by unfold step; rw [h]
    exact hstep

/-! ### The flow of issue after an instruction that transfers no control (R65, R87) -/

section
variable {f : Flow} {r : RepState} {w : Bool}

theorem Flow.advance_plain (hr : f.rep = none) (hs : f.slots = 0) :
    f.advance w = { f with hold := false, barw := false, pc := f.pc + (if w then 8 else 4), jump := none } := by
  unfold Flow.advance; rw [hr, hs]

theorem Flow.advance_firstSlot (hr : f.rep = none) (hs : f.slots = 2) :
    f.advance w = { f with hold := false, barw := false, pc := f.pc + (if w then 8 else 4), slots := 1 } := by
  unfold Flow.advance; rw [hr, hs]; rfl

theorem Flow.advance_secondSlot (hr : f.rep = none) (hs : f.slots = 1) :
    f.advance w = { f with hold := false, barw := false, pc := f.btgt, slots := 0 } := by
  unfold Flow.advance; rw [hr, hs]; rfl

theorem Flow.advance_repeat (hr : f.rep = some r) (hl : 2 ≤ r.left) : f.advance w =
    { f with hold := false, barw := false, rep := some { r with left := r.left - 1 }, repc := BitVec.ofNat 16 (r.left - 1) } := by
  unfold Flow.advance; rw [hr]
  exact if_neg (by omega)

theorem Flow.advance_lastRepeat (hr : f.rep = some r) (hl : r.left ≤ 1) :
    f.advance w = { f with hold := false, barw := false, pc := f.pc + (if w then 8 else 4), rep := none, repc := 0 } := by
  unfold Flow.advance; rw [hr]
  exact if_pos hl

end

/-! ### REP and REP.U (R87, R88, R90) -/

section
variable {s : State} {c : Nat}

/-- The flow after a REP whose count is 0: past the instruction `nx`. -/
def Flow.skipNext (f : Flow) (nx : RepNext) : Flow :=
  { f with hold := false, jump := none, barw := false, pc := f.pc + (if repWide nx then 12 else 8), rep := none, repc := 0 }
/-- The flow after a REP of `n` repetitions of `nx`. -/
def Flow.repeatNext (f : Flow) (n : Nat) (u : Bool) (nx : RepNext) : Flow :=
  { f with hold := false, jump := none, barw := false, pc := f.pc + 4, rep := some ⟨n, u, f.pc, repWide nx, nx⟩, repc := BitVec.ofNat 16 n }

/-- Whether R88 and R90 refuse a REP of `n` repetitions at the level of core `k`. -/
def Core.repRefused (k : Core) (u : Bool) (n : Nat) (nx : RepNext) : Bool :=
  decide (65535 < n) || !repAllowed nx || (u && k.level == .t && decide (2048 < n))

/-- A REP on a ready core: ILLEGAL_OP with its word, or the flow it sets. -/
theorem repI_ready (h : s.Ready c false) (u : Bool) (rs : Reg) (imm : BitVec 16) (nx : RepNext) :
    repI c u rs imm nx s = if (s.core c).repRefused u (repCount (s.core c) rs imm) nx then
        done s (takeException c { cause := 1, edata0 := (encP rs u imm).data } s)
      else done s (s.upd c fun k => ({ k with
        flow := if repCount k rs imm = 0 then k.flow.skipNext nx else k.flow.repeatNext (repCount k rs imm) u nx } : Core).beat) := by
  unfold repI
  extract_lets e
  rw [issueI_ready h (e := encP rs u imm) (fun he => absurd he Bool.false_ne_true)]
  change (match illegalIf _ ((s.core c).repRefused u (repCount (s.core c) rs imm) nx) with | some t => _ | none => _) = _
  cases (s.core c).repRefused u (repCount (s.core c) rs imm) nx <;> rfl

theorem Core.repRefused_of_long_or_forbidden {k : Core} {n : Nat} {nx : RepNext} (h : repAllowed nx = false ∨ 65535 < n) (u : Bool) :
    k.repRefused u n nx = true := by
  rcases h with h | h <;> simp [Core.repRefused, h]

theorem Core.repRefused_eq_false {k : Core} {u : Bool} {n : Nat} {nx : RepNext} (ha : repAllowed nx = true) (hn : n ≤ 65535)
    (ht : u = true → k.level = .t → n ≤ 2048) : k.repRefused u n nx = false := by
  cases u
  · simp [Core.repRefused, ha, hn]
  · simpa [Core.repRefused, ha, hn] using ht rfl

theorem Core.repRefused_of_long_at_user {k : Core} {n : Nat} (hl : k.level = .t) (hn : 2048 < n) (nx : RepNext) :
    k.repRefused true n nx = true := by
  simp [Core.repRefused, hl, hn]

theorem repI_refused (h : s.Ready c false) {u : Bool} {rs : Reg} {imm : BitVec 16} {nx : RepNext}
    (hr : (s.core c).repRefused u (repCount (s.core c) rs imm) nx = true) : repI c u rs imm nx s =
      .next { takeException c { cause := 1, edata0 := (encP rs u imm).data } s with pending := s.pending } := by
  rw [repI_ready h, if_pos hr]; rfl

theorem repI_taken (h : s.Ready c false) {u : Bool} {rs : Reg} {imm : BitVec 16} {nx : RepNext}
    (hr : (s.core c).repRefused u (repCount (s.core c) rs imm) nx = false) :
    repI c u rs imm nx s = if repCount (s.core c) rs imm = 0 then .next (s.upd c fun k => ({ k with flow := k.flow.skipNext nx } : Core).beat)
      else .next (s.upd c fun k => ({ k with flow := k.flow.repeatNext (repCount (s.core c) rs imm) u nx } : Core).beat) := by
  rw [repI_ready h, if_neg (by simp [hr])]
  change Host.Outcome.next (s.upd c fun k => ({ k with flow := if repCount (s.core c) rs imm = 0 then _ else _ } : Core).beat) = _
  split <;> rfl

/-! ### The repeated instruction (R87) -/

/-- A one-word instruction on a core that has nothing due and stands in no slot: it issues where it is the one that is repeated. -/
theorem issueP_repeated (h : s.Idle c) (hf : fetchFault s c false .clean .clean = none) (hs : (s.core c).flow.slots = 0) {e : Enc}
    (he : e.wide = false) (hr : (s.core c).repeats e = true) (eff : State → State) :
    issueP c e noFault eff s = done s ((eff s).upd c fun k => k.retire false) := by
  unfold issueP issueI issueBy
  rw [if_neg (Nat.not_le.2 h.core)]
  simp [h.issues, hr, h.arrive, h.clear, Core.delayedDue, h.aligned, hs, he, hf, noFault]

/-- Any other instruction is ignored while a repeat is in progress (log entries 1 and 2). -/
theorem issueP_notRepeated (hc : c < 160) {e : Enc} (hr : (s.core c).repeats e = false) (check : State → Option Trap)
    (eff : State → State) : issueP c e check eff s = .next s := by
  unfold issueP issueI issueBy
  rw [if_neg (Nat.not_le.2 hc), if_pos (by simp [hr])]
  rfl

end

/-- Settles O7: the flow by its five cases, the prefixes by whether they are refused, and ADD under a repeat by whether it is repeated. -/
theorem nextInstruction : Obligations.NextInstruction := by
  unfold Obligations.NextInstruction
  refine ⟨fun k w => ?_, fun s c rs imm nx h => ?_, fun s c rd rs1 rs2 r h hf hs hr hl => ?_⟩
  · simp only [Core.retire_flow, Core.retire_tm]
    refine ⟨trivial, fun hr hs => ?_, fun hr hs => ?_, fun hr hs => ?_, fun r hr hl => ?_, fun r hr hl => ?_⟩
    · rw [Flow.advance_plain hr hs]; exact ⟨rfl, hs⟩
    · rw [Flow.advance_firstSlot hr hs]; exact ⟨rfl, rfl, rfl⟩
    · rw [Flow.advance_secondSlot hr hs]; exact ⟨rfl, rfl⟩
    · rw [Flow.advance_repeat hr hl]; exact ⟨rfl, rfl, rfl⟩
    · rw [Flow.advance_lastRepeat hr hl]; exact ⟨rfl, rfl, rfl⟩
  · intro k n set pass bad
    have taken (u : Bool) (ha : repAllowed nx = true) (hn : n ≤ 65535) (ht : u = true → k.level = .t → n ≤ 2048) :
        repI c u rs imm nx s = if n = 0 then pass else set u :=
      repI_taken h (Core.repRefused_eq_false ha hn ht)
    refine ⟨fun ha hn => ⟨taken false ha hn (fun hu => absurd hu Bool.false_ne_true), fun ht => taken true ha hn fun _ => ht⟩,
      fun hbad => ⟨?_, ?_⟩, fun hT hbad => ?_⟩
    · exact repI_refused h (Core.repRefused_of_long_or_forbidden hbad false)
    · exact repI_refused h (Core.repRefused_of_long_or_forbidden hbad true)
    · exact repI_refused h (Core.repRefused_of_long_at_user hT hbad nx)
  · have hrep (e : Enc) : (s.core c).repeats e = (repEnc r.next == e) := by rw [Core.repeats, hr]
    rw [exec_add, execAdd, aluOv]
    refine ⟨fun he hov => ?_, fun he => issueP_notRepeated h.core (by rw [hrep]; simpa using he) _ _⟩
    rw [issueP_repeated h hf hs rfl (by rw [hrep]; simpa using he), done_upd_upd _ _ h.core]
    refine congrArg _ (State.upd_congr c ?_)
    rw [Core.landOv, if_pos (by simp [hov])]

end Sys2Proof.Machine
end

section
/-! SUPPORT. The launch of voltage moves: what it leaves of the state, and the power manager's events (R40, R479 to R482, R487). -/

namespace Sys2Proof.Machine

variable {s t u : State} {c : Nat}

/-! ### The answer of a command -/

/-- `u` is `t` but for the queue. -/
structure State.Requeued (t u : State) : Prop where
  mem : u.mem = t.mem
  time : u.time = t.time
  pkg : u.pkg = t.pkg
  log : u.log = t.log
  host : u.host = t.host
  cores : u.cores = t.cores
  core : ∀ c, u.core c = t.core c

/-- What a command that is done answers. -/
theorem answer_of_done {o : Out} (h : o = done s t) : ∃ u, o = .next u ∧ t.Requeued u :=
  ⟨_, h, rfl, rfl, rfl, rfl, rfl, rfl, fun _ => rfl⟩

/-! ### The launch of moves (R480) -/

/-- `t` is `s` but for the voltages that cores move to. -/
structure State.Retargeted (s t : State) : Prop where
  rest : t = { s with cores := t.cores }
  core : ∀ d, ∃ v, t.core d = { s.core d with pw := { (s.core d).pw with target := v } }

theorem State.Retargeted.refl (s : State) : s.Retargeted s := ⟨rfl, fun _ => ⟨_, rfl⟩⟩

theorem State.Retargeted.trans (h : s.Retargeted t) (g : t.Retargeted u) : s.Retargeted u := by
  refine ⟨?_, fun d => ?_⟩
  · rw [g.rest, h.rest]
  · obtain ⟨v, hv⟩ := h.core d
    obtain ⟨w, hw⟩ := g.core d
    exact ⟨w, by rw [hw, hv]⟩

/-- An update of one core beyond the part's cores, or of one that `f` leaves, changes nothing: the others read as before. -/
theorem State.core_upd_cases (s : State) (c d : Nat) (f : Core → Core) : (s.upd c f).core d = s.core d ∨ c = d ∧ (s.upd c f).core d = f (s.core d) := by
  by_cases h : c = d
  · subst h
    by_cases hc : c < 160
    · exact .inr ⟨rfl, State.core_upd_self c f hc⟩
    · exact .inl (by simp [State.core, vget, hc])
  · exact .inl (State.core_upd_ne f h)

theorem State.Retargeted.upd (s : State) (c v : Nat) : s.Retargeted (s.upd c fun k => { k with pw := { k.pw with target := v } }) := by
  refine ⟨rfl, fun d => ?_⟩
  rcases s.core_upd_cases c d _ with h | ⟨-, h⟩
  · exact ⟨_, h⟩
  · exact ⟨v, h⟩

/-- Steps that each only retarget come to one that does. -/
theorem State.Retargeted.foldl {f : State → Nat → State} (hf : ∀ (s : State) c, s.Retargeted (f s c)) (l : List Nat) (s : State) :
    s.Retargeted (l.foldl f s) := by
  induction l generalizing s with
  | nil => exact .refl s
  | cons c cs ih => exact (hf s c).trans (ih _)

/-- What a launch changes: what the rails move to, and what the cores move to. -/
theorem launch_retargeted (s : State) :
    ∃ r, (s.withPower fun m => { m with railTo := r }).Retargeted (launch s) := by
  unfold launch
  refine ⟨_, State.Retargeted.foldl (fun s c => ?_) _ _⟩
  dsimp only
  split
  · exact .refl s
  split
  · exact .upd s c _
  split
  · exact .upd s c _
  · exact .upd s c _

section
variable (s : State) (c : Nat)

theorem launch_core (d : Nat) : ∃ v, (launch s).core d = { s.core d with pw := { (s.core d).pw with target := v } } :=
  (launch_retargeted s).elim fun _ h => h.core d
theorem launch_pkg : ∃ r, (launch s).pkg = { s.pkg with power := { s.pkg.power with railTo := r } } :=
  (launch_retargeted s).elim fun r h => ⟨r, by rw [h.rest]; rfl⟩

@[simp] theorem launch_mem : (launch s).mem = s.mem := (launch_retargeted s).elim fun _ h => by rw [h.rest]; rfl
@[simp] theorem launch_time : (launch s).time = s.time := (launch_retargeted s).elim fun _ h => by rw [h.rest]; rfl
@[simp] theorem launch_log : (launch s).log = s.log := (launch_retargeted s).elim fun _ h => by rw [h.rest]; rfl
@[simp] theorem launch_active : (launch s).pkg.power.active = s.pkg.power.active := by
  obtain ⟨r, h⟩ := launch_pkg s; rw [h]
@[simp] theorem launch_thr : (launch s).pkg.power.thr = s.pkg.power.thr := by
  obtain ⟨r, h⟩ := launch_pkg s; rw [h]
@[simp] theorem launch_rails : (launch s).pkg.power.rails = s.pkg.power.rails := by
  obtain ⟨r, h⟩ := launch_pkg s; rw [h]
@[simp] theorem launch_x : ((launch s).core c).x = (s.core c).x := by obtain ⟨v, h⟩ := launch_core s c; rw [h]
@[simp] theorem launch_v : ((launch s).core c).v = (s.core c).v := by obtain ⟨v, h⟩ := launch_core s c; rw [h]
@[simp] theorem launch_tr : ((launch s).core c).tr = (s.core c).tr := by obtain ⟨v, h⟩ := launch_core s c; rw [h]
@[simp] theorem launch_flow : ((launch s).core c).flow = (s.core c).flow := by obtain ⟨v, h⟩ := launch_core s c; rw [h]
@[simp] theorem launch_wait : ((launch s).core c).wait = (s.core c).wait := by obtain ⟨v, h⟩ := launch_core s c; rw [h]
@[simp] theorem launch_volt : ((launch s).core c).pw.volt = (s.core c).pw.volt := by obtain ⟨v, h⟩ := launch_core s c; rw [h]
@[simp] theorem launch_vset : ((launch s).core c).pw.vset = (s.core c).pw.vset := by obtain ⟨v, h⟩ := launch_core s c; rw [h]
@[simp] theorem launch_ring : ((launch s).core c).pw.ring = (s.core c).pw.ring := by obtain ⟨v, h⟩ := launch_core s c; rw [h]
@[simp] theorem launch_boostTill : ((launch s).core c).pw.boostTill = (s.core c).pw.boostTill := by
  obtain ⟨v, h⟩ := launch_core s c; rw [h]
@[simp] theorem launch_canIssue : ((launch s).core c).canIssue = (s.core c).canIssue := by
  obtain ⟨v, h⟩ := launch_core s c; rw [h]; rfl

end

/-! ### Updates of several cores -/

/-- Updates of distinct cores, each by what no update changes: a core in the list is updated once, the others stay. -/
theorem core_foldl_upd {g : State → Nat → Core → Core} (hg : ∀ s t : State, t.pkg = s.pkg → g t = g s) {cs : List Nat} (hn : cs.Nodup)
    (hc : ∀ c ∈ cs, c < 160) (s : State) (d : Nat) :
    (cs.foldl (fun s c => s.upd c (g s c)) s).core d = if d ∈ cs then g s d (s.core d) else s.core d := by
  induction cs generalizing s with
  | nil => rfl
  | cons c cs ih =>
    rw [List.foldl_cons, ih (List.nodup_cons.1 hn).2 (fun e he => hc e (List.mem_cons_of_mem _ he)), hg s _ (State.upd_pkg s c _)]
    by_cases hd : d = c
    · subst hd
      rw [if_neg (List.nodup_cons.1 hn).1, if_pos (by simp), State.core_upd_self d _ (hc d (by simp))]
    · rw [State.core_upd_ne _ (Ne.symm hd)]
      simp [hd]

/-- Updates of cores leave the rest of the state. -/
theorem foldl_upd_rest (g : State → Nat → Core → Core) (cs : List Nat) (s : State) :
    cs.foldl (fun s c => s.upd c (g s c)) s = { s with cores := (cs.foldl (fun s c => s.upd c (g s c)) s).cores } := by
  induction cs generalizing s with
  | nil => rfl
  | cons c cs ih => rw [List.foldl_cons, ih]; rfl

/-! ### Throttles (R481) -/

theorem triggers_power {avg peak : Nat} :
    s.triggers (.power avg peak) = true ↔ s.pkg.power.plimit < avg ∨ 11 * s.pkg.power.plimit < 10 * peak := by
  simp [State.triggers]
theorem triggers_thermal {d temp : Nat} : s.triggers (.thermal d temp) = true ↔ (if d < 16 then 95 else 92) < temp := by
  rw [State.triggers, decide_eq_true_eq, throttleAt]
theorem releases_power {avg peak : Nat} : s.releases (.power avg peak) = true ↔ 100 * peak < 95 * s.pkg.power.plimit := by
  rw [State.releases, decide_eq_true_eq]
theorem releases_thermal {d temp : Nat} :
    s.releases (.thermal d temp) = true ↔ max temp (s.heldTemp d) < if d < 16 then 92 else 89 := by
  have h : releaseAt d = if d < 16 then 92 else 89 := by unfold releaseAt throttleAt; split <;> rfl
  rw [State.releases, decide_eq_true_eq, h]

theorem exec_throttle_above {m : ThrottleSense} (he : throttleExists m.why = true) (h : s.triggers m = true) :
    exec (.throttle m) s = done s (beginThrottle m.why s) := by
  rw [exec_throttle, execThrottle, if_neg (by simp [he]), if_pos h]
theorem exec_throttle_notAbove {m : ThrottleSense} (he : throttleExists m.why = true) (h : ¬ s.triggers m = true) :
    exec (.throttle m) s = .next s := by
  rw [exec_throttle, execThrottle, if_neg (by simp [he]), if_neg h]; rfl
theorem exec_throttleRelease_below {m : ThrottleSense} (he : throttleExists m.why = true) (h : s.releases m = true) :
    exec (.throttleRelease m) s = done s (s.withPower fun p => { p with active := p.active.filter (· != m.why) }) := by
  rw [exec_throttleRelease, execThrottleRelease, if_neg (by simp [he]), if_pos h]
theorem exec_throttleRelease_notBelow {m : ThrottleSense} (he : throttleExists m.why = true) (h : ¬ s.releases m = true) :
    exec (.throttleRelease m) s = .next s := by
  rw [exec_throttleRelease, execThrottleRelease, if_neg (by simp [he]), if_neg h]; rfl

/-- The core `c` under a regulator's throttle: set to its floor, its boost grant gone. -/
def State.atFloor (s : State) (c : Nat) (k : Core) : Core :=
  { k with pw := { k.pw with
    vset := min k.pw.vset (s.floorMv c), boostTill := none, pstate := if s.floorMv c < k.pw.vset then 2 else k.pw.pstate } }

/-- The cores that a throttle sets to their floors at once. -/
def State.floored (s : State) (w : ThrottleWhy) : List Nat :=
  if railThrottle w && s.leadUp then allCores.filter fun c => throttleCovers w c && (s.core c).inSvc else []

theorem beginThrottle_new {w : ThrottleWhy} (h : w ∉ s.pkg.power.active) : beginThrottle w s =
    launch ((s.floored w).foldl (fun s c => s.upd c (s.atFloor c))
      ((noteThrottle w s).withPower fun m => { m with active := m.active ++ [w] })) := by
  unfold beginThrottle
  rw [if_neg (by simpa using h)]
  rfl

theorem mem_floored_vrfault {n : Nat} (hl : s.leadUp = true) (hc : c < 144) (hd : dieOf c = n) (hs : (s.core c).inSvc = true) :
    c ∈ s.floored (.vrfault n) := by
  simp [State.floored, railThrottle, hl, throttleCovers, hd, hs, allCores, hc]

theorem floored_nodup (s : State) (w : ThrottleWhy) : (s.floored w).Nodup := by
  unfold State.floored
  split
  · exact List.nodup_range.filter _
  · exact List.nodup_nil
theorem lt_of_mem_floored {w : ThrottleWhy} (h : c ∈ s.floored w) : c < 144 := by
  unfold State.floored at h
  split at h
  · exact List.mem_range.1 (List.mem_of_mem_filter h)
  · simp at h

/-- A throttle that begins is in force, counted and logged once. -/
theorem beginThrottle_notes {w : ThrottleWhy} (h : w ∉ s.pkg.power.active) :
    (beginThrottle w s).mem = s.mem ∧ (beginThrottle w s).pkg.power.active = s.pkg.power.active ++ [w] ∧
      (beginThrottle w s).pkg.power.thr = s.pkg.power.thr + 1 ∧ (beginThrottle w s).log.next = s.log.next + 1 := by
  rw [beginThrottle_new h, launch_mem, launch_active, launch_thr, launch_log, foldl_upd_rest State.atFloor]
  exact ⟨rfl, rfl, rfl, rfl⟩

/-- A core that the throttle sets to its floor stands no higher than it. -/
theorem beginThrottle_vset {w : ThrottleWhy} (h : w ∉ s.pkg.power.active) (hc : c ∈ s.floored w) :
    ((beginThrottle w s).core c).pw.vset = min (s.core c).pw.vset (s.floorMv c) := by
  have hfloor (s t : State) (hp : t.pkg = s.pkg) : t.atFloor = s.atFloor := by
    unfold State.atFloor State.floorMv State.margin; rw [hp]
  rw [beginThrottle_new h, launch_vset,
    core_foldl_upd hfloor (floored_nodup s w) (fun d hd => Nat.lt_trans (lt_of_mem_floored hd) (by decide)), if_pos hc]
  rfl

/-! ### Moves of voltage (R40, R480) -/

/-- The ring of a core that does not wait stops below the floor. -/
theorem stopRing_noWait (h : (s.core c).wait = none) : stopRing c s =
    s.upd c fun k => ({ k with pw := { k.pw with ring := false, volt := min k.pw.volt (s.floorMv c - 5) } } : Core).cooled s.time := by
  unfold stopRing
  rw [if_neg (by simp [h])]

/-- The ring of a core that does not wait starts at its floor. -/
theorem startRing_noWait (hc : c < 160) (h : (s.core c).wait = none) : startRing c s =
    s.upd c fun k => { k with pw := { k.pw with ring := true, volt := max k.pw.volt (s.floorMv c) } } := by
  unfold startRing
  exact endWait_none (by rw [State.core_upd_self c _ hc]; exact h)

@[simp] theorem Core.cooled_x (k : Core) (now : Nat) : (k.cooled now).x = k.x := rfl
@[simp] theorem Core.cooled_v (k : Core) (now : Nat) : (k.cooled now).v = k.v := rfl
@[simp] theorem Core.cooled_volt (k : Core) (now : Nat) : (k.cooled now).pw.volt = k.pw.volt := rfl
@[simp] theorem Core.cooled_ring (k : Core) (now : Nat) : (k.cooled now).pw.ring = k.pw.ring := rfl

/-- What the ring of core `c` does as its voltage comes to `v`. -/
def ringAt (c v : Nat) (s : State) : State :=
  if v < s.floorMv c then stopRing c s else if (s.core c).inSvc && !(s.core c).pw.ring then startRing c s else s

/-- The ring of a core that does not wait stands below the floor and beats from it; no register and no byte of memory changes. -/
theorem ringAt_noWait (hc : c < 160) (h : (s.core c).wait = none) (v : Nat) :
    (ringAt c v s).mem = s.mem ∧ ((ringAt c v s).core c).x = (s.core c).x ∧
      (v < s.floorMv c → ((ringAt c v s).core c).pw.ring = false) ∧
      (s.floorMv c ≤ v → (s.core c).inSvc = true → ((ringAt c v s).core c).pw.ring = true) := by
  unfold ringAt
  split
  · next hv =>
    rw [stopRing_noWait h, State.core_upd_self c _ hc]
    exact ⟨rfl, rfl, fun _ => rfl, fun hf => absurd hv (Nat.not_lt.2 hf)⟩
  split
  · next hv _ =>
    rw [startRing_noWait hc h, State.core_upd_self c _ hc]
    exact ⟨rfl, rfl, fun hf => absurd hf hv, fun _ _ => rfl⟩
  · next hv hr =>
    refine ⟨rfl, rfl, fun hf => absurd hf hv, fun _ hs => ?_⟩
    simpa [hs] using hr

/-- The voltage `v` of core `c` is in force; the core is above 0.85 V + VOFS where `hot` (R479). -/
def inForce (c v : Nat) (hot : Bool) (now : Nat) (s : State) : State :=
  let s2 := s.upd c fun k => { k with pw := { k.pw with
    volt := v
    hotSince := if hot then k.pw.hotSince.orElse (fun _ => some now) else k.pw.hotSince } }
  if hot then s2 else s2.upd c (Core.cooled now)

theorem inForce_mem (v : Nat) (hot : Bool) (now : Nat) : (inForce c v hot now s).mem = s.mem := by
  cases hot <;> rfl

theorem inForce_core (hc : c < 160) (v : Nat) (hot : Bool) (now : Nat) :
    ((inForce c v hot now s).core c).pw.volt = v ∧ ((inForce c v hot now s).core c).x = (s.core c).x ∧
      ((inForce c v hot now s).core c).pw.ring = (s.core c).pw.ring := by
  cases hot <;> simp [inForce, State.core_upd_self c _ hc]

/-- The end of a core's move (R480). -/
theorem exec_voltageMoveEnd_core (hc : c < 144) (hp : (s.core c).powered = true) (hv : (s.core c).pw.volt ≠ (s.core c).pw.target) :
    ∃ hot, exec (.voltageMoveEnd (.core c)) s =
      done s (launch (inForce c (s.core c).pw.target hot s.time (ringAt c (s.core c).pw.target s))) := by
  refine ⟨decide (850 + 5 * (s.margin c).vofs < (s.core c).pw.target), ?_⟩
  rw [exec_voltageMoveEnd, execVoltageMoveEnd]
  dsimp only
  rw [if_neg (by omega), if_neg (by simp [hp, hv])]
  rfl

/-- The core's whole move: its voltage is at its target, its ring beats or stands as the floor says. -/
theorem exec_voltageMoveEnd_core_spec (hc : c < 144) (hp : (s.core c).powered = true) (hw : (s.core c).wait = none)
    (hv : (s.core c).pw.volt ≠ (s.core c).pw.target) : ∃ t, exec (.voltageMoveEnd (.core c)) s = done s (launch t) ∧ t.mem = s.mem ∧
      (t.core c).pw.volt = (s.core c).pw.target ∧ (t.core c).x = (s.core c).x ∧
      ((s.core c).pw.target < s.floorMv c → (t.core c).pw.ring = false) ∧
      (s.floorMv c ≤ (s.core c).pw.target → (s.core c).inSvc = true → (t.core c).pw.ring = true) := by
  obtain ⟨hot, hexec⟩ := exec_voltageMoveEnd_core hc hp hv
  have hc : c < 160 := by omega
  obtain ⟨hmem, hx, hstop, hstart⟩ := ringAt_noWait hc hw (s.core c).pw.target
  obtain ⟨hvolt, hx', hring⟩ := inForce_core (s := ringAt c (s.core c).pw.target s) hc (s.core c).pw.target hot s.time
  exact ⟨_, hexec, (inForce_mem _ _ _).trans hmem, hvolt, hx'.trans hx, fun h => hring.trans (hstop h),
    fun h hs => hring.trans (hstart h hs)⟩

theorem exec_voltageMoveEnd_rail {n : Nat} (hn : n < 8) : ∃ t, exec (.voltageMoveEnd (.rail n)) s = done s (launch t) ∧ t.mem = s.mem ∧
    vget t.pkg.power.rails n 0 = vget s.pkg.power.railTo n 0 := by
  refine ⟨{ s with pkg := { s.pkg with power := { s.pkg.power with
      rails := vset s.pkg.power.rails n (vget s.pkg.power.railTo n 0) } } }, ?_, rfl, vget_vset_self _ _ _ _ hn⟩
  rw [exec_voltageMoveEnd, execVoltageMoveEnd]
  exact if_neg (by omega)

/-! ### Boost grants (R479) -/

theorem exec_boostGrantLapse_spec {till : Nat} (hc : c < 144) (hb : (s.core c).pw.boostTill = some till) :
    ∃ t, exec (.boostGrantLapse c) s = done s (launch t) ∧ t.mem = s.mem ∧ t.time = (s.tickTo till).time ∧
      (t.core c).pw.vset = min (s.core c).pw.vset (s.nomMv c) ∧ (t.core c).pw.boostTill = none := by
  refine ⟨(s.tickTo till).upd c fun k => { k with pw := { k.pw with vset := min k.pw.vset (s.nomMv c), boostTill := none, pstate := 0 } },
    ?_, rfl, rfl, ?_, ?_⟩
  · rw [exec_boostGrantLapse, execBoostGrantLapse, if_neg (by omega), hb]
  all_goals rw [State.core_upd_self c _ (by omega)]
  rfl

/-! ### PLIMIT (R487) -/

/-- A write of PLIMIT leaves the cores and memory; a value out of range only sets BADLIM. -/
theorem setPlimit_spec (v : Nat) (s : State) : (setPlimit v s).mem = s.mem ∧ (setPlimit v s).cores = s.cores ∧
    if 1500 ≤ v % 4096 ∧ v % 4096 ≤ 3600 then
      (setPlimit v s).pkg.power.plimit = v % 4096 ∧ (setPlimit v s).pkg.power.badlim = s.pkg.power.badlim
    else (setPlimit v s).pkg.power.plimit = s.pkg.power.plimit ∧ (setPlimit v s).pkg.power.badlim = true := by
  by_cases h : 1500 ≤ v % 4096 ∧ v % 4096 ≤ 3600
  · have e : setPlimit v s = s.withPower fun m => { m with plimit := v % 4096 } := if_pos h
    rw [e, if_pos h]; exact ⟨rfl, rfl, rfl, rfl⟩
  · have e : setPlimit v s = s.withPower fun m => { m with badlim := true } := if_neg h
    rw [e, if_neg h]; exact ⟨rfl, rfl, rfl, rfl⟩

/-- Settles O56: each command is taken to the state it answers, and the launch of moves that ends it leaves what is claimed. -/
theorem powerEvents : Obligations.PowerEvents := by
  unfold Obligations.PowerEvents
  intro s kept
  refine ⟨fun c till hc hb => ?_, fun m he => ?_, fun hub v hh hs => ?_, fun c hc hp hw hv => ?_, fun n hn => ?_⟩
  · obtain ⟨t, hexec, hmem, htime, hvset, hboost⟩ := exec_boostGrantLapse_spec hc hb
    obtain ⟨u, hu, h⟩ := answer_of_done hexec
    exact ⟨u, hu, by rw [h.mem, launch_mem, hmem], by rw [h.time, launch_time, htime], by rw [h.core, launch_vset, hvset],
      by rw [h.core, launch_boostTill, hboost]⟩
  · intro above below
    have habove : s.triggers m = true ↔ above := by
      cases m with
      | power avg peak => exact triggers_power
      | thermal d temp => exact triggers_thermal
      | vrfault n => exact iff_of_true rfl trivial
    have hbelow : s.releases m = true ↔ below := by
      cases m with
      | power avg peak => exact releases_power
      | thermal d temp => exact releases_thermal
      | vrfault n => exact iff_of_true rfl trivial
    refine ⟨fun ha hn => ?_, fun ha => exec_throttle_notAbove he (mt habove.1 ha), fun hb => ?_,
      fun hb => exec_throttleRelease_notBelow he (mt hbelow.1 hb)⟩
    · obtain ⟨hmem, hactive, hthr, hlog⟩ := beginThrottle_notes hn
      refine ⟨_, exec_throttle_above he (habove.2 ha), hmem, hactive, hthr, hlog, fun n c hm hl hc hd hs => ?_⟩
      subst hm
      exact beginThrottle_vset hn (mem_floored_vrfault hl hc hd hs)
    · exact ⟨_, exec_throttleRelease_below he (hbelow.2 hb), rfl, by simp [State.withPower], rfl⟩
  · have hw : exec (.plimitWrite hub v) s = done s (setPlimit v.toNat s) := by
      rw [exec_plimitWrite, execPlimitWrite, if_neg (by omega), if_pos hs]
    exact ⟨_, hw, setPlimit_spec _ s⟩
  · obtain ⟨t, hexec, hmem, hvolt, hx, hstop, hstart⟩ := exec_voltageMoveEnd_core_spec hc hp hw hv
    obtain ⟨u, hu, h⟩ := answer_of_done hexec
    refine ⟨u, hu, by rw [h.mem, launch_mem, hmem], by rw [h.core, launch_volt, hvolt], by rw [h.core, launch_x, hx], fun hlow => ?_,
      fun hhigh hsvc => ?_⟩
    · rw [h.core, launch_ring, hstop hlow]
    · rw [h.core, launch_ring, hstart hhigh hsvc]
  · obtain ⟨t, hexec, hmem, hrail⟩ := exec_voltageMoveEnd_rail (s := s) hn
    obtain ⟨u, hu, h⟩ := answer_of_done hexec
    refine ⟨u, hu, by rw [h.mem, launch_mem, hmem], ?_⟩
    change vget u.pkg.power.rails n 0 = _
    rw [h.pkg, launch_rails, hrail]

end Sys2Proof.Machine
end

section
/-! SUPPORT. The steps a core passes, and all that lands or ends in them, leave the registers of the package as they are: its stacks, links,
margins and power manager (R44, R60 to R63, R209 to R214, R221 to R226, R252 to R270). -/

namespace Sys2Proof.Machine

variable {s t : State}

/-- Steps that each leave the package leave it. -/
theorem foldl_pkg {α : Type} {f : State → α → State} (hf : ∀ s a, (f s a).pkg = s.pkg) (l : List α) (s : State) : (l.foldl f s).pkg = s.pkg := by
  induction l generalizing s with
  | nil => rfl
  | cons a l ih => exact (ih _).trans (hf s a)

theorem ite_pkg {p : Prop} [Decidable p] {a b : State} (ha : a.pkg = s.pkg) (hb : b.pkg = s.pkg) : (if p then a else b).pkg = s.pkg := by
  split
  · exact ha
  · exact hb

/-! ### Stores, monitors and the log -/

section
variable (s : State)

@[simp] theorem fireAll_pkg (ms : List (Nat × Nat × Nat)) : (s.fireAll ms).pkg = s.pkg := by
  unfold State.fireAll
  refine foldl_pkg (fun s m => ?_) ms s
  rfl
@[simp] theorem timeFires_pkg (pa n : Nat) (ms : List (Nat × Nat × Nat)) : (s.timeFires pa n ms).pkg = s.pkg := by
  refine foldl_pkg (fun s m => ?_) ms s
  split <;> rfl
@[simp] theorem fireOn_pkg (pa n who : Nat) : (s.fireOn pa n who).pkg = s.pkg := by
  unfold State.fireOn
  split
  · rfl
  · simp
@[simp] theorem writePhys_pkg (pa : Nat) (bs : List Byte) (who : Nat) : (s.writePhys pa bs who).pkg = s.pkg := by
  unfold State.writePhys
  simp
@[simp] theorem storeLocal_pkg (pa : Nat) (bs : List Byte) (who : Nat) : (s.storeLocal pa bs who).pkg = s.pkg := by
  refine (foldl_pkg (fun s p => ?_) _ _).trans (writePhys_pkg s pa bs who)
  split <;> rfl
@[simp] theorem setPoison_pkg (a : Nat) : (s.setPoison a).pkg = s.pkg := by
  unfold State.setPoison
  split <;> rfl
@[simp] theorem notifyPart_pkg (p : Nat) : (s.notifyPart p).pkg = s.pkg := rfl
@[simp] theorem notifyAt_pkg (c pa : Nat) : (notifyAt c pa s).pkg = s.pkg := by
  unfold notifyAt
  split
  · split <;> rfl
  · exact foldl_pkg notifyPart_pkg _ s
@[simp] theorem noteUE_pkg (c pa reason : Nat) (pc : Word) (source : Nat) : (noteUE c pa reason pc s source).pkg = s.pkg := by
  unfold noteUE
  dsimp only
  split <;> simp
@[simp] theorem updOwner_pkg (c g : Nat) (f : Core → Core) : (s.updOwner c g f).pkg = s.pkg := by
  unfold State.updOwner
  split <;> rfl

/-! ### Failures of work in flight (R221, R222, R226) -/

@[simp] theorem lowerCc_pkg (c g cc : Nat) (err : Option FailRec) : (lowerCc c g cc err s).pkg = s.pkg := by
  unfold lowerCc
  split <;> simp
@[simp] theorem failReleases_pkg (fuel c : Nat) (hit : Work → Bool) (r : FailRec) : (failReleases fuel c hit r s).pkg = s.pkg := by
  induction fuel generalizing s hit with
  | zero => rfl
  | succ fuel ih =>
    rw [failReleases]
    split
    · rfl
    · dsimp only
      split <;> simp [ih]
@[simp] theorem failWrite_pkg (c id : Nat) (r : FailRec) : (failWrite c id r s).pkg = s.pkg := failReleases_pkg s _ _ _ _
@[simp] theorem failItem_pkg (c id : Nat) (pc : Word) (cc reason : Nat) (addr : Word) : (failItem c id pc cc reason addr s).pkg = s.pkg := by
  simp [failItem]
@[simp] theorem failWork_pkg (c id : Nat) (pc : Word) (cc reason : Nat) (addr : Word) : (failWork c id pc cc reason addr s).pkg = s.pkg := by
  simp [failWork]
@[simp] theorem keptFlags_pkg (c : Nat) (victims : List Pass) : (keptFlags c victims s).pkg = s.pkg := by
  unfold keptFlags
  dsimp only
  split <;> rfl
@[simp] theorem failFrom_pkg (c i reason : Nat) (addr : Word) (also : Pass → Bool) : (failFrom c i reason addr s also).pkg = s.pkg := by
  unfold failFrom
  extract_lets k now victims first keep s1 hold s2
  refine (foldl_pkg (fun s p => ?_) _ _).trans (keptFlags_pkg s c victims)
  split <;> simp

/-! ### The update path (R252 to R270) -/

theorem updRow_pkg {c : Nat} {d : UpdDesc} {mask : Bool} {mk : Masks} {sl : Slice} {r : Nat} (h : updRow c d mask mk sl r s = .ok t) :
    t.pkg = s.pkg := by
  unfold updRow at h
  dsimp only at h
  split at h
  · contradiction
  · cases h
    refine foldl_pkg (fun s j => ?_) _ s
    split <;> split <;> simp
theorem updRows_pkg (c : Nat) (d : UpdDesc) (u : UpdItem) (l : List (Nat × Nat)) :
    (updRows c d u l s).2.pkg = s.pkg ∧ ∀ t, (updRows c d u l s).1 = .ok t → t.pkg = s.pkg := by
  induction l generalizing s with
  | nil => exact ⟨rfl, fun t h => by cases h; rfl⟩
  | cons p l ih =>
    have hrow (o : Except Word State) (ho : updRow c d u.mask u.msk (u.slices.getD p.1 ⟨12, 0, 0, 0⟩) p.2 s = o) :
        (match o with
          | .error a => ((.error a, s) : Except Word State × State)
          | .ok s' => updRows c d u l s').2.pkg = s.pkg ∧ ∀ t, (match o with
          | .error a => ((.error a, s) : Except Word State × State)
          | .ok s' => updRows c d u l s').1 = .ok t → t.pkg = s.pkg := by
      cases o with
      | error a => exact ⟨rfl, fun t h => by cases h⟩
      | ok s' => exact ⟨(ih s').1.trans (updRow_pkg s ho), fun t h => ((ih s').2 t h).trans (updRow_pkg s ho)⟩
    obtain ⟨j, r⟩ := p
    rw [updRows]
    split
    · split
      · exact ⟨rfl, fun t h => by cases h⟩
      · exact hrow _ rfl
    · exact hrow _ rfl
@[simp] theorem emitItem_pkg (c t : Nat) (u : UpdItem) (parity : Bool) : (emitItem c t u parity s).pkg = s.pkg := by
  unfold emitItem
  extract_lets k step elems
  split
  extract_lets k1 _ k2 _ s1 drop
  have hs : s1.pkg = s.pkg := by
    unfold s1
    split <;> rfl
  split
  · rw [failWork_pkg, State.upd_pkg, hs]
  split
  · exact hs
  split
  split <;> exact hs
@[simp] theorem stepItem_pkg (c t : Nat) (u : UpdItem) : (stepItem c t u s).pkg = s.pkg := by
  unfold stepItem
  extract_lets later drop
  split
  · rfl
  next d _ =>
  split
  · rfl
  have hrows := updRows_pkg s c d u (u.pairs.getD u.done [])
  split
  · next s' _ he => 
    rw [he] at hrows
    exact hrows.2 s' rfl
  · next a s' he =>
    rw [he] at hrows
    have hs' : s'.pkg = s.pkg := hrows.1
    rw [failItem_pkg, State.upd_pkg]
    split
    · exact hs'
    split
    · rw [noteUE_pkg, hs']
    · rw [noteUE_pkg, setPoison_pkg, hs']

/-! ### Events of the array and results that land (R60 to R63, R209 to R214) -/

@[simp] theorem commitOldest_pkg (c : Nat) : (commitOldest c s).pkg = s.pkg := by
  unfold commitOldest
  extract_lets k
  split
  · rfl
  · rfl
@[simp] theorem arrayEvent_pkg (c t : Nat) (e : AEvent) : (arrayEvent c t e s).pkg = s.pkg := by
  unfold arrayEvent
  cases e with
  | commit => simp
  | port v => rfl
  | operandUe id =>
    dsimp only
    split <;> simp
  | emit id =>
    dsimp only
    split <;> simp
  | update id =>
    dsimp only
    split <;> simp
@[simp] theorem arrayUpTo_pkg (c t fuel : Nat) : (arrayUpTo c t fuel s).pkg = s.pkg := by
  induction fuel generalizing s with
  | zero => rfl
  | succ fuel ih =>
    rw [arrayUpTo]
    split
    · split
      · rw [ih, arrayEvent_pkg]
      · rfl
    · rfl
@[simp] theorem settleTo_pkg (c u t : Nat) : (settleTo c u t s).pkg = s.pkg := by
  unfold settleTo
  dsimp only
  split
  · rfl
  · rw [State.upd_pkg, arrayUpTo_pkg]
@[simp] theorem settleBefore_pkg (c t : Nat) : (settleBefore c t s).pkg = s.pkg := settleTo_pkg s c _ t

@[simp] theorem csrLand_pkg (c : Nat) (p : Priv) (op : CsrOp) (n : Nat) (v : Word) : (csrLand s c p op n v).pkg = s.pkg := by
  unfold csrLand
  extract_lets
  repeat refine ite_pkg rfl ?_
  rfl
@[simp] theorem landOne_pkg (c : Nat) (p : Pend) : (landOne c s p).pkg = s.pkg := by
  unfold landOne
  split
  case h_8 => exact csrLand_pkg s c _ _ _ _
  case h_9 wr rd pr idx d _ =>
    cases wr <;> cases rd <;> simp [State.setDesc, State.loadDesc]
  all_goals rfl
@[simp] theorem landUpTo_pkg (c t : Nat) : (landUpTo c t s).pkg = s.pkg := foldl_pkg (fun s p => landOne_pkg s c p) _ _

/-- The steps a core passes leave the package. -/
@[simp] theorem elapse_pkg (c : Nat) (f : Nat → Core → Core) (fuel n : Nat) : (elapse c f fuel n s).pkg = s.pkg := by
  induction fuel generalizing s n with
  | zero => rfl
  | succ fuel ih =>
    rw [elapse]
    split
    · dsimp only
      split <;> simp [ih]
    · rfl
@[simp] theorem idleSteps_pkg (c cause : Nat) : (idleSteps c cause s).pkg = s.pkg := by simp [idleSteps, stepsPass]

end
end Sys2Proof.Machine
end

section
/-! SUPPORT. Long waits: a core that waits is lowered, its ring stops and starts, and it resumes (R40, R338 to R340, R484). -/

namespace Sys2Proof.Machine

variable {s t : State} {c : Nat}

/-- `t` has the memory of `s`, and every core its x and v registers. -/
structure State.SameRegs (s t : State) : Prop where
  mem : t.mem = s.mem
  x : ∀ d, (t.core d).x = (s.core d).x
  v : ∀ d, (t.core d).v = (s.core d).v

theorem State.SameRegs.trans {u : State} (h : s.SameRegs t) (g : t.SameRegs u) : s.SameRegs u :=
  ⟨g.mem.trans h.mem, fun d => (g.x d).trans (h.x d), fun d => (g.v d).trans (h.v d)⟩
theorem State.SameRegs.of_cores (hm : t.mem = s.mem) (hc : t.cores = s.cores) : s.SameRegs t := by
  refine ⟨hm, fun d => ?_, fun d => ?_⟩ <;> rw [State.core, State.core, hc]
theorem State.SameRegs.upd (s : State) (c : Nat) {f : Core → Core} (hx : ∀ k, (f k).x = k.x) (hv : ∀ k, (f k).v = k.v) :
    s.SameRegs (s.upd c f) := by
  refine ⟨rfl, fun d => ?_, fun d => ?_⟩ <;> rcases s.core_upd_cases c d f with h | ⟨-, h⟩ <;> rw [h]
  · exact hx _
  · exact hv _
theorem State.Requeued.launched {u : State} (h : (launch t).Requeued u) : t.SameRegs u :=
  ⟨by rw [h.mem, launch_mem], fun d => by rw [h.core, launch_x], fun d => by rw [h.core, launch_v]⟩

/-! ### A wait for a counter that goes on, or can end (R338) -/

section
variable {w : Wait} {cc n : Nat}

theorem waitEnd_counter_keep (hk : w.kind = .counter cc n) (hh : (s.core c).ccHidden cc = false) (h : n < (s.core c).outst cc) :
    waitEnd s c w = .keep := by
  simp [waitEnd, hk, hh, h]
theorem waitEnd_counter_ret (hk : w.kind = .counter cc n) (hh : (s.core c).ccHidden cc = false) (h : (s.core c).outst cc ≤ n)
    (he : bitOf (s.core c).cnt.ccerr.toNat cc = false) : waitEnd s c w = .ret (some (BitVec.ofNat 64 ((s.core c).outst cc))) := by
  simp [waitEnd, hk, hh, Nat.not_lt.2 h, he]

/-- The wait is lowered. -/
theorem exec_longWaitLower_spec (hc : c < 144) (hw : (s.core c).wait = some w) (hk : w.kind = .counter cc n) (hlong : w.long = true)
    (hlow : w.lowered = false) (hcls : (s.core c).idn.cls = false) (hlead : s.leadUp = true) (hsvc : (s.core c).inSvc = true)
    (hdl : (s.tickTo (w.start + (s.core c).syn.lwmin.toNat)).time < w.deadline) (hn : n < (s.core c).outst cc)
    (hh : (s.core c).ccHidden cc = false) : ∃ t, exec (.longWaitLower c) s = done s (launch t) ∧
      t.time = (s.tickTo (w.start + (s.core c).syn.lwmin.toNat)).time ∧ (t.core c).wait = some { w with lowered := true } ∧
      (t.core c).pw.vset = (if s.noRetention c = true then s.floorMv c else s.retMv c) ∧ s.SameRegs t := by
  have hkeep : waitEnd (s.tickTo (w.start + (s.core c).syn.lwmin.toNat)) c w = .keep := waitEnd_counter_keep hk hh hn
  refine ⟨(s.tickTo (w.start + (s.core c).syn.lwmin.toNat)).upd c fun k => { k.count 26 1 with
      wait := some { w with lowered := true }
      pw := { (k.count 26 1).pw with
        share := (k.count 26 1).pw.vset, vset := if s.noRetention c then s.floorMv c else s.retMv c, boostTill := none, pstate := 0 } },
    ?_, rfl, ?_, ?_, ?_⟩
  · rw [exec_longWaitLower, execLongWaitLower, if_neg (by omega)]
    simp only [hw]
    rw [if_neg (by simp [isHub, hlong, hlow, hcls, hsvc, hlead, hkeep, Nat.not_le.2 hc, hdl])]
    rfl
  · rw [State.core_upd_self c _ (by omega)]
  · rw [State.core_upd_self c _ (by omega)]
  · refine State.SameRegs.trans (t := s.tickTo (w.start + (s.core c).syn.lwmin.toNat)) (.of_cores rfl rfl)
      (.upd _ c (fun k => ?_) fun k => ?_)
    · exact Core.count_x k 26 1
    · exact Core.count_v k 26 1

/-! ### The ring stops (R40, R484) -/

theorem Core.idleStall_xv (k : Core) (n cause : Nat) : (k.idleStall n cause).x = k.x ∧ (k.idleStall n cause).v = k.v := by
  unfold Core.idleStall Core.idle
  dsimp only
  split <;> simp

/-- A stopped ring: the voltage falls below the floor, and the core issues nothing. -/
theorem stopRing_spec (hc : c < 144) (s : State) : ((stopRing c s).core c).pw.ring = false ∧ ((stopRing c s).core c).pw.volt < s.floorMv c ∧
    ((stopRing c s).core c).canIssue = false := by
  have hfloor : (if (s.core c).pw.ring && (s.core c).wait.isSome then idleSteps c (s.causeNow c) s else s).floorMv c = s.floorMv c := by
    unfold State.floorMv State.margin
    split
    · rw [idleSteps_pkg]
    · rfl
  unfold stopRing
  dsimp only
  rw [hfloor, State.core_upd_self c _ (by omega)]
  refine ⟨rfl, ?_, ?_⟩
  · rw [Core.cooled_volt]
    have : 550 ≤ s.floorMv c := Nat.le_add_right _ _
    dsimp only
    omega
  · rw [Core.canIssue, Core.cooled_ring]; simp

/-- With no result to land, the registers stay. -/
theorem stopRing_sameRegs (h : (s.core c).tm.pend = []) : s.SameRegs (stopRing c s) := by
  unfold stopRing
  dsimp only
  refine State.SameRegs.trans (t := if (s.core c).pw.ring && (s.core c).wait.isSome then idleSteps c (s.causeNow c) s else s) ?_
    (State.SameRegs.upd _ c (fun _ => rfl) fun _ => rfl)
  split
  · rw [idleSteps, stepsPass_nil (s := s.draw) _ _ h]
    exact State.SameRegs.trans (t := s.draw) (.of_cores rfl rfl)
      (.upd _ c (fun k => (k.idleStall_xv _ _).1) fun k => (k.idleStall_xv _ _).2)
  · exact .of_cores rfl rfl

/-- The ring of a core that does not wait starts at its floor, and the registers stay. -/
theorem startRing_spec (hc : c < 144) (hw : (s.core c).wait = none) : ((startRing c s).core c).pw.ring = true ∧
    s.floorMv c ≤ ((startRing c s).core c).pw.volt ∧ s.SameRegs (startRing c s) := by
  rw [startRing_noWait (by omega) hw, State.core_upd_self c _ (by omega)]
  refine ⟨rfl, Nat.le_max_right _ _, State.SameRegs.upd s c ?_ ?_⟩ <;> exact fun _ => rfl

/-! ### The core resumes (R340) -/

theorem resumeRing_stopped (hr : (s.core c).pw.ring = false) :
    resumeRing c s = (wakeVolt c s).upd c fun k => { k with pw := { k.pw with ring := true, volt := s.floorMv c } } := by
  unfold resumeRing
  exact if_neg (by simp [hr])

/-- A wait that ends with a value writes it; the core is at its floor at least if the wait was lowered. -/
theorem endWait_counter (hc : c < 144) (hring : (s.core c).pw.ring = true) (hw : (s.core c).wait = some w) (hk : w.kind = .counter cc n)
    (hn : (s.core c).outst cc ≤ n) (he : bitOf (s.core c).cnt.ccerr.toNat cc = false) (hh : (s.core c).ccHidden cc = false)
    (hlow : w.lowered = true) (hp : (s.core c).tm.pend = []) : endWait c s = (wakeVolt c s).upd c fun k =>
      { k.setX k.bank w.rd (BitVec.ofNat 64 ((s.core c).outst cc)) with wait := none, flow := k.flow.advance w.wide } := by
  have hpend : ((wakeVolt c s).core c).tm.pend = [] := by
    rw [wakeVolt, State.core_upd_self c _ (by omega), hp]
  unfold endWait
  rw [hw]
  dsimp only
  rw [if_neg (by simp [hring]), waitEnd_counter_ret hk hh hn he]
  dsimp only
  rw [if_pos hlow, returnWait, waitTake, hk]
  dsimp only
  rw [landUpTo_nil _ hpend]
  rfl

/-- The ring of a core at retention beats again, at its floor. -/
theorem exec_coreResume_spec (hc : c < 144) (hsvc : (s.core c).inSvc = true) (hring : (s.core c).pw.ring = false)
    (hw : (s.core c).wait = some w) (hk : w.kind = .counter cc n) (hn : (s.core c).outst cc ≤ n)
    (he : bitOf (s.core c).cnt.ccerr.toNat cc = false) (hh : (s.core c).ccHidden cc = false) (hlow : w.lowered = true)
    (hp : (s.core c).tm.pend = []) : ∃ t, exec (.coreResume c) s = done s (launch t) ∧ (t.core c).pw.ring = true ∧
      s.floorMv c ≤ (t.core c).pw.vset ∧ (t.core c).wait = none ∧ (t.core c).flow = (s.core c).flow.advance w.wide ∧
      (t.core c).rx w.rd = (if w.rd = 0 then 0 else BitVec.ofNat 64 ((s.core c).outst cc)) ∧ t.mem = s.mem := by
  have hcore : (resumeRing c s).core c = { s.core c with pw := { (s.core c).pw with
      vset := max (s.core c).pw.vset (s.floorMv c), target := max (s.core c).pw.target (s.floorMv c), ring := true,
      volt := s.floorMv c } } := by
    rw [resumeRing_stopped hring, State.core_upd_self c _ (by omega), wakeVolt, State.core_upd_self c _ (by omega)]
  refine ⟨endWait c (resumeRing c s), ?_, ?_⟩
  · rw [exec_coreResume, execCoreResume, if_neg (by omega)]
    simp only [hw]
    rw [if_neg (by simp [isHub, hsvc, hring, waitEnd_counter_ret hk hh hn he, Nat.not_le.2 hc])]
  · have hend := endWait_counter (s := resumeRing c s) (w := w) (cc := cc) (n := n) hc
    rw [hcore] at hend
    rw [hend rfl hw hk hn he hh hlow hp, State.core_upd_self c _ (by omega), wakeVolt, State.core_upd_self c _ (by omega), hcore]
    refine ⟨rfl, ?_, rfl, rfl, ?_, ?_⟩
    · exact Nat.le_trans (Nat.le_max_right _ _) (Nat.le_max_left _ _)
    · by_cases hrd : w.rd = 0
      · rw [if_pos hrd, hrd, Core.rx, XRegs.get_zero]
      · rw [if_neg hrd]
        exact XRegs.get_set_self _ _ _ _ hrd
    · rw [resumeRing_stopped hring]; rfl

end

/-- Settles O43: each command is taken to the state it answers; the launch of moves after it leaves what is claimed. -/
theorem longWaits : Obligations.LongWaits := by
  unfold Obligations.LongWaits
  intro s c hc k same
  have hsame {t : State} (h : s.SameRegs t) : same t := ⟨h.mem, fun d => ⟨h.x d, h.v d⟩⟩
  refine ⟨fun w cc n hw hk hlong hlow hcls hlead hsvc hdl hn hh => ?_, fun hp hr ht => ?_, fun hs hr ht hw => ?_,
    fun w cc n hs hr hw hk hn he hh hlow hp => ?_⟩
  · obtain ⟨t, hexec, htime, hwait, hvset, hregs⟩ := exec_longWaitLower_spec hc hw hk hlong hlow hcls hlead hsvc hdl hn hh
    obtain ⟨u, hu, h⟩ := answer_of_done hexec
    exact ⟨u, hu, by rw [h.time, launch_time, htime], by rw [h.core, launch_wait, hwait], by rw [h.core, launch_vset, hvset],
      hsame (hregs.trans h.launched)⟩
  · have hexec : exec (.ringStop c) s = done s (launch (stopRing c s)) := by
      rw [exec_ringStop, execRingStop, if_neg (by omega)]
      exact if_pos (by simp [k] at hp hr ht ⊢; exact ⟨⟨hp, hr⟩, ht⟩)
    obtain ⟨u, hu, h⟩ := answer_of_done hexec
    obtain ⟨hring, hvolt, hissue⟩ := stopRing_spec hc s
    exact ⟨u, hu, by rw [h.core, launch_ring, hring], by rw [h.core, launch_volt]; exact hvolt, by rw [h.core, launch_canIssue, hissue],
      fun hp => hsame ((stopRing_sameRegs hp).trans h.launched)⟩
  · have hexec : exec (.ringStart c) s = done s (launch (startRing c s)) := by
      rw [exec_ringStart, execRingStart, if_neg (by omega)]
      exact if_pos (by simp [k] at hs hr ht ⊢; exact ⟨⟨hs, hr⟩, ht⟩)
    obtain ⟨u, hu, h⟩ := answer_of_done hexec
    obtain ⟨hring, hvolt, hregs⟩ := startRing_spec hc hw
    exact ⟨u, hu, by rw [h.core, launch_ring, hring], by rw [h.core, launch_volt]; exact hvolt, hsame (hregs.trans h.launched)⟩
  · obtain ⟨t, hexec, hring, hvset, hwait, hflow, hrx, hmem⟩ := exec_coreResume_spec hc hs hr hw hk hn he hh hlow hp
    obtain ⟨u, hu, h⟩ := answer_of_done hexec
    refine ⟨u, hu, by rw [h.core, launch_ring, hring], by rw [h.core, launch_vset]; exact hvset, by rw [h.core, launch_wait, hwait],
      by rw [h.core, launch_flow, hflow], ?_, by rw [h.mem, launch_mem, hmem]⟩
    rw [h.core, Core.rx, Core.bank, launch_x, launch_tr]; exact hrx

end Sys2Proof.Machine
end

section
/-! SUPPORT. What accesses to memory, the errors they meet and the entries of the log leave as it was: the service of every part, the
registers of every core, and what the host side holds (R69, R380, R446 to R451, R510 to R513). -/

namespace Sys2Proof.Machine

variable {s t u : State}

/-! ### The relation -/

/-- A core keeps its registers, its wait and its power; of its trap state no pending interrupt goes. -/
structure Core.Steady (k k' : Core) : Prop where
  x : k'.x = k.x
  v : k'.v = k.v
  wait : k'.wait = k.wait
  pw : k'.pw = k.pw
  ipend : ∀ i, k.tr.ipend.getLsbD i = true → k'.tr.ipend.getLsbD i = true

theorem Core.Steady.refl (k : Core) : k.Steady k := ⟨rfl, rfl, rfl, rfl, fun _ h => h⟩
theorem Core.Steady.trans {k l m : Core} (h : k.Steady l) (g : l.Steady m) : k.Steady m :=
  ⟨g.x.trans h.x, g.v.trans h.v, g.wait.trans h.wait, g.pw.trans h.pw, fun i hi => g.ipend i (h.ipend i hi)⟩
/-- A change of other registers than these. -/
theorem Core.Steady.of_tr {k k' : Core} (hx : k'.x = k.x) (hv : k'.v = k.v) (hw : k'.wait = k.wait) (hp : k'.pw = k.pw) (ht : k'.tr = k.tr) :
    k.Steady k' := ⟨hx, hv, hw, hp, fun i hi => by rw [ht]; exact hi⟩

theorem Core.steady_raise (k : Core) (i : Nat) : k.Steady (k.raise i) :=
  ⟨rfl, rfl, rfl, rfl, fun j hj => by simp [Core.raise, hj]⟩
theorem Core.steady_count (k : Core) (i n : Nat) : k.Steady (k.count i n) := by
  refine ⟨by simp, by simp, by simp, by simp, fun j hj => ?_⟩
  unfold Core.count
  split
  · exact hj
  dsimp only
  split
  · exact hj
  split
  · exact (Core.steady_raise _ 4).ipend j hj
  · exact hj
theorem Core.steady_fire (k : Core) (m : Nat) : k.Steady (k.fire m) := by
  unfold Core.fire
  dsimp only
  split
  · exact .of_tr rfl rfl rfl rfl rfl
  · refine Core.Steady.trans ?_ (Core.steady_raise _ 3)
    exact .of_tr rfl rfl rfl rfl rfl
theorem Core.steady_orFF (k : Core) (f : FF) : k.Steady (k.orFF f) := .of_tr rfl rfl rfl rfl rfl

/-- `t` holds the same parts in service as `s`, its cores are steady, and the host side holds and owes the same. -/
structure State.Steady (s t : State) : Prop where
  core : ∀ c, (s.core c).Steady (t.core c)
  time : t.time = s.time
  groups : t.place.groups = s.place.groups
  nets : t.nets = s.nets
  chans : t.host.chans = s.host.chans
  ports : t.host.ports = s.host.ports
  disables : t.host.disables = s.host.disables
  mirrors : t.host.mirrors = s.host.mirrors
  tasks : s.host.tasks = [] → t.host.tasks = []
  returning : s.host.returning = [] → t.host.returning = []
  hubs : t.pkg.hubs = s.pkg.hubs
  lead : t.pkg.lead = s.pkg.lead
  linksDown : t.pkg.linksDown = s.pkg.linksDown
  mtab : t.pkg.mtab = s.pkg.mtab
  retireWait : t.pkg.retireWait = s.pkg.retireWait
  inStack : ∀ n, (t.stack n).insvc = (s.stack n).insvc

theorem State.Steady.refl (s : State) : s.Steady s :=
  ⟨fun _ => .refl _, rfl, rfl, rfl, rfl, rfl, rfl, rfl, id, id, rfl, rfl, rfl, rfl, rfl, fun _ => rfl⟩

theorem State.Steady.trans (h : s.Steady t) (g : t.Steady u) : s.Steady u where
  core c := (h.core c).trans (g.core c)
  time := g.time.trans h.time
  groups := g.groups.trans h.groups
  nets := g.nets.trans h.nets
  chans := g.chans.trans h.chans
  ports := g.ports.trans h.ports
  disables := g.disables.trans h.disables
  mirrors := g.mirrors.trans h.mirrors
  tasks hs := g.tasks (h.tasks hs)
  returning hs := g.returning (h.returning hs)
  hubs := g.hubs.trans h.hubs
  lead := g.lead.trans h.lead
  linksDown := g.linksDown.trans h.linksDown
  mtab := g.mtab.trans h.mtab
  retireWait := g.retireWait.trans h.retireWait
  inStack n := (g.inStack n).trans (h.inStack n)

/-- A change of memory, of work, of counts or of the log. -/
theorem State.Steady.of_fields (hc : t.cores = s.cores) (htime : t.time = s.time) (hg : t.place.groups = s.place.groups) (hn : t.nets = s.nets)
    (hh : t.host = s.host) (hp : t.pkg = s.pkg) : s.Steady t := by
  have hcore (c : Nat) : t.core c = s.core c := by unfold State.core; rw [hc]
  refine ⟨fun c => ?_, htime, hg, hn, ?_, ?_, ?_, ?_, ?_, ?_, ?_, ?_, ?_, ?_, ?_, fun n => ?_⟩
  · rw [hcore]; exact .refl _
  all_goals simp [hh, hp, State.stack]

theorem State.Steady.upd (s : State) (c : Nat) {f : Core → Core} (hf : ∀ k : Core, k.Steady (f k)) : s.Steady (s.upd c f) := by
  refine ⟨fun d => ?_, rfl, rfl, rfl, rfl, rfl, rfl, rfl, id, id, rfl, rfl, rfl, rfl, rfl, fun _ => rfl⟩
  rcases s.core_upd_cases c d f with h | ⟨-, h⟩
  · rw [h]; exact .refl _
  · rw [h]; exact hf _

theorem State.Steady.foldl {α : Type} {f : State → α → State} (hf : ∀ (s : State) x, s.Steady (f s x)) (l : List α) (s : State) :
    s.Steady (l.foldl f s) := by
  induction l generalizing s with
  | nil => exact .refl s
  | cons x xs ih => exact (hf s x).trans (ih _)

/-- The same of steps that carry a result beside the state. -/
theorem State.Steady.foldl_fst {α β : Type} {f : State × β → α → State × β} (hf : ∀ (r : State × β) x, r.1.Steady (f r x).1) (l : List α)
    (r : State × β) : r.1.Steady (l.foldl f r).1 := by
  induction l generalizing r with
  | nil => exact .refl r.1
  | cons x xs ih => exact (hf r x).trans (ih _)

/-- The cores all changed at once. -/
theorem State.core_map (s : State) (f : Core → Core) (c : Nat) :
    ({ s with cores := s.cores.map f } : State).core c = if c < 160 then f (s.core c) else s.core c := by
  unfold State.core vget
  by_cases h : c < 160
  · rw [dif_pos h, dif_pos h, if_pos h, Vector.getElem_map]
  · rw [dif_neg h, dif_neg h, if_neg h]
theorem State.Steady.mapCores (s : State) {f : Core → Core} (hf : ∀ k : Core, k.Steady (f k)) : s.Steady { s with cores := s.cores.map f } := by
  refine ⟨fun c => ?_, rfl, rfl, rfl, rfl, rfl, rfl, rfl, id, id, rfl, rfl, rfl, rfl, rfl, fun _ => rfl⟩
  rw [State.core_map]
  split
  · exact hf _
  · exact .refl _

theorem State.steady_mapSaved (s : State) (f : Nat × Core × Mem → Nat × Core × Mem) : s.Steady (s.mapSaved f) :=
  ⟨fun _ => .refl _, rfl, rfl, rfl, rfl, rfl, rfl, rfl, fun h => by simp [State.mapSaved, h], fun h => by simp [State.mapSaved, h],
    rfl, rfl, rfl, rfl, rfl, fun _ => rfl⟩

theorem getD_modNth_cases {α : Type} (l : List α) (n m : Nat) (f : α → α) (d : α) :
    (modNth l n f).getD m d = l.getD m d ∨ n = m ∧ (modNth l n f).getD m d = f (l.getD m d) := by
  unfold modNth
  cases h : l[n]? with
  | none => exact .inl rfl
  | some k =>
    obtain ⟨hn, rfl⟩ := List.getElem?_eq_some_iff.1 h
    by_cases e : n = m
    · subst e
      exact .inr ⟨rfl, by simp [hn]⟩
    · exact .inl (by simp [List.getD_eq_getElem?_getD, List.getElem?_set_ne e])
theorem getD_modNth_self {α : Type} {l : List α} {n : Nat} (f : α → α) (d : α) (h : n < l.length) :
    (modNth l n f).getD n d = f (l.getD n d) := by
  simp [modNth, h]
theorem State.stack_updStack (s : State) (n m : Nat) (f : Stack → Stack) :
    (s.updStack n f).stack m = s.stack m ∨ n = m ∧ (s.updStack n f).stack m = f (s.stack m) := getD_modNth_cases _ n m f _
theorem State.Steady.updStack (s : State) (n : Nat) {f : Stack → Stack} (hf : ∀ k, (f k).insvc = k.insvc) : s.Steady (s.updStack n f) := by
  refine ⟨fun _ => .refl _, rfl, rfl, rfl, rfl, rfl, rfl, rfl, id, id, rfl, rfl, rfl, rfl, rfl, fun m => ?_⟩
  rcases s.stack_updStack n m f with h | ⟨-, h⟩
  · rw [h]
  · rw [h, hf]

/-! ### The log, memory and its poison -/

theorem steady_logAdd (s : State) (a b c d e f g h : Nat) : s.Steady (s.logAdd a b c d e f g h) := .of_fields rfl rfl rfl rfl rfl rfl
theorem steady_draw (s : State) : s.Steady s.draw := .of_fields rfl rfl rfl rfl rfl rfl
theorem steady_clearPoison (s : State) (a : Nat) : s.Steady (s.clearPoison a) := .of_fields rfl rfl rfl rfl rfl rfl
theorem steady_setPoison (s : State) (a : Nat) : s.Steady (s.setPoison a) := by
  unfold State.setPoison
  split
  · exact .refl s
  · exact .of_fields rfl rfl rfl rfl rfl rfl
theorem steady_setWork (s : State) (w : Work) : s.Steady (s.setWork w) := .of_fields rfl rfl rfl rfl rfl rfl
theorem steady_updPart (s : State) (p : Nat) (f : Part → Part) : s.Steady (s.updPart p f) := .of_fields rfl rfl rfl rfl rfl rfl

theorem steady_fireAll (s : State) (ms : List (Nat × Nat × Nat)) : s.Steady (s.fireAll ms) := by
  unfold State.fireAll
  refine State.Steady.foldl (fun s m => ?_) ms s
  refine State.Steady.trans ?_ (.upd _ m.1 fun k => k.steady_fire m.2.1)
  exact .of_fields rfl rfl rfl rfl rfl rfl
theorem steady_timeFires (s : State) (pa n : Nat) (ms : List (Nat × Nat × Nat)) : s.Steady (s.timeFires pa n ms) := by
  refine State.Steady.foldl (fun s m => ?_) ms s
  split
  · exact ⟨fun _ => .refl _, rfl, rfl, rfl, rfl, rfl, rfl, rfl, id, id, rfl, rfl, rfl, rfl, rfl, fun _ => rfl⟩
  · exact .refl s
theorem steady_fireOn (s : State) (pa n who : Nat) : s.Steady (s.fireOn pa n who) := by
  unfold State.fireOn
  split
  · exact .refl s
  · exact (steady_timeFires s pa n _).trans (steady_fireAll _ _)
theorem steady_writePhys (s : State) (pa : Nat) (bs : List Byte) (who : Nat) : s.Steady (s.writePhys pa bs who) := by
  unfold State.writePhys
  refine State.Steady.trans ?_ (steady_fireOn _ pa bs.length who)
  exact .of_fields rfl rfl rfl rfl rfl rfl
theorem steady_storeFar (s : State) (pa : Nat) (bs : List Byte) (who : Nat) : s.Steady (s.storeFar pa bs who).1 := by
  unfold State.storeFar
  dsimp only
  split
  · exact steady_writePhys s pa bs who
  refine State.Steady.foldl_fst (fun r p => ?_) _ (s, none)
  split
  · exact .refl _
  split
  · exact (steady_writePhys _ _ _ _).trans (steady_clearPoison _ _)
  split
  · exact .refl _
  · exact steady_writePhys _ _ _ _
theorem steady_countPart (s : State) (p i n : Nat) : s.Steady (s.countPart p i n) := by
  unfold State.countPart
  split
  · exact .refl s
  · dsimp only
    split
    · exact steady_updPart s p _
    · refine (steady_updPart s p _).trans (.mapCores _ fun k => ?_)
      split
      · split
        · refine Core.Steady.trans ?_ (Core.steady_raise _ 4)
          exact .of_tr rfl rfl rfl rfl rfl
        · exact .of_tr rfl rfl rfl rfl rfl
      · exact .refl k

/-! ### Errors that accesses meet (R446 to R451) -/

theorem steady_notifyPart (s : State) (p : Nat) : s.Steady (s.notifyPart p) := by
  refine State.Steady.trans (.mapCores s fun k => ?_) (State.steady_mapSaved _ _)
  split
  · exact k.steady_raise 5
  · exact .refl k
theorem steady_notifyAt (c pa : Nat) (s : State) : s.Steady (notifyAt c pa s) := by
  unfold notifyAt
  split
  · split
    · exact .refl s
    · exact steady_notifyPart s _
  · exact .foldl steady_notifyPart _ s
theorem steady_noteUE (c pa reason : Nat) (pc : Word) (s : State) (source : Nat) : s.Steady (noteUE c pa reason pc s source) := by
  unfold noteUE
  dsimp only
  split
  · exact steady_logAdd s _ _ _ _ _ _ _ _
  · exact (steady_logAdd s _ _ _ _ _ _ _ _).trans (steady_notifyAt _ _ _)
theorem steady_noteCE (c pa sym : Nat) (s : State) (source : Nat) : s.Steady (noteCE c pa sym s source) := by
  unfold noteCE
  split
  · exact State.Steady.trans (.upd s _ fun k => k.steady_count 22 1) (steady_logAdd _ _ _ _ _ _ _ _ _)
  · exact State.Steady.trans (.upd s _ fun k => k.steady_count 22 1) (steady_logAdd _ _ _ _ _ _ _ _ _)
  · exact .refl s
theorem steady_noteTileCE (c x bit : Nat) (s : State) : s.Steady (noteTileCE c x bit s) :=
  State.Steady.trans (.upd s _ fun k => k.steady_count 23 1) (steady_logAdd _ _ _ _ _ _ _ _ _)
theorem steady_notifyLine (pa : Nat) (s : State) : s.Steady (notifyLine pa s) := .foldl steady_notifyPart _ s

theorem steady_beginSparing (n bank row : Nat) (s : State) : s.Steady (beginSparing n bank row s) := by
  unfold beginSparing
  extract_lets k busy
  split
  · exact .refl s
  split
  · exact steady_logAdd s _ _ _ _ _ _ _ _
  split
  · exact .updStack s n fun _ => rfl
  · exact .updStack s n fun _ => rfl
theorem steady_markRow (n bank row sym : Nat) (s : State) : s.Steady (markRow n bank row sym s) := by
  unfold markRow
  split
  · exact .updStack s n fun _ => rfl
  · split
    · exact steady_beginSparing n bank row s
    · exact .refl s
theorem steady_lineCE (n : Nat) (sram : Bool) (line sym source : Nat) (s : State) : s.Steady (lineCE n sram line sym source s) := by
  unfold lineCE
  extract_lets _ _ _ _ _ put
  split
  extract_lets s1 s2
  have h1 : s.Steady s1 := .updStack s n fun _ => rfl
  have hput (tm cnt : Nat) (u : State) : u.Steady (put tm cnt u) := .updStack u n fun _ => rfl
  have h2 : s.Steady s2 := by
    refine h1.trans ?_
    unfold s2
    split
    · exact (hput _ _ s1).trans (steady_logAdd _ _ _ _ _ _ _ _ _)
    · exact hput _ _ s1
  split
  · exact h2
  · exact h2.trans (steady_markRow n _ _ sym s2)
theorem steady_lineUE (n : Nat) (sram : Bool) (line source : Nat) (pc : Word) (s : State) : s.Steady (lineUE n sram line source pc s) := by
  unfold lineUE
  extract_lets _ pa
  split
  extract_lets s1
  have h1 : s.Steady s1 := (steady_setPoison s pa).trans (.updStack _ n fun _ => rfl)
  exact (h1.trans (steady_logAdd _ _ _ _ _ _ _ _ _)).trans (steady_notifyLine pa _)
theorem steady_linePoisoned (n : Nat) (sram : Bool) (line source : Nat) (pc : Word) (s : State) :
    s.Steady (linePoisoned n sram line source pc s) := by
  unfold linePoisoned
  extract_lets pa s1
  have h1 : s.Steady s1 := steady_logAdd s _ _ _ _ _ _ _ _
  split
  · exact h1
  · exact (h1.trans (steady_setPoison s1 pa)).trans (steady_notifyLine pa _)

theorem steady_meetUnit (c : Nat) (pc : Word) (source a : Nat) (err : WordErr) (s : State) : s.Steady (meetUnit c pc source a err s).1 := by
  unfold meetUnit
  split <;> dsimp only
  · exact steady_linePoisoned _ _ _ _ _ s
  · exact steady_lineCE _ _ _ _ _ s
  · exact steady_lineUE _ _ _ _ _ s
  · exact steady_noteUE _ _ _ _ s _
  · exact steady_noteCE _ _ _ s _
  · exact (steady_setPoison s a).trans (steady_noteUE _ _ _ _ _ _)
  · exact .refl s
theorem steady_meetUnits (c : Nat) (pc : Word) (source : Nat) (errs : HomeErrs) (seen : List (Nat × Option Byte)) (us : List Nat) (s : State) :
    s.Steady (meetUnits c pc source errs seen us s).1 := by
  refine State.Steady.foldl_fst (fun r a => ?_) us (s, none)
  split
  · exact .refl _
  · exact steady_meetUnit _ _ _ _ _ _
theorem steady_dropWriteback (a : Nat) (s : State) : s.Steady (dropWriteback a s) := by
  unfold dropWriteback
  split
  · split
    · exact .updStack s _ fun _ => rfl
    · exact .refl s
  · exact .refl s
theorem steady_putUnits (c : Nat) (pc : Word) (errs : HomeErrs) (seen : List (Nat × Option Byte)) (pa : Nat) (bs : List Byte) (s : State) :
    s.Steady (putUnits c pc errs seen pa bs s).1 := by
  unfold putUnits
  dsimp only
  split
  · exact steady_writePhys s pa bs c
  refine State.Steady.foldl_fst (fun r p => ?_) _ (s, none)
  split
  · exact ((steady_writePhys _ _ _ _).trans (steady_clearPoison _ _)).trans (steady_dropWriteback _ _)
  · have hm := steady_meetUnits c pc 2 errs seen [p.1 / ecUnit pa * ecUnit pa] r.1
    split
    · next s' he => rw [he] at hm; exact (hm.trans (steady_writePhys _ _ _ _)).trans (steady_dropWriteback _ _)
    · next s' e he => rw [he] at hm; exact hm

/-! ### Far work at its home (R76, R353, R448) -/

theorem steady_updOwner (s : State) (c g : Nat) {f : Core → Core} (hf : ∀ k : Core, k.Steady (f k)) : s.Steady (s.updOwner c g f) := by
  unfold State.updOwner
  split
  · exact State.steady_mapSaved s _
  · exact .upd s c hf
theorem steady_writeVa (s : State) (part : Nat) (p : Priv) (va : Nat) (bs : List Byte) (who : Nat) :
    s.Steady (s.writeVa part p va bs who).1 := by
  refine State.Steady.foldl_fst (fun r q => ?_) _ (s, none)
  split
  · exact .refl _
  · exact steady_storeFar _ _ _ _
theorem steady_getVa (c : Nat) (pc : Word) (errs : HomeErrs) (seen : List (Nat × Option Byte)) (part : Nat) (p : Priv) (wr : Bool) (va n : Nat)
    (s : State) : s.Steady (getVa c pc errs seen part p wr va n s).1 := by
  unfold getVa
  have hfold := State.Steady.foldl_fst (f := fun (r : State × Option Byte) (q : Nat × Nat) =>
    match r.1.translate part p true wr q.1 with
    | .error e => (r.1, r.2.or (some e))
    | .ok pa =>
      let m := meetUnits c pc 1 errs seen (unitsOf pa q.2) r.1
      (m.1, r.2.or m.2)) (fun r q => by
        dsimp only
        split
        · exact .refl r.1
        · exact steady_meetUnits c pc 1 errs seen _ r.1) (pagesOf va n) (s, none)
  dsimp only
  split <;> exact hfold

end Sys2Proof.Machine
end

section
/-! SUPPORT. What the work of a core that goes, the loss of homes and the records owed to hosts leave as they were (R76, R353, R436, R437,
R386). -/

namespace Sys2Proof.Machine

variable {s t u : State}

/-! ### Far work that is applied at its home (R76, R353) -/

theorem steady_readWork (w : Work) (errs : HomeErrs) (wr : Bool) (s : State) : s.Steady (readWork w errs wr s).1 := by
  refine State.Steady.foldl_fst (fun r q => ?_) w.runs (s, Except.ok [])
  exact steady_getVa _ _ _ _ _ _ _ _ _ r.1
theorem steady_putVa (c : Nat) (pc : Word) (errs : HomeErrs) (seen : List (Nat × Option Byte)) (part : Nat) (p : Priv) (va : Nat)
    (bs : List Byte) (s : State) : s.Steady (putVa c pc errs seen part p va bs s).1 := by
  refine State.Steady.foldl_fst (fun r q => ?_) _ (s, none)
  split
  · exact .refl _
  · exact steady_putUnits _ _ _ _ _ _ _
theorem steady_writeWork (w : Work) (errs : HomeErrs) (puts : List (Word × List Byte)) (s : State) : s.Steady (writeWork w errs puts s).1 := by
  refine State.Steady.foldl_fst (fun r q => ?_) puts (s, none)
  exact steady_putVa _ _ _ _ _ _ _ _ r.1
theorem steady_sampleAccess (s : State) (part pa : Nat) : s.Steady (s.sampleAccess part pa) := by
  unfold State.sampleAccess
  split
  · split
    · exact .refl s
    split
    · exact .refl s
    dsimp only
    split
    · exact (steady_updPart s part _).trans (steady_countPart _ _ _ _)
    · exact steady_updPart s part _
  · exact .refl s
theorem steady_sampleWork (w : Work) (s : State) : s.Steady (sampleWork w s) := by
  unfold sampleWork
  split
  · exact .refl s
  refine State.Steady.foldl_fst (fun r q => ?_) _ (s, [])
  split
  · exact .refl _
  split
  · exact steady_sampleAccess _ _ _
  · exact .refl _
theorem steady_applyWork (w : Work) (errs : HomeErrs) (s : State) : s.Steady (applyWork w errs s) := by
  unfold applyWork
  extract_lets s1 reading writing fresh s2
  have h1 : s.Steady s1 := steady_sampleWork w s
  have hr : s.Steady reading := by
    refine h1.trans ?_
    have h := steady_readWork w errs false s1
    unfold reading
    split
    · next he => rw [he] at h; exact h.trans (steady_setWork _ _)
    · next he => rw [he] at h; exact h.trans (steady_setWork _ _)
  have hw (puts : List (Word × List Byte)) (t : State) : t.Steady (writing puts t) := by
    have h := steady_writeWork w errs puts t
    unfold writing
    split
    · next he => rw [he] at h; exact h.trans (steady_setWork _ _)
    · next he => rw [he] at h; exact h.trans (steady_setWork _ _)
  split
  · exact h1.trans (hw _ _)
  · exact h1.trans (hw _ _)
  · refine h1.trans ?_
    split
    next puts f _ =>
    have h2 : s1.Steady s2 := .of_fields rfl rfl rfl rfl rfl rfl
    refine h2.trans ?_
    split
    · exact (steady_updOwner _ _ _ fun k => k.steady_orFF _).trans (steady_setWork _ _)
    · refine State.Steady.trans ?_ ((steady_updOwner _ w.core w.group fun k => k.steady_orFF f).trans (hw puts _))
      split
      · exact steady_noteTileCE _ _ _ _
      · exact .refl _
  · next v _ =>
    refine h1.trans ?_
    split
    · exact steady_setWork _ _
    next pa _ =>
    dsimp only
    have h := steady_putUnits w.core w.pc errs w.seen pa (leBytes 8 ((s1.mem.nat pa 8 + v.toNat) % 2 ^ 64)) s1
    split
    · next he => rw [he] at h; exact h.trans (steady_setWork _ _)
    · next he => rw [he] at h; exact h.trans (steady_setWork _ _)
  · exact hr
  · exact hr
  · exact hr
  · exact h1

/-! ### A core that goes (R303, R326, R334, R436) -/

theorem steady_settleInFlight (c : Nat) (s : State) : s.Steady (settleInFlight c s) := by
  unfold settleInFlight
  refine (State.Steady.foldl (fun s w => ?_) _ s).trans (.foldl (fun s sl => .foldl (fun s q => ?_) _ s) _ _)
  · split
    · exact (steady_draw s).trans (steady_applyWork w .none _)
    · exact steady_draw s
  · split
    · exact .refl s
    split
    · exact (steady_draw s).trans (steady_writeVa _ _ _ _ _ _)
    · exact steady_draw s
theorem steady_failSignals (c : Nat) (s : State) : s.Steady (failSignals c s) := .of_fields rfl rfl rfl rfl rfl rfl
theorem steady_updSlot (s : State) (c i : Nat) (f : Slot → Slot) : s.Steady (s.updSlot c i f) := .upd s c fun _ => .of_tr rfl rfl rfl rfl rfl
theorem steady_discard (s : State) (t i n : Nat) : s.Steady (s.discard t i n) :=
  (steady_updSlot s t i _).trans (.upd _ t fun k => k.steady_count 20 n)
theorem steady_dropReceiver (t i : Nat) (inflight : List Piece) (err : Option FailRec) (s : State) :
    s.Steady (dropReceiver t i inflight err s) := by
  unfold dropReceiver
  dsimp only
  split
  · exact steady_updSlot s t i _
  split
  · exact (steady_discard s t i _).trans (steady_updSlot _ t i _)
  · exact .refl s
theorem steady_dropPeers (c : Nat) (s : State) : s.Steady (dropPeers c s) := by
  refine .foldl (fun s t => .foldl (fun s i => ?_) _ s) _ s
  dsimp only
  split
  · exact .refl s
  · split
    · exact steady_updSlot s t i _
    · exact .refl s
  · split
    · exact steady_dropReceiver _ _ _ _ s
    · exact .refl s
  · exact .refl s
theorem steady_clearTake (c : Nat) (s : State) : s.Steady (clearTake c s) := .of_fields rfl rfl rfl rfl rfl rfl

/-! ### Homes that are lost (R28, R346, R437) -/

theorem steady_failTakes (homes : List Nat) (s : State) : s.Steady (failTakes homes s) := by
  unfold failTakes
  refine State.Steady.trans ?_ (.foldl (fun s t => ?_) _ _)
  · exact .of_fields rfl rfl rfl rfl rfl rfl
  · split
    · exact steady_setWork s _
    · exact .refl s
theorem steady_movePage (s : State) (old new : Nat) : s.Steady (s.movePage old new) := by
  unfold State.movePage
  refine State.Steady.trans ?_ (steady_fireOn _ old 0x10000 160)
  exact .of_fields rfl rfl rfl rfl rfl rfl
theorem steady_poisonHome (s : State) (h : Nat) : s.Steady (s.poisonHome h) := by
  unfold State.poisonHome
  dsimp only
  split
  · exact .refl s
  · exact .of_fields rfl rfl rfl rfl rfl rfl
theorem steady_losePage (h : Nat) (s : State) : s.Steady (losePage h s) := by
  unfold losePage
  refine (steady_poisonHome s h).trans (State.Steady.trans ?_ (.foldl steady_notifyPart _ _))
  exact .of_fields rfl rfl rfl rfl rfl rfl
theorem steady_countMove (s : State) (p old new : Nat) : s.Steady (s.countMove p old new) := by
  unfold State.countMove
  split
  · split
    · exact steady_countPart s p 48 1
    split
    · exact steady_countPart s p 49 1
    · exact .refl s
  · exact .refl s
theorem steady_failLost (h : Nat) (s : State) : s.Steady (failLost h s) := by
  refine State.Steady.trans (.foldl (fun s t => ?_) _ s) (steady_failTakes [h] _)
  split
  · exact steady_noteUE _ _ _ _ s _
  · exact .refl s
theorem steady_spillHome (h : Nat) (q : Page) (s : State) : s.Steady (spillHome h q s) := by
  unfold spillHome
  split
  · next new _ =>
    refine State.Steady.trans ?_ ((steady_losePage new _).trans (steady_failLost new _))
    split
    · exact (steady_movePage s h new).trans (steady_countMove _ _ _ _)
    · exact steady_movePage s h new
  · refine State.Steady.trans ?_ ((steady_losePage _ _).trans (steady_failLost h _))
    exact .of_fields rfl rfl rfl rfl rfl rfl
theorem steady_loseHome (h : Nat) (s : State) : s.Steady (loseHome h s) := by
  unfold loseHome
  split
  · exact .refl s
  split
  · exact steady_spillHome h _ s
  dsimp only
  split
  · exact steady_spillHome h _ s
  · next new _ =>
    refine (steady_movePage s h new).trans ?_
    exact .of_fields rfl rfl rfl rfl rfl rfl
theorem steady_loseRange (base n : Nat) (s : State) : s.Steady (loseRange base n s) := by
  unfold loseRange
  refine State.Steady.trans ?_ (.foldl (fun s h => steady_loseHome h s) _ _)
  exact .of_fields rfl rfl rfl rfl rfl rfl

/-! ### What the cores left in service allow, and a core's descriptors (R123, R393) -/

theorem steady_lowerMinsOf (ps : List Nat) (s : State) : s.Steady (lowerMinsOf ps s) := by
  induction ps generalizing s with
  | nil => exact .refl s
  | cons p ps ih =>
    rw [lowerMinsOf]
    dsimp only
    split
    · split
      · exact ih s
      · exact ((steady_updPart s p _).trans (steady_logAdd _ _ _ _ _ _ _ _ _)).trans (ih _)
    · exact ih s
theorem steady_lowerMins (s : State) : s.Steady (lowerMins s) := steady_lowerMinsOf _ s
theorem steady_putDesc (c n haddr hsp flags extra : Nat) (s : State) : s.Steady (putDesc c n haddr hsp flags extra s) :=
  .of_fields rfl rfl rfl rfl rfl rfl
theorem steady_installDescs (c : Nat) (sdesc : List (Nat × Vector Word 4)) (s : State) : s.Steady (installDescs c sdesc s) := by
  unfold installDescs
  refine State.Steady.trans ?_ ((State.Steady.foldl (fun s d => steady_putDesc _ _ _ _ _ _ s) _ _).trans
    (.foldl (fun s d => steady_putDesc _ _ _ _ _ _ s) _ _))
  exact .of_fields rfl rfl rfl rfl rfl rfl

/-! ### What is owed to hosts (R386) -/

theorem steady_purge (ch : Nat) (s : State) : s.Steady (purge ch s) := by
  unfold purge
  split
  · exact .refl s
  split
  · exact .refl s
  · exact ⟨fun _ => .refl _, rfl, rfl, rfl, rfl, rfl, rfl, rfl, fun h => by simp [h], id, rfl, rfl, rfl, rfl, rfl, fun _ => rfl⟩
theorem steady_writeDcb (r : Nat) (s : State) : s.Steady (writeDcb r s) := by
  unfold writeDcb
  split
  · exact .refl s
  split
  dsimp only
  split
  · exact .refl s
  · exact steady_writePhys s _ _ _

end Sys2Proof.Machine
end

section
/-! SUPPORT. A part that fails while no group, no task and no net stands and no core waits: what leaving and entering service and the loss of
cores, dies and stacks leave as it was (R24, R28 to R31, R435 to R438). -/

namespace Sys2Proof.Machine

variable {s t u : State}

/-! ### Rings that owe nothing -/

/-- No ring to a host has a record waiting, and no channel is closing. -/
structure State.RingsIdle (s : State) : Prop where
  chans : ∀ c ∈ s.host.chans, c.num < 256 ∧ c.ring.waiting = [] ∧ c.closing = none
  ports : ∀ p ∈ s.host.ports, ∀ g, p.ring = some g → g.waiting = []

theorem State.Steady.ringsIdle (h : s.Steady t) (g : s.RingsIdle) : t.RingsIdle := ⟨h.chans ▸ g.chans, h.ports ▸ g.ports⟩

theorem State.RingsIdle.chan (h : s.RingsIdle) {n : Nat} {c : Chan} (hc : s.chan n = some c) : c.ring.waiting = [] ∧ c.closing = none :=
  (h.chans c (List.mem_of_find?_eq_some hc)).2
theorem State.RingsIdle.ring (h : s.RingsIdle) (r p : Nat) (g : Ring) (hr : s.ring r = some (p, g)) : g.waiting = [] := by
  unfold State.ring at hr
  split at hr
  · obtain ⟨c, hc, he⟩ := Option.map_eq_some_iff.1 hr
    cases he
    exact (h.chan hc).1
  · obtain ⟨g', hg, he⟩ := Option.map_eq_some_iff.1 hr
    obtain ⟨-, rfl⟩ := Prod.mk.inj he
    unfold State.port at hg
    by_cases hp : r - 256 < s.host.ports.length
    · rw [List.getD_eq_getElem _ _ hp] at hg
      exact h.ports _ (List.getElem_mem hp) g' hg
    · rw [List.getD_eq_default _ _ (Nat.le_of_not_lt hp)] at hg
      cases hg

/-- Steps that are steady where the rings owe nothing. -/
theorem State.Steady.foldl_idle {α : Type} {f : State → α → State} (hf : ∀ (s : State) x, s.RingsIdle → s.Steady (f s x)) (l : List α)
    (h : s.RingsIdle) : s.Steady (l.foldl f s) := by
  induction l generalizing s with
  | nil => exact .refl s
  | cons x xs ih => exact (hf s x h).trans (ih ((hf s x h).ringsIdle h))

/-- With nothing owed, only slots are freed and the completion blocks written (R386). -/
theorem steady_pump (h : s.RingsIdle) : s.Steady (pump s) := by
  have h1 := State.Steady.foldl_idle (f := fun (s : State) n => closeDone n (purge n (flushRing n
      (match s.ring n with | some (_, g) => g.waiting.length + 1 | none => 0) s))) (fun s n hs => by
    rw [flushRing_idle n _ (hs.ring n)]
    rw [closeDone_idle n fun x hx => (((steady_purge n s).ringsIdle hs).chan hx).2]
    exact steady_purge n s) (s.host.chans.map (·.num)) h
  have h2 := State.Steady.foldl_idle (f := fun (s : State) p => flushRing (256 + p)
      (match s.ring (256 + p) with | some (_, g) => g.waiting.length + 1 | none => 0) s) (fun s p hs => by
    rw [flushRing_idle _ _ (hs.ring _)]
    exact .refl s) (List.range 4) (h1.ringsIdle h)
  exact (h1.trans h2).trans (.foldl (fun s r => steady_writeDcb r s) _ _)

theorem State.Steady.noWaits (h : s.Steady t) (g : s.NoWaits) : t.NoWaits := fun c hc => ((h.core c).wait).trans (g c hc)

/-- What a host command answers where nothing waits and no net comes to be poisoned. -/
theorem hostDone_idle {s0 : State} (h0 : s0.NoWaits) (hw : s.NoWaits) (hr : s.RingsIdle) (hb : s.host.returning = [])
    (hn : ∀ t ∈ s.nets, t.dirtyNeed = true ∨ t.lost = true ∨ s.netPoisoned t = false) :
    ∃ t, hostDone s0 s = done s0 t ∧ s.Steady t := by
  refine ⟨_, hostDone_noWaits hb hn h0 ((steady_pump hr).noWaits hw), ?_⟩
  split
  · exact (steady_pump hr).trans (steady_logAdd _ _ _ _ _ _ _ _ _)
  · exact steady_pump hr

/-! ### A part without groups, tasks and nets -/

/-- No core waits, no group, no task and no net stands, and nothing is owed to a host or put off. -/
structure State.Bare (s : State) : Prop where
  waits : ∀ c, (s.core c).wait = none
  groups : s.place.groups = []
  nets : s.nets = []
  tasks : s.host.tasks = []
  returning : s.host.returning = []
  retire : s.pkg.retireWait = []
  rings : s.RingsIdle

theorem State.NoWaits.all (h : s.NoWaits) (c : Nat) : (s.core c).wait = none := by
  by_cases hc : c < 160
  · exact h c hc
  · unfold State.core vget
    rw [dif_neg hc]; rfl

theorem State.HostQuiet.bare (h : s.HostQuiet) (hg : s.place.groups = []) (ht : s.host.tasks = []) (hn : s.nets = []) : s.Bare where
  waits := h.waits.all
  groups := hg
  nets := hn
  tasks := ht
  returning := h.idle.back
  retire := h.idle.retire
  rings := ⟨h.idle.chans, h.idle.ports⟩

theorem State.Steady.bare (h : s.Steady t) (b : s.Bare) : t.Bare where
  waits c := (h.core c).wait.trans (b.waits c)
  groups := h.groups.trans b.groups
  nets := h.nets.trans b.nets
  tasks := h.tasks b.tasks
  returning := h.returning b.returning
  retire := h.retireWait.trans b.retire
  rings := h.ringsIdle b.rings

/-- `t` is bare, and has the time, the links, the hubs and the lead of `s`; no port has become active. -/
structure State.Near (s t : State) : Prop where
  bare : t.Bare
  time : t.time = s.time
  linksDown : t.pkg.linksDown = s.pkg.linksDown
  hubs : t.pkg.hubs = s.pkg.hubs
  lead : t.pkg.lead = s.pkg.lead
  ports : ∀ p, (t.port p).st = .active → (s.port p).st = .active

theorem State.Near.refl (b : s.Bare) : s.Near s := ⟨b, rfl, rfl, rfl, rfl, fun _ => id⟩
theorem State.Near.trans (h : s.Near t) (g : t.Near u) : s.Near u :=
  ⟨g.bare, g.time.trans h.time, g.linksDown.trans h.linksDown, g.hubs.trans h.hubs, g.lead.trans h.lead, fun p hp => h.ports p (g.ports p hp)⟩
theorem State.Steady.near (h : s.Steady t) (b : s.Bare) : s.Near t :=
  ⟨h.bare b, h.time, h.linksDown, h.hubs, h.lead, fun p hp => by unfold State.port at *; rwa [h.ports] at hp⟩
theorem State.Near.foldl {α : Type} {f : State → α → State} (hf : ∀ (s : State) x, s.Bare → s.Near (f s x)) (l : List α) (b : s.Bare) :
    s.Near (l.foldl f s) := by
  induction l generalizing s with
  | nil => exact .refl b
  | cons x xs ih => exact (hf s x b).trans (ih (hf s x b).bare)

/-- A change of registers of the package other than these. -/
theorem State.Bare.near_pkg (b : s.Bare) (p : Package) (hl : p.linksDown = s.pkg.linksDown) (hh : p.hubs = s.pkg.hubs)
    (hd : p.lead = s.pkg.lead) (hr : p.retireWait = s.pkg.retireWait) : s.Near { s with pkg := p } :=
  ⟨⟨b.waits, b.groups, b.nets, b.tasks, b.returning, hr.trans b.retire, ⟨b.rings.chans, b.rings.ports⟩⟩, rfl, hl, hh, hd, fun _ => id⟩
theorem State.Bare.near_chg (b : s.Bare) : s.Near s.chg := b.near_pkg _ rfl rfl rfl rfl
theorem State.Bare.near_setMtab (b : s.Bare) (d : Nat) (st : BitVec 2) : s.Near (setMtab d st s) := b.near_pkg _ rfl rfl rfl rfl
theorem State.Bare.near_updStack (b : s.Bare) (n : Nat) (f : Stack → Stack) : s.Near (s.updStack n f) := b.near_pkg _ rfl rfl rfl rfl
/-- A change of one core that leaves it without a wait. -/
theorem State.Bare.near_upd (b : s.Bare) (c : Nat) {f : Core → Core} (hf : ∀ k : Core, k.wait = none → (f k).wait = none) :
    s.Near (s.upd c f) := by
  refine ⟨⟨fun d => ?_, b.groups, b.nets, b.tasks, b.returning, b.retire, ⟨b.rings.chans, b.rings.ports⟩⟩, rfl, rfl, rfl, rfl, fun _ => id⟩
  rcases s.core_upd_cases c d f with h | ⟨-, h⟩
  · rw [h]; exact b.waits d
  · rw [h]; exact hf _ (b.waits d)
theorem near_logAdd (b : s.Bare) (i j k l m n o p : Nat) : s.Near (s.logAdd i j k l m n o p) := (steady_logAdd s _ _ _ _ _ _ _ _).near b

/-- What a host command answers from and to a bare state. -/
theorem hostDone_bare {s0 : State} (h0 : s0.NoWaits) (b : s.Bare) : ∃ t, hostDone s0 s = done s0 t ∧ s.Steady t :=
  hostDone_idle h0 (fun c _ => b.waits c) b.rings b.returning (by simp [b.nets])

/-! ### A core leaves service (R326, R334, R436) -/

/-- A core out of service: it waits for nothing, has nothing under way, and stands without power. -/
def Core.outOfService (st : CoreSvc) (k : Core) : Core :=
  { k with
    wait := none
    slots := Core.reset.slots
    arr := { k.arr with queue := [], upd := [] }
    cnt := { k.cnt with cc := Vector.replicate 16 0 }
    pw := { k.pw with svc := st, ring := false, volt := 0, vset := 0, target := 0, boostTill := none, hotSince := none } }

theorem steady_updSaved (s : State) (c : Nat) (f : Core → Core) : s.Steady (s.updSaved c f) := s.steady_mapSaved _
/-- The removal of a core that does not wait from its barriers ends no wait. -/
theorem steady_removeBars {c : Nat} (h : (s.core c).wait = none) : s.Steady (removeBars c s) := by
  unfold removeBars
  extract_lets k old s1 clear remove
  have h1 : s.Steady s1 := .foldl (fun s ch => steady_logAdd s _ _ _ _ _ _ _ _) _ s
  have hr : s1.Steady (remove s1) := by
    unfold remove
    refine State.Steady.trans ?_ (((State.Steady.upd _ c fun k => ?_)).trans (steady_updSaved _ c clear))
    · exact .of_fields rfl rfl rfl rfl rfl rfl
    · exact .of_tr rfl rfl rfl rfl rfl
  have hw1 : (s1.core c).wait = none := (h1.core c).wait.trans h
  rw [settleWaits_none [c] remove (by simpa using hw1) (by simpa using (hr.core c).wait.trans hw1)]
  exact h1.trans hr

theorem leaveService_eq (c : Nat) (st : CoreSvc) (h : (s.core c).wait = none) : ∃ t, s.Steady t ∧
    leaveService c st s = if isHub c then t.upd c (Core.outOfService st) else setMtab c 2 (t.upd c (Core.outOfService st)) := by
  have h1 : s.Steady (removeBars c (clearTake c s)) := (steady_clearTake c s).trans (steady_removeBars h)
  refine ⟨{ removeBars c (clearTake c s) with
    works := (removeBars c (clearTake c s)).works.filter fun w => w.core != c
    armed := (removeBars c (clearTake c s)).armed.filter fun a => a.1 != c }, h1.trans ?_, rfl⟩
  exact .of_fields rfl rfl rfl rfl rfl rfl

theorem near_leaveService (b : s.Bare) (c : Nat) (st : CoreSvc) : s.Near (leaveService c st s) := by
  obtain ⟨t, ht, he⟩ := leaveService_eq c st (b.waits c)
  have hu := (ht.near b).trans ((ht.bare b).near_upd c (f := Core.outOfService st) fun _ _ => rfl)
  rw [he]
  split
  · exact hu
  · exact hu.trans (hu.bare.near_setMtab c 2)

/-- The power of each core once `c` has left service. -/
theorem leaveService_pw (b : s.Bare) {c : Nat} (hc : c < 160) (st : CoreSvc) :
    ((leaveService c st s).core c).pw.svc = st ∧ ∀ d, d ≠ c → ((leaveService c st s).core d).pw = (s.core d).pw := by
  obtain ⟨t, ht, he⟩ := leaveService_eq c st (b.waits c)
  have hcore (d : Nat) : (leaveService c st s).core d = (t.upd c (Core.outOfService st)).core d := by
    rw [he]
    split <;> rfl
  refine ⟨?_, fun d hd => ?_⟩
  · rw [hcore, State.core_upd_self c _ hc]; rfl
  · rw [hcore, State.core_upd_ne _ hd.symm]; exact (ht.core d).pw

theorem steady_noteRetired (c : Nat) (planned : Bool) (s : State) : s.Steady (noteRetired c planned s) := steady_logAdd s _ _ _ _ _ _ _ _

/-- A core in no group is lost: what it had in flight is settled, and it leaves service. -/
theorem loseCore_eq (b : s.Bare) (c : Nat) (st : CoreSvc) : ∃ t, s.Steady t ∧ loseCore c st s = leaveService c st t := by
  refine ⟨dropPeers c (failSignals c (settleInFlight c s)),
    ((steady_settleInFlight c s).trans (steady_failSignals c _)).trans (steady_dropPeers c _), ?_⟩
  unfold loseCore
  rw [b.groups]; rfl
theorem near_loseCore (b : s.Bare) (c : Nat) (st : CoreSvc) : s.Near (loseCore c st s) := by
  obtain ⟨t, ht, he⟩ := loseCore_eq b c st
  rw [he]
  exact (ht.near b).trans (near_leaveService (ht.bare b) c st)
theorem loseCore_pw (b : s.Bare) {c : Nat} (hc : c < 160) (st : CoreSvc) :
    ((loseCore c st s).core c).pw.svc = st ∧ ∀ d, d ≠ c → ((loseCore c st s).core d).pw = (s.core d).pw := by
  obtain ⟨t, ht, he⟩ := loseCore_eq b c st
  obtain ⟨hsvc, hpw⟩ := leaveService_pw (ht.bare b) hc st
  rw [he]
  exact ⟨hsvc, fun d hd => (hpw d hd).trans (ht.core d).pw⟩

/-! ### A spare takes a core's place (R31) -/

theorem near_enterService (b : s.Bare) (n : Nat) : s.Near (enterService n s) := by
  unfold enterService
  extract_lets f s1
  have h1 : s.Near s1 := by
    refine b.near_upd n fun k hk => ?_
    dsimp only
    split
    · rfl
    · exact hk
  have h2 : s1.Near { s1 with pkg := { s1.pkg with mtab := modNth s1.pkg.mtab n fun m => { m with st := 0 } } } :=
    h1.bare.near_pkg _ rfl rfl rfl rfl
  exact (h1.trans h2).trans ((steady_installDescs n [] _).near h2.bare)

theorem enterService_svc {n : Nat} (hn : n < 160) : ((enterService n s).core n).pw.svc = .inService ∧
    ∀ d, d ≠ n → ((enterService n s).core d).pw = (s.core d).pw := by
  unfold enterService
  extract_lets f s1
  have h := steady_installDescs n [] { s1 with pkg := { s1.pkg with mtab := modNth s1.pkg.mtab n fun m => { m with st := 0 } } }
  refine ⟨?_, fun d hd => ?_⟩
  · rw [(h.core n).pw]
    change (s1.core n).pw.svc = .inService
    unfold s1
    rw [State.core_upd_self n _ hn]
    dsimp only
    split <;> rfl
  · rw [(h.core d).pw]
    change (s1.core d).pw = _
    unfold s1
    rw [State.core_upd_ne _ hd.symm]

theorem near_spareIn (b : s.Bare) (c : Nat) : s.Near (spareIn c s) := by
  unfold spareIn
  split
  · exact (near_enterService b _).trans (near_logAdd (near_enterService b _).bare _ _ _ _ _ _ _ _)
  · exact .refl b

/-! ### Hard faults of cores without a group (R436) -/

theorem coreFaults_bare (b : s.Bare) (cs : List Nat) (planned : Bool) : coreFaults cs planned s =
    lowerMins (seatStandIns (cs.foldl (fun s c => spareIn c s) (cs.foldl (fun s c => loseRange (sliceBase c) Config.sliceBytes s)
      (cs.foldl (fun s c => (loseCore c .retired (noteRetired c planned s)).chg) s)))) := by
  have hfold (l : List Nat) (r : State) : l.foldl (fun (r : State × List (Nat × Nat)) c =>
      ((loseCore c .retired (noteRetired c planned r.1)).chg, r.2)) (r, []) =
      (l.foldl (fun s c => (loseCore c .retired (noteRetired c planned s)).chg) r, []) := by
    induction l generalizing r with
    | nil => rfl
    | cons c l ih => exact ih _
  unfold coreFaults
  simp only [b.groups, List.filter_nil, List.map_nil, List.append_nil, List.any_nil, Bool.not_false, List.filter_true, hfold, List.foldl_nil]

theorem seatStandIns_bare (b : s.Bare) : seatStandIns s = s := by
  unfold seatStandIns
  simp only [b.groups, List.foldl_nil]

theorem near_coreFaults (b : s.Bare) (cs : List Nat) (planned : Bool) : s.Near (coreFaults cs planned s) := by
  rw [coreFaults_bare b]
  have h1 := State.Near.foldl (f := fun s c => (loseCore c .retired (noteRetired c planned s)).chg) (fun s c b => by
    have h := (steady_noteRetired c planned s).near b
    have g := near_loseCore h.bare c .retired
    exact (h.trans g).trans g.bare.near_chg) cs b
  have h2 := h1.trans ((State.Steady.foldl (fun s c => steady_loseRange (sliceBase c) Config.sliceBytes s) cs _).near h1.bare)
  have h3 := h2.trans (State.Near.foldl (f := fun s c => spareIn c s) (fun s c b => near_spareIn b c) cs h2.bare)
  rw [seatStandIns_bare h3.bare]
  exact h3.trans ((steady_lowerMins _).near h3.bare)

end Sys2Proof.Machine
end

section
/-! SUPPORT. Failures of cores, stacks, links and hubs, and the planned retirement of a core (R24, R29, R31, R393, R435 to R438, R467, R469). -/

namespace Sys2Proof.Machine

variable {s t u : State} {c : Nat}

/-! ### Cores (R31, R436) -/

theorem Core.canIssue_of_svc {k : Core} {st : CoreSvc} (h : k.pw.svc = st) (hst : st ≠ .inService) : k.canIssue = false := by
  simp [Core.canIssue, Core.inSvc, h, hst]

theorem lt_of_mem_spares (h : c ∈ s.spares) : c < 144 := by
  have hc := List.mem_of_mem_filter h
  rwa [allCores, List.mem_range] at hc

/-- A spare beside `c` takes its place. -/
theorem spareIn_svc (h : s.spares.filter (· != c) ≠ []) : ∃ n ∈ s.spares.filter (· != c), ((spareIn c s).core n).pw.svc = .inService ∧
    ∀ d, d ≠ n → ((spareIn c s).core d).pw = (s.core d).pw := by
  obtain ⟨n, ns, hn⟩ := List.exists_cons_of_ne_nil h
  have hmem : n ∈ s.spares.filter (· != c) := by rw [hn]; exact List.mem_cons_self
  have hlt := lt_of_mem_spares (List.mem_of_mem_filter hmem)
  have he : spareIn c s = (enterService n s).logAdd 0x07 2 0xFF (coreUnit n) n c 0 0xFFF := by
    unfold spareIn
    rw [hn]; rfl
  have hcore (d : Nat) : ((spareIn c s).core d).pw = ((enterService n s).core d).pw := by
    rw [he]
    exact ((steady_logAdd _ _ _ _ _ _ _ _ _).core d).pw
  obtain ⟨hsvc, hpw⟩ := enterService_svc (s := s) (n := n) (by omega)
  exact ⟨n, hmem, by rw [hcore, hsvc], fun d hd => by rw [hcore, hpw d hd]⟩
theorem spareIn_none (h : s.spares.filter (· != c) = []) : spareIn c s = s := by
  unfold spareIn
  rw [h]; rfl

/-- A core in no group that faults is retired before a spare comes in. -/
theorem coreFault_eq (b : s.Bare) (hc : c < 160) (planned : Bool) : ∃ t, s.Near t ∧ (t.core c).pw.svc = .retired ∧
    (∀ d, d ≠ c → (t.core d).pw = (s.core d).pw) ∧ coreFault c planned s = lowerMins (spareIn c t) := by
  have h1 := steady_noteRetired c planned s
  have h2 := near_loseCore (h1.bare b) c .retired
  have h3 := ((h1.near b).trans h2).trans h2.bare.near_chg
  have h4 := steady_loseRange (sliceBase c) Config.sliceBytes (loseCore c .retired (noteRetired c planned s)).chg
  obtain ⟨hsvc, hpw⟩ := loseCore_pw (h1.bare b) hc .retired
  refine ⟨_, h3.trans (h4.near h3.bare), (congrArg CorePower.svc (h4.core c).pw).trans hsvc,
    fun d hd => ((h4.core d).pw.trans (hpw d hd)).trans (h1.core d).pw, ?_⟩
  unfold coreFault
  rw [coreFaults_bare b, seatStandIns_bare]
  · rfl
  · exact (near_spareIn (h3.trans (h4.near h3.bare)).bare c).bare

/-- A core in no group that faults is retired, and a spare, if there is one, comes into service. -/
theorem coreFault_svc (b : s.Bare) (hc : c < 144) (hs : (s.core c).inSvc = true) (planned : Bool) :
    ((coreFault c planned s).core c).pw.svc = .retired ∧
      (s.spares ≠ [] → ∃ n ∈ s.spares, ((coreFault c planned s).core n).pw.svc = .inService) := by
  obtain ⟨t, -, hsvc, hpw, he⟩ := coreFault_eq b (c := c) (by omega) planned
  have hspares : t.spares.filter (· != c) = s.spares := by
    unfold State.spares
    rw [List.filter_filter]
    refine List.filter_congr fun d _ => ?_
    by_cases hd : d = c
    · subst hd
      have : (s.core d).pw.svc = .inService := by simpa [Core.inSvc] using hs
      simp [this]
    · simp [hpw d hd, hd]
  have hcore (d : Nat) : ((coreFault c planned s).core d).pw = ((spareIn c t).core d).pw := by
    rw [he]
    exact ((steady_lowerMins _).core d).pw
  simp only [hcore]
  by_cases h : s.spares = []
  · rw [spareIn_none (by rw [hspares, h])]
    exact ⟨hsvc, fun hne => absurd h hne⟩
  · obtain ⟨n, hn, hin, hpw⟩ := spareIn_svc (s := t) (c := c) (by rwa [hspares])
    have hne : c ≠ n := by
      rintro rfl
      simp at hn
    rw [hspares] at hn
    exact ⟨by rw [hpw c hne, hsvc], fun _ => ⟨n, hn, hin⟩⟩

theorem near_coreFault (b : s.Bare) (c : Nat) (planned : Bool) : s.Near (coreFault c planned s) := near_coreFaults b [c] planned

/-! ### Stacks (R31, R435, R437) -/

theorem loseJournal_idle (h : s.host.tasks = []) : loseJournal s = { s with host := { s.host with journal := [] } } := by
  unfold loseJournal
  simp only [h, List.foldl_nil]

/-- Stack `n` is out of service. -/
def stackOut (n : Nat) (s : State) : State :=
  (setMtab (154 + n) 2 ((s.updStack n fun k => { k with insvc := false }).chg)).logAdd 0x09 2 0xFF (unitOf 3 n) (Config.unitTest 7).toNat 1 0 0

theorem near_stackOut (b : s.Bare) (n : Nat) : s.Near (stackOut n s) := by
  have h := b.near_updStack n fun k => { k with insvc := false }
  have g := h.trans h.bare.near_chg
  have g' := g.trans (g.bare.near_setMtab (154 + n) 2)
  exact g'.trans (near_logAdd g'.bare _ _ _ _ _ _ _ _)
theorem stackOut_insvc {n : Nat} (h : n < s.pkg.stks.length) : ((stackOut n s).stack n).insvc = false := by
  have e : (stackOut n s).stack n = (s.updStack n fun k => { k with insvc := false }).stack n := rfl
  rw [e, State.stack, State.updStack, getD_modNth_self _ _ h]

/-- The journal's mirrors once stack `n` is out: another stack takes its place, if one is up. -/
def mirrorsWithout (n : Nat) (had : Bool) (s : State) : List Nat :=
  let mirrors := s.host.mirrors.filter (· != 16 + n)
  let spareStack := (s.stacksUp.filter fun i => !mirrors.contains (16 + i)).head?
  if had then (match mirrors, spareStack with | _ :: _, some i => mirrors ++ [16 + i] | _, _ => mirrors) else mirrors

theorem notMem_mirrorsWithout {n : Nat} (h : (s.stack n).insvc = false) (had : Bool) : 16 + n ∉ mirrorsWithout n had s := by
  have hf : 16 + n ∉ s.host.mirrors.filter (· != 16 + n) := by simp
  unfold mirrorsWithout
  dsimp only
  split
  · split
    · next i _ hi =>
      have hup : (s.stack i).insvc = true := (List.mem_filter.1 (List.mem_of_mem_filter (List.mem_of_mem_head? hi))).2
      have hne : n ≠ i := by rintro rfl; rw [h] at hup; cases hup
      intro hm
      rcases List.mem_append.1 hm with hm | hm
      · exact hf hm
      · exact hne (by simpa using hm)
    · exact hf
  · exact hf

/-- The journal `j` is mirrored by `ms`. -/
def withMirrors (ms : List Nat) (j : List JEntry) (s : State) : State := { s with host := { s.host with mirrors := ms, journal := j } }

theorem near_withMirrors (b : s.Bare) (ms : List Nat) (j : List JEntry) : s.Near (withMirrors ms j s) :=
  ⟨⟨b.waits, b.groups, b.nets, b.tasks, b.returning, b.retire, ⟨b.rings.chans, b.rings.ports⟩⟩, rfl, rfl, rfl, rfl, fun _ => id⟩

theorem withMirrors_stack (ms : List Nat) (j : List JEntry) (s : State) (n : Nat) : (withMirrors ms j s).stack n = s.stack n := rfl
theorem withMirrors_mirrors (ms : List Nat) (j : List JEntry) (s : State) : (withMirrors ms j s).host.mirrors = ms := rfl

/-- Mirrors that change, the journal lost with the last of them. -/
theorem mirrored_eq (h : s.host.tasks = []) (p : Bool) (ms : List Nat) : ∃ j,
    (if p then loseJournal { s with host := { s.host with mirrors := ms } } else { s with host := { s.host with mirrors := ms } }) =
      withMirrors ms j s := by
  cases p
  · exact ⟨_, rfl⟩
  · exact ⟨_, loseJournal_idle h⟩

theorem State.nets_eta {l : List Net} (h : s.nets = l) : { s with nets := l } = s := by subst h; rfl

/-- The loss of a stack while no net stands: its service, the journal's mirrors, then the pages it held. -/
theorem stackLoss_bare (b : s.Bare) (n : Nat) : ∃ j, State.Steady
    (withMirrors (mirrorsWithout n (s.host.mirrors.contains (16 + n)) (stackOut n s)) j (stackOut n s)) (stackLoss n s) := by
  have b1 := (near_stackOut b n).bare
  unfold stackLoss
  extract_lets s1 mirrors spareStack mirrors' _ _ _ s2 s3 _ s4 _ s5
  obtain ⟨j, hj⟩ : ∃ j, s2 = withMirrors mirrors' j s1 := mirrored_eq b1.tasks _ _
  have hn : s2.nets = [] := by rw [hj]; exact b1.nets
  have h3 : s3 = s2 := by unfold s3; rw [hn]; rfl
  have h4 : s4 = s2 := by unfold s4; rw [h3, hn]; exact State.nets_eta hn
  have h5 : s5 = s2 := by unfold s5; rw [h4, hn]; rfl
  rw [h5, hj]
  exact ⟨j, (steady_loseRange (stackBase 1 n) 0x10000000 _).trans (steady_loseRange (stackBase 2 n) 0xC00000000 _)⟩

theorem near_stackLoss (b : s.Bare) (n : Nat) : s.Near (stackLoss n s) := by
  obtain ⟨j, h⟩ := stackLoss_bare b n
  have h1 := near_stackOut b n
  have h2 := h1.trans (near_withMirrors h1.bare (mirrorsWithout n (s.host.mirrors.contains (16 + n)) (stackOut n s)) j)
  exact h2.trans (h.near h2.bare)

/-- A stack that is lost is out of service and mirrors the journal no more. -/
theorem stackLoss_out (b : s.Bare) {n : Nat} (hn : n < s.pkg.stks.length) :
    ((stackLoss n s).stack n).insvc = false ∧ 16 + n ∉ (stackLoss n s).host.mirrors := by
  obtain ⟨j, h⟩ := stackLoss_bare b n
  rw [h.inStack, h.mirrors, withMirrors_stack, withMirrors_mirrors]
  exact ⟨stackOut_insvc hn, notMem_mirrorsWithout (stackOut_insvc hn) _⟩

/-! ### Links and dies (R24, R435, R467) -/

theorem near_loseDie (b : s.Bare) (d : Nat) : s.Near (loseDie d s) := by
  unfold loseDie
  extract_lets cs _ s0 s1 s2
  have h0 : s.Near s0 := by
    have h : s.Near { s with pkg := { s.pkg with routers := s.pkg.routers &&& ~~~(BitVec.ofNat 8 (2 ^ d)) } } := b.near_pkg _ rfl rfl rfl rfl
    exact h.trans (h.bare.near_setMtab (144 + d) 2)
  have h1 : s.Near s1 := h0.trans (State.Near.foldl (f := fun s c => (leaveService c .failed (noteRetired c false s)).chg) (fun s c b => by
    have h := (steady_noteRetired c false s).near b
    have g := h.trans (near_leaveService h.bare c .failed)
    exact g.trans g.bare.near_chg) _ h0.bare)
  have h2 : s.Near s2 := h1.trans (near_coreFaults h1.bare _ false)
  exact h2.trans (State.Near.foldl (f := fun s n => stackLoss n s) (fun s n b => near_stackLoss b n) _ h2.bare)

theorem near_dropCutOff (b : s.Bare) (was : List Nat) (n : Nat) : s.Near (dropCutOff was n s) := by
  induction n generalizing s with
  | zero => exact .refl b
  | succ n ih =>
    rw [dropCutOff]
    split
    · exact (near_loseDie b _).trans (ih (near_loseDie b _).bare)
    · exact .refl b

/-- A link that goes is marked, and no other with it. -/
theorem linkDown_bare (b : s.Bare) {l : LinkId} (h : l ∉ s.pkg.linksDown) :
    (linkDown l s).Bare ∧ (linkDown l s).pkg.linksDown = s.pkg.linksDown ++ [l] := by
  have b1 : (linkOut l s).Bare := ⟨b.waits, b.groups, b.nets, b.tasks, b.returning, b.retire, ⟨b.rings.chans, b.rings.ports⟩⟩
  unfold linkDown
  rw [if_neg (by simpa using h)]
  extract_lets s1 s2
  have h2 : s1.Near s2 := State.Near.foldl (f := fun s n => stackLoss n s) (fun s n b => near_stackLoss b n) _ b1
  have h3 := h2.trans (near_dropCutOff h2.bare s.linkedDies 8)
  exact ⟨h3.bare, h3.linksDown⟩

/-! ### Hubs (R29, R402, R438) -/

theorem near_updPort (b : s.Bare) (p : Nat) {f : Port → Port} (hs : ∀ q, (f q).st = .active → q.st = .active) (hr : ∀ q, (f q).ring = q.ring) :
    s.Near (s.updPort p f) := by
  have hports : ∀ q ∈ (s.updPort p f).host.ports, ∃ q' ∈ s.host.ports, q.ring = q'.ring := by
    intro q hq
    change q ∈ modNth s.host.ports p f at hq
    unfold modNth at hq
    split at hq
    · next x hx =>
      rcases List.mem_or_eq_of_mem_set hq with hq | rfl
      · exact ⟨q, hq, rfl⟩
      · exact ⟨x, List.mem_of_getElem? hx, hr x⟩
    · exact ⟨q, hq, rfl⟩
  refine ⟨⟨b.waits, b.groups, b.nets, b.tasks, b.returning, b.retire, ⟨b.rings.chans, fun q hq g hg => ?_⟩⟩, rfl, rfl, rfl, rfl,
    fun q hq => ?_⟩
  · obtain ⟨q', hm, he⟩ := hports q hq
    exact b.rings.ports q' hm g (he ▸ hg)
  · rcases getD_modNth_cases s.host.ports p q f .reset with h | ⟨-, h⟩
    · rw [State.port, State.updPort, h] at hq; exact hq
    · rw [State.port, State.updPort, h] at hq; exact hs _ hq

theorem near_portDown (b : s.Bare) (p cause : Nat) : s.Near (portDown p cause s) := by
  unfold portDown
  dsimp only
  split
  · exact .refl b
  · have h := near_updPort b p (f := fun q => { q with st := .down, since := s.time }) (fun _ h => by cases h) fun _ => rfl
    have h1 := h.trans h.bare.near_chg
    have h2 := h1.trans (near_logAdd h1.bare 0x0E 2 0xFF (unitOf 5 p) cause 0 0 0)
    exact h2.trans ((steady_fireAll _ _).near h2.bare)
theorem State.port_updPort_self (s : State) {p : Nat} (f : Port → Port) (h : (s.port p).st ≠ .off) : (s.updPort p f).port p = f (s.port p) := by
  refine getD_modNth_self f .reset (Nat.lt_of_not_le fun hp => h ?_)
  rw [State.port, List.getD_eq_default _ _ hp]; rfl

theorem portDown_notActive (p cause : Nat) (s : State) : ((portDown p cause s).port p).st ≠ .active := by
  unfold portDown
  dsimp only
  split
  · next h => intro ha; simp [ha] at h
  · next h =>
    have hoff : (s.port p).st ≠ .off := by intro e; simp [e] at h
    rw [State.port, (steady_fireAll _ _).ports]
    change ((s.updPort p fun q => { q with st := .down, since := s.time }).port p).st ≠ _
    rw [s.port_updPort_self _ hoff]
    exact fun e => by cases e

theorem near_portOut (b : s.Bare) (p : Nat) : s.Near (portOut p s) := by
  unfold portOut
  extract_lets cause s1
  have h1 : s.Near s1 := ((steady_draw s).near b).trans (near_portDown ((steady_draw s).bare b) p cause)
  split
  · have h2 := h1.trans (near_updPort h1.bare p (f := fun q => { q with st := .down, since := s1.time }) (fun _ h => by cases h) fun _ => rfl)
    exact h2.trans (near_logAdd h2.bare _ _ _ _ _ _ _ _)
  · exact h1
theorem portOut_notActive (p : Nat) (s : State) : ((portOut p s).port p).st ≠ .active := by
  unfold portOut
  extract_lets cause s1
  have h1 : (s1.port p).st ≠ .active := portDown_notActive p cause s.draw
  split
  · next ht =>
    change ((s1.updPort p fun q => { q with st := .down, since := s1.time }).port p).st ≠ _
    rw [s1.port_updPort_self _ (by rw [ht]; exact fun e => by cases e)]
    exact fun e => by cases e
  · exact h1

/-- Hub `h` is out of service. -/
def hubDown (h : Nat) (s : State) : State := setMtab (152 + h) 2 ((s.updHub h fun q => { q with insvc := false }).chg)

theorem hubDown_bare (b : s.Bare) (h : Nat) : (hubDown h s).Bare :=
  ⟨b.waits, b.groups, b.nets, b.tasks, b.returning, b.retire, ⟨b.rings.chans, b.rings.ports⟩⟩
theorem hubDown_insvc {h : Nat} (hh : h < s.pkg.hubs.length) : ((hubDown h s).hub h).insvc = false := by
  have e : (hubDown h s).hub h = (modNth s.pkg.hubs h fun q => { q with insvc := false }).getD h .reset := rfl
  rw [e, getD_modNth_self _ _ hh]

/-- A hub in service that goes out takes its cores and its ports with it. -/
theorem hubOut_near (b : s.Bare) {h : Nat} (hin : (s.hub h).insvc = true) :
    (hubDown h s).Near (hubOut h s) ∧ ((hubOut h s).port (2 * h)).st ≠ .active := by
  unfold hubOut
  rw [if_neg (by simp [hin])]
  extract_lets s1 s2 mirrors _ s3 s3' s4
  have h2 : s1.Near s2 := State.Near.foldl (f := fun s c => loseCore c .failed (if (s.core c).inSvc then noteRetired c false s else s))
    (fun s c b => by
      split
      · have h := (steady_noteRetired c false s).near b
        exact h.trans (near_loseCore h.bare c .failed)
      · exact near_loseCore b c .failed) _ (hubDown_bare b h)
  obtain ⟨j, hj⟩ : ∃ j, s3' = withMirrors mirrors j s2 := mirrored_eq h2.bare.tasks _ _
  have h3 : s1.Near s3' := by
    rw [hj]
    exact h2.trans (near_withMirrors h2.bare mirrors j)
  have ha := near_portOut h3.bare (2 * h)
  have hb := near_portOut ha.bare (2 * h + 1)
  have e4 : s4 = portOut (2 * h + 1) (portOut (2 * h) s3') := by
    unfold s4
    simp only [List.foldl_cons, List.foldl_nil]
  have h4 : s1.Near s4 := e4 ▸ h3.trans (ha.trans hb)
  simp only [h4.bare.nets, List.filter_nil, List.foldl_nil]
  refine ⟨h4, fun e => portOut_notActive (2 * h) s3' ?_⟩
  rw [e4] at e
  exact hb.ports _ e

theorem hubOut_spec (b : s.Bare) {h : Nat} (hh : h < s.pkg.hubs.length) : (hubOut h s).Bare ∧ (hubOut h s).time = s.time ∧
    (hubOut h s).pkg.lead = s.pkg.lead ∧ ((hubOut h s).hub h).insvc = false ∧
    ((s.hub h).insvc = true → ((hubOut h s).port (2 * h)).st ≠ .active) := by
  cases hin : (s.hub h).insvc with
  | false =>
    have e : hubOut h s = s := by
      unfold hubOut
      rw [if_pos (by simp [hin])]
    rw [e]
    exact ⟨b, rfl, rfl, hin, fun e => by cases e⟩
  | true =>
    obtain ⟨hn, hp⟩ := hubOut_near b hin
    exact ⟨hn.bare, hn.time, hn.lead, by rw [State.hub, hn.hubs]; exact hubDown_insvc hh, fun _ => hp⟩

theorem dropNonDurable_nil (h : s.host.journal = []) : dropNonDurable s = { s with host := { s.host with journal := [], nextSeq := 1 } } := by
  unfold dropNonDurable
  simp only [h, List.filter_nil, List.reverse_nil, List.foldl_nil, List.map_nil]

theorem nextRetire_nil (h : s.pkg.retireWait = []) : nextRetire s = s := by
  unfold nextRetire
  rw [h]; rfl

/-- Hub `h` leads from the beat that the lead missed; its telemetry ring and the journal hold nothing yet. -/
def ledBy (h : Nat) (s : State) : State :=
  { s.tickTo ((s.hub s.pkg.lead).lastBeat + 100000) with
    pkg := { s.pkg with lead := h }
    log := { s.log with telRing := [], telCount := 0, telrd := 0, telPend := [] }
    host := { s.host with journal := [], nextSeq := 1 } }

theorem ledBy_bare (b : s.Bare) (h : Nat) : (ledBy h s).Bare :=
  ⟨b.waits, b.groups, b.nets, b.tasks, b.returning, b.retire, ⟨b.rings.chans, b.rings.ports⟩⟩

theorem exec_hubTakeover_eq {h : Nat} (hj : s.host.journal = []) (hh : h < 2) (hin : (s.hub h).insvc = true) (hne : s.pkg.lead ≠ h) :
    exec (.hubTakeover h) s = hostDone s (nextRetire
      ((hubOut s.pkg.lead (ledBy h s)).logAdd 0x10 2 0xFF (unitOf 2 h) s.pkg.lead (s.log.next - 1) 0 0)) := by
  rw [exec_hubTakeover, execHubTakeover, if_neg (by omega), if_neg (by simp [hin, hne])]
  dsimp only
  rw [dropNonDurable_nil (by exact hj)]
  rfl

/-- The hub `h` takes the lead: the hub that led is out of service with its ports. -/
theorem exec_hubTakeover_spec {h : Nat} (h0 : s.NoWaits) (b : s.Bare) (hc : s.Counts) (hj : s.host.journal = []) (hh : h < 2)
    (hin : (s.hub h).insvc = true) (hl : s.pkg.lead < 2) (hne : s.pkg.lead ≠ h) : ∃ t, exec (.hubTakeover h) s = done s t ∧
      t.pkg.lead = h ∧ (t.hub s.pkg.lead).insvc = false ∧ t.time = (s.tickTo ((s.hub s.pkg.lead).lastBeat + 100000)).time ∧
      ((s.hub s.pkg.lead).insvc = true → (t.port (2 * s.pkg.lead)).st ≠ .active) := by
  obtain ⟨b2, ht2, hl2, hi2, hp2⟩ := hubOut_spec (ledBy_bare b h) (h := s.pkg.lead) (hc.1 ▸ hl : s.pkg.lead < s.pkg.hubs.length)
  have h3 := near_logAdd b2 0x10 2 0xFF (unitOf 2 h) s.pkg.lead (s.log.next - 1) 0 0
  have he := exec_hubTakeover_eq hj hh hin hne
  rw [nextRetire_nil h3.bare.retire] at he
  obtain ⟨t, ht, h4⟩ := hostDone_bare h0 h3.bare
  have hn := h3.trans (h4.near h3.bare)
  refine ⟨t, he.trans ht, hn.lead.trans hl2, ?_, hn.time.trans ht2, fun hin e => hp2 hin (hn.ports _ e)⟩
  rw [State.hub, hn.hubs]; exact hi2

/-! ### The planned retirement of a core that a task runs on (R393, R469) -/

/-- A core in service with no page in its slice keeps every page; while a task runs on it, it is to be disabled first. -/
theorem planRetire_running (hs : (s.core c).inSvc = true) (hr : s.recoveringNow = false)
    (hp : ∀ q ∈ s.place.pages, q.home < sliceBase c ∨ sliceBase c + Config.sliceBytes ≤ q.home ∨ s.isPinned q = true)
    (ht : s.tasksOn 0 c ≠ []) : planRetire c s = beginRetire c (s.tasksOn 0 c) s := by
  have hhomes : (s.place.pages.filter fun q =>
      decide (sliceBase c ≤ q.home ∧ q.home < sliceBase c + Config.sliceBytes) && !s.isPinned q) = [] := by
    refine List.filter_eq_nil_iff.2 fun q hq => ?_
    rcases hp q hq with h | h | h
    · simp [Nat.not_le.2 h]
    · simp [Nat.not_lt.2 h]
    · simp [h]
  unfold planRetire
  rw [if_neg (by simp [hs]), if_neg (by simp [hr])]
  simp only [hhomes, List.map_nil, List.eraseDups_nil, List.foldl_nil]

theorem State.Steady.spares (h : s.Steady t) : t.spares = s.spares :=
  List.filter_congr fun d _ => by rw [(h.core d).pw]

/-- A core that no task runs on is retired at once, when its pages have moved. -/
theorem planRetire_idle (b : s.Bare) (hs : (s.core c).inSvc = true) (hr : s.recoveringNow = false) :
    ∃ t, s.Steady t ∧ planRetire c s = coreFault c true t := by
  unfold planRetire
  rw [if_neg (by simp [hs]), if_neg (by simp [hr])]
  extract_lets base homes s1
  have h1 : s.Steady s1 := by
    refine .foldl (fun s h => ?_) homes s
    split
    · split
      · exact (steady_movePage s h _).trans (steady_countMove _ _ _ _)
      · exact .refl s
    · exact .refl s
  have ht : s1.tasksOn 0 c = [] := by
    unfold State.tasksOn
    rw [(h1.bare b).tasks]; rfl
  rw [ht]
  exact ⟨s1, h1, rfl⟩

/-- The disable that a retirement begins. -/
def retireOp (c : Nat) (ts : List Task) (s : State) : DisableOp :=
  ⟨s.host.nextDis, 4, ⟨0x30, 0, 0, true⟩, 0, 0, c,
    s.time + ((ts.filterMap fun t => ((s.chan t.ch).bind fun ch => s.part ch.part).map (·.disTimeout)).foldl max 0)⟩

theorem steady_raiseAll (i : Nat) (ds : List Nat) (s : State) : s.Steady (ds.foldl (fun s d => s.upd d fun k => k.raise i) s) :=
  .foldl (fun s d => .upd s d fun k => k.steady_raise i) ds s
theorem raiseAll_drain {e : Nat} {ds : List Nat} (he : e ∈ ds) (hlt : e < 160) (s : State) :
    ((ds.foldl (fun s d => s.upd d fun k => k.raise 6) s).core e).tr.ipend.getLsbD 6 = true := by
  induction ds generalizing s with
  | nil => cases he
  | cons d ds ih =>
    rcases List.mem_cons.1 he with rfl | he
    · refine ((steady_raiseAll 6 ds _).core e).ipend 6 ?_
      rw [State.core_upd_self e _ hlt]
      simp [Core.raise]
    · exact ih he _

theorem beginRetire_spec (c : Nat) (ts : List Task) : ∃ t : State, (setDisabled 0 c true s).Steady t ∧ t.place = s.place ∧ t.poison = s.poison ∧
    (∀ e ∈ s.coresOn 0 c, e < 160 → (t.core e).tr.ipend.getLsbD 6 = true) ∧
    beginRetire c ts s = { t with host := { t.host with disables := t.host.disables ++ [retireOp c ts s], nextDis := s.host.nextDis + 1 } } := by
  have hrest := foldl_upd_rest (fun _ _ k => k.raise 6) (s.coresOn 0 c) (setDisabled 0 c true s)
  exact ⟨_, steady_raiseAll 6 (s.coresOn 0 c) _, by rw [hrest]; rfl, by rw [hrest]; rfl, fun _ he hlt => raiseAll_drain he hlt _, rfl⟩

/-- While the nets' pages hold no poison, none comes to be affected (R437). -/
theorem State.HostIdle.netsSound (h : s.HostIdle) (hn : t.nets = s.nets) (hp : t.place = s.place) (hu : t.poison = s.poison) :
    ∀ x ∈ t.nets, x.dirtyNeed = true ∨ x.lost = true ∨ t.netPoisoned x = false := by
  intro x hx
  rcases h.nets x (hn ▸ hx) with hd | hl | ⟨-, hclean⟩
  · exact .inl hd
  · exact .inr (.inl hl)
  · refine .inr (.inr ?_)
    unfold State.netPoisoned
    rw [List.any_eq_false]
    intro va _
    split
    · next q hq =>
      have hq' : (s.place.pages.find? fun q => q.part == x.part && q.vpage == va / 0x10000) = some q := by
        rw [← hp]; exact hq
      have hpart := List.find?_some hq'
      simp only [Bool.and_eq_true, beq_iff_eq] at hpart
      obtain ⟨hlt, hpois⟩ := hclean q (List.mem_of_find?_eq_some hq') hpart.1
      have hpt : t.isPoisoned q.home 0x10000 = false := by
        rw [State.isPoisoned, hu]; exact hpois
      rw [hpt, decide_eq_false (Nat.not_le.2 hlt)]
      exact Bool.false_ne_true
    · simp

/-- A retirement that begins with a disable answers. -/
theorem hostDone_beginRetire (hq : s.HostQuiet) (hc : c < 160) (ts : List Task) : ∃ t, hostDone s (beginRetire c ts s) = done s t ∧
    (∀ e, (t.core e).x = (s.core e).x ∧ (t.core e).v = (s.core e).v) ∧ (t.core c).pw.svc = (s.core c).pw.svc ∧ (t.core c).pw.disabled = true ∧
    (∀ e ∈ s.coresOn 0 c, e < 160 → (t.core e).tr.ipend.getLsbD 6 = true) ∧
    t.host.disables = s.host.disables ++ [retireOp c ts s] := by
  obtain ⟨w, hw, hplace, hpoison, hdrain, he⟩ := beginRetire_spec (s := s) c ts
  have hdis (e : Nat) : ((setDisabled 0 c true s).core e).x = (s.core e).x ∧ ((setDisabled 0 c true s).core e).v = (s.core e).v ∧
      ((setDisabled 0 c true s).core e).wait = (s.core e).wait := by
    rcases s.core_upd_cases c e (fun k => { k with pw := { k.pw with disabled := true } }) with h | ⟨-, h⟩
    · rw [setDisabled, h]; exact ⟨rfl, rfl, rfl⟩
    · rw [setDisabled, h]; exact ⟨rfl, rfl, rfl⟩
  have hown : ((setDisabled 0 c true s).core c).pw = { (s.core c).pw with disabled := true } := by
    rw [setDisabled, State.core_upd_self c _ hc]
  obtain ⟨t, ht, h⟩ := hostDone_idle (s := beginRetire c ts s) hq.waits
    (by rw [he]; exact fun e hlt => ((hw.core e).wait.trans (hdis e).2.2).trans (hq.waits e hlt))
    (by rw [he]; exact ⟨hw.chans ▸ hq.idle.chans, hw.ports ▸ hq.idle.ports⟩)
    (by rw [he]; exact hw.returning hq.idle.back)
    (hq.idle.netsSound (by rw [he]; exact hw.nets) (by rw [he]; exact hplace) (by rw [he]; exact hpoison))
  have hcore (e : Nat) : (w.core e).Steady (t.core e) := by
    have := h.core e
    rw [he] at this
    exact this
  refine ⟨t, ht, fun e => ⟨?_, ?_⟩, ?_, ?_, fun e hm hlt => (hcore e).ipend 6 (hdrain e hm hlt), ?_⟩
  · rw [(hcore e).x, (hw.core e).x, (hdis e).1]
  · rw [(hcore e).v, (hw.core e).v, (hdis e).2.1]
  · rw [(hcore c).pw, (hw.core c).pw, hown]
  · rw [(hcore c).pw, (hw.core c).pw, hown]
  · rw [h.disables, he]
    change w.host.disables ++ _ = _
    rw [hw.disables]; rfl

/-! ### The commands -/

/-- What a hard fault or a retirement of `c` answers: the core is retired, and a spare, if there is one, is in service. -/
theorem retired_of_hostDone {o : Out} {s0 : State} (h0 : s0.NoWaits) (b : s.Bare) (hc : c < 144) (hs : (s.core c).inSvc = true) {planned : Bool}
    (ho : o = hostDone s0 (coreFault c planned s)) : ∃ t, o = .next t ∧ (t.core c).pw.svc = .retired ∧ (t.core c).canIssue = false ∧
      (s.spares ≠ [] → ∃ n ∈ s.spares, (t.core n).pw.svc = .inService) := by
  obtain ⟨t, ht, h⟩ := hostDone_bare h0 (near_coreFault b c planned).bare
  obtain ⟨u, hu, hreq⟩ := answer_of_done (ho.trans ht)
  obtain ⟨hsvc, hspare⟩ := coreFault_svc b hc hs planned
  have hpw (d : Nat) : (u.core d).pw = ((coreFault c planned s).core d).pw := by rw [hreq.core]; exact (h.core d).pw
  have hret : (u.core c).pw.svc = .retired := by rw [hpw, hsvc]
  refine ⟨u, hu, hret, Core.canIssue_of_svc hret (by decide), fun hne => ?_⟩
  obtain ⟨n, hn, hin⟩ := hspare hne
  exact ⟨n, hn, by rw [hpw, hin]⟩

theorem exec_coreHardFault_inSvc (hc : c < 144) (hs : (s.core c).inSvc = true) :
    exec (.coreHardFault c) s = hostDone s (coreFault c false s) := by
  have hsvc : (s.core c).pw.svc = .inService := by simpa [Core.inSvc] using hs
  rw [exec_coreHardFault, execCoreHardFault, if_neg (by omega), hsvc]
  exact if_neg (by simp [isHub, hc])

/-- A supervisor core or a spare that faults has failed. -/
theorem exec_coreHardFault_failed (h0 : s.NoWaits) (b : s.Bare) (hc : c < 160)
    (h : 144 ≤ c ∧ (s.core c).inSvc = true ∨ c < 144 ∧ (s.core c).pw.svc = .spare) :
    ∃ t, exec (.coreHardFault c) s = done s t ∧ (t.core c).pw.svc = .failed := by
  have b1 := (steady_noteRetired c false s).bare b
  obtain ⟨f, he, hb, hsvc⟩ : ∃ f, exec (.coreHardFault c) s = hostDone s f ∧ f.Bare ∧ (f.core c).pw.svc = .failed := by
    rcases h with ⟨hub, hs⟩ | ⟨hcore, hs⟩
    · have hsvc : (s.core c).pw.svc = .inService := by simpa [Core.inSvc] using hs
      refine ⟨loseCore c .failed (noteRetired c false s), ?_, (near_loseCore b1 c .failed).bare, (loseCore_pw b1 hc .failed).1⟩
      rw [exec_coreHardFault, execCoreHardFault, if_neg (by omega), hsvc]
      exact if_pos (by simp [isHub, hub])
    · have hl := near_leaveService b1 c .failed
      refine ⟨(leaveService c .failed (noteRetired c false s)).chg, ?_, hl.bare.near_chg.bare, (leaveService_pw b1 hc .failed).1⟩
      rw [exec_coreHardFault, execCoreHardFault, if_neg (by omega), hs]
      exact if_neg (by simp [isHub, hcore])
  obtain ⟨t, ht, h⟩ := hostDone_bare h0 hb
  exact ⟨t, he.trans ht, by rw [(h.core c).pw, hsvc]⟩

/-- A link that goes is marked. -/
theorem linksDown_of_hostDone {o : Out} {l : LinkId} (h0 : s.NoWaits) (b : s.Bare) (hup : l ∉ s.pkg.linksDown)
    (ho : o = hostDone s (linkDown l s)) : ∃ t, o = .next t ∧ t.pkg.linksDown = s.pkg.linksDown ++ [l] := by
  obtain ⟨hb, hlinks⟩ := linkDown_bare b hup
  obtain ⟨t, ht, h⟩ := hostDone_bare h0 hb
  obtain ⟨u, hu, hreq⟩ := answer_of_done (ho.trans ht)
  exact ⟨u, hu, by rw [hreq.pkg, h.linksDown, hlinks]⟩

/-- A steered lane uses one of the link's spare lanes. -/
theorem steer_sparesOf (l : LinkId) (lane : Nat) (s : State) : (steer l lane s).sparesOf l = s.sparesOf l + 1 := by
  have e : (steer l lane s).pkg.steered = s.pkg.steered ++ [(l, lane)] := rfl
  simp [State.sparesOf, e, List.filter_append]

/-- Settles O52: a failure leaves the part bare but for what it takes out of service; a retirement begins with a disable. -/
theorem partFailures : Obligations.PartFailures := by
  unfold Obligations.PartFailures
  refine ⟨fun s hq hg ht hn hj => ?_, fun s c hq hc hs hr hp ht' => ?_⟩
  · intro gone
    have b := hq.bare hg ht hn
    refine ⟨fun c hc hs => ⟨?_, fun hr => ?_⟩, fun c hc hsvc => ?_, fun n hn hin => ?_,
      fun l hl hup => ⟨?_, fun lane hlane hsp => ?_, fun lane hlane hsp => ?_⟩, fun h hh hin => ⟨?_, fun hl hne => ?_⟩⟩
    · exact retired_of_hostDone hq.waits b hc hs (exec_coreHardFault_inSvc hc hs)
    · obtain ⟨t, ht, he⟩ := planRetire_idle b hs hr
      have h := retired_of_hostDone hq.waits (ht.bare b) hc (by rw [Core.inSvc, (ht.core c).pw]; exact hs) (planned := true)
        (o := exec (.plannedRetirement c) s) (by rw [exec_plannedRetirement, execPlannedRetirement, if_neg (by omega), he])
      rwa [ht.spares] at h
    · obtain ⟨t, he, hf⟩ := exec_coreHardFault_failed hq.waits b hc hsvc
      obtain ⟨u, hu, h⟩ := answer_of_done he
      exact ⟨u, hu, by rw [h.core, hf], by rw [h.core]; exact Core.canIssue_of_svc hf (by decide)⟩
    · have he : exec (.stackLoss n) s = hostDone s (stackLoss n s) := by
        rw [exec_stackLoss, execStackLoss, if_neg (by omega), if_pos hin]
      obtain ⟨t, ht, h⟩ := hostDone_bare hq.waits (near_stackLoss b n).bare
      obtain ⟨u, hu, hreq⟩ := answer_of_done (he.trans ht)
      obtain ⟨hout, hmirr⟩ := stackLoss_out b (n := n) (by rw [hq.idle.counts.2.1]; exact hn)
      refine ⟨u, hu, ?_, by rw [hreq.host, h.mirrors]; exact hmirr⟩
      rw [State.stack, hreq.pkg]
      exact (h.inStack n).trans hout
    · exact linksDown_of_hostDone hq.waits b hup (by rw [exec_linkDown, execLinkDown, if_neg (by simp [hl])])
    · have he : exec (.laneSteered l lane) s = done s (steer l lane s) := by
        rw [exec_laneSteered, execLaneSteered, if_neg (by simp [hl, hlane]), if_neg (by simpa using hup), if_neg (by omega)]
      obtain ⟨u, hu, h⟩ := answer_of_done he
      refine ⟨u, hu, ?_, by rw [h.pkg]; rfl, by rw [h.log]; rfl, by rw [h.mem]; rfl⟩
      rw [State.sparesOf, h.pkg]
      exact steer_sparesOf l lane s
    · exact linksDown_of_hostDone hq.waits b hup (by
        rw [exec_laneSteered, execLaneSteered, if_neg (by simp [hl, hlane]), if_neg (by simpa using hup), if_pos hsp])
    · have he : exec (.hubHeartbeat h) s = done s (s.updHub h fun q => { q with lastBeat := s.time }) := by
        rw [exec_hubHeartbeat, execHubHeartbeat, if_neg (by omega), if_pos hin]
      obtain ⟨u, hu, hreq⟩ := answer_of_done he
      refine ⟨u, hu, ?_, by rw [hreq.mem]; rfl⟩
      rw [State.hub, hreq.pkg, State.updHub, getD_modNth_self _ _ (by rw [hq.idle.counts.1]; exact hh)]
    · obtain ⟨t, he, hlead, hout, htime, hport⟩ := exec_hubTakeover_spec hq.waits b hq.idle.counts hj hh hin hl hne
      obtain ⟨u, hu, hreq⟩ := answer_of_done he
      refine ⟨u, hu, by rw [hreq.pkg, hlead], by rw [State.hub, hreq.pkg]; exact hout, by rw [hreq.time, htime], fun h => ?_⟩
      rw [State.port, hreq.host]
      exact hport h
  · obtain ⟨t, ht, hregs, hsvc, hdisabled, hdrain, hdis⟩ := hostDone_beginRetire hq (c := c) (by omega) (s.tasksOn 0 c)
    have he : exec (.plannedRetirement c) s = done s t := by
      rw [exec_plannedRetirement, execPlannedRetirement, if_neg (by omega), planRetire_running hs hr hp ht', ht]
    obtain ⟨u, hu, h⟩ := answer_of_done he
    refine ⟨u, retireOp c (s.tasksOn 0 c) s, hu, ?_, by rw [h.core, hdisabled], by rw [h.host, hdis], rfl, rfl, Nat.le_add_right _ _,
      fun e hm hlt => ?_⟩
    · rw [h.core, Core.inSvc, hsvc]; exact hs
    · rw [h.core]
      exact ⟨(hregs e).1, (hregs e).2, hdrain e hm hlt⟩

end Sys2Proof.Machine
end

section
/-! SUPPORT. Instructions of one word on a core with nothing due: the scalar integer forms (R56, R57, R124). -/

namespace Sys2Proof.Machine

variable {s : State} {c : Nat} {rd rs1 rs2 : Reg} {imm : BitVec 16}

/-! ### Issue on a ready core -/

/-- An instruction that only updates its core may be given the update of the core as it stands at issue. -/
theorem issueP_ready_core (h : s.Ready c false) {e : Enc} (he : e.wide = false) {check : State → Option Trap} {f g : Core → Core}
    (hc : check s = none) (hfg : f (s.core c) = g (s.core c)) :
    issueP c e check (fun s => s.upd c f) s = .next (s.upd c fun k => (g k).retire false) := by
  rw [issueP_core h (by simp [he]) check f hc, he]
  exact congrArg _ (State.upd_congr c (congrArg (Core.retire · false) hfg))

/-- An instruction whose check fails: its exception, and nothing else. -/
theorem issueP_ready_trap (h : s.Ready c false) {e : Enc} (he : e.wide = false) {check : State → Option Trap} (eff : State → State) {t : Trap}
    (hc : check s = some t) : issueP c e check eff s = .next { takeException c t s with pending := s.pending } :=
  issueP_trap h (by simp [he]) check eff t hc

/-- An instruction that has no fault of its own at issue. -/
theorem issueI_ready_run (h : s.Ready c false) {e : Enc} (he : e.wide = false) (ctl : Bool) (run : State → State) :
    issueI c e ctl noFault run s = done s (run s) := issueI_ready h (by simp [he]) ctl noFault run

/-! ### Plain results -/

theorem aluR_ready (h : s.Ready c false) (func d : Nat) (f : Word → Word → Word) : aluR c func d rd rs1 rs2 f s =
    .next (s.upd c fun k => (k.landX d rd (f ((s.core c).rx rs1) ((s.core c).rx rs2))).retire false) :=
  issueP_ready_core h rfl rfl rfl

theorem aluI_ready (h : s.Ready c false) (op : Nat) {bad : Bool} (hb : bad = false) (f : Word → Word) :
    aluI c op rd rs1 imm bad f s = .next (s.upd c fun k => (k.landX 1 rd (f ((s.core c).rx rs1))).retire false) :=
  issueP_ready_core h rfl (by simp [illegalIf, hb]) rfl

theorem aluI_illegal (h : s.Ready c false) (op : Nat) {bad : Bool} (hb : bad = true) (f : Word → Word) : aluI c op rd rs1 imm bad f s =
    .next { takeException c { cause := 1, edata0 := (encI op rd rs1 imm).data } s with pending := s.pending } :=
  issueP_ready_trap h rfl _ (by rw [hb]; rfl)

theorem boolWord_slt (a b : Word) : boolWord (a.slt b) = if a.toInt < b.toInt then 1 else 0 := by
  simp [boolWord, BitVec.slt_iff_toInt_lt]
theorem boolWord_ult (a b : Word) : boolWord (a.ult b) = if a.toNat < b.toNat then 1 else 0 := by
  simp [boolWord, BitVec.ult_iff_lt, BitVec.lt_def]
theorem ite_slt {α : Type} (a b : Word) (x y : α) : (if a.slt b then x else y) = if a.toInt < b.toInt then x else y := by
  simp [BitVec.slt_iff_toInt_lt]
theorem ite_ult {α : Type} (a b : Word) (x y : α) : (if a.ult b then x else y) = if a.toNat < b.toNat then x else y := by
  simp [BitVec.ult_iff_lt, BitVec.lt_def]

/-! ### SHI (R56) -/

theorem sextImm_toInt (imm : BitVec 16) : (sextImm imm).toInt = imm.toInt := BitVec.toInt_signExtend_of_le (by decide)

/-- The selector of SHI, bits 7:6, below 256. -/
theorem bits_7_6 {n : Nat} (h : n < 256) : bits n 7 6 = n / 64 := by
  simp [bits, Nat.shiftRight_eq_div_pow]; omega
theorem bits_15_8 {n : Nat} (h : n < 2 ^ 16) : bits n 15 8 = n / 256 := by
  simp [bits, Nat.shiftRight_eq_div_pow]; omega

/-- The forms of SHI that the table gives: those below 192. -/
theorem shi_bad (imm : BitVec 16) : (bits imm.toNat 7 6 == 3 || bits imm.toNat 15 8 != 0) = decide (192 ≤ imm.toNat) := by
  have hlt := imm.isLt
  rw [bits_15_8 hlt, Bool.eq_iff_iff, Bool.or_eq_true, beq_iff_eq, bne_iff_ne, decide_eq_true_iff]
  by_cases h : imm.toNat < 256
  · rw [bits_7_6 h]; omega
  · omega

/-- SHI below 64, below 128 and below 192. -/
theorem shiftImm_left (h : imm.toNat < 64) (a : Word) : shiftImm imm a = a <<< (imm.toNat % 64) := by
  rw [shiftImm, bits_7_6 (by omega), show imm.toNat / 64 = 0 by omega]; rfl
theorem shiftImm_right (h : 64 ≤ imm.toNat) (h' : imm.toNat < 128) (a : Word) : shiftImm imm a = a >>> (imm.toNat % 64) := by
  rw [shiftImm, bits_7_6 (by omega), show imm.toNat / 64 = 1 by omega]; rfl
theorem shiftImm_arith (h : 128 ≤ imm.toNat) (h' : imm.toNat < 192) (a : Word) : shiftImm imm a = a.sshiftRight (imm.toNat % 64) := by
  rw [shiftImm, bits_7_6 (by omega), show imm.toNat / 64 = 2 by omega]; rfl

/-- SHI of a form that the table gives shifts; of another it is illegal. -/
theorem execShi_ready (h : s.Ready c false) (hi : imm.toNat < 192) : execShi c rd rs1 imm s =
    .next (s.upd c fun k => (k.landX 1 rd (shiftImm imm ((s.core c).rx rs1))).retire false) :=
  aluI_ready h 7 (by rw [shi_bad]; exact decide_eq_false (by omega)) _
theorem execShi_illegal (h : s.Ready c false) (hi : 192 ≤ imm.toNat) : execShi c rd rs1 imm s =
    .next { takeException c { cause := 1, edata0 := (encI 7 rd rs1 imm).data } s with pending := s.pending } :=
  aluI_illegal h 7 (by rw [shi_bad]; exact decide_eq_true hi) _

/-- Settles O5: each form is an `aluR` or an `aluI`, whose result lands at its distance. -/
theorem integerResults : Obligations.IntegerResults := by
  unfold Obligations.IntegerResults
  refine ⟨fun s c rd rs1 rs2 h => ?_, fun s c rd rs1 imm h => ?_⟩
  · intro a b n out
    have alu (func d : Nat) {f : Word → Word → Word} {v : Word} (hv : f a b = v) : aluR c func d rd rs1 rs2 f s = out d v := by
      rw [aluR_ready h, ← hv]
    simp only [exec_and, exec_or, exec_xor, exec_sll, exec_srl, exec_sra, exec_slt, exec_sltu, exec_min, exec_max, exec_minu, exec_maxu,
      exec_mulh, exec_mulhu]
    exact ⟨alu 2 1 rfl, alu 3 1 rfl, alu 4 1 rfl, alu 5 1 rfl, alu 6 1 rfl, alu 7 1 rfl, alu 8 1 (boolWord_slt a b),
      alu 9 1 (boolWord_ult a b), alu 10 1 (ite_slt a b a b), alu 11 1 (ite_slt a b b a), alu 12 1 (ite_ult a b a b),
      alu 13 1 (ite_ult a b b a), alu 0x11 3 rfl, alu 0x12 3 rfl⟩
  · intro a z out bad
    have alu (op : Nat) {b : Bool} (hb : b = false) {f : Word → Word} {v : Word} (hv : f a = v) : aluI c op rd rs1 imm b f s = out v := by
      rw [aluI_ready h op hb, ← hv]
    simp only [exec_andi, exec_ori, exec_xori, exec_slti, exec_ori16, exec_ori32, exec_ori48, exec_lui, exec_shi]
    refine ⟨alu 3 rfl rfl, alu 4 rfl rfl, alu 5 rfl rfl, alu 6 rfl ?_, alu 9 rfl rfl, alu 10 rfl rfl, alu 11 rfl rfl,
      fun h0 => alu 8 (bne_eq_false_iff_eq.2 h0) rfl, fun h0 => aluI_illegal h 8 (bne_iff_ne.2 h0) _, fun hi => ?_, fun lo hi => ?_,
      fun lo hi => ?_,
      fun lo => execShi_illegal h lo⟩
    · rw [boolWord_slt, sextImm_toInt]
    · rw [execShi_ready h (by omega), shiftImm_left hi]
    · rw [execShi_ready h (by omega), shiftImm_right lo hi]
    · rw [execShi_ready h hi, shiftImm_arith lo hi]

end Sys2Proof.Machine
end

section
/-! SUPPORT. Integer overflow and the divides (R57, R124). -/

namespace Sys2Proof.Machine

variable {s : State} {c : Nat} {rd rs1 rs2 : Reg} {imm : BitVec 16}

theorem overflows_eq_false {i : Int} : overflows i = false ↔ -2 ^ 63 ≤ i ∧ i < 2 ^ 63 := by
  unfold overflows
  rw [Bool.or_eq_false_iff, decide_eq_false_iff_not, decide_eq_false_iff_not]
  omega

/-- A result that may overflow lands, or lands with OV, or only raises INT_OVF where it would have landed. -/
theorem landOv_cases (d : Nat) (rd : Reg) (i : Int) {o : Out}
    (ho : o = .next (s.upd c fun k => (k.landOv d rd (BitVec.ofInt 64 i) (overflows i)).retire false)) :
    (-2 ^ 63 ≤ i ∧ i < 2 ^ 63 → o = .next (s.upd c fun k => (k.landX d rd (BitVec.ofInt 64 i)).retire false)) ∧
    (¬ (-2 ^ 63 ≤ i ∧ i < 2 ^ 63) → ¬ ((s.core c).tr.trapov = true ∧ (s.core c).tr.maint = true) →
      o = .next (s.upd c fun k => ((k.landX d rd (BitVec.ofInt 64 i)).land d (.aflags true false)).retire false)) ∧
    (¬ (-2 ^ 63 ≤ i ∧ i < 2 ^ 63) → (s.core c).tr.trapov = true → (s.core c).tr.maint = true →
      o = .next (s.upd c fun k => ((k.land d (.aflags true false)).delay
        ⟨k.tm.step, k.tm.step + d, none, { cause := 0x0D, edata0 := k.flow.pc }⟩).retire false)) := by
  subst ho
  refine ⟨fun hf => ?_, fun hf ht => ?_, fun hf ht hm => ?_⟩ <;> refine congrArg _ (State.upd_congr c (congrArg (Core.retire · false) ?_))
  · simp [Core.landOv, overflows_eq_false.2 hf]
  · rw [← overflows_eq_false, Bool.not_eq_false] at hf
    rw [Core.landOv, if_neg (by simp [hf]), if_neg (by simpa using ht)]
  · rw [← overflows_eq_false, Bool.not_eq_false] at hf
    rw [Core.landOv, if_neg (by simp [hf]), if_pos (by simp [ht, hm])]

theorem aluOv_ready (h : s.Ready c false) (func d : Nat) (f : Word → Word → Word) (ov : Word → Word → Bool) {i : Int}
    (hv : f ((s.core c).rx rs1) ((s.core c).rx rs2) = BitVec.ofInt 64 i)
    (ho : ov ((s.core c).rx rs1) ((s.core c).rx rs2) = overflows i) :
    aluOv c func d rd rs1 rs2 f ov s = .next (s.upd c fun k => (k.landOv d rd (BitVec.ofInt 64 i) (overflows i)).retire false) := by
  rw [← hv, ← ho]
  exact issueP_ready_core h rfl rfl rfl

theorem execAddi_ready (h : s.Ready c false) {i : Int} (hi : i = ((s.core c).rx rs1).toInt + imm.toInt) : execAddi c rd rs1 imm s =
    .next (s.upd c fun k => (k.landOv 1 rd (BitVec.ofInt 64 i) (overflows i)).retire false) := by
  refine issueP_ready_core h rfl rfl ?_
  rw [addOv, sextImm_toInt, hi, BitVec.ofInt_add, BitVec.ofInt_toInt, ← sextImm_toInt, BitVec.ofInt_toInt]

/-! ### Divides -/

/-- What a cause marks before its entry, where no write is pending and no fault is delayed. -/
theorem takeExceptionBy_clear (t : Trap) {f : Core → Core} (hc : c < 160) (hf : ∀ k, (f k).tm = k.tm) (hp : (s.core c).tm.pend = [])
    (hd : (s.core c).tm.delayed = []) : takeExceptionBy c t (fun s => s.upd c f) s = takeException c t (s.upd c f) := by
  have htm : ((s.upd c f).core c).tm = (s.core c).tm := by rw [State.core_upd_self _ _ hc, hf]
  rw [takeException_clear t (by rw [htm, hp]) (by rw [htm, hd])]
  unfold takeExceptionBy Core.lastLand
  simp only [landEntry_clear hp hd, hd, htm]

/-- A divide traps in the maintenance state where MCTL asks it. -/
def Core.divTraps (k : Core) (z o : Bool) : Prop := k.tr.maint = true ∧ ((z = true ∧ k.tr.trapdz = true) ∨ (o = true ∧ k.tr.trapov = true))

theorem divTrap_none {k : Core} {z o : Bool} (h : ¬ k.divTraps z o) : divTrap k z o = none := by
  unfold divTrap
  rw [if_neg fun e => ?_, if_neg fun e => ?_]
  · rw [Bool.and_eq_true, Bool.and_eq_true] at e
    exact h ⟨e.2, .inr e.1⟩
  · rw [Bool.and_eq_true, Bool.and_eq_true] at e
    exact h ⟨e.2, .inl e.1⟩

/-- A divide by zero does not overflow. -/
theorem divTrap_some {k : Core} {z o : Bool} (hzo : z = true → o = false) (h : k.divTraps z o) :
    divTrap k z o = some { cause := if z then 0x0C else 0x0D, edata0 := k.flow.pc } := by
  obtain ⟨hm, ⟨rfl, ht⟩ | ⟨rfl, ht⟩⟩ := h
  · simp [divTrap, ht, hm]
  · obtain rfl : z = false := by cases z; · rfl
                                 · exact absurd (hzo rfl) (by simp)
    simp [divTrap, ht, hm]

theorem divIssue_ready (h : s.Ready c false) (func : Nat) (f : Word → Word → Word) (dz ov : Word → Word → Bool) {z o : Bool} {v : Word}
    (hv : f ((s.core c).rx rs1) ((s.core c).rx rs2) = v) (hz : dz ((s.core c).rx rs1) ((s.core c).rx rs2) = z)
    (ho : ov ((s.core c).rx rs1) ((s.core c).rx rs2) = o) (hzo : z = true → o = false) :
    (¬ (s.core c).divTraps z o → divIssue c func rd rs1 rs2 f dz ov s = .next (s.upd c fun k =>
      (if z || o then (k.landX 18 rd v).land 18 (.aflags o z) else k.landX 18 rd v).retire false)) ∧
    ((s.core c).divTraps z o → divIssue c func rd rs1 rs2 f dz ov s =
      .next { takeException c { cause := if z then 0x0C else 0x0D, edata0 := (s.core c).flow.pc }
        (s.upd c fun k => { k with ov := k.ov || o, dz := k.dz || z }) with pending := s.pending }) := by
  subst hv hz ho
  rw [divIssue, issueI_ready_run h rfl]
  dsimp only
  refine ⟨fun ht => ?_, fun ht => ?_⟩
  · rw [divTrap_none ht]
    exact congrArg _ (State.upd_congr c rfl)
  · rw [divTrap_some hzo ht]
    exact congrArg (done s) (takeExceptionBy_clear _ h.core (fun _ => rfl) h.landed h.clear)

/-- Settles O6: the overflowing forms by whether the result fits, the divides by whether they trap; a divisor of zero is not −1. -/
theorem integerCorners : Obligations.IntegerCorners := by
  unfold Obligations.IntegerCorners
  refine ⟨fun s c rd rs1 rs2 imm h => ?_, fun s c rd rs1 rs2 h => ?_⟩
  · intro k a b fits out
    simp only [exec_add, exec_sub, exec_mul, exec_addi, exec_mulh, exec_mulhu]
    refine ⟨landOv_cases 1 rd (a + b) (aluOv_ready h 0 1 _ _ ?_ rfl), landOv_cases 1 rd (a - b) (aluOv_ready h 1 1 _ _ ?_ rfl),
      landOv_cases 3 rd (a * b) (aluOv_ready h 0x10 3 _ _ ?_ rfl), landOv_cases 1 rd (a + imm.toInt) (execAddi_ready h rfl),
      aluR_ready h 0x11 3 _, aluR_ready h 0x12 3 _⟩
    · rw [BitVec.ofInt_add, BitVec.ofInt_toInt, BitVec.ofInt_toInt]
    · exact BitVec.eq_of_toInt_eq (by rw [BitVec.toInt_sub, BitVec.toInt_ofInt])
    · rw [BitVec.ofInt_mul, BitVec.ofInt_toInt, BitVec.ofInt_toInt]
  · intro k a b dz big traps out
    have hzo : dz = true → big = false := fun hz => by
      have hb : b = 0 := of_decide_eq_true hz
      simp [big, hb]
    simp only [exec_div, exec_divu, exec_rem, exec_remu]
    exact ⟨divIssue_ready h 0x18 divS byZero divOv rfl rfl rfl hzo, divIssue_ready h 0x19 divU byZero noOv rfl rfl rfl fun _ => rfl,
      divIssue_ready h 0x1A remS byZero divOv rfl rfl rfl hzo, divIssue_ready h 0x1B remU byZero noOv rfl rfl rfl fun _ => rfl⟩

end Sys2Proof.Machine
end

section
/-! SUPPORT. Branches and jumps, and what may not stand in a delay slot (R65 to R67). -/

namespace Sys2Proof.Machine

variable {s : State} {c : Nat}

/-! ### Targets (R65, R69) -/

theorem shiftLeft_two (x : Word) : x <<< 2 = 4 * x := by
  rw [BitVec.shiftLeft_eq_mul_twoPow, BitVec.mul_comm]; rfl
theorem targetB_eq (pc : Word) (off : BitVec 16) : targetB pc off = pc + 4 * off.signExtend 64 := by rw [targetB, shiftLeft_two]
theorem targetJ_eq (pc : Word) (off : BitVec 26) : targetJ pc off = pc + 4 * off.signExtend 64 := by rw [targetJ, shiftLeft_two]
theorem afterSlots_eq (pc : Word) (sl : SlotLens) :
    afterSlots pc sl = pc + BitVec.ofNat 64 (4 + (if sl.w1 then 8 else 4) + (if sl.w2 then 8 else 4)) := by
  rw [afterSlots, Word.plus, delayBytes, Nat.add_assoc]

/-! ### Transfers on a ready core -/

theorem branchB_ready (h : s.Ready c false) (op : Nat) (rs1 rs2 : Reg) (off : BitVec 16) (sl : SlotLens) {p : Word → Word → Bool} {q : Prop}
    [Decidable q] (hp : p ((s.core c).rx rs1) ((s.core c).rx rs2) = true ↔ q) : branchB c op rs1 rs2 off sl p s =
      .next (s.upd c fun k => k.transfer (if q then targetB (s.core c).flow.pc off else afterSlots (s.core c).flow.pc sl)) := by
  unfold branchB
  rw [issueI_ready_run h rfl, done_upd]
  refine congrArg _ (State.upd_congr c ?_)
  simp only [hp]

theorem jump_ready (h : s.Ready c false) {e : Enc} (he : e.wide = false) (f : Core → Word) :
    issueI c e true noFault (fun s => s.upd c fun k => k.transfer (f k)) s = .next (s.upd c fun k => k.transfer (f (s.core c))) := by
  rw [issueI_ready_run h he]
  exact congrArg _ (State.upd_congr c rfl)

/-- Settles O9: a branch transfers to its target or past its slots as its comparison says, a jump to its target. -/
theorem branches : Obligations.Branches := by
  unfold Obligations.Branches
  intro s c rs1 rs2 o16 o26 sl h k a b pc skip go near
  have hgo (target : Word) : Host.Outcome.next (s.upd c fun k => k.transfer target) = go target := congrArg _ (State.upd_congr c rfl)
  have branch (op : Nat) (p : Word → Word → Bool) {q : Prop} [Decidable q] (hp : p a b = true ↔ q) :
      branchB c op rs1 rs2 o16 sl p s = go (if q then near else skip) := by
    rw [branchB_ready h op rs1 rs2 o16 sl hp, targetB_eq, afterSlots_eq, hgo]
  simp only [exec_beq, exec_bne, exec_blt, exec_bge, exec_bltu, exec_bgeu, exec_j, exec_jr]
  refine ⟨branch 0x20 _ ?_, branch 0x21 _ ?_, branch 0x22 _ ?_, branch 0x23 _ ?_, branch 0x24 _ ?_, branch 0x25 _ ?_, ?_, ?_⟩
  · exact beq_iff_eq
  · exact bne_iff_ne
  · exact BitVec.slt_iff_toInt_lt
  · rw [Bool.not_eq_true', ← Bool.not_eq_true, BitVec.slt_iff_toInt_lt, Int.not_lt]
  · rw [BitVec.ult_iff_lt, BitVec.lt_def]
  · rw [Bool.not_eq_true', ← Bool.not_eq_true, BitVec.ult_iff_lt, BitVec.lt_def, Nat.not_lt]
  · exact (jump_ready h rfl fun k => targetJ k.flow.pc o26).trans (by rw [targetJ_eq, hgo])
  · exact (jump_ready h rfl fun k => k.rx rs1).trans (hgo a)

/-! ### In a delay slot (R66) -/

/-- A control transfer, REP, REP.U, GATE or ERET in a delay slot is illegal, whatever it would check or do. -/
theorem issueI_inSlot (h : s.Idle c) (hr : (s.core c).flow.rep = none) (hf : fetchFault s c false .clean .clean = none)
    (hs : (s.core c).flow.slots ≠ 0) {e : Enc} (he : e.wide = false) (check : State → Option Trap) (run : State → State) :
    issueI c e true check run s = .next { takeException c { cause := 1, edata0 := e.data } s with pending := s.pending } := by
  have hrep : (s.core c).repeats e = true := by simp [Core.repeats, hr]
  have hdue : (s.core c).delayedDue = false := by simp [Core.delayedDue, h.clear]
  unfold issueI issueBy
  rw [if_neg (Nat.not_le.2 h.core), if_neg (by simp [h.issues, hrep])]
  simp only [h.arrive]
  rw [if_neg (by simp [hdue]), if_neg (by simp [h.aligned]), he, hf]
  dsimp only
  rw [if_pos (by simpa using hs)]
  rfl

/-- Settles O10: each of the fifteen issues as a control transfer. -/
theorem noTransferInSlot : Obligations.NoTransferInSlot := by
  unfold Obligations.NoTransferInSlot
  intro s c o16 o26 sl rs1 rs2 nx rn err n h hr hf hs bad
  have illegal {i : Instr} {e : Enc} (he : e.wide = false) {check : State → Option Trap} {run : State → State}
      (hi : exec i s = issueI c e true check run s) : bad i e := hi.trans (issueI_inSlot h hr hf hs he check run)
  exact ⟨illegal rfl (by rw [exec_beq, execBeq, branchB]), illegal rfl (by rw [exec_bne, execBne, branchB]),
    illegal rfl (by rw [exec_blt, execBlt, branchB]), illegal rfl (by rw [exec_bge, execBge, branchB]),
    illegal rfl (by rw [exec_bltu, execBltu, branchB]), illegal rfl (by rw [exec_bgeu, execBgeu, branchB]),
    illegal rfl (by rw [exec_j, execJ]), illegal rfl (by rw [exec_call, execCall, issueRs]), illegal rfl (by rw [exec_jr, execJr]),
    illegal rfl (by rw [exec_callr, execCallr, issueRs]), illegal rfl (by rw [exec_ret, execRet, issueRs]),
    illegal rfl (by rw [exec_rep, execRep, repI]), illegal rfl (by rw [exec_repU, execRepU, repI]),
    illegal rfl (by rw [exec_gate, execGate]), illegal rfl (by rw [exec_eret, execEret])⟩

end Sys2Proof.Machine
end

section
/-! SUPPORT. Scalar floating point (R50, R59, R60, R140, R141). -/

namespace Sys2Proof.Machine

variable {s : State} {c : Nat} {rd rs1 rs2 rs3 : Reg}

theorem fpR_ready (h : s.Ready c false) (func d : Nat) (f : BitVec 32 → BitVec 32 → BitVec 32 × FF) : fpR c func d rd rs1 rs2 f s =
    .next (s.upd c fun k => (k.landF d rd (f ((s.core c).f32of rs1) ((s.core c).f32of rs2))).retire false) :=
  issueP_ready_core h rfl rfl rfl

theorem fpU_ready (h : s.Ready c false) (func d : Nat) (f : BitVec 32 → BitVec 32 × FF) : fpU c func d rd rs1 f s =
    .next (s.upd c fun k => (k.landF d rd (f ((s.core c).f32of rs1))).retire false) :=
  issueP_ready_core h rfl rfl rfl

theorem fpFma_ready (h : s.Ready c false) (func : Nat) (negProd negAdd : Bool) {a z : FV}
    (ha : (if negProd then (f32 ((s.core c).f32of rs1)).neg else f32 ((s.core c).f32of rs1)) = a)
    (hz : (if negAdd then (f32 ((s.core c).f32of rs3)).neg else f32 ((s.core c).f32of rs3)) = z) : fpFma c func negProd negAdd rd rs1 rs2 rs3 s =
    .next (s.upd c fun k => (k.landF 4 rd (roundOp (a.fma (f32 ((s.core c).f32of rs2)) z))).retire false) := by
  subst ha hz
  exact issueP_ready_core h rfl rfl rfl

theorem fpCmp_ready (h : s.Ready c false) (func op : Nat) {r : Bool × FF}
    (hr : FV.rel op (f32 ((s.core c).f32of rs1)) (f32 ((s.core c).f32of rs2)) = r) : fpCmp c func op rd rs1 rs2 s =
    .next (s.upd c fun k => (k.landXF 2 rd (if r.1 then 1 else 0) r.2).retire false) := by
  subst hr
  exact issueP_ready_core h rfl rfl rfl

/-- Settles O15: each form lands one rounded result with its flags, an integer, or the bits it moves. -/
theorem floatResults : Obligations.FloatResults := by
  unfold Obligations.FloatResults
  intro s c rd rs1 rs2 rs3 h k a b z flags out int rel
  simp only [exec_fadd, exec_fsub, exec_fmul, exec_fdiv, exec_fsqrt, exec_fmin, exec_fmax, exec_fabs, exec_fneg, exec_fma, exec_fms, exec_fnma,
    exec_fnms, exec_feq, exec_flt, exec_fle, exec_fcvtSL, exec_fcvtLS, exec_fmvXF, exec_fmvFX]
  exact ⟨fpR_ready h 0 4 faddB, fpR_ready h 1 4 fsubB, fpR_ready h 2 4 fmulB, fpR_ready h 3 14 fdivB, fpU_ready h 4 14 fsqrtB,
    fpR_ready h 5 2 _, fpR_ready h 6 2 _, fpU_ready h 7 2 _, fpU_ready h 8 2 _, fpFma_ready h 0 false false rfl rfl,
    fpFma_ready h 1 false true rfl rfl, fpFma_ready h 2 true false rfl rfl, fpFma_ready h 3 true true rfl rfl, fpCmp_ready h 0x10 0 rfl,
    fpCmp_ready h 0x11 1 rfl, fpCmp_ready h 0x12 2 rfl, issueP_ready_core h rfl rfl rfl, issueP_ready_core h rfl rfl rfl,
    issueP_ready_core h rfl rfl rfl, issueP_ready_core h rfl rfl rfl⟩

end Sys2Proof.Machine
end

section
/-! SUPPORT. What local loads and stores leave of their own core, and the Carousel's checks (R71, R72, R84 to R86, R451). -/

namespace Sys2Proof.Machine

variable {s : State} {c : Nat}

/-! ### A core but for its pending interrupts -/

/-- The core with `p` pending. -/
def Core.withIpend (k : Core) (p : BitVec 8) : Core := { k with tr := { k.tr with ipend := p } }

/-- The event counters and the enables are not the pending interrupts: a count is the same whatever is pending. -/
theorem Core.count_withIpend (k : Core) (p : BitVec 8) (i n : Nat) : ∃ q, (k.withIpend p).count i n = (k.count i n).withIpend q := by
  have hev : (k.withIpend p).ev = k.ev := rfl
  unfold Core.count
  by_cases hi : 30 ≤ i
  · exact ⟨p, by rw [if_pos hi, if_pos hi]⟩
  rw [if_neg hi, if_neg hi]
  dsimp only
  by_cases hv : (vget k.ev.evc i 0).toNat + n < 2 ^ 48
  · exact ⟨p, by rw [hev, if_pos hv, if_pos hv]; rfl⟩
  rw [hev, if_neg hv, if_neg hv]
  by_cases hb : bitOf k.ev.ien.toNat i = true
  · exact ⟨p ||| BitVec.ofNat 8 (2 ^ 4), by rw [if_pos hb, if_pos hb]; rfl⟩
  · exact ⟨p, by rw [if_neg hb, if_neg hb]; rfl⟩
theorem Core.boosted_withIpend (k : Core) (p : BitVec 8) (n : Nat) : ∃ q, (k.withIpend p).boosted n = (k.boosted n).withIpend q := by
  unfold Core.boosted
  change ∃ q, (if k.pw.boostTill.isSome = true then _ else _) = _
  split
  · exact Core.count_withIpend k p 27 n
  · exact ⟨p, rfl⟩
/-- What is pending has no effect on a beat but on what is pending after it. -/
theorem Core.beat_withIpend (k : Core) (p : BitVec 8) : ∃ q, (k.withIpend p).beat = k.beat.withIpend q := by
  obtain ⟨q, hq⟩ := Core.count_withIpend { k with tm := { k.tm with step := k.tm.step + 1 } } p 0 1
  obtain ⟨r, hr⟩ := Core.boosted_withIpend (Core.count { k with tm := { k.tm with step := k.tm.step + 1 } } 0 1) q 1
  refine ⟨r, ?_⟩
  rw [← Core.beat] at hr
  rw [← hr, ← hq]; rfl
theorem Core.retire_withIpend (k : Core) (p : BitVec 8) (w : Bool) : ∃ q, (k.withIpend p).retire w = (k.retire w).withIpend q :=
  Core.beat_withIpend { k with flow := k.flow.advance w } p

/-! ### Writes of memory by the core itself -/

theorem timeFires_cores (pa n : Nat) (ms : List (Nat × Nat × Nat)) : (s.timeFires pa n ms).cores = s.cores := by
  unfold State.timeFires
  induction ms generalizing s with
  | nil => rfl
  | cons m ms ih =>
    rw [List.foldl_cons, ih]
    split <;> rfl
theorem timeFires_log (pa n : Nat) (ms : List (Nat × Nat × Nat)) : (s.timeFires pa n ms).log = s.log := by
  unfold State.timeFires
  induction ms generalizing s with
  | nil => rfl
  | cons m ms ih =>
    rw [List.foldl_cons, ih]
    split <;> rfl
theorem fireAll_log (ms : List (Nat × Nat × Nat)) : (s.fireAll ms).log = s.log := by
  unfold State.fireAll
  induction ms generalizing s with
  | nil => rfl
  | cons m ms ih => rw [List.foldl_cons, ih]; rfl
/-- Monitors that fire change no core but those that armed them. -/
theorem fireAll_core {ms : List (Nat × Nat × Nat)} (h : ∀ m ∈ ms, m.1 ≠ c) : (s.fireAll ms).core c = s.core c := by
  unfold State.fireAll
  induction ms generalizing s with
  | nil => rfl
  | cons m ms ih =>
    rw [List.foldl_cons, ih fun x hx => h x (List.mem_cons_of_mem _ hx), State.core_upd_ne _ (h m List.mem_cons_self)]
    rfl

/-- No monitor of a core fires for its own write (R380). -/
theorem fireOn_core (pa n : Nat) : (s.fireOn pa n c).core c = s.core c := by
  unfold State.fireOn
  split
  · rfl
  · rw [fireAll_core fun m hm => ?_]
    · rw [State.core, timeFires_cores]; rfl
    · have := (List.mem_filter.1 hm).2
      simp at this
      exact this.1
theorem fireOn_log (pa n who : Nat) : (s.fireOn pa n who).log = s.log := by
  unfold State.fireOn
  split
  · rfl
  · rw [fireAll_log, timeFires_log]

/-- What a local store leaves beside memory, whatever words lose their poison by it. -/
theorem storeLocal_rest (pa : Nat) (bs : List Byte) (who : Nat) :
    ∃ ps, s.storeLocal pa bs who = { s.writePhys pa bs who with poison := ps } := by
  unfold State.storeLocal
  generalize s.writePhys pa bs who = t
  induction cutUnits 32 (bs.length + 1) pa bs generalizing t with
  | nil => exact ⟨t.poison, rfl⟩
  | cons p ps ih =>
    rw [List.foldl_cons]
    obtain ⟨q, hq⟩ := ih (if p.2.length = 32 then t.clearPoison p.1 else t)
    refine ⟨q, hq.trans ?_⟩
    split <;> rfl
theorem storeLocal_core (pa : Nat) (bs : List Byte) : (s.storeLocal pa bs c).core c = s.core c := by
  obtain ⟨ps, h⟩ := storeLocal_rest (s := s) pa bs c
  rw [h]
  exact fireOn_core pa bs.length
theorem storeLocal_log (pa : Nat) (bs : List Byte) (who : Nat) : (s.storeLocal pa bs who).log = s.log := by
  obtain ⟨ps, h⟩ := storeLocal_rest (s := s) pa bs who
  rw [h]
  exact fireOn_log pa bs.length who

/-! ### Notices (R364, R451) -/

theorem State.mapSaved_core (s : State) (f : Nat × Core × Mem → Nat × Core × Mem) (c : Nat) : (s.mapSaved f).core c = s.core c := rfl
theorem State.notifyPart_core (s : State) (p c : Nat) : ∃ q, (s.notifyPart p).core c = (s.core c).withIpend q := by
  unfold State.notifyPart
  rw [State.mapSaved_core, State.core_map]
  split
  · split
    · exact ⟨_, rfl⟩
    · exact ⟨(s.core c).tr.ipend, rfl⟩
  · exact ⟨(s.core c).tr.ipend, rfl⟩
theorem State.notifyParts_core (ps : List Nat) (s : State) (c : Nat) :
    ∃ q, (ps.foldl State.notifyPart s).core c = (s.core c).withIpend q := by
  induction ps generalizing s with
  | nil => exact ⟨(s.core c).tr.ipend, rfl⟩
  | cons p ps ih =>
    obtain ⟨q, hq⟩ := ih (s.notifyPart p)
    obtain ⟨r, hr⟩ := s.notifyPart_core p c
    exact ⟨q, by rw [List.foldl_cons, hq, hr]; rfl⟩
theorem State.notifyParts_rest (ps : List Nat) (s : State) :
    (ps.foldl State.notifyPart s).log = s.log ∧ (ps.foldl State.notifyPart s).mem = s.mem := by
  induction ps generalizing s with
  | nil => exact ⟨rfl, rfl⟩
  | cons p ps ih => exact ih (s.notifyPart p)
/-- A notice raises interrupts and does no more. -/
theorem notifyAt_core (d pa : Nat) (s : State) (c : Nat) : ∃ q, (notifyAt d pa s).core c = (s.core c).withIpend q := by
  unfold notifyAt
  split
  · split
    · exact ⟨(s.core c).tr.ipend, rfl⟩
    · exact s.notifyPart_core _ c
  · exact s.notifyParts_core _ c
theorem notifyAt_rest (d pa : Nat) (s : State) : (notifyAt d pa s).log = s.log ∧ (notifyAt d pa s).mem = s.mem := by
  unfold notifyAt
  split
  · split <;> exact ⟨rfl, rfl⟩
  · exact s.notifyParts_rest _
theorem notePartial_core (d pa reason : Nat) (pc : Word) (s : State) (c : Nat) :
    ∃ q, (notePartial d pa reason pc s).core c = (s.core c).withIpend q := notifyAt_core d pa _ c
theorem notePartial_mem (d pa reason : Nat) (pc : Word) (s : State) : (notePartial d pa reason pc s).mem = s.mem :=
  (notifyAt_rest d pa _).2
theorem notePartials_core (d reason : Nat) (pc : Word) (ps : List (Nat × List Byte)) (s : State) (c : Nat) :
    ∃ q, (ps.foldl (fun s p => notePartial d p.1 reason pc s) s).core c = (s.core c).withIpend q := by
  induction ps generalizing s with
  | nil => exact ⟨(s.core c).tr.ipend, rfl⟩
  | cons p ps ih =>
    obtain ⟨q, hq⟩ := ih (notePartial d p.1 reason pc s)
    obtain ⟨r, hr⟩ := notePartial_core d p.1 reason pc s c
    exact ⟨q, by rw [List.foldl_cons, hq, hr]; rfl⟩
theorem notePartials_mem (d reason : Nat) (pc : Word) (ps : List (Nat × List Byte)) (s : State) :
    (ps.foldl (fun s p => notePartial d p.1 reason pc s) s).mem = s.mem := by
  induction ps generalizing s with
  | nil => rfl
  | cons p ps ih => rw [List.foldl_cons, ih, notePartial_mem]

/-! ### Local stores (R72, R451) -/

theorem storeLocals_core (runs : List (Nat × List Byte)) (s : State) :
    (runs.foldl (fun s p => s.storeLocal p.1 p.2 c) s).core c = s.core c := by
  induction runs generalizing s with
  | nil => rfl
  | cons r rs ih => rw [List.foldl_cons, ih, storeLocal_core]
theorem storeLocals_mem (runs : List (Nat × List Byte)) (s : State) (who : Nat) :
    (runs.foldl (fun s p => s.storeLocal p.1 p.2 who) s).mem = runs.foldl (fun m r => m.put r.1 r.2) s.mem := by
  induction runs generalizing s with
  | nil => rfl
  | cons r rs ih => rw [List.foldl_cons, ih, storeLocal_mem, List.foldl_cons]

/-- The pieces of a run lie inside it. -/
theorem cutUnits_within (u fuel a : Nat) (bs : List Byte) {p : Nat × List Byte} (h : p ∈ cutUnits u fuel a bs) :
    a ≤ p.1 ∧ p.1 + p.2.length ≤ a + bs.length := by
  induction fuel generalizing a bs with
  | zero => cases h
  | succ fuel ih =>
    unfold cutUnits at h
    split at h
    · cases h
    · rcases List.mem_cons.1 h with rfl | h
      · exact ⟨Nat.le_refl _, by simp⟩
      · obtain ⟨hlo, hhi⟩ := ih _ _ h
        by_cases hn : u - a % u ≤ bs.length
        · rw [List.length_drop] at hhi
          exact ⟨by omega, by omega⟩
        · rw [List.drop_eq_nil_of_le (by omega)] at h
          cases fuel with
          | zero => cases h
          | succ fuel => simp [cutUnits] at h
theorem State.isPoisoned_mono {a n b m : Nat} (h : s.isPoisoned a n = false) (hab : a ≤ b) (hbm : b + m ≤ a + n) :
    s.isPoisoned b m = false := by
  unfold State.isPoisoned at h ⊢
  rw [List.any_eq_false] at h ⊢
  intro u hu
  have := h u hu
  simp only [decide_eq_true_eq] at this ⊢
  omega

/-- The words that runs of bytes write in part. -/
def partWords (runs : List (Nat × List Byte)) : List (Nat × List Byte) :=
  runs.flatMap fun r => (cutUnits 32 (r.2.length + 1) r.1 r.2).filter fun p => p.2.length != 32
/-- A word that sound runs write in part is sound. -/
theorem partWords_sound {runs : List (Nat × List Byte)} (h : ∀ r ∈ runs, s.isPoisoned r.1 r.2.length = false) :
    (partWords runs).filter (fun p => s.isPoisoned p.1 p.2.length) = [] := by
  refine List.filter_eq_nil_iff.2 fun p hp => ?_
  obtain ⟨r, hr, hp⟩ := List.mem_flatMap.1 hp
  obtain ⟨hlo, hhi⟩ := cutUnits_within _ _ _ _ (List.mem_of_mem_filter hp)
  simp [State.isPoisoned_mono (h r hr) hlo hhi]

/-- The core after a local store: the store that it remembers as its last one (R451). -/
def Core.withMerged (k : Core) (ws : List Nat) : Core := { k with tm := { k.tm with merged := ⟨k.tm.step, k.flow.pc, ws⟩ } }

theorem localPut_mem (runs : List (Nat × List Byte)) : (localPut c runs s).mem = runs.foldl (fun m r => m.put r.1 r.2) s.mem := by
  unfold localPut
  dsimp only
  rw [State.upd_mem, notePartials_mem, storeLocals_mem]
theorem localPut_core (hc : c < 160) (runs : List (Nat × List Byte)) :
    ∃ ws p, (localPut c runs s).core c = ((s.core c).withMerged ws).withIpend p := by
  obtain ⟨p, hp⟩ := notePartials_core c 0x52 (s.core c).flow.pc ((partWords runs).filter fun p => s.isPoisoned p.1 p.2.length)
    (runs.foldl (fun s p => s.storeLocal p.1 p.2 c) s) c
  rw [storeLocals_core] at hp
  refine ⟨(partWords runs).map fun p => p.1 / 32 * 32, p, ?_⟩
  unfold localPut
  dsimp only
  rw [State.core_upd_self c _ hc, ← partWords, hp]
  rfl
/-- A local store into words none of which is poisoned notices nothing. -/
theorem localPut_core_sound (hc : c < 160) {runs : List (Nat × List Byte)} (h : ∀ r ∈ runs, s.isPoisoned r.1 r.2.length = false) :
    ∃ ws, (localPut c runs s).core c = (s.core c).withMerged ws := by
  refine ⟨(partWords runs).map fun p => p.1 / 32 * 32, ?_⟩
  unfold localPut
  dsimp only
  rw [State.core_upd_self c _ hc, ← partWords, partWords_sound h, List.foldl_nil, storeLocals_core]
  rfl

end Sys2Proof.Machine
end

section
/-! SUPPORT. Carousel accesses (R84 to R86). -/

namespace Sys2Proof.Machine

variable {s : State} {c : Nat}

/-- An instruction of one word whose check finds nothing: its effect, then the beat. -/
theorem issueP_ready_run (h : s.Ready c false) {e : Enc} (he : e.wide = false) {check : State → Option Trap} (eff : State → State)
    (hc : check s = none) : issueP c e check eff s = done s ((eff s).upd c fun k => k.retire false) := by
  rw [issueP_ready h (by simp [he]) check eff hc, he]

/-! ### The checks of a Carousel access -/

section
variable {k : Core} {e : Enc} {set : BitVec 3} {size n : Nat} {xi : Reg}

theorem carFault_illegal : carFault k e set size n xi true = some { cause := 1, edata0 := e.data } := rfl
theorem carFault_refused (h : k.carOk set n = false) : carFault k e set size n xi false = some { cause := 4, index := set.setWidth 16 } := by
  simp only [carFault, h, carCfg, BitVec.ofNat_toNat]; rfl
theorem carFault_misaligned (h : k.carOk set n = true) (ha : (k.carAddr set size (k.rx xi)).toNat % n ≠ 0) :
    carFault k e set size n xi false = some { cause := 2, edata0 := k.carAddr set size (k.rx xi), edata1 := k.flow.pc } := by
  simp [carFault, h, localFault, ha, misaligned]
theorem carFault_outside (h : k.carOk set n = true) (ha : (k.carAddr set size (k.rx xi)).toNat % n = 0)
    (hw : k.inWindow (k.carAddr set size (k.rx xi)).toNat n = false ∨ 2 ^ 64 ≤ k.carSum set size (k.rx xi)) :
    carFault k e set size n xi false = some { cause := 3, edata0 := k.carAddr set size (k.rx xi), edata1 := k.flow.pc } := by
  by_cases hin : k.inWindow (k.carAddr set size (k.rx xi)).toNat n = true
  · have hsum := hw.resolve_left (by simp [hin])
    simpa [carFault, h, localFault, ha, hin, busError] using hsum
  · simp [carFault, h, localFault, ha, hin, busError]
theorem carFault_none (h : k.carOk set n = true) (ha : (k.carAddr set size (k.rx xi)).toNat % n = 0)
    (hw : k.inWindow (k.carAddr set size (k.rx xi)).toNat n = true) (hs : k.carSum set size (k.rx xi) < 2 ^ 64) :
    carFault k e set size n xi false = none := by
  simpa [carFault, h, localFault, ha, hw] using hs

end

/-! ### Address and index (R85) -/

/-- In the linear mode the offset is the index modulo the length. -/
theorem Core.carAddr_linear (k : Core) (set : BitVec 3) (n : Nat) (x : Word) (h : k.carMode set = false) :
    k.carAddr set n x = k.cb set + BitVec.ofNat 64 (x.toNat % k.cl set) := by
  have hidx : k.carIdx set x 0 = x.toNat % k.cl set := by
    rw [Core.carIdx, Int.natCast_zero, Int.zero_mul, Int.add_zero, ← Int.natCast_mod, Int.toNat_natCast]
  simp only [Core.carAddr, Core.carSum, Core.carOff, h, hidx, BitVec.ofNat_add, BitVec.ofNat_toNat, BitVec.setWidth_eq]
  rfl
theorem Core.carStep_one (k : Core) (set : BitVec 3) (xi : Reg) :
    k.carStep set xi 1 = k.landX 1 xi (BitVec.ofNat 64 ((((k.rx xi).toNat : Int) + k.stride set) % (k.cl set : Int)).toNat) := by
  rw [Core.carStep, Core.carIdx, Int.natCast_one, Int.one_mul]

/-! ### What a local access does -/

/-- A local load of sound bytes. -/
theorem localLoad_sound {a : Word} {n : Nat} (w : Nat → PendW) (h : s.isPoisoned (s.windowPa c a.toNat) n = false) :
    localLoad c a n w s = s.upd c fun k => k.addPend
      ⟨k.tm.step + 6, w (s.mem.nat (s.windowPa c a.toNat) n), some (.scalar, a, (s.core c).flow.pc)⟩ := by
  unfold localLoad
  dsimp only
  rw [if_neg (by simp [h])]
  exact State.upd_congr c rfl

theorem leBytes_getD (n v i : Nat) (h : i < n) : (leBytes n v).getD i 0 = BitVec.ofNat 8 (v / 256 ^ i) := by
  induction n generalizing v i with
  | zero => omega
  | succ n ih =>
    cases i with
    | zero => simp [leBytes]
    | succ i =>
      rw [leBytes, List.getD_cons_succ, ih _ _ (by omega), Nat.div_div_eq_div_mul, Nat.pow_succ']
/-- The bytes of memory once the low `n` bytes of `v` are put at `pa`. -/
theorem Mem.get_put_leBytes (m : Mem) (pa n v x : Nat) : (m.put pa (leBytes n v)).get x =
    if pa ≤ x ∧ x < pa + n then BitVec.ofNat 8 (v / 256 ^ (x - pa)) else m.get x := by
  rw [Mem.get_put, leBytes_length]
  by_cases h : pa ≤ x ∧ x < pa + n
  · rw [if_pos h, if_pos h, leBytes_getD _ _ _ (by omega)]
  · rw [if_neg h, if_neg h]

/-! ### The two forms on a ready core -/

variable {r xi : Reg} {set size : BitVec 3} {sx : Bool}

theorem ldC_trap (h : s.Ready c false) {t : Trap} (hf : carFault (s.core c) (encC r xi set size 0 sx) set (2 ^ size.toNat) (2 ^ size.toNat) xi
    (decide (3 < size.toNat) || r == xi) = some t) :
    exec (.ldC c r xi set size sx) s = .next { takeException c t s with pending := s.pending } := by
  rw [exec_ldC, execLdC]
  exact issueP_ready_trap h rfl _ hf
theorem stC_trap (h : s.Ready c false) {t : Trap} (hf : carFault (s.core c) (encC r xi set size 1 sx) set (2 ^ size.toNat) (2 ^ size.toNat) xi
    (decide (3 < size.toNat)) = some t) :
    exec (.stC c r xi set size sx) s = .next { takeException c t s with pending := s.pending } := by
  rw [exec_stC, execStC]
  exact issueP_ready_trap h rfl _ hf

theorem ldC_sound (h : s.Ready c false) (hf : carFault (s.core c) (encC r xi set size 0 sx) set (2 ^ size.toNat) (2 ^ size.toNat) xi
      (decide (3 < size.toNat) || r == xi) = none)
    (hp : s.isPoisoned (s.windowPa c ((s.core c).carAddr set (2 ^ size.toNat) ((s.core c).rx xi)).toNat) (2 ^ size.toNat) = false) :
    exec (.ldC c r xi set size sx) s = .next (s.upd c fun k => ((k.addPend ⟨k.tm.step + 6, .x (s.core c).bank r (extend (2 ^ size.toNat) sx
      (s.mem.nat (s.windowPa c ((s.core c).carAddr set (2 ^ size.toNat) ((s.core c).rx xi)).toNat) (2 ^ size.toNat))),
      some (.scalar, (s.core c).carAddr set (2 ^ size.toNat) ((s.core c).rx xi), (s.core c).flow.pc)⟩).carStep set xi 1).retire false) := by
  rw [exec_ldC, execLdC]
  rw [issueP_ready_run h rfl _ hf]
  dsimp only
  rw [localLoad_sound _ hp, State.upd_upd _ _ _ h.core, done_upd_upd _ _ h.core]

theorem stC_run (h : s.Ready c false) (hf : carFault (s.core c) (encC r xi set size 1 sx) set (2 ^ size.toNat) (2 ^ size.toNat) xi
      (decide (3 < size.toNat)) = none) : exec (.stC c r xi set size sx) s =
    done s (((localPut c [(s.windowPa c ((s.core c).carAddr set (2 ^ size.toNat) ((s.core c).rx xi)).toNat,
      leBytes (2 ^ size.toNat) ((s.core c).rx r).toNat)] s).upd c fun k => k.carStep set xi 1).upd c fun k => k.retire false) := by
  rw [exec_stC, execStC]
  exact issueP_ready_run h rfl _ hf

/-- Settles O13: the checks of R86 in their order, and with none failing the access beside the step of the index. -/
theorem carouselAccess : Obligations.CarouselAccess := by
  unfold Obligations.CarouselAccess
  intro s c r xi set size sx h k n bad both
  refine ⟨fun hs => ⟨ldC_trap h ?_, stC_trap h ?_⟩, fun hr => ldC_trap h ?_, fun hs => ?_⟩
  · rw [decide_eq_true hs]; exact carFault_illegal
  · rw [decide_eq_true hs]; exact carFault_illegal
  · rw [hr, beq_self_eq_true, Bool.or_true]; exact carFault_illegal
  intro a pa next
  have hsize : decide (3 < size.toNat) = false := decide_eq_false (Nat.not_lt.2 hs)
  have hload (hr : r ≠ xi) : (decide (3 < size.toNat) || r == xi) = false := by rw [hsize, beq_eq_false_iff_ne.2 hr]; rfl
  have faults {x : Trap} (hx : ∀ e, carFault k e set n n xi false = some x) : both x :=
    ⟨fun hr => ldC_trap h (by rw [hload hr]; exact hx _), stC_trap h (by rw [hsize]; exact hx _)⟩
  refine ⟨fun hm _ => k.carAddr_linear set n _ hm, fun hok ha hw hsum => ⟨fun hr hp => ?_, ?_⟩,
    fun hok ha => faults fun e => carFault_misaligned hok ha, fun hok ha hw => faults fun e => carFault_outside hok ha hw,
    fun hok => faults fun e => carFault_refused hok⟩
  · rw [ldC_sound h (by rw [hload hr]; exact carFault_none hok ha hw hsum) hp]
    refine congrArg _ (State.upd_congr c ?_)
    rw [Core.carStep_one]
    rfl
  · obtain ⟨t, ht, hreq⟩ := answer_of_done (stC_run (r := r) (sx := sx) h (by rw [hsize]; exact carFault_none hok ha hw hsum))
    have hmem : ∀ x, t.mem.get x = if pa ≤ x ∧ x < pa + n then BitVec.ofNat 8 ((k.rx r).toNat / 256 ^ (x - pa)) else s.mem.get x := by
      intro x
      rw [hreq.mem, State.upd_mem, State.upd_mem, localPut_mem]
      exact Mem.get_put_leBytes _ _ _ _ _
    have hcore : t.core c = ((((localPut c [(pa, leBytes n (k.rx r).toNat)] s).core c).carStep set xi 1).retire false) := by
      rw [hreq.core, State.core_upd_self c _ h.core, State.core_upd_self c _ h.core]
    by_cases hp : s.isPoisoned pa n = false
    · obtain ⟨ws, hws⟩ := localPut_core_sound (s := s) h.core (runs := [(pa, leBytes n (k.rx r).toNat)])
        (by simpa [leBytes_length] using hp)
      rw [hws, Core.carStep_one] at hcore
      exact ⟨t, ws, ht, by rw [hcore]; rfl, fun _ => hcore, hmem⟩
    · obtain ⟨ws, p, hws⟩ := localPut_core (s := s) h.core [(pa, leBytes n (k.rx r).toNat)]
      rw [hws, Core.carStep_one] at hcore
      obtain ⟨q, hq⟩ := Core.retire_withIpend ((k.withMerged ws).landX 1 xi next) p false
      refine ⟨t, ws, ht, ?_, fun hs => absurd hs hp, hmem⟩
      rw [show t.core c = _ from hcore.trans hq]
      rfl

end Sys2Proof.Machine
end

section
/-! SUPPORT. What the entry of a handler leaves in the core, and what errors met by a core leave of the state (R69, R104, R106, R451). -/

namespace Sys2Proof.Machine

variable {s : State} {c : Nat}

/-! ### Steps that pass -/

section
variable (k : Core) (t : Nat)
@[simp] theorem Core.idleTo_x : (k.idleTo t).x = k.x := by unfold Core.idleTo; split <;> simp
@[simp] theorem Core.idleTo_v : (k.idleTo t).v = k.v := by unfold Core.idleTo; split <;> simp
@[simp] theorem Core.idleTo_rsT : (k.idleTo t).rsT = k.rsT := by unfold Core.idleTo; split <;> simp
@[simp] theorem Core.idleTo_rsS : (k.idleTo t).rsS = k.rsS := by unfold Core.idleTo; split <;> simp
@[simp] theorem Core.idleTo_rsM : (k.idleTo t).rsM = k.rsM := by unfold Core.idleTo; split <;> simp
@[simp] theorem Core.idleTo_cnt : (k.idleTo t).cnt = k.cnt := by unfold Core.idleTo; split <;> simp
@[simp] theorem Core.idleTo_pend : (k.idleTo t).tm.pend = k.tm.pend := by unfold Core.idleTo; split <;> simp
@[simp] theorem Core.idleTo_wait : (k.idleTo t).wait = k.wait := by unfold Core.idleTo; split <;> simp
@[simp] theorem Core.idleTo_tr_save1 : (k.idleTo t).tr.save1 = k.tr.save1 := by unfold Core.idleTo; split <;> simp
@[simp] theorem Core.idleTo_tr_save2 : (k.idleTo t).tr.save2 = k.tr.save2 := by unfold Core.idleTo; split <;> simp
end

theorem TrapRegs.save_congr {u v : TrapRegs} (h1 : u.save1 = v.save1) (h2 : u.save2 = v.save2) (b : Bank) : u.save b = v.save b := by
  cases b
  · exact h1
  · exact h1
  · exact h2
theorem TrapRegs.save_setSave (u : TrapRegs) (b : Bank) (v : SaveSet) : (u.setSave b v).save b = v := by cases b <;> rfl
theorem Core.rs_congr {k k' : Core} (ht : k'.rsT = k.rsT) (hs : k'.rsS = k.rsS) (hm : k'.rsM = k.rsM) (p : Priv) : k'.rs p = k.rs p := by
  cases p
  · exact ht
  · exact hs
  · exact hm

/-- An event counter that overflows raises interrupt 4 and no other. -/
theorem Core.count_ipend (k : Core) (i n : Nat) {j : Nat} (hj : j ≠ 4) : (k.count i n).tr.ipend.getLsbD j = k.tr.ipend.getLsbD j := by
  have hraise (m : Core) : (m.raise 4).tr.ipend.getLsbD j = m.tr.ipend.getLsbD j := by
    have : (BitVec.ofNat 8 (2 ^ 4)).getLsbD j = false := by
      rw [BitVec.getLsbD_ofNat, Nat.testBit_two_pow]
      simp [Ne.symm hj]
    simp only [Core.raise, BitVec.getLsbD_or, this, Bool.or_false]
  unfold Core.count
  split
  · rfl
  dsimp only
  split
  · rfl
  split
  · exact hraise _
  · rfl
theorem Core.boosted_ipend (k : Core) (n : Nat) {j : Nat} (hj : j ≠ 4) : (k.boosted n).tr.ipend.getLsbD j = k.tr.ipend.getLsbD j := by
  unfold Core.boosted
  split
  · exact k.count_ipend 27 n hj
  · rfl
theorem Core.idle_ipend (k : Core) (n : Nat) {j : Nat} (hj : j ≠ 4) : (k.idle n).tr.ipend.getLsbD j = k.tr.ipend.getLsbD j := by
  rw [Core.idle, Core.boosted_ipend _ _ hj, Core.count_ipend _ _ _ hj]
theorem Core.idleTo_ipend (k : Core) (t : Nat) {j : Nat} (hj : j ≠ 4) : (k.idleTo t).tr.ipend.getLsbD j = k.tr.ipend.getLsbD j := by
  unfold Core.idleTo
  split
  · exact k.idle_ipend _ hj
  · rfl

/-! ### The entry of a handler (R104, R106) -/

section
variable {n h : Nat} {b : Bank} {t : Trap} {esc gate barw async : Bool}

/-- What the handler's bank saves. -/
theorem enterBank_save (hc : c < 160) : let v := ((enterBank c n b t esc gate barw async h s).core c).tr.save b
    v.epc = t.epc.getD (s.core c).flow.resume ∧ v.ecause = ecauseOf t esc ∧ v.edata0 = t.edata0 ∧ v.edata1 = t.edata1 := by
  unfold enterBank
  dsimp only
  rw [State.core_upd_self c _ hc, TrapRegs.save_congr (Core.idleTo_tr_save1 _ _) (Core.idleTo_tr_save2 _ _),
    TrapRegs.save_congr (Core.count_tr_save1 _ _ _) (Core.count_tr_save2 _ _ _)]
  rw [show ∀ (u : TrapRegs) (st : Status), ({ u with status := st } : TrapRegs).save b = u.save b from fun u st => by cases b <;> rfl]
  rw [TrapRegs.save_setSave]
  exact ⟨rfl, rfl, rfl, rfl⟩
/-- The state that the handler runs in. -/
theorem enterBank_status (hc : c < 160) : let k := (enterBank c n b t esc gate barw async h s).core c
    k.level = Priv.dec (s.desc c n).tpriv ∧ k.bank = b ∧ k.tr.status.ie = false ∧ k.flow.pc = BitVec.ofNat 64 (s.desc c n).haddr ∧
    k.wait = none := by
  unfold enterBank
  dsimp only
  rw [State.core_upd_self c _ hc]
  simp only [Core.level, Core.bank, Core.idleTo_tr_status, Core.count_tr_status, Core.idleTo_flow, Core.count_flow, Core.idleTo_wait,
    Core.count_wait]
  exact ⟨trivial, trivial, trivial, rfl, trivial⟩
/-- What an entry leaves as it was. -/
theorem enterBank_frame (hc : c < 160) : let k := (enterBank c n b t esc gate barw async h s).core c
    k.v = (s.core c).v ∧ k.cnt = (s.core c).cnt ∧ k.tm.pend = (s.core c).tm.pend ∧ (∀ p, k.rs p = (s.core c).rs p) ∧
    ∀ j, j ≠ 4 → k.tr.ipend.getLsbD j = (s.core c).tr.ipend.getLsbD j := by
  unfold enterBank
  dsimp only
  rw [State.core_upd_self c _ hc]
  refine ⟨by simp, by simp, by simp, fun p => Core.rs_congr (by simp) (by simp) (by simp) p, fun j hj => ?_⟩
  rw [Core.idleTo_ipend _ _ hj, Core.count_ipend _ _ _ hj]
  cases b <;> rfl
end

/-- Descriptors stand in memory. -/
theorem State.desc_congr {t : State} (h : t.mem = s.mem) (c n : Nat) : t.desc c n = s.desc c n := by
  simp only [State.desc, State.descWord, h]

/-- The core `k` has taken the cause `t` with the descriptor `d` and is now `k'`. -/
structure Core.Enters (k : Core) (d : Desc) (t : Trap) (k' : Core) : Prop where
  epc : (k'.tr.save d.bank).epc = t.epc.getD k.flow.resume
  ecause : (k'.tr.save d.bank).ecause = ecauseOf t false
  edata0 : (k'.tr.save d.bank).edata0 = t.edata0
  edata1 : (k'.tr.save d.bank).edata1 = t.edata1
  level : k'.level = Priv.dec d.tpriv
  bank : k'.bank = d.bank
  ie : k'.tr.status.ie = false
  pc : k'.flow.pc = BitVec.ofNat 64 d.haddr
  wait : k'.wait = none
  v : k'.v = k.v
  cnt : k'.cnt = k.cnt
  pend : k'.tm.pend = k.tm.pend
  rs : ∀ p, k'.rs p = k.rs p
  ipend : ∀ j, j ≠ 4 → k'.tr.ipend.getLsbD j = k.tr.ipend.getLsbD j

theorem enterBank_enters (hc : c < 160) (n : Nat) (t : Trap) (gate barw async : Bool) (h : Nat) :
    (s.core c).Enters (s.desc c n) t ((enterBank c n (s.desc c n).bank t false gate barw async h s).core c) := by
  obtain ⟨hepc, hecause, h0, h1⟩ := enterBank_save (s := s) (n := n) (b := (s.desc c n).bank) (t := t) (esc := false) (gate := gate)
    (barw := barw) (async := async) (h := h) hc
  obtain ⟨hlevel, hbank, hie, hpc, hwait⟩ := enterBank_status (s := s) (n := n) (b := (s.desc c n).bank) (t := t) (esc := false)
    (gate := gate) (barw := barw) (async := async) (h := h) hc
  obtain ⟨hv, hcnt, hpend, hrs, hipend⟩ := enterBank_frame (s := s) (n := n) (b := (s.desc c n).bank) (t := t) (esc := false) (gate := gate)
    (barw := barw) (async := async) (h := h) hc
  exact ⟨hepc, hecause, h0, h1, hlevel, hbank, hie, hpc, hwait, hv, hcnt, hpend, hrs, hipend⟩

/-- A synchronous cause with a right descriptor, its bank free, enters the handler and does no more. -/
theorem enterSync_enters {t : Trap} {d : Desc} (h : Nat) (hc : c < 160) (hr : (s.core c).tr.status.resc = false)
    (hd : d = s.desc c t.cause.toNat) (hv : d.valid t.cause.toNat = true) (hl : (s.core c).level.num ≤ d.tpriv)
    (hb : (s.core c).tr.status.busy d.bank = false) :
    (s.core c).Enters d t ((enterSync c t h s).core c) ∧ (enterSync c t h s).mem = s.mem ∧ (enterSync c t h s).log = s.log ∧
      (enterSync c t h s).time = s.time := by
  subst hd
  unfold enterSync
  rw [if_neg (by simp [hr]), routeOf_valid _ _ hv hl hb]
  exact ⟨enterBank_enters hc .., rfl, rfl, rfl⟩

/-! ### Errors that a core meets (R69, R451) -/

theorem noteUE_core (d pa reason : Nat) (pc : Word) (s : State) (source c : Nat) :
    ∃ q, (noteUE d pa reason pc s source).core c = (s.core c).withIpend q := by
  unfold noteUE
  dsimp only
  split
  · exact ⟨(s.core c).tr.ipend, rfl⟩
  · exact notifyAt_core d pa _ c
theorem noteUE_mem (d pa reason : Nat) (pc : Word) (s : State) (source : Nat) : (noteUE d pa reason pc s source).mem = s.mem := by
  unfold noteUE
  dsimp only
  split
  · rfl
  · exact (notifyAt_rest d pa _).2
theorem noteUE_logNext (d pa reason : Nat) (pc : Word) (s : State) (source : Nat) :
    (noteUE d pa reason pc s source).log.next = s.log.next + 1 := by
  unfold noteUE
  dsimp only
  split
  · rfl
  · rw [(notifyAt_rest d pa _).1]; rfl

theorem noteCE_mem (d pa sym : Nat) (s : State) (source : Nat) : (noteCE d pa sym s source).mem = s.mem := by
  unfold noteCE
  split <;> rfl
theorem State.core_count_flow (d i n c : Nat) : ((s.upd d fun k => k.count i n).core c).flow = (s.core c).flow := by
  obtain h | ⟨-, h⟩ := State.core_upd_cases s d c fun k => k.count i n
  · rw [h]
  · rw [h, Core.count_flow]
theorem noteCE_flow (d pa sym : Nat) (s : State) (source c : Nat) : ((noteCE d pa sym s source).core c).flow = (s.core c).flow := by
  unfold noteCE
  split
  · exact State.core_count_flow _ 22 1 c
  · exact State.core_count_flow _ 22 1 c
  · rfl
/-- Corrected errors in core stores and hubs are logged. -/
theorem noteCE_logNext (d sym : Nat) {pa : Nat} (s : State) (source : Nat) (h : ∃ e, homeOf pa = some (0, e) ∨ homeOf pa = some (4, e)) :
    (noteCE d pa sym s source).log.next = s.log.next + 1 := by
  obtain ⟨e, h | h⟩ := h <;> simp [noteCE, h, State.logAdd]

/-- The slices are the homes of the core stores and of the hubs (R18). -/
theorem homeOf_slice (hc : c < 160) {off : Nat} (ho : off < 0x4000000) :
    ∃ e, homeOf (sliceBase c + off) = some (0, e) ∨ homeOf (sliceBase c + off) = some (4, e) := by
  by_cases hh : c < 144
  · refine ⟨(sliceBase c + off) / 0x4000000, .inl ?_⟩
    have hb : sliceBase c = c * 0x4000000 := by simp [sliceBase, isHub, Nat.not_le.2 hh]
    rw [homeOf, if_pos (by omega)]
  · refine ⟨(sliceBase c + off - 0x800000000) / 0x80000000, .inr ?_⟩
    have hb : sliceBase c = 0x800000000 + dieOf c * 0x80000000 + ((c - 144) % 8) * 0x4000000 := by
      simp [sliceBase, isHub, Nat.not_lt.1 hh]
    have hd : dieOf c < 2 := by
      rw [dieOf, if_pos (by simpa [isHub] using hh)]
      omega
    rw [homeOf, if_neg (by omega), if_neg (by omega), if_pos (by omega)]

end Sys2Proof.Machine
end

section
/-! SUPPORT. Calls and returns (R68, R69). -/

namespace Sys2Proof.Machine

variable {s : State} {c : Nat}

/-- The base of a level's return stack in its core's slice, plus an offset in it, lies in the slice. -/
theorem rsRegion_bound (p : Priv) {o : Nat} (h : o + 8 ≤ 32768) : rsRegion p + o < 0x4000000 := by
  cases p <;> simp only [rsRegion] <;> omega

/-! ### The checks -/

theorem rsWordFault_poisonless {off : Nat} {err : WordErr} (h : s.isPoisoned (sliceBase c + off) 8 = false) (he : err ≠ .bad) :
    rsWordFault s c off err = none := by
  cases err with
  | bad => exact absurd rfl he
  | _ => simp [rsWordFault, h]
theorem rsWordFault_bad {off : Nat} (h : s.isPoisoned (sliceBase c + off) 8 = false) : rsWordFault s c off .bad =
    some { cause := 3, reason := 0x54, edata0 := BitVec.ofNat 64 off, edata1 := (s.core c).flow.pc } := by
  simp [rsWordFault, h]

theorem callFault_overflow {err : WordErr} (h : (s.core c).rset.rsl.toNat < (s.core c).rset.rsp.toNat + 8) :
    callFault c err s = some { cause := 6, edata0 := BitVec.ofNat 64 (s.core c).rset.rsp.toNat } := if_pos (.inl h)
theorem retFault_underflow {err : WordErr} (h : (s.core c).rset.rsp.toNat ≤ (s.core c).rset.rsb.toNat) :
    retFault c err s = some { cause := 7, edata0 := BitVec.ofNat 64 (s.core c).rset.rsp.toNat } := if_pos (.inl h)
theorem callFault_inside {err : WordErr} (h : (s.core c).rset.rsp.toNat + 8 ≤ (s.core c).rset.rsl.toNat)
    (h' : (s.core c).rset.rsp.toNat + 8 ≤ 32768) : callFault c err s =
      rsWordFault s c (rsRegion (s.core c).level + (s.core c).rset.rsp.toNat) err := if_neg (by omega)
theorem retFault_inside {err : WordErr} (h : (s.core c).rset.rsb.toNat < (s.core c).rset.rsp.toNat)
    (h' : (s.core c).rset.rsp.toNat ≤ 32768) : retFault c err s =
      rsWordFault s c (rsRegion (s.core c).level + (s.core c).rset.rsp.toNat - 8) err := if_neg (by omega)

/-! ### The faults -/

/-- A bound of the return stack passed: the exception, and nothing marked. -/
theorem rsTrap_bound {t : Trap} (h : t.cause ≠ 3) : rsTrap c t s = takeException c t s := by
  unfold rsTrap
  simp only [if_neg h]
  rfl

/-- A call or return on a ready core runs its fault or its effect. -/
theorem issueRs_ready (h : s.Ready c false) {e : Enc} (he : e.wide = false) (fault : State → Option Trap) (run : State → State) :
    issueRs c e fault run s = done s (match fault s with | some t => rsTrap c t s | none => run s) :=
  issueI_ready_run h he true _
theorem issueRs_run (h : s.Ready c false) {e : Enc} (he : e.wide = false) {fault : State → Option Trap} (run : State → State)
    (hf : fault s = none) : issueRs c e fault run s = done s (run s) := by rw [issueRs_ready h he, hf]
theorem issueRs_bound (h : s.Ready c false) {e : Enc} (he : e.wide = false) {fault : State → Option Trap} (run : State → State) {t : Trap}
    (hf : fault s = some t) (ht : t.cause ≠ 3) : issueRs c e fault run s = .next { takeException c t s with pending := s.pending } := by
  rw [issueRs_ready h he, hf]
  exact congrArg (done s) (rsTrap_bound ht)

/-- A word of the return stack that its code does not correct: the event's handler is entered with the word's place, once it is logged. -/
theorem issueRs_bad (h : s.Ready c false) {e : Enc} (he : e.wide = false) {fault : State → Option Trap} (run : State → State) {off : Nat}
    {d : Desc}
    (hf : fault s = some { cause := 3, reason := 0x54, edata0 := BitVec.ofNat 64 off, edata1 := (s.core c).flow.pc })
    (hr : (s.core c).tr.status.resc = false) (hd : d = s.desc c 3) (hv : d.valid 3 = true) (hl : (s.core c).level.num ≤ d.tpriv)
    (hb : (s.core c).tr.status.busy d.bank = false) :
    ∃ t, issueRs c e fault run s = .next t ∧ let v := (t.core c).tr.save d.bank
      v.ecause = 0x5403 ∧ v.edata0 = BitVec.ofNat 64 off ∧ v.edata1 = (s.core c).flow.pc ∧ v.epc = (s.core c).flow.pc ∧
      (∀ p, (t.core c).rs p = (s.core c).rs p) ∧ t.mem = s.mem ∧ t.log.next = s.log.next + 1 := by
  let x : Trap := { cause := 3, reason := 0x54, edata0 := BitVec.ofNat 64 off, edata1 := (s.core c).flow.pc }
  let m := noteUE c (sliceBase c + x.edata0.toNat) x.reason.toNat x.edata1 s
  obtain ⟨q, hq⟩ : ∃ q, m.core c = (s.core c).withIpend q := noteUE_core ..
  have hmem : m.mem = s.mem := noteUE_mem ..
  have htrap : rsTrap c x s = enterSync c x (max ((s.core c).tm.step + 8) ((s.core c).lastLand + 1)) m := by
    unfold rsTrap takeExceptionBy
    simp only [landEntry_clear h.landed h.clear, h.clear]
    rfl
  obtain ⟨henter, hmem', hlog, -⟩ := enterSync_enters (s := m) (c := c) (t := x) (d := d)
    (max ((s.core c).tm.step + 8) ((s.core c).lastLand + 1)) h.core (by rw [hq]; exact hr) (by rw [State.desc_congr hmem]; exact hd) hv (by rw [hq]; exact hl) (by rw [hq]; exact hb)
  have hrun : issueRs c e fault run s = done s (rsTrap c x s) := by rw [issueRs_ready h he, hf]
  rw [htrap] at hrun
  obtain ⟨t, ht, hreq⟩ := answer_of_done hrun
  have hresume : (m.core c).flow.resume = (s.core c).flow.pc := by
    rw [hq]
    simp [Core.withIpend, Flow.resume, h.rep]
  refine ⟨t, ht, ?_⟩
  rw [hreq.core, hreq.mem, hreq.log]
  refine ⟨henter.ecause.trans ?_, henter.edata0, henter.edata1, henter.epc.trans hresume, fun p => (henter.rs p).trans ?_,
    hmem'.trans hmem, ?_⟩
  · simp [ecauseOf, x]
  · rw [hq]
    exact Core.rs_congr rfl rfl rfl p
  · rw [hlog]
    exact noteUE_logNext ..

/-! ### The effects -/

theorem rsWordFixed_clean (off : Nat) : rsWordFixed c off .clean s = s := rfl
theorem pushReturn_clean_core (ret : Word) (hc : c < 160) : (pushReturn c ret .clean s).core c =
    (s.core c).land 1 (.rsp (s.core c).level (BitVec.ofNat 16 ((s.core c).rset.rsp.toNat + 8))) := by
  unfold pushReturn
  dsimp only
  rw [State.core_upd_self c _ hc, rsWordFixed_clean, storeLocal_core]
theorem pushReturn_mem (ret : Word) (x : Nat) : (pushReturn c ret .clean s).mem.get x =
    if sliceBase c + rsRegion (s.core c).level + (s.core c).rset.rsp.toNat ≤ x ∧
        x < sliceBase c + rsRegion (s.core c).level + (s.core c).rset.rsp.toNat + 8 then
      BitVec.ofNat 8 (ret.toNat / 256 ^ (x - (sliceBase c + rsRegion (s.core c).level + (s.core c).rset.rsp.toNat)))
    else s.mem.get x := by
  unfold pushReturn
  dsimp only
  rw [State.upd_mem, storeLocal_mem]
  exact Mem.get_put_leBytes _ _ _ _ _
theorem pushReturn_fixed_flow (ret : Word) (sym : Nat) (hc : c < 160) : ((pushReturn c ret (.fixed sym) s).core c).flow = (s.core c).flow := by
  unfold pushReturn
  dsimp only
  rw [State.core_upd_self c _ hc, rsWordFixed, storeLocal_core]
  exact noteCE_flow ..
theorem pushReturn_fixed_logNext (ret : Word) (sym : Nat) (hc : c < 160) (h : (s.core c).rset.rsp.toNat + 8 ≤ 32768) :
    (pushReturn c ret (.fixed sym) s).log.next = s.log.next + 1 := by
  unfold pushReturn
  dsimp only
  rw [State.upd_log, storeLocal_log]
  exact noteCE_logNext _ _ _ _ (homeOf_slice hc (rsRegion_bound _ h))

/-- The flow of a core that has transferred depends on its flow alone. -/
theorem Core.transfer_flow_congr {k k' : Core} (h : k'.flow = k.flow) (t : Word) : (k'.transfer t).flow = (k.transfer t).flow := by
  simp only [Core.transfer, Core.beat_flow, h]

/-- Settles O11: the checks of a call or return, and the push or the load where they find nothing. -/
theorem callsAndReturns : Obligations.CallsAndReturns := by
  unfold Obligations.CallsAndReturns
  intro s c off rs1 sl sym h k r p top ret called bad
  have hret : afterSlots k.flow.pc sl = ret := afterSlots_eq _ _
  have pushes {o : Out} {e : Enc} {f : Core → Word} {target : Word} (he : e.wide = false) (hi : o = issueRs c e (callFault c .clean)
      (fun s => (pushReturn c (afterSlots (s.core c).flow.pc sl) .clean s).upd c fun k => k.transfer (f k)) s)
      (hf : callFault c .clean s = none) (htarget : f (k.land 1 (.rsp k.level (BitVec.ofNat 16 (p + 8)))) = target) :
      called o target := by
    obtain ⟨t, ht, hreq⟩ := answer_of_done (hi.trans (issueRs_run h he _ hf))
    refine ⟨t, ht, ?_, fun x => ?_⟩
    · rw [hreq.core, State.core_upd_self c _ h.core, pushReturn_clean_core _ h.core]
      exact congrArg _ htarget
    · rw [hreq.mem, State.upd_mem]
      simp only [pushReturn_mem, hret, k, r, p, top, Core.rset]
      rfl
  have faulty {o : Out} {e : Enc} {fault : State → Option Trap} {run : State → State} {q : Nat} (he : e.wide = false)
      (ho : o = issueRs c e fault run s) (hf : fault s = rsWordFault s c q .bad) : bad o q := by
    intro hp hr d hd hv hl hb _
    obtain ⟨t, ht, hcause, h0, h1, hpc, hrs, hmem, hlog⟩ := issueRs_bad h he run (hf.trans (rsWordFault_bad hp)) hr hd hv hl hb
    exact ⟨t, ho.trans ht, hcause, h0, h1, hpc, hrs _, hmem, hlog⟩
  simp only [exec_call, exec_callr, exec_ret]
  refine ⟨fun hl hm => ⟨fun hp => ?_, ?_, ?_⟩, fun hb h8 hm => ⟨fun hp => ?_, ?_⟩, fun err hl => ?_, fun err hb => ?_⟩
  · have hnone {err : WordErr} (he : err ≠ .bad) : callFault c err s = none := by
      rw [callFault_inside hl hm]
      exact rsWordFault_poisonless (by rw [← Nat.add_assoc]; exact hp) he
    refine ⟨pushes rfl rfl (hnone nofun) (targetJ_eq _ _), pushes rfl rfl (hnone nofun) rfl, ?_⟩
    obtain ⟨t, ht, hreq⟩ := answer_of_done (issueRs_run h (e := encJ 0x27 off) rfl
      (fun s => (pushReturn c (afterSlots (s.core c).flow.pc sl) (.fixed sym) s).upd c fun k => k.transfer (targetJ k.flow.pc off))
      (hnone (err := .fixed sym) (by simp)))
    refine ⟨t, ht, ?_, ?_⟩
    · rw [hreq.log, State.upd_log, pushReturn_fixed_logNext _ _ h.core hm]
    · rw [hreq.core, State.core_upd_self c _ h.core, pushReturn_fixed_flow _ _ h.core, targetJ_eq]
      exact Core.transfer_flow_congr (pushReturn_fixed_flow _ _ h.core) _
  · exact faulty rfl rfl (callFault_inside hl hm)
  · exact faulty rfl rfl (callFault_inside hl hm)
  · have hnone : retFault c .clean s = none := by
      rw [retFault_inside hb hm]
      have h8' : 8 ≤ (s.core c).rset.rsp.toNat := h8
      refine rsWordFault_poisonless ?_ nofun
      rw [← Nat.add_sub_assoc (by omega), ← Nat.add_assoc]
      exact hp
    refine (issueRs_run h (e := encR 0x28 2 0 0 0) rfl _ hnone).trans ?_
    dsimp only
    rw [rsWordFixed_clean, done_upd]
    exact congrArg _ (State.upd_congr c rfl)
  · exact faulty rfl rfl (retFault_inside hb hm)
  · exact issueRs_bound h rfl _ (callFault_overflow hl) (by simp)
  · exact issueRs_bound h rfl _ (retFault_underflow hb) (by simp)

end Sys2Proof.Machine
end

section
/-! SUPPORT. Asynchronous causes (R102, R103, R111, R531). -/

namespace Sys2Proof.Machine

variable {s : State} {c i : Nat}

/-- What makes an interrupt one that may be taken. -/
theorem readyInterrupt_some (h : readyInterrupt s c = some i) : i < 8 ∧ (s.core c).tr.ipend.getLsbD i = true ∧
    (s.core c).tr.ien.getLsbD i = true ∧ (s.core c).tr.status.ie = true ∧ (s.core c).level.num ≤ (s.desc c (0x20 + i)).tpriv := by
  unfold readyInterrupt at h
  obtain ⟨hen, h⟩ := Option.ite_none_left_eq_some.1 h
  have hi := List.mem_range.1 (List.mem_of_find?_eq_some h)
  have hp := List.find?_some h
  simp only [BitVec.getLsbD_and, Bool.and_eq_true, decide_eq_true_eq] at hp
  obtain ⟨⟨hpend, hien⟩, hlevel⟩ := hp
  refine ⟨hi, hpend, hien, ?_, hlevel⟩
  simp only [Bool.or_eq_true, not_or, Bool.not_eq_true', Bool.not_eq_false] at hen
  exact hen.1.1

/-- A right descriptor of a cause other than reset targets S or M. -/
theorem Desc.valid_tpriv {d : Desc} {n : Nat} (h : d.valid n = true) (hn : n ≠ 0x1F) : (Priv.dec d.tpriv).num = d.tpriv := by
  unfold Desc.valid at h
  rw [if_neg hn] at h
  simp only [Bool.and_eq_true, Bool.or_eq_true, beq_iff_eq] at h
  obtain ⟨-, ⟨⟨⟨ht, -⟩, -⟩, -⟩, -⟩ := h
  obtain ht | ht := ht <;> rw [ht] <;> rfl

/-- A core borrowed by calibration just after an entry: its steps pass. -/
theorem Core.Enters.borrowed {k k' : Core} {d : Desc} {t : Trap} (h : k.Enters d t k') (n : Nat) (p : CorePower) :
    k.Enters d t { (k'.idle n).count 28 n with pw := p } where
  epc := (congrArg SaveSet.epc (TrapRegs.save_congr (by simp) (by simp) d.bank)).trans h.epc
  ecause := (congrArg SaveSet.ecause (TrapRegs.save_congr (by simp) (by simp) d.bank)).trans h.ecause
  edata0 := (congrArg SaveSet.edata0 (TrapRegs.save_congr (by simp) (by simp) d.bank)).trans h.edata0
  edata1 := (congrArg SaveSet.edata1 (TrapRegs.save_congr (by simp) (by simp) d.bank)).trans h.edata1
  level := by rw [← h.level]; simp [Core.level]
  bank := by rw [← h.bank]; simp [Core.bank]
  ie := by rw [← h.ie]; simp
  pc := by rw [← h.pc]; simp
  wait := by rw [← h.wait]; simp
  v := by rw [← h.v]; simp
  cnt := by rw [← h.cnt]; simp
  pend := by rw [← h.pend]; simp
  rs p := (Core.rs_congr (by simp) (by simp) (by simp) p).trans (h.rs p)
  ipend j hj := ((Core.count_ipend _ _ _ hj).trans (Core.idle_ipend _ _ hj)).trans (h.ipend j hj)

/-- The core with interrupt `i` no longer pending. -/
def Core.cleared (k : Core) (i : Nat) : Core := k.withIpend (k.tr.ipend &&& ~~~(BitVec.ofNat 8 (2 ^ i)))

theorem Core.cleared_bit (k : Core) (i j : Nat) : (k.cleared i).tr.ipend.getLsbD j = (k.tr.ipend.getLsbD j && decide (j ≠ i)) := by
  rw [Core.cleared, Core.withIpend, BitVec.getLsbD_and, BitVec.getLsbD_not, BitVec.getLsbD_ofNat, Nat.testBit_two_pow]
  by_cases hj : j < 8
  · simp [hj, eq_comm]
  · simp [BitVec.getLsbD_of_ge k.tr.ipend j (by omega)]
theorem Core.cleared_ipend (k : Core) (i : Nat) {j : Nat} (hj : j ≠ i) : (k.cleared i).tr.ipend.getLsbD j = k.tr.ipend.getLsbD j := by
  simp [Core.cleared_bit, hj]
theorem Core.cleared_ipend_self (k : Core) (i : Nat) : (k.cleared i).tr.ipend.getLsbD i = false := by simp [Core.cleared_bit]

/-- A core taken by calibration as it enters (R111): nothing but its steps, counters and power changes. -/
theorem borrow_enters {k : Core} {d : Desc} {t : Trap} (hc : c < 160) (h : k.Enters d t (s.core c)) (hp : k.tm.pend = []) :
    k.Enters d t ((borrow c s).core c) ∧ (borrow c s).mem = s.mem := by
  have hpend : ((State.draw s).core c).tm.pend = [] := h.pend.trans hp
  unfold borrow
  dsimp only
  rw [stepsPass_nil _ _ hpend, State.core_upd_self c _ hc, State.core_upd_self c _ hc]
  exact ⟨h.borrowed _ _, rfl⟩

/-- An interrupt with a right descriptor, its bank free, on a core with nothing to land. -/
theorem takeAsync_enters {d : Desc} (hc : c < 160) (hp : (s.core c).tm.pend = []) (hdl : (s.core c).tm.delayed = []) (hd : d = s.desc c (0x20 + i))
    (hv : d.valid (0x20 + i) = true) (hl : (s.core c).level.num ≤ d.tpriv) (hb : (s.core c).tr.status.busy d.bank = false) :
    ((s.core c).cleared i).Enters d { cause := BitVec.ofNat 8 (0x20 + i) } ((takeAsync c i false s).core c) ∧
      (takeAsync c i false s).mem = s.mem := by
  let s' := s.upd c fun k => k.cleared i
  have hcore : s'.core c = (s.core c).cleared i := State.core_upd_self c _ hc
  have hdesc : s'.desc c (0x20 + i) = d := hd.symm
  have htake : takeInterrupt c i false s = enterBank c (0x20 + i) d.bank { cause := BitVec.ofNat 8 (0x20 + i) } false false false true
      (max ((s.core c).tm.step + 8) ((s.core c).lastLand + 1)) s' := by
    unfold takeInterrupt
    simp only [landEntry_clear hp hdl, hdl, routeOf_valid (s := s) (c := c) (0x20 + i) true (hd ▸ hv) (hd ▸ hl) (hd ▸ hb), ← hd]
    rfl
  have henter := enterBank_enters (s := s') hc (0x20 + i) { cause := BitVec.ofNat 8 (0x20 + i) } false false true
    (max ((s.core c).tm.step + 8) ((s.core c).lastLand + 1))
  rw [hdesc, hcore, ← htake] at henter
  have hmem : (takeInterrupt c i false s).mem = s.mem := by rw [htake]; rfl
  unfold takeAsync
  dsimp only
  split
  · obtain ⟨hborrow, hbmem⟩ := borrow_enters hc henter hp
    exact ⟨hborrow, hbmem.trans hmem⟩
  · exact ⟨henter, hmem⟩

/-- The step of an interrupt on an idle core: a fault of the next instruction, or else the entry. -/
theorem execAsyncInterruptTaken_idle (h : s.Idle c) (hi : readyInterrupt s c = some i) : execAsyncInterruptTaken c s =
    done s (((fetchFault s c false .clean .clean).map fun f => takeFetch c f s).getD (takeAsync c i false s)) := by
  have hissues := h.issues
  simp only [Core.canIssue, Bool.and_eq_true, Bool.not_eq_true', Option.isNone_iff_eq_none] at hissues
  have hdue : (s.core c).delayedDue = false := by simp [Core.delayedDue, h.clear]
  unfold execAsyncInterruptTaken
  simp [Nat.not_le.2 h.core, hissues, h.issues, h.arrive, interruptDue, hi, faultDue, hdue, h.aligned]

/-- Settles O22: nothing lands, so the interrupt enters with its bit cleared, and its core may go on to calibration. -/
theorem interrupts : Obligations.Interrupts := by
  unfold Obligations.Interrupts
  intro s c i d h hready hd hv hb
  obtain ⟨hlt, hpend, hien, hie, hlevel⟩ := readyInterrupt_some hready
  rw [exec_asyncInterruptTaken, execAsyncInterruptTaken_idle h hready]
  refine ⟨fun hf => ?_, fun f hf => by rw [hf]; rfl⟩
  obtain ⟨he, hmem⟩ := takeAsync_enters (i := i) h.core h.landed h.clear hd hv (hd ▸ hlevel) hb
  rw [hf]
  obtain ⟨t, ht, hreq⟩ := answer_of_done (s := s) (t := takeAsync c i false s) rfl
  refine ⟨t, ht, ?_⟩
  dsimp only
  rw [hreq.core, hreq.mem]
  refine ⟨he.epc, he.ecause.trans ?_, hpend, hien, hie, he.ie, ?_, he.bank, he.pc, fun j hj h4 => ?_, fun h4 => ?_, he.v, hmem⟩
  · simp [ecauseOf, Nat.mod_eq_of_lt (show 32 + i < 256 by omega)]
  · rw [he.level]
    exact Desc.valid_tpriv hv (by omega)
  · rw [he.ipend j h4, Core.cleared_ipend _ _ hj]
  · rw [he.ipend i h4, Core.cleared_ipend_self]

end Sys2Proof.Machine
end

section
/-! SUPPORT. Pending writes as they land, and errors met by loads and merging stores (R60 to R62, R74, R169, R177, R451). -/

namespace Sys2Proof.Machine

variable {s : State} {c : Nat}

/-! ### One pending register write (R60 to R62) -/

section
variable {l t : Nat} {b : Bank} {r : Reg} {v : Word}

theorem landUpTo_early (h : (s.core c).tm.pend = [⟨l, .x b r v, none⟩]) (ht : t < l) : landUpTo c t s = s := by
  have hkeep : ¬ l ≤ t := Nat.not_le.2 ht
  unfold landUpTo
  simp only [h, List.takeWhile_cons, hkeep, decide_false, Bool.false_eq_true, if_false, List.foldl_nil]
  refine State.upd_same c _ ?_
  simp only [h, List.dropWhile_cons, hkeep, decide_false, Bool.false_eq_true, if_false]
  rw [← h]
theorem landUpTo_due (hc : c < 160) (h : (s.core c).tm.pend = [⟨l, .x b r v, none⟩]) (ht : l ≤ t) :
    landUpTo c t s = s.upd c fun k => { k with x := k.x.set b r v, tm := { k.tm with pend := [] } } := by
  unfold landUpTo
  simp only [h, List.takeWhile_cons, ht, decide_true, if_true, List.takeWhile_nil, List.foldl_cons, List.foldl_nil]
  unfold landOne
  dsimp only
  rw [State.upd_upd c _ _ hc]
  refine State.upd_congr c ?_
  simp [h, ht, Core.setX]
end

theorem XRegs.get_set_same (xs : XRegs) (b : Bank) (r : Reg) (v : Word) : (xs.set b r v).get b r = if r = 0 then 0 else v := by
  split
  · next hr => rw [hr, XRegs.get_zero]
  · next hr => exact XRegs.get_set_self xs b r v hr

/-- A core with no write pending, no work of its array and no held borrow settles nothing. -/
theorem arrive_settled (hp : (s.core c).tm.pend = []) (hq : (s.core c).arr.queue = []) (hu : (s.core c).arr.upd = [])
    (hb : (s.core c).pw.calHold = none) : arrive c s = s := by
  have hcatch : catchUp c s = s := by
    unfold catchUp
    simp only [hp, List.map_nil, List.filter_nil, List.eraseDups_nil, List.foldl_nil]
    exact settleTo_nil _ _ hq hu
  unfold arrive heldBorrow
  rw [hcatch, hb]

theorem Core.idleStall_zero (k : Core) (n : Nat) : k.idleStall n 0 = k.idle n := rfl

/-- The core of an idle stretch in which its one pending write lands. -/
def Core.landed (k : Core) (d e : Nat) (b : Bank) (r : Reg) (v : Word) : Core :=
  let m := k.idle d
  ({ m with x := m.x.set b r v, tm := { m.tm with pend := [] } } : Core).idle e

/-- Steps that pass up to the landing of the one write pending. -/
theorem stepsPass_lands {l : Nat} {b : Bank} {r : Reg} {v : Word} (hc : c < 160) (hp : (s.core c).tm.pend = [⟨l, .x b r v, none⟩])
    (hq : (s.core c).arr.queue = []) (hu : (s.core c).arr.upd = []) :
    stepsPass c (fun n k => k.idleStall n 0) (l - (s.core c).tm.step) s = s.upd c fun k => k.landed (l - (s.core c).tm.step) 0 b r v := by
  let d := l - (s.core c).tm.step
  have hcore : (s.upd c fun k => k.idle d).core c = (s.core c).idle d := State.core_upd_self c _ hc
  have hsettle : settleBefore c l (s.upd c fun k => k.idle d) = s.upd c fun k => k.idle d :=
    settleTo_nil _ _ (by rw [hcore, Core.idle_arr, hq]) (by rw [hcore, Core.idle_arr, hu])
  have hland : landUpTo c l (s.upd c fun k => k.idle d) = _ :=
    landUpTo_due hc (by rw [hcore, Core.idle_tm]; exact hp) (Nat.le_refl l)
  unfold stepsPass
  rw [hp]
  unfold elapse
  simp only [hp, Core.idleStall_zero, Nat.le_refl, if_true, List.length_nil, List.length_cons, Nat.sub_self]
  rw [hsettle, hland]
  unfold elapse
  rw [State.upd_upd c _ _ hc, State.upd_upd c _ _ hc]
  rfl

/-! ### An error in a load's word (R74, R169, R177) -/

/-- A corrected error only counts in the core. -/
theorem noteCE_core (d pa sym : Nat) (s : State) (source c : Nat) :
    (noteCE d pa sym s source).core c = s.core c ∨ (noteCE d pa sym s source).core c = (s.core c).count 22 1 := by
  have count (e : Nat) : (s.upd e fun k => k.count 22 1).core c = s.core c ∨ (s.upd e fun k => k.count 22 1).core c = (s.core c).count 22 1 :=
    (State.core_upd_cases s e c _).imp_right And.right
  unfold noteCE
  split
  · exact count _
  · exact count _
  · exact .inl rfl
theorem noteTileCE_core (d t bit : Nat) (s : State) (c : Nat) :
    (noteTileCE d t bit s).core c = s.core c ∨ (noteTileCE d t bit s).core c = (s.core c).count 23 1 := by
  unfold noteTileCE
  exact (State.core_upd_cases s d c fun k => k.count 23 1).imp_right And.right

/-- A core that counts an event keeps its registers and what is to land. -/
theorem Core.counted_keeps {k k' : Core} {i n : Nat} (h : k' = k ∨ k' = k.count i n) : k'.tm = k.tm ∧ k'.x = k.x ∧ k'.v = k.v := by
  obtain rfl | rfl := h
  · exact ⟨rfl, rfl, rfl⟩
  · exact ⟨Core.count_tm .., Core.count_x .., Core.count_v ..⟩

section
variable {p : Pend} {a pc : Word} {isKind : LoadKind → Bool} {kd : LoadKind}

theorem markUe_fixed (hp : (s.core c).tm.pend = [p]) (hl : p.load = some (kd, a, pc)) (hk : isKind kd = true) (sym : Nat) :
    (((markUe c isKind (.fixed sym) s).core c).tm = (s.core c).tm ∧ ((markUe c isKind (.fixed sym) s).core c).x = (s.core c).x ∧
      ((markUe c isKind (.fixed sym) s).core c).v = (s.core c).v) ∧ (markUe c isKind (.fixed sym) s).mem = s.mem := by
  unfold markUe
  simp only [hp, List.find?_cons, hl, hk]
  cases kd with
  | tget t => exact ⟨Core.counted_keeps (noteTileCE_core ..), rfl⟩
  | scalar => exact ⟨Core.counted_keeps (noteCE_core ..), noteCE_mem ..⟩
  | vector => exact ⟨Core.counted_keeps (noteCE_core ..), noteCE_mem ..⟩

/-- The load leaves the writes to land, and its fault is due at its landing. -/
def Core.faulted (k : Core) (p : Pend) (d : Delayed) : Core := { k with tm := { k.tm with pend := k.tm.pend.erase p } }.delay d

theorem Core.faulted_keeps {k k' : Core} {q : BitVec 8} (hk : k' = k.withIpend q) {p : Pend} (hp : k.tm.pend = [p]) (hd : k.tm.delayed = [])
    (d : Delayed) :
    (k'.faulted p d).tm.pend = [] ∧ (k'.faulted p d).tm.delayed = [d] ∧ (k'.faulted p d).x = k.x ∧ (k'.faulted p d).v = k.v := by
  subst hk
  refine ⟨?_, ?_, rfl, rfl⟩
  · simp [Core.faulted, Core.delay, Core.withIpend, hp]
  · simp [Core.faulted, Core.delay, Core.withIpend, hd, insertDelayed]

/-- The distance at which a kind of load lands (R50), and the fault of one in error. -/
def LoadKind.dist : LoadKind → Nat
  | .scalar => 6
  | _ => 10
def LoadKind.fault (a pc : Word) : LoadKind → Trap
  | .tget t => { cause := 3, reason := 0x54, index := t.setWidth 16, edata1 := pc }
  | _ => { cause := 3, reason := 0x54, edata0 := a, edata1 := pc }

theorem markUe_bad (hc : c < 160) (hp : (s.core c).tm.pend = [p]) (hd : (s.core c).tm.delayed = []) (hl : p.load = some (kd, a, pc))
    (hk : isKind kd = true) : let t := markUe c isKind .bad s
    (t.core c).tm.pend = [] ∧ (t.core c).tm.delayed = [⟨p.land - kd.dist, p.land, some kd, kd.fault a pc⟩] ∧
      (t.core c).x = (s.core c).x ∧ (t.core c).v = (s.core c).v ∧ t.mem = s.mem := by
  have faulted {u : State} {q : BitVec 8} (hu : u.core c = (s.core c).withIpend q) (hm : u.mem = s.mem) (d : Delayed) :
      let t := u.upd c fun k => k.faulted p d
      (t.core c).tm.pend = [] ∧ (t.core c).tm.delayed = [d] ∧ (t.core c).x = (s.core c).x ∧ (t.core c).v = (s.core c).v ∧
        t.mem = s.mem := by
    dsimp only
    rw [State.core_upd_self c _ hc]
    obtain ⟨h1, h2, h3, h4⟩ := Core.faulted_keeps hu hp hd d
    exact ⟨h1, h2, h3, h4, hm⟩
  unfold markUe
  simp only [hp, List.find?_cons, hl, hk]
  cases kd with
  | tget t =>
    have hidx : BitVec.ofNat 16 t.toNat = t.setWidth 16 := BitVec.ofNat_toNat ..
    rw [hidx]
    exact faulted (u := s) (q := (s.core c).tr.ipend) rfl rfl _
  | scalar =>
    obtain ⟨q, hq⟩ := noteUE_core c (s.windowPa c a.toNat) 0x54 pc s 1 c
    exact faulted hq (noteUE_mem ..) _
  | vector =>
    obtain ⟨q, hq⟩ := noteUE_core c (s.windowPa c a.toNat) 0x54 pc s 1 c
    exact faulted hq (noteUE_mem ..) _

end

/-! ### An error in a word that a store merged with (R451) -/

theorem State.mem_setPoison (s : State) (u : Nat) : u ∈ (s.setPoison u).poison := by
  unfold State.setPoison
  split
  · next h => exact List.contains_iff_mem.1 h
  · exact List.mem_cons_self
theorem State.setPoison_rest (s : State) (u : Nat) :
    (s.setPoison u).log = s.log ∧ (s.setPoison u).mem = s.mem ∧ ∀ d, (s.setPoison u).core d = s.core d := by
  unfold State.setPoison
  split <;> exact ⟨rfl, rfl, fun _ => rfl⟩
theorem notePartial_logNext (d pa reason : Nat) (pc : Word) (s : State) : (notePartial d pa reason pc s).log.next = s.log.next + 1 := by
  unfold notePartial
  rw [(notifyAt_rest d pa _).1]
  rfl
theorem mergeUe_bad {i pa : Nat} (hw : (s.core c).tm.merged.words[i]? = some pa) (hs : (s.core c).tm.step = (s.core c).tm.merged.step + 1)
    (hp : s.isPoisoned pa 32 = false) : mergeUe c i .bad s = (notePartial c pa 0x54 (s.core c).tm.merged.pc s).setPoison pa := by
  unfold mergeUe
  simp [hw, hs, hp]

/-- The step to the landing of the one write pending, on a core that issues and has nothing else to settle (R62). -/
theorem execResultLands_one {l : Nat} {b : Bank} {r : Reg} {v : Word} (hc : c < 160) (hi : (s.core c).canIssue = true)
    (hd : (s.core c).tm.delayed = []) (hq : (s.core c).arr.queue = []) (hu : (s.core c).arr.upd = []) (hb : (s.core c).pw.calHold = none)
    (hp : (s.core c).tm.pend = [⟨l, .x b r v, none⟩]) :
    execResultLands c s = done s (s.upd c fun k => k.landed (l - (s.core c).tm.step) 0 b r v) := by
  have hissues := hi
  simp only [Core.canIssue, Bool.and_eq_true, Bool.not_eq_true', Option.isNone_iff_eq_none] at hissues
  obtain ⟨⟨⟨hsvc, hring⟩, hstop⟩, hwait⟩ := hissues
  have hcause : s.causeNow c = 0 := by rw [State.causeNow, hwait]
  have hcore : (s.upd c fun k => k.landed (l - (s.core c).tm.step) 0 b r v).core c = _ := State.core_upd_self c _ hc
  have harrive : arrive c (s.upd c fun k => k.landed (l - (s.core c).tm.step) 0 b r v) = _ := arrive_settled
    (by rw [hcore]; simp [Core.landed]) (by rw [hcore]; simp [Core.landed, hq]) (by rw [hcore]; simp [Core.landed, hu])
    (by rw [hcore]; simp [Core.landed, hb])
  have hdue : ((s.core c).landed (l - (s.core c).tm.step) 0 b r v).delayedDue = false := by simp [Core.delayedDue, Core.landed, hd]
  unfold execResultLands
  rw [if_neg (Nat.not_le.2 hc)]
  simp only [hp, List.find?_cons, hwait, hsvc, hring, hstop, hcause, stepsPass_lands hc hp hq hu, harrive, hcore, hdue,
    Option.isSome_none, Bool.false_and, Bool.not_true, Bool.or_false, Bool.false_eq_true, if_false]
  rw [endWait_none]
  rw [hcore]
  simp [Core.landed, hwait]

/-- Settles O8: the one write pending lands as the steps pass it; the errors of a load and of a merging store by their notes. -/
theorem landing : Obligations.Landing := by
  unfold Obligations.Landing
  refine ⟨⟨fun s c b r v l t hc hp => ⟨fun ht => landUpTo_early hp ht, fun ht => ?_⟩, fun s c r v l hc hi hd hq hu hb hp hl => ?_⟩,
    fun s c p a pc hc hp hd => ?_, fun s c i pa hc => ?_⟩
  · rw [landUpTo_due hc hp ht]
    dsimp only
    rw [State.core_upd_self c _ hc]
    refine ⟨XRegs.get_set_same .., rfl, fun b' r' hne => XRegs.get_set_ne _ _ _ _ _ _ ?_⟩
    by_contra hcon
    obtain ⟨hb, hr⟩ := not_or.1 hcon
    exact hne (by rw [not_not.1 hb, not_not.1 hr])
  · obtain ⟨t, ht, hreq⟩ := answer_of_done (execResultLands_one hc hi hd hq hu hb hp)
    refine ⟨t, (exec_resultLands s c).trans ht, ?_⟩
    rw [hreq.core, hreq.mem, State.core_upd_self c _ hc]
    refine ⟨by simp [Core.landed]; omega, by simp [Core.landed], ?_, rfl⟩
    simp [Core.landed, Core.rx, Core.bank, XRegs.get_set_same]
  · intro out bus fixed
    have corrected {i : Instr} {isKind : LoadKind → Bool} {kd : LoadKind} {sym : Nat} (hi : exec i s = done s (markUe c isKind (.fixed sym) s))
        (hl : p.load = some (kd, a, pc)) (hk : isKind kd = true) : fixed i := by
      obtain ⟨t, ht, hreq⟩ := answer_of_done hi
      obtain ⟨⟨htm, hx, hv⟩, hmem⟩ := markUe_fixed (s := s) hp hl hk sym
      exact ⟨t, ht, by rw [hreq.core, htm, hp], by rw [hreq.core, htm, hd], by rw [hreq.core, hx], by rw [hreq.core, hv], hreq.mem.trans hmem⟩
    have faulted {i : Instr} {isKind : LoadKind → Bool} {kd : LoadKind} (hi : exec i s = done s (markUe c isKind .bad s))
        (hl : p.load = some (kd, a, pc)) (hk : isKind kd = true) : out i kd.dist (kd.fault a pc) := by
      obtain ⟨t, ht, hreq⟩ := answer_of_done hi
      obtain ⟨hpend, hdel, hx, hv, hmem⟩ := markUe_bad (s := s) hc hp hd hl hk
      exact ⟨t, ht, by rw [hreq.core, hpend], ⟨kd, by rw [hreq.core, hdel]⟩, by rw [hreq.core, hx],
        by rw [hreq.core, hv], hreq.mem.trans hmem⟩
    have scalar (err : WordErr) : exec (.localLoadUe ⟨c, err, none⟩) s = done s (markUe c _ err s) := if_neg (Nat.not_le.2 hc)
    have vector (err : WordErr) : exec (.localVloadUe ⟨c, err⟩) s = done s (markUe c _ err s) := if_neg (Nat.not_le.2 hc)
    have tget (err : WordErr) : exec (.tgetUe ⟨c, err⟩) s = done s (markUe c _ err s) := if_neg (Nat.not_le.2 hc)
    exact ⟨fun hl sym => corrected (scalar _) hl rfl, fun hl sym => corrected (vector _) hl rfl, fun _ _ hl => corrected (tget _) hl rfl,
      fun hl => faulted (scalar _) hl rfl, fun hl => faulted (vector _) hl rfl, fun _ hl => faulted (tget _) hl rfl⟩
  · intro k hw hs hpo
    obtain ⟨hlog, hmem, hcore⟩ := State.setPoison_rest (notePartial c pa 0x54 (s.core c).tm.merged.pc s) pa
    have hrun : exec (.localLoadUe ⟨c, .bad, some i⟩) s = done s (mergeUe c i .bad s) := if_neg (Nat.not_le.2 hc)
    rw [mergeUe_bad hw hs hpo] at hrun
    obtain ⟨t, ht, hreq⟩ := answer_of_done hrun
    refine ⟨t, ht, ?_, by rw [hreq.log, hlog, notePartial_logNext], by rw [hreq.mem, hmem, notePartial_mem], fun d => ?_⟩
    · rw [← Host.Outcome.next.inj (hrun.symm.trans ht)]
      exact State.mem_setPoison _ pa
    · obtain ⟨q, hq⟩ := notePartial_core c pa 0x54 (s.core c).tm.merged.pc s d
      rw [hreq.core, hcore, hq]
      exact ⟨rfl, rfl, rfl⟩

end Sys2Proof.Machine
end

section
/-! SUPPORT. Waits on counters (R80 to R82, R336, R337). -/

namespace Sys2Proof.Machine

variable {s : State} {c : Nat}

/-! ### WAITC (R80, R82) -/

section
variable {rd rs1 : Reg} {cc : BitVec 4} {l : Bool} {n : BitVec 10}

theorem illegalCcRead_none {e : Enc} {k : Core} (hd : k.ccDenied cc = false) (hr : k.ccResv cc = false) : illegalCcRead e k cc = none := by
  simp [illegalCcRead, hd, hr]
theorem waitEnd_counter_fault {w : Wait} {m i : Nat} (hk : w.kind = .counter i m) (hh : (s.core c).ccHidden i = false)
    (h : (s.core c).outst i ≤ m) (he : bitOf (s.core c).cnt.ccerr.toNat i = true) : waitEnd s c w =
      .fault (busError (vget (s.core c).cnt.recs i .zero).addr (vget (s.core c).cnt.recs i .zero).pc
        (vget (s.core c).cnt.recs i .zero).reason i) := by
  simp [waitEnd, hk, hh, Nat.not_lt.2 h, he]

/-- The wait that a WAITC of one word makes. -/
def counterWait (s : State) (c : Nat) (rd rs1 : Reg) (cc : BitVec 4) (l : Bool) (n : BitVec 10) : Wait :=
  mkWait s c (.counter cc.toNat n.toNat) rd rs1 l false (encW rd rs1 cc l false n)

variable (hs : s.Ready c false) (hd : (s.core c).ccDenied cc = false) (hr : (s.core c).ccResv cc = false)
include hs hd hr

theorem waitc_test (hh : (s.core c).ccHidden cc.toNat = false) : exec (.waitc c rd rs1 cc l true n) s =
    .next (s.upd c fun k => (k.landX 1 rd (BitVec.ofNat 64 ((s.core c).outst cc.toNat))).retire false) := by
  rw [exec_waitc, execWaitc]
  exact issueP_ready_core hs rfl (illegalCcRead_none hd hr) (by simp only [hh]; rfl)
/-- A WAITC that does not test: what the wait's end asks at issue decides. -/
theorem waitc_wait : exec (.waitc c rd rs1 cc l false n) s = match waitEnd s c (counterWait s c rd rs1 cc l n) with
    | .fault t => done s (takeException c t s)
    | .ret v => done s (returnWait c (counterWait s c rd rs1 cc l n) v (s.upd c Core.beat))
    | .keep => done s ((s.upd c Core.beat).upd c fun k => { k with wait := some (counterWait s c rd rs1 cc l n), flow := k.flow.waiting }) := by
  have hchk : illegalCcRead (encW rd rs1 cc l false n) (s.core c) cc = none := illegalCcRead_none hd hr
  rw [exec_waitc, execWaitc]
  simp only [Bool.false_eq_true, if_false]
  rw [issueWait, issueI_ready hs (by intro h; cases h)]
  have hwait : mkWait s c (.counter cc.toNat n.toNat) rd rs1 l false (encW rd rs1 cc l false n) = counterWait s c rd rs1 cc l n := rfl
  simp only [hchk, firstOf, id, hwait]
  cases waitEnd s c (counterWait s c rd rs1 cc l n) <;> rfl
end

/-- A wait on a counter that returns a value takes nothing with it. -/
theorem returnWait_counter {w : Wait} {i m : Nat} (hk : w.kind = .counter i m) (hp : (s.core c).tm.pend = []) (v : Word) :
    returnWait c w (some v) s = s.upd c fun k => { k.setX k.bank w.rd v with wait := none, flow := k.flow.advance w.wide } := by
  unfold returnWait waitTake
  simp only [hk]
  rw [landUpTo_nil _ hp]
  rfl

/-! ### WAIT_TIMEOUT (R81, R336, R337) -/

section
variable (k : Core) (n cause : Nat)
@[simp] theorem Core.idleStall_flow : (k.idleStall n cause).flow = k.flow := by unfold Core.idleStall; split <;> simp
@[simp] theorem Core.idleStall_cnt : (k.idleStall n cause).cnt = k.cnt := by unfold Core.idleStall; split <;> simp
@[simp] theorem Core.idleStall_idn : (k.idleStall n cause).idn = k.idn := by unfold Core.idleStall; split <;> simp
@[simp] theorem Core.idleStall_arr : (k.idleStall n cause).arr = k.arr := by unfold Core.idleStall; split <;> simp
@[simp] theorem Core.idleStall_pw : (k.idleStall n cause).pw = k.pw := by unfold Core.idleStall; split <;> simp
@[simp] theorem Core.idleStall_slots : (k.idleStall n cause).slots = k.slots := by unfold Core.idleStall; split <;> simp
@[simp] theorem Core.idleStall_tr_status : (k.idleStall n cause).tr.status = k.tr.status := by unfold Core.idleStall; split <;> simp
@[simp] theorem Core.idleStall_pend : (k.idleStall n cause).tm.pend = k.tm.pend := by unfold Core.idleStall; split <;> simp
@[simp] theorem Core.idleStall_delayed : (k.idleStall n cause).tm.delayed = k.tm.delayed := by unfold Core.idleStall; split <;> simp
end

/-- A wait on a beating core with nothing to land only lets steps pass. -/
theorem waitSteps_idle (hc : c < 160) (hring : (s.core c).pw.ring = true) (hp : (s.core c).tm.pend = []) (hq : (s.core c).arr.queue = [])
    (hu : (s.core c).arr.upd = []) (hb : (s.core c).pw.calHold = none) :
    ∃ n cause, waitSteps c s = s.draw.upd c fun k => k.idleStall n cause := by
  refine ⟨Config.freeSteps s.fresh, s.causeNow c, ?_⟩
  have hidle : idleSteps c (s.causeNow c) s = s.draw.upd c fun k => k.idleStall (Config.freeSteps s.fresh) (s.causeNow c) :=
    stepsPass_nil (s := s.draw) _ _ hp
  have hcore : (s.draw.upd c fun k => k.idleStall (Config.freeSteps s.fresh) (s.causeNow c)).core c = (s.core c).idleStall _ _ :=
    State.core_upd_self c _ hc
  rw [waitSteps, if_pos hring, hidle]
  exact arrive_settled (by rw [hcore, Core.idleStall_pend, hp]) (by rw [hcore, Core.idleStall_arr, hq])
    (by rw [hcore, Core.idleStall_arr, hu]) (by rw [hcore, Core.idleStall_pw, hb])

/-- The cause of a wait on a counter that no sender of a stream holds up: reason 1 and the counter. -/
theorem timeoutTrap_counter {w : Wait} {cc n : Nat} (hk : w.kind = .counter cc n)
    (hs : ∀ i, (vget (s.core c).slots i .reset).st ≠ .sender) : (timeoutTrap s c w).cause = 8 ∧ (timeoutTrap s c w).reason = 1 ∧
      (timeoutTrap s c w).index = BitVec.ofNat 16 cc ∧ (timeoutTrap s c w).epc = none := by
  have hdata : (timeoutData s c w).1 = 1 ∧ (timeoutData s c w).2.1 = cc := by
    unfold timeoutData
    simp only [hk]
    split
    · next pc u i _ => rw [if_neg (by simpa using hs i)]; exact ⟨rfl, rfl⟩
    · exact ⟨rfl, rfl⟩
    · exact ⟨rfl, rfl⟩
  unfold timeoutTrap
  dsimp only
  exact ⟨rfl, hdata.1, by rw [hdata.2], rfl⟩

/-- A deadline that comes with the counter above its threshold (R336). -/
theorem waitTimeout_counter {w : Wait} {cc n : Nat} {d : Desc} (hc : c < 144) (hsvc : (s.core c).inSvc = true)
    (hring : (s.core c).pw.ring = true) (hstop : (s.core c).pw.stopped = false) (hw : (s.core c).wait = some w) (hk : w.kind = .counter cc n)
    (hlow : w.lowered = false) (hcc : cc < 16) (hsend : ∀ i, (vget (s.core c).slots i .reset).st ≠ .sender) (hn : n < (s.core c).outst cc)
    (hh : (s.core c).ccHidden cc = false) (hp : (s.core c).tm.pend = []) (hdl : (s.core c).tm.delayed = []) (hq : (s.core c).arr.queue = [])
    (hu : (s.core c).arr.upd = []) (hb : (s.core c).pw.calHold = none) (hresc : (s.core c).tr.status.resc = false) (hd : d = s.desc c 8)
    (hv : d.valid 8 = true) (hl : (s.core c).level.num ≤ d.tpriv) (hbusy : (s.core c).tr.status.busy d.bank = false) :
    ∃ t, exec (.waitTimeout c) s = .next t ∧ t.time = (s.tickTo w.deadline).time ∧ (t.core c).wait = none ∧
      ((t.core c).tr.save d.bank).ecause.toNat % 256 = 8 ∧ ((t.core c).tr.save d.bank).ecause.toNat / 2 ^ 16 = cc ∧
      ((t.core c).tr.save d.bank).epc = (s.core c).flow.resume ∧ (t.core c).flow.pc = BitVec.ofNat 64 d.haddr ∧
      (t.core c).outst cc = (s.core c).outst cc ∧ t.mem = s.mem ∧ t.log.next = s.log.next + 1 := by
  obtain ⟨m, cause, hsteps⟩ := waitSteps_idle (s := s.tickTo w.deadline) (c := c) (by omega) hring hp hq hu hb
  let s1 := (s.tickTo w.deadline).draw.upd c fun k => k.idleStall m cause
  have hcore1 : s1.core c = (s.core c).idleStall m cause := State.core_upd_self c _ (by omega)
  have hkeep : waitEnd s1 c w = .keep := waitEnd_counter_keep hk
    (by rw [hcore1]; simpa [Core.ccHidden, Core.level] using hh) (by rw [hcore1]; simpa [Core.outst] using hn)
  obtain ⟨hcause, hreason, hindex, hepc⟩ := timeoutTrap_counter (s := s1) (c := c) hk (by rw [hcore1]; simpa using hsend)
  let x := timeoutTrap s1 c w
  let s2 := s1.logAdd 0x04 0 (s.core c).logPart (coreUnit c) x.edata0.toNat (ecauseOf x false).toNat c (timeoutData s1 c w).2.2.2.2
  let s3 := (clearTake c s2).upd c fun k => { k with wait := none }
  have hrun : exec (.waitTimeout c) s = done s (takeException c x s3) := by
    rw [exec_waitTimeout, execWaitTimeout, if_neg (by omega)]
    simp only [hw, hk, hsvc, hstop]
    rw [if_neg (by simp), show waitSteps c (s.tickTo w.deadline) = s1 from hsteps]
    simp only [hkeep, hlow]
    rfl
  have hcore3 : s3.core c = { (s.core c).idleStall m cause with wait := none } := by
    rw [State.core_upd_self c _ (by omega)]
    exact congrArg (fun k : Core => { k with wait := none }) hcore1
  rw [takeException_clear x (by rw [hcore3]; simpa using hp) (by rw [hcore3]; simpa using hdl)] at hrun
  obtain ⟨t, ht, hreq⟩ := answer_of_done hrun
  have hcode : x.cause.toNat = 8 := by rw [hcause]; rfl
  obtain ⟨he, hmem, hlog, htime⟩ := enterSync_enters (s := s3) (c := c) (t := x) (d := d)
    (max ((s3.core c).tm.step + 8) ((s3.core c).lastLand + 1)) (by omega) (by rw [hcore3]; simpa using hresc)
    (by rw [hcode, hd]; rfl) (by rw [hcode]; exact hv) (by rw [hcore3]; simpa [Core.level] using hl) (by rw [hcore3]; simpa using hbusy)
  have hecause : (ecauseOf x false).toNat = cc * 2 ^ 16 + 1 * 2 ^ 8 + 8 := by
    simp only [ecauseOf, hcode, hreason, hindex, x]
    simp
    omega
  refine ⟨t, ht, hreq.time.trans htime, ?_⟩
  rw [hreq.core, hreq.mem, hreq.log]
  refine ⟨he.wait, ?_, ?_, ?_, he.pc, ?_, hmem, ?_⟩
  · rw [he.ecause, hecause]; omega
  · rw [he.ecause, hecause]; omega
  · rw [he.epc, hepc, hcore3]
    simp
  · rw [Core.outst, he.cnt, hcore3]
    simp [Core.outst]
  · rw [hlog]; rfl

/-- Settles O17: WAITC by what its wait's end answers; at a deadline the wait still holds, so its handler is entered. -/
theorem counterWaits : Obligations.CounterWaits := by
  unfold Obligations.CounterWaits
  refine ⟨fun s c rd rs1 cc l n hs => ?_,
    fun s c w cc n d hc hsvc hring hstop hw hk hlow hcc hsend hn hh hp hdl hq hu hb hresc hd hv hl hbusy => ?_⟩
  · intro k m hd hr hh
    refine ⟨waitc_test hs hd hr hh, fun hm he => ?_, fun hm => ?_, fun hm he => ?_⟩
    · have hend := waitEnd_counter_ret (s := s) (c := c) (w := counterWait s c rd rs1 cc l n) rfl hh hm he
      have hrun := waitc_wait (rd := rd) (rs1 := rs1) (l := l) (n := n) hs hd hr
      have hbeat : ((s.upd c Core.beat).core c).tm.pend = [] := by rw [State.core_upd_self c _ hs.core, Core.beat_tm]; exact hs.landed
      simp only [hend, returnWait_counter (s := s.upd c Core.beat) (w := counterWait s c rd rs1 cc l n) rfl hbeat,
        State.upd_upd _ _ _ hs.core] at hrun
      obtain ⟨t, ht, hreq⟩ := answer_of_done hrun
      refine ⟨t, ht, ?_⟩
      rw [hreq.core, hreq.mem, State.core_upd_self c _ hs.core]
      refine ⟨?_, rfl, ?_, rfl⟩
      · simp only [Core.rx, Core.bank, Core.setX]
        exact XRegs.get_set_same ..
      · simp only [Core.beat_flow]
        rfl
    · have hend := waitEnd_counter_keep (s := s) (c := c) (w := counterWait s c rd rs1 cc l n) rfl hh hm
      have hrun := waitc_wait (rd := rd) (rs1 := rs1) (l := l) (n := n) hs hd hr
      simp only [hend, State.upd_upd _ _ _ hs.core] at hrun
      obtain ⟨t, ht, hreq⟩ := answer_of_done hrun
      refine ⟨t, counterWait s c rd rs1 cc l n, ht, ?_⟩
      rw [hreq.core, hreq.mem, State.core_upd_self c _ hs.core]
      exact ⟨rfl, rfl, rfl, rfl, Core.beat_x _, congrArg Flow.waiting (Core.beat_flow _), rfl⟩
    · have hend := waitEnd_counter_fault (s := s) (c := c) (w := counterWait s c rd rs1 cc l n) rfl hh hm he
      have hrun := waitc_wait (rd := rd) (rs1 := rs1) (l := l) (n := n) hs hd hr
      simp only [hend, busError, BitVec.ofNat_toNat] at hrun
      exact hrun
  · exact waitTimeout_counter hc hsvc hring hstop hw hk hlow hcc hsend hn hh hp hdl hq hu hb hresc hd hv hl hbusy

end Sys2Proof.Machine
end

section
/-! SUPPORT. System registers (R64, R91, R101, R108, R123, R334, R507). -/

namespace Sys2Proof.Machine

variable {s : State} {c : Nat} {op : CsrOp} {rs1 : Reg}

/-! ### Writes and reads on a ready core -/

/-- What a write of register `n` comes to where nothing of DTW's is asked (R91). -/
def csrWritten (s : State) (c : Nat) (op : CsrOp) (n : Nat) (rs1 : Reg) : Out :=
  if csrLegal (s.core c) n (s.core c).level = true then
    if csrAcc n (s.core c).level = .ro then .next (s.upd c fun k => k.retire false)
    else .next (s.upd c fun k => (k.land 3 (.csr k.level op (csrExplicit n (s.core c).level (s.core c).bank) ((s.core c).rx rs1))).retire false)
  else .next { takeException c { cause := 1, edata0 := (encY 0 rs1 (csrOpCode op) (BitVec.ofNat 12 n)).data } s with pending := s.pending }

theorem csrWriteI_written (h : s.Ready c false) {n : Nat} (hn : n ≠ 0x10D) : csrWriteI c op n rs1 s = csrWritten s c op n rs1 := by
  unfold csrWritten
  split
  · next hl =>
    split
    · next hro =>
      exact issueP_ready_core h rfl (by simp [hl, hn]) (by simp [hn, hro])
    · next hro =>
      exact issueP_ready_core h rfl (by simp [hl, hn]) (by simp [hn, hro])
  · next hl =>
    exact issueP_ready_trap h rfl _ (by simp [hl]; rfl)
theorem csrWriteI_illegal (h : s.Ready c false) {n : Nat} (hl : csrLegal (s.core c) n (s.core c).level = false) : csrWriteI c op n rs1 s =
    .next { takeException c { cause := 1, edata0 := (encY 0 rs1 (csrOpCode op) (BitVec.ofNat 12 n)).data } s with pending := s.pending } :=
  issueP_ready_trap h rfl _ (by simp [hl]; rfl)

/-- The Y format with op 1 to 3 and no destination writes. -/
theorem exec_csrWrite_op (num : BitVec 12) :
    exec (.csrWrite c (BitVec.ofNat 4 (csrOpCode op)) num ⟨0, rs1⟩) s = csrWriteI c op num.toNat rs1 s := by
  rw [exec_csrWrite, execCsrWrite]
  cases op <;> rfl
/-- The Y format with another op, or with a destination of a write, is illegal. -/
theorem exec_csrWrite_bad (h : s.Ready c false) {code : BitVec 4} {num : BitVec 12} {rd : Reg}
    (hc : 4 ≤ code.toNat ∨ (code ≠ 0 ∧ rd ≠ 0)) :
    exec (.csrWrite c code num ⟨rd, rs1⟩) s =
      .next { takeException c { cause := 1, edata0 := (encY rd rs1 code.toNat num).data } s with pending := s.pending } := by
  have hbad : issueP c (encY rd rs1 code.toNat num) (fun _ => some (illegal (encY rd rs1 code.toNat num) 0)) id s = _ :=
    issueP_ready_trap h rfl id rfl
  have hzero : code.toNat = 0 → ¬ (4 ≤ code.toNat ∨ (code ≠ 0 ∧ rd ≠ 0)) := fun h0 => by
    have : code = 0 := BitVec.eq_of_toNat_eq h0
    simp [this]
  rw [exec_csrWrite, execCsrWrite]
  dsimp only
  split
  · next h0 => exact absurd hc (hzero h0)
  · next h1 => rw [if_neg (hc.resolve_left (by omega)).2]; exact hbad
  · next h2 => rw [if_neg (hc.resolve_left (by omega)).2]; exact hbad
  · next h3 => rw [if_neg (hc.resolve_left (by omega)).2]; exact hbad
  · exact hbad

theorem exec_csrRead (num : BitVec 12) (rd : Reg) : exec (.csrWrite c 0 num ⟨rd, rs1⟩) s = csrReadI c num rd rs1 s := by
  rw [exec_csrWrite, execCsrWrite]
  rfl
theorem csrRead_illegal {num : BitVec 12} (hl : csrLegal (s.core c) num.toNat (s.core c).level = false) : csrRead s c num = none := by
  simp [csrRead, hl]
theorem csrRead_legal {num : BitVec 12} (hl : csrLegal (s.core c) num.toNat (s.core c).level = true) :
    csrRead s c num = some (if csrAcc num.toNat (s.core c).level = .wo then 0 else
      BitVec.ofNat 64 (csrVal s c (s.core c).level (csrExplicit num.toNat (s.core c).level (s.core c).bank))) := by
  by_cases hw : csrAcc num.toNat (s.core c).level = .wo <;> simp [csrRead, hl, hw]
theorem csrReadI_illegal (h : s.Ready c false) {num : BitVec 12} {rd : Reg} (hr : csrRead s c num = none) : csrReadI c num rd rs1 s =
    .next { takeException c { cause := 1, edata0 := (encY rd rs1 0 num).data } s with pending := s.pending } :=
  issueP_ready_trap h rfl _ (by rw [hr]; rfl)
theorem csrReadI_legal (h : s.Ready c false) {num : BitVec 12} {rd : Reg} {v : Word} (hr : csrRead s c num = some v) :
    csrReadI c num rd rs1 s = .next (s.upd c fun k => (k.landX 1 rd v).retire false) := by
  unfold csrReadI
  rw [issueP_ready_run h rfl _ (by rw [hr]; rfl)]
  rw [hr]
  exact done_upd_upd _ _ h.core

/-! ### DTW (R101) -/

theorem dtw_captures (h : s.Ready c false) (hm : (s.core c).level = .m) : csrWriteI c .write 0x10D rs1 s =
    .next (s.upd c fun k => (k.land 3 (.dtw (((s.core c).rx rs1).getLsbD 0) (((s.core c).rx rs1).getLsbD 1)
      k.level k.tr.dtidx k.tr.dtd)).retire false) :=
  issueP_ready_core h rfl (by simp [dtwRefused, hm, csrLegal, csrAcc, csrAcc3]) rfl

/-! ### Registers that read back whole -/

/-- A register that stands for one word of the core reads back what the operation made of it, and nothing else of the state changes. -/
theorem csr_readsBack {n : Nat} {v : Word} (g : Core → Word) (st : Core → Word → Core) (hc : c < 160)
    (hval : ∀ s, csrVal s c .m n = (g (s.core c)).toNat)
    (hland : csrLand s c .m op n v = s.upd c fun k => st k (rwField op (g k) v)) (hst : ∀ k w, g (st k w) = w) :
    csrVal (csrLand s c .m op n v) c .m n = (rwField op (BitVec.ofNat 64 (csrVal s c .m n)) v).toNat ∧
      (csrLand s c .m op n v).mem = s.mem ∧ ∀ d : Nat, d ≠ c → (csrLand s c .m op n v).core d = s.core d := by
  rw [hland, hval, hval, State.core_upd_self c _ hc, hst, BitVec.ofNat_toNat, BitVec.setWidth_eq]
  exact ⟨rfl, State.upd_mem .., fun d hd => State.core_upd_ne _ hd.symm⟩

/-- Settles O18: the rights of a register decide; and each of the whole registers is one word of the core. -/
theorem systemRegisters : Obligations.SystemRegisters := by
  unfold Obligations.SystemRegisters
  refine ⟨fun s c op num rd rs1 code h => ?_, fun s c op v hc => ?_⟩
  · intro k v lands dtw ignored illegal
    refine ⟨fun hl hn => ?_, fun hl => ?_, ?_, exec_csrWrite_bad h, ?_, ?_, ?_, ?_, fun hm hop => ?_, fun ht => ?_⟩
    · rw [exec_csrWrite_op, csrWriteI_written h (fun h => hn (BitVec.eq_of_toNat_eq h)), csrWritten, if_pos hl]
    · rw [exec_csrWrite_op, csrWriteI_illegal h hl, BitVec.ofNat_toNat, BitVec.setWidth_eq]
    · split
      · next hl => rw [exec_csrRead, csrReadI_illegal h (csrRead_illegal hl)]; rfl
      · next hl => rw [exec_csrRead, csrReadI_legal h (csrRead_legal (Bool.eq_true_of_not_eq_false hl))]; rfl
    · rw [exec_mctlWrite, execMctlWrite, csrWriteI_written h (by decide)]
      cases hk : k.level <;> simp only [csrWritten, show (s.core c).level = _ from hk] <;> rfl
    · rw [exec_statusBankDiscard, execStatusBankDiscard, csrWriteI_written h (by decide)]
      cases hk : k.level <;> simp only [csrWritten, show (s.core c).level = _ from hk] <;> rfl
    · rw [exec_barmaskWrite, execBarmaskWrite, csrWriteI_written h (by decide)]
      cases hk : k.level <;> simp only [csrWritten, show (s.core c).level = _ from hk] <;> rfl
    · rw [exec_tcmpWrite, execTcmpWrite, csrWriteI_written h (by decide)]
      cases hk : k.level <;> simp only [csrWritten, show (s.core c).level = _ from hk] <;> rfl
    · subst hop
      exact ⟨dtw_captures h hm, dtw_captures h hm⟩
    · have hl : csrLegal (s.core c) 0x10D (s.core c).level = false := by
        rw [show (s.core c).level = .t from ht]; rfl
      exact ⟨csrWriteI_illegal h hl, csrWriteI_illegal h hl⟩
  · simp only [List.forall_mem_cons]
    exact ⟨csr_readsBack (fun k => k.idn.lwb) (fun k w => { k with idn := { k.idn with lwb := w } })
        hc (fun _ => rfl) rfl fun _ _ => rfl,
      csr_readsBack (fun k => k.idn.lwl) (fun k w => { k with idn := { k.idn with lwl := w } })
        hc (fun _ => rfl) rfl fun _ _ => rfl,
      csr_readsBack (fun k => k.idn.wtoDef) (fun k w => { k with idn := { k.idn with wtoDef := w } })
        hc (fun _ => rfl) rfl fun _ _ => rfl,
      csr_readsBack (fun k => vget k.car.cb 0 0) (fun k w => { k with car := { k.car with cb := vset k.car.cb 0 w } })
        hc (fun _ => rfl) rfl fun _ _ => vget_vset_self _ _ _ _ (by decide : 0 < 8),
      csr_readsBack (fun k => vget k.car.cb 7 0) (fun k w => { k with car := { k.car with cb := vset k.car.cb 7 w } })
        hc (fun _ => rfl) rfl fun _ _ => vget_vset_self _ _ _ _ (by decide : 7 < 8),
      csr_readsBack (fun k => vget k.tr.rescue.scratch 0 0)
        (fun k w => { k with tr := { k.tr with rescue := { k.tr.rescue with scratch := vset k.tr.rescue.scratch 0 w } } })
        hc (fun _ => rfl) rfl fun _ _ => vget_vset_self _ _ _ _ (by decide : 0 < 4),
      csr_readsBack (fun k => vget k.tr.rescue.scratch 3 0)
        (fun k w => { k with tr := { k.tr with rescue := { k.tr.rescue with scratch := vset k.tr.rescue.scratch 3 w } } })
        hc (fun _ => rfl) rfl fun _ _ => vget_vset_self _ _ _ _ (by decide : 3 < 4),
      csr_readsBack (fun k => k.ev.ien) (fun k w => { k with ev := { k.ev with ien := w } }) hc (fun _ => rfl) rfl fun _ _ => rfl,
      csr_readsBack (fun k => k.arr.masks.row0) (fun k w => { k with arr := { k.arr with masks := { k.arr.masks with row0 := w } } })
        hc (fun _ => rfl) rfl fun _ _ => rfl,
      csr_readsBack (fun k => k.arr.masks.row1) (fun k w => { k with arr := { k.arr with masks := { k.arr.masks with row1 := w } } })
        hc (fun _ => rfl) rfl fun _ _ => rfl,
      csr_readsBack (fun k => k.arr.masks.blk) (fun k w => { k with arr := { k.arr with masks := { k.arr.masks with blk := w } } })
        hc (fun _ => rfl) rfl fun _ _ => rfl,
      csr_readsBack (fun k => k.arr.srctr) (fun k w => { k with arr := { k.arr with srctr := w } })
        hc (fun _ => rfl) rfl fun _ _ => rfl,
      csr_readsBack (fun k => k.idn.taskseq) (fun k w => { k with idn := { k.idn with taskseq := w } })
        hc (fun _ => rfl) rfl fun _ _ => rfl,
      fun _ h => nomatch h⟩

end Sys2Proof.Machine
end

section
/-! SUPPORT. Lanes of a register and their bytes in memory (R149, R164, R167). -/

namespace Sys2Proof.Machine

/-! ### Lanes -/

theorem leNat_lt (l : List Byte) : leNat l < 256 ^ l.length := by
  induction l with
  | nil => decide
  | cons b bs ih =>
    have hb := b.isLt
    rw [leNat, List.length_cons, Nat.pow_succ']
    omega
/-- A number of `n` bytes in memory is below 2 to the number of its bits. -/
theorem Mem.nat_lt (m : Mem) (a n : Nat) : m.nat a n < 2 ^ (8 * n) := by
  have h := leNat_lt (m.bytes a n)
  rwa [Mem.bytes_length, show (256 : Nat) = 2 ^ 8 from rfl, ← Nat.pow_mul] at h

/-- A lane of the register that lanes make. -/
theorem ofLanes_lane (w : Nat) (l : List Nat) (j : Nat) : (ofLanes w l >>> (w * j)) % 2 ^ w = l.getD j 0 % 2 ^ w := by
  induction l generalizing j with
  | nil => simp [ofLanes]
  | cons a l ih =>
    cases j with
    | zero => simp [ofLanes, Nat.add_mul_mod_self_left]
    | succ j =>
      have hshift : ofLanes w (a :: l) >>> w = ofLanes w l := by
        rw [ofLanes, Nat.shiftRight_eq_div_pow, Nat.add_mul_div_left _ _ (Nat.two_pow_pos w),
          Nat.div_eq_of_lt (Nat.mod_lt _ (Nat.two_pow_pos w)), Nat.zero_add]
      rw [Nat.mul_succ, Nat.add_comm, Nat.shiftRight_add, hshift, ih, List.getD_cons_succ]
theorem ofLanes_lt (w : Nat) (l : List Nat) : ofLanes w l < 2 ^ (w * l.length) := by
  induction l with
  | nil => simp [ofLanes]
  | cons a l ih =>
    have ha : a % 2 ^ w < 2 ^ w := Nat.mod_lt _ (Nat.two_pow_pos w)
    rw [ofLanes, List.length_cons, Nat.mul_succ, Nat.add_comm (w * _), Nat.pow_add]
    calc a % 2 ^ w + 2 ^ w * ofLanes w l < 2 ^ w + 2 ^ w * ofLanes w l := by omega
      _ = 2 ^ w * (ofLanes w l + 1) := by ring
      _ ≤ 2 ^ w * 2 ^ (w * l.length) := Nat.mul_le_mul_left _ ih

/-- Elements made of the lanes of a number, each with its number. -/
theorem map_zipIdx_lanesOf {α : Type} (w n v : Nat) (f : Nat × Nat → α) :
    ((lanesOf w n v).zipIdx).map f = (List.range n).map fun j => f ((v >>> (w * j)) % 2 ^ w, j) := by
  refine List.ext_getElem (by simp [lanesOf]) fun i h1 h2 => ?_
  simp [lanesOf]

/-! ### Writes one after another -/

/-- Memory after runs of bytes are written in order: the last run over a byte stands. -/
theorem Mem.get_puts (runs : List (Nat × List Byte)) (m : Mem) (x : Nat) : (runs.foldl (fun m r => m.put r.1 r.2) m).get x =
    match runs.reverse.find? (fun r => decide (r.1 ≤ x ∧ x < r.1 + r.2.length)) with
    | some r => r.2.getD (x - r.1) 0
    | none => m.get x := by
  induction runs generalizing m with
  | nil => rfl
  | cons r rs ih =>
    rw [List.foldl_cons, ih, List.reverse_cons, List.find?_append]
    cases rs.reverse.find? (fun r => decide (r.1 ≤ x ∧ x < r.1 + r.2.length)) with
    | some q => rfl
    | none =>
      rw [Option.none_or, Mem.get_put, List.find?_cons]
      by_cases h : r.1 ≤ x ∧ x < r.1 + r.2.length
      · simp [h]
      · rw [if_neg h]
        simp only [h, decide_false, List.find?_nil]
theorem Mem.get_puts_congr (runs : List (Nat × List Byte)) {m m' : Mem} (h : ∀ x, m.get x = m'.get x) (x : Nat) :
    (runs.foldl (fun m r => m.put r.1 r.2) m).get x = (runs.foldl (fun m r => m.put r.1 r.2) m').get x := by
  simp only [Mem.get_puts, h]
/-- Two runs that follow on each other are one. -/
theorem Mem.get_put_append (m : Mem) (a : Nat) (bs cs : List Byte) (x : Nat) :
    (m.put a (bs ++ cs)).get x = ((m.put a bs).put (a + bs.length) cs).get x := by
  rw [Mem.get_put, Mem.get_put, Mem.get_put, List.length_append]
  by_cases hb : a ≤ x ∧ x < a + bs.length
  · rw [if_pos (by omega), if_neg (by omega), if_pos hb, List.getD_append _ _ _ _ (by omega)]
  · by_cases hc : a + bs.length ≤ x ∧ x < a + bs.length + cs.length
    · rw [if_pos (by omega), if_pos hc, List.getD_append_right _ _ _ _ (by omega), Nat.sub_add_eq]
    · rw [if_neg (by omega), if_neg hc, if_neg hb]

/-- Joining runs that follow on each other writes the same bytes. -/
theorem joinRuns_get (runs : List (Nat × List Byte)) (m : Mem) (x : Nat) :
    ((joinRuns runs).foldl (fun m r => m.put r.1 r.2) m).get x = (runs.foldl (fun m r => m.put r.1 r.2) m).get x := by
  induction runs generalizing m with
  | nil => rfl
  | cons p ps ih =>
    have hp := ih (m.put p.1 p.2)
    rw [List.foldl_cons, ← hp, joinRuns]
    generalize joinRuns ps = js
    cases js with
    | nil => rfl
    | cons q qs =>
      dsimp only
      split
      · next hq =>
        rw [List.foldl_cons, List.foldl_cons]
        refine Mem.get_puts_congr qs (fun y => ?_) x
        rw [← hq]
        exact Mem.get_put_append m p.1 p.2 q.2 y
      · rfl

/-- Elements of `size` bytes written in order at places of their own: a byte is the highest one's that covers it. -/
theorem Mem.get_elements (m : Mem) (n size : Nat) (pa v : Nat → Nat) (x : Nat) :
    (((List.range n).map fun j => (pa j, leBytes size (v j))).foldl (fun m r => m.put r.1 r.2) m).get x =
      match (List.range n).reverse.find? (fun j => decide (pa j ≤ x ∧ x < pa j + size)) with
      | some j => BitVec.ofNat 8 (v j / 256 ^ (x - pa j))
      | none => m.get x := by
  rw [Mem.get_puts, ← List.map_reverse, List.find?_map]
  simp only [Function.comp_def, leBytes_length]
  cases hf : (List.range n).reverse.find? (fun j => decide (pa j ≤ x ∧ x < pa j + size)) with
  | none => rfl
  | some j =>
    have hj := List.find?_some hf
    simp only [decide_eq_true_eq] at hj
    exact leBytes_getD size (v j) (x - pa j) (by omega)

end Sys2Proof.Machine
end

section
/-! SUPPORT. Local and far vector access (R78, R151, R164 to R170). -/

namespace Sys2Proof.Machine

variable {s : State} {c : Nat}

/-! ### The checks at issue (R166) -/

theorem elemCount_size (ew : BitVec 2) : 8 * 2 ^ ew.toNat * elemCount ew = 4096 := by
  have h := ew.isLt
  unfold elemCount
  interval_cases ew.toNat <;> rfl

section
variable {k : Core} {e : Enc} {mode : Nat} {rs1 f2 : Reg} {set : BitVec 3} {ew : BitVec 2}

/-- Element `j` lies inside the window, and its address has a 64-bit form. -/
def vmFits (k : Core) (mode : Nat) (rs1 f2 : Reg) (set : BitVec 3) (ew : BitVec 2) (j : Nat) : Bool :=
  k.inWindow (vmAddr k mode rs1 f2 set ew j).toNat (2 ^ ew.toNat) && !vmBeyond k mode rs1 set ew j

theorem vmFits_iff {k : Core} {mode : Nat} {rs1 f2 : Reg} {set : BitVec 3} {ew : BitVec 2} {j : Nat} : vmFits k mode rs1 f2 set ew j = true ↔
    k.inWindow (vmAddr k mode rs1 f2 set ew j).toNat (2 ^ ew.toNat) = true ∧
      (mode = 2 → (k.cb set).toNat + k.carOff set (2 ^ ew.toNat) (k.carIdx set (k.rx rs1) j) < 2 ^ 64) := by
  by_cases hm : mode = 2 <;> simp [vmFits, vmBeyond, hm]

/-- A right form on a free port: the first element off its size, and else the first outside the window. -/
theorem vmFault_elements (hi : vmIllegal mode f2 set ew = false) (hp : k.tm.portFree ≤ k.tm.step)
    (hc : mode = 2 → k.carOk set (2 ^ ew.toNat) = true) : vmFault k e mode rs1 f2 set ew =
    match (List.range (elemCount ew)).find? (fun j => decide ((vmAddr k mode rs1 f2 set ew j).toNat % 2 ^ ew.toNat ≠ 0)) with
    | some j => some (misaligned (vmAddr k mode rs1 f2 set ew j) k.flow.pc j)
    | none => match (List.range (elemCount ew)).find? (fun j => !vmFits k mode rs1 f2 set ew j) with
      | some j => some (busError (vmAddr k mode rs1 f2 set ew j) k.flow.pc 0 j)
      | none => none := by
  unfold vmFault
  dsimp only
  rw [if_neg (by simp [hi]), if_neg (Nat.not_lt.2 hp), if_neg (by rintro ⟨hm, hn⟩; simp [hc hm] at hn), List.find?_map, List.find?_map]
  have hfits : (fun p : Word × Nat => !k.inWindow p.1.toNat (2 ^ ew.toNat) || vmBeyond k mode rs1 set ew p.2) ∘
      (fun j => (vmAddr k mode rs1 f2 set ew j, j)) = fun j => !vmFits k mode rs1 f2 set ew j := by
    funext j
    simp [vmFits]
  have halign : (fun p : Word × Nat => decide (p.1.toNat % 2 ^ ew.toNat ≠ 0)) ∘ (fun j => (vmAddr k mode rs1 f2 set ew j, j)) =
      fun j => decide ((vmAddr k mode rs1 f2 set ew j).toNat % 2 ^ ew.toNat ≠ 0) := rfl
  rw [hfits, halign]
  cases (List.range (elemCount ew)).find? (fun j => decide ((vmAddr k mode rs1 f2 set ew j).toNat % 2 ^ ew.toNat ≠ 0)) <;>
  cases (List.range (elemCount ew)).find? (fun j => !vmFits k mode rs1 f2 set ew j) <;> rfl

variable (hi : vmIllegal mode f2 set ew = false) (hp : k.tm.portFree ≤ k.tm.step) (hc : mode = 2 → k.carOk set (2 ^ ew.toNat) = true)
include hi hp hc

theorem vmFault_none (ha : ∀ j, j < elemCount ew → (vmAddr k mode rs1 f2 set ew j).toNat % 2 ^ ew.toNat = 0)
    (hf : ∀ j, j < elemCount ew → vmFits k mode rs1 f2 set ew j = true) : vmFault k e mode rs1 f2 set ew = none := by
  rw [vmFault_elements hi hp hc, List.find?_range_eq_none.2 fun j hj => by simp [ha j hj],
    List.find?_range_eq_none.2 fun j hj => by simp [hf j hj]]
theorem vmFault_misaligned {j : Nat} (hj : j < elemCount ew) (ha : ∀ q, q < j → (vmAddr k mode rs1 f2 set ew q).toNat % 2 ^ ew.toNat = 0)
    (hn : (vmAddr k mode rs1 f2 set ew j).toNat % 2 ^ ew.toNat ≠ 0) : vmFault k e mode rs1 f2 set ew =
      some { cause := 2, index := BitVec.ofNat 16 j, edata0 := vmAddr k mode rs1 f2 set ew j, edata1 := k.flow.pc } := by
  rw [vmFault_elements hi hp hc, List.find?_range_eq_some.2 ⟨by simpa using hn, List.mem_range.2 hj, fun q hq => by simp [ha q hq]⟩]
  rfl
theorem vmFault_outside {j : Nat} (hj : j < elemCount ew)
    (ha : ∀ q, q < elemCount ew → (vmAddr k mode rs1 f2 set ew q).toNat % 2 ^ ew.toNat = 0)
    (hf : ∀ q, q < j → vmFits k mode rs1 f2 set ew q = true) (hn : vmFits k mode rs1 f2 set ew j = false) :
    vmFault k e mode rs1 f2 set ew =
      some { cause := 3, index := BitVec.ofNat 16 j, edata0 := vmAddr k mode rs1 f2 set ew j, edata1 := k.flow.pc } := by
  rw [vmFault_elements hi hp hc, List.find?_range_eq_none.2 fun j hj => by simp [ha j hj],
    List.find?_range_eq_some.2 ⟨by simp [hn], List.mem_range.2 hj, fun q hq => by simp [hf q hq]⟩]
  rfl
end

/-! ### What an access leaves in its core (R151, R168) -/

/-- With no update of the array under way an access takes none of its steps. -/
theorem contend_none (h : (s.core c).arr.upd = []) : contend c s = s := by
  unfold contend
  simp only [h, List.find?_nil]

section
variable (k : Core) (mode : Nat) (rs1 f2 : Reg) (set : BitVec 3) (ew : BitVec 2)

/-- The index register's step, in the Carousel mode. -/
def vmIndex : List Pend :=
  if mode = 2 then [⟨k.tm.step + 1, .x k.bank rs1 (BitVec.ofNat 64 (k.carIdx set (k.rx rs1) (elemCount ew))), none⟩] else []

/-- What a vector access takes of its core: the port, and the index where it has one. -/
structure VmTaken (k k' : Core) (index : List Pend) (steps : Nat) : Prop where
  pend : k'.tm.pend = index
  portFree : k'.tm.portFree = k.tm.step + steps
  step : k'.tm.step = k.tm.step
  flow : k'.flow = k.flow
  x : k'.x = k.x
  v : k'.v = k.v
  tiles : k'.tiles = k.tiles
  cnt : k'.cnt = k.cnt
  upd : k'.arr.upd = k.arr.upd

theorem Core.vmAfter_taken (h : k.tm.pend = []) :
    VmTaken k (k.vmAfter mode rs1 f2 set ew) (vmIndex k mode rs1 set ew) (portSteps k mode f2 ew) := by
  unfold Core.vmAfter vmIndex
  dsimp only
  split
  · exact ⟨by simp [Core.landX, Core.land, Core.addPend, h, insertPend, Core.bank], rfl, rfl, rfl, rfl, rfl, rfl, rfl, rfl⟩
  · exact ⟨h, rfl, rfl, rfl, rfl, rfl, rfl, rfl, rfl⟩
/-- The core after its store has the same of it. -/
theorem Core.vmAfter_merged (ws : List Nat) (p : BitVec 8) (h : k.tm.pend = []) :
    VmTaken k (((k.withMerged ws).withIpend p).vmAfter mode rs1 f2 set ew) (vmIndex k mode rs1 set ew) (portSteps k mode f2 ew) := by
  obtain ⟨h1, h2, h3, h4, h5, h6, h7, h8, h9⟩ := ((k.withMerged ws).withIpend p).vmAfter_taken mode rs1 f2 set ew h
  exact ⟨h1, h2, h3, h4, h5, h6, h7, h8, h9⟩
end

section
variable {k k' : Core} {mode steps : Nat} {rs1 : Reg} {set : BitVec 3} {ew : BitVec 2} {l : List Pend}

/-- A result of the access lands after its index. -/
theorem VmTaken.addPend (h : VmTaken k k' (vmIndex k mode rs1 set ew) steps) {p : Pend} (hp : p.land = k.tm.step + 10) :
    VmTaken k (k'.addPend p) (vmIndex k mode rs1 set ew ++ [p]) steps := by
  refine ⟨?_, h.portFree, h.step, h.flow, h.x, h.v, h.tiles, h.cnt, h.upd⟩
  rw [Core.addPend, h.pend, vmIndex]
  split
  · simp [insertPend, hp]
  · rfl
/-- The access retired. -/
theorem VmTaken.retired (h : VmTaken k k' l steps) : (k'.retire false).tm.pend = l ∧ (k'.retire false).tm.portFree = k.tm.step + steps ∧
    (k'.retire false).tm.step = k.tm.step + 1 ∧ (k'.retire false).flow = k.flow.advance false ∧ (k'.retire false).x = k.x ∧
    (k'.retire false).v = k.v ∧ (k'.retire false).tiles = k.tiles ∧ (k'.retire false).cnt = k.cnt := by
  simp only [Core.retire_tm, Core.retire_flow, Core.retire_x, Core.retire_v, Core.retire_tiles, Core.retire_cnt]
  exact ⟨h.pend, h.portFree, by rw [h.step], by rw [h.flow], h.x, h.v, h.tiles, h.cnt⟩
end

/-! ### Loads and stores on a ready core -/

section
variable {mode : Nat} {v rs1 f2 : Reg} {set : BitVec 3} {ew : BitVec 2}

theorem vLoad_trap (h : s.Ready c false) {t : Trap} (hf : vmFault (s.core c) (encVM v rs1 f2 mode set ew 0) mode rs1 f2 set ew = some t) :
    vLoad c mode v rs1 f2 set ew s = .next { takeException c t s with pending := s.pending } := issueP_ready_trap h rfl _ hf
theorem vStore_trap (h : s.Ready c false) {t : Trap} (hf : vmFault (s.core c) (encVM v rs1 f2 mode set ew 1) mode rs1 f2 set ew = some t) :
    vStore c mode v rs1 f2 set ew s = .next { takeException c t s with pending := s.pending } := issueP_ready_trap h rfl _ hf

/-- The register that a vector load of sound words lands. -/
def vmLoaded (s : State) (c mode : Nat) (rs1 f2 : Reg) (set : BitVec 3) (ew : BitVec 2) : BitVec 4096 :=
  BitVec.ofNat 4096 (ofLanes (8 * 2 ^ ew.toNat) ((List.range (elemCount ew)).map fun j =>
    s.mem.nat (s.windowPa c (vmAddr (s.core c) mode rs1 f2 set ew j).toNat) (2 ^ ew.toNat)))

theorem toNat_ofNat_fits {w n : Nat} (h : n < 2 ^ w) : (BitVec.ofNat w n).toNat = n := by rw [BitVec.toNat_ofNat, Nat.mod_eq_of_lt h]

/-- Each of its elements is the one in memory. -/
theorem vmLoaded_lane {j : Nat} (hj : j < elemCount ew) :
    ((vmLoaded s c mode rs1 f2 set ew).toNat >>> (8 * 2 ^ ew.toNat * j)) % 2 ^ (8 * 2 ^ ew.toNat) =
      s.mem.nat (s.windowPa c (vmAddr (s.core c) mode rs1 f2 set ew j).toNat) (2 ^ ew.toNat) := by
  have hlt := ofLanes_lt (8 * 2 ^ ew.toNat) ((List.range (elemCount ew)).map fun j =>
    s.mem.nat (s.windowPa c (vmAddr (s.core c) mode rs1 f2 set ew j).toNat) (2 ^ ew.toNat))
  rw [List.length_map, List.length_range, elemCount_size] at hlt
  rw [vmLoaded, toNat_ofNat_fits hlt, ofLanes_lane]
  simp only [List.getD_eq_getElem?_getD, List.getElem?_map, List.getElem?_range hj, Option.map_some, Option.getD_some]
  exact Nat.mod_eq_of_lt (Mem.nat_lt ..)

theorem vLoad_sound (h : s.Ready c false) (hf : vmFault (s.core c) (encVM v rs1 f2 mode set ew 0) mode rs1 f2 set ew = none)
    (hp : ∀ j, j < elemCount ew → s.isPoisoned (s.windowPa c (vmAddr (s.core c) mode rs1 f2 set ew j).toNat) (2 ^ ew.toNat) = false) :
    vLoad c mode v rs1 f2 set ew s = .next (s.upd c fun k => ((k.vmAfter mode rs1 f2 set ew).addPend
      ⟨(s.core c).tm.step + 10, .v v (vmLoaded s c mode rs1 f2 set ew),
        some (.vector, vmAddr (s.core c) mode rs1 f2 set ew 0, (s.core c).flow.pc)⟩).retire false) := by
  let s' := s.upd c fun k => k.vmAfter mode rs1 f2 set ew
  have hcore : s'.core c = (s.core c).vmAfter mode rs1 f2 set ew := State.core_upd_self c _ h.core
  have hcontend : contend c s' = s' :=
    contend_none (by rw [hcore, ((s.core c).vmAfter_taken mode rs1 f2 set ew h.landed).upd, h.update])
  have hidn : ((s.core c).vmAfter mode rs1 f2 set ew).idn = (s.core c).idn := by
    unfold Core.vmAfter
    dsimp only
    split <;> rfl
  have hpa (a : Nat) : s'.windowPa c a = s.windowPa c a := by rw [State.windowPa, State.windowPa, hcore, hidn]
  have hnone : ((List.range (elemCount ew)).map (vmAddr (s.core c) mode rs1 f2 set ew)).find?
      (fun a => s'.isPoisoned (s'.windowPa c a.toNat) (2 ^ ew.toNat)) = none := by
    rw [List.find?_eq_none]
    intro a ha
    obtain ⟨j, hj, rfl⟩ := List.mem_map.1 ha
    rw [hpa]
    exact (Bool.eq_false_iff.1 (hp j (List.mem_range.1 hj)))
  have hhead : ((List.range (elemCount ew)).map (vmAddr (s.core c) mode rs1 f2 set ew)).head?.getD 0 = vmAddr (s.core c) mode rs1 f2 set ew 0 := by
    have hpos : 0 < elemCount ew := by
      have h := elemCount_size ew
      rcases Nat.eq_zero_or_pos (elemCount ew) with h0 | h0
      · rw [h0] at h; cases h
      · exact h0
    rw [List.head?_map, List.head?_range, if_neg (by omega)]
    rfl
  unfold vLoad
  rw [issueP_ready_run h rfl _ hf]
  dsimp only
  rw [show contend c (s.upd c fun k => k.vmAfter mode rs1 f2 set ew) = s' from hcontend, hnone, hhead]
  simp only [hpa, List.map_map]
  have htaken := (s.core c).vmAfter_taken mode rs1 f2 set ew h.landed
  rw [show s' = s.upd c fun k => k.vmAfter mode rs1 f2 set ew from rfl, State.upd_upd _ _ _ h.core, done_upd_upd _ _ h.core]
  refine congrArg _ (State.upd_congr c ?_)
  simp only [htaken.step, htaken.flow]
  rfl

/-- The elements that a vector store writes. -/
def vmStored (s : State) (c mode : Nat) (v rs1 f2 : Reg) (set : BitVec 3) (ew : BitVec 2) : List (Nat × List Byte) :=
  (List.range (elemCount ew)).map fun j => (s.windowPa c (vmAddr (s.core c) mode rs1 f2 set ew j).toNat,
    leBytes (2 ^ ew.toNat) ((((s.core c).rv v).toNat >>> (8 * 2 ^ ew.toNat * j)) % 2 ^ (8 * 2 ^ ew.toNat)))

theorem vStore_run (h : s.Ready c false) (hf : vmFault (s.core c) (encVM v rs1 f2 mode set ew 1) mode rs1 f2 set ew = none) :
    vStore c mode v rs1 f2 set ew s = done s (((localPut c (joinRuns (vmStored s c mode v rs1 f2 set ew)) s).upd c
      fun k => k.vmAfter mode rs1 f2 set ew).upd c fun k => k.retire false) := by
  obtain ⟨ws, p, hput⟩ := localPut_core (s := s) h.core (joinRuns (vmStored s c mode v rs1 f2 set ew))
  have hupd := ((s.core c).vmAfter_merged mode rs1 f2 set ew ws p h.landed).upd
  unfold vStore
  rw [issueP_ready_run h rfl _ hf]
  dsimp only
  rw [map_zipIdx_lanesOf, contend_none]
  · rfl
  · rw [State.core_upd_self c _ h.core]
    exact (congrArg (fun k : Core => (k.vmAfter mode rs1 f2 set ew).arr.upd) hput).trans (hupd.trans h.update)
end

/-! ### Far vector access (R170, R78) -/

/-- A core that counts one more piece of work on `i`. -/
structure Core.Bumped (k k' : Core) (i : Nat) : Prop where
  outst : k'.outst i = k.outst i + 1
  x : k'.x = k.x
  v : k'.v = k.v
  flow : k'.flow = k.flow
  arr : k'.arr = k.arr

theorem Core.bump_bumped (k : Core) {i : Nat} (hi : i < 16) : k.Bumped (k.bump i) i :=
  ⟨vget_vset_self _ _ _ _ hi, rfl, rfl, rfl, rfl⟩
theorem Core.bump_count_bumped (k : Core) {i : Nat} (hi : i < 16) (j n : Nat) : k.Bumped ((k.bump i).count j n) i := by
  refine ⟨?_, by simp, by simp, by simp, by simp⟩
  rw [Core.outst, Core.count_cnt]
  exact (k.bump_bumped hi).outst

/-- A piece of counted work that is pushed: its own core counts it, and it waits where the tags are taken. -/
theorem pushWork_spec {w : Work} (hc : w.core < 160) (hcc : w.cc < 16) (hw : w.stage = .going) (hu : (s.core w.core).arr.upd = []) :
    (pushWork w s).works = s.works ++ [{ w with stage := if s.tagsFree w then .going else .untagged }] ∧ (pushWork w s).mem = s.mem ∧
    (s.core w.core).Bumped ((pushWork w s).core w.core) w.cc ∧ ∀ d, d ≠ w.core → (pushWork w s).core d = s.core d := by
  unfold pushWork
  simp only [if_pos hcc]
  split
  · next ht =>
    let s1 : State := ({ s with works := s.works ++ [w], nextId := s.nextId + 1 } : State).upd w.core fun k => (k.bump w.cc).count 21 w.tags
    have hcore : s1.core w.core = ((s.core w.core).bump w.cc).count 21 w.tags := State.core_upd_self w.core _ hc
    have hcontend : contend w.core s1 = s1 := contend_none (by rw [hcore, (Core.bump_count_bumped _ hcc _ _).arr, hu])
    rw [show (if w.tags = 0 then s1 else contend w.core s1) = s1 by rw [hcontend, ite_self]]
    refine ⟨?_, rfl, by rw [hcore]; exact Core.bump_count_bumped _ hcc _ _, fun d hd => State.core_upd_ne _ hd.symm⟩
    rw [← hw]
    rfl
  · next ht =>
    refine ⟨rfl, rfl, ?_, fun d hd => State.core_upd_ne _ hd.symm⟩
    rw [State.core_upd_self w.core _ hc]
    exact Core.bump_bumped _ hcc

section
variable {v rs1 rs2 : Reg} {cc : BitVec 4} {ew : BitVec 2} {mode : Bool}

theorem vfFault_none {k : Core} {e : Enc} (h : k.CcFree cc)
    (ha : ∀ j, j < elemCount ew → (vfAddr k rs1 rs2 ew mode j).toNat % 2 ^ ew.toNat = 0) : vfFault k e rs1 rs2 cc ew mode = none := by
  have hcc : illegalCc e k false cc = none := by simp [illegalCc, illegalCcRead_none h.allowed h.notHeld, h.shown, firstOf]
  unfold vfFault
  rw [hcc]
  dsimp only [Option.orElse]
  rw [List.find?_map, List.find?_range_eq_none.2 fun j hj => by simp [ha j hj]]
  exact if_neg (Nat.not_le.2 h.below)

/-- Counted work that an instruction of one word pushes. -/
theorem issue_pushes (h : s.Ready c false) {e : Enc} (he : e.wide = false) {check : State → Option Trap} (hk : check s = none) {kind : WorkKind}
    {addr : Word} {runs : List (Word × Nat)} {puts : List (Word × List Byte)} {eff : State → State}
    (heff : eff s = pushWork (newWork s c cc.toNat kind addr runs puts) s) :
    ∃ t w, issueP c e check eff s = .next t ∧ t.works = s.works ++ [w] ∧ w.core = c ∧ w.cc = cc.toNat ∧ w.addr = addr ∧
      w.runs = runs ∧ w.puts = puts ∧ w.stage = (if s.tagsFree w then .going else .untagged) ∧ t.mem = s.mem ∧
      (t.core c).outst cc.toNat = (s.core c).outst cc.toNat + 1 ∧ (t.core c).x = (s.core c).x ∧ (t.core c).v = (s.core c).v ∧
      (t.core c).flow = (s.core c).flow.advance false ∧ ∀ d, d ≠ c → t.core d = s.core d := by
  let w := newWork s c cc.toNat kind addr runs puts
  obtain ⟨hworks, hmem, hcore, hother⟩ := pushWork_spec (s := s) (w := w) h.core cc.isLt rfl h.update
  have hbump : (s.core c).Bumped ((pushWork w s).core c) cc.toNat := hcore
  have hrun : issueP c e check eff s = .next _ := (issueP_ready_run h he eff hk).trans (by rw [heff, done])
  refine ⟨_, _, hrun, hworks, rfl, rfl, rfl, rfl, rfl, rfl, hmem, ?_⟩
  have hself : ((pushWork w s).upd c fun k => k.retire false).core c = _ := State.core_upd_self c _ h.core
  have hne (d : Nat) (hd : d ≠ c) : ((pushWork w s).upd c fun k => k.retire false).core d = s.core d :=
    (State.core_upd_ne _ hd.symm).trans (hother d hd)
  refine ⟨?_, ?_, ?_, ?_, hne⟩
  · exact (congrArg (fun k : Core => k.outst cc.toNat) hself).trans (by simpa [Core.outst] using hbump.outst)
  · exact (congrArg Core.x hself).trans (by simpa using hbump.x)
  · exact (congrArg Core.v hself).trans (by simpa using hbump.v)
  · exact (congrArg Core.flow hself).trans (by rw [Core.retire_flow, hbump.flow])

end

/-- Settles O29: a local access by its checks, its elements and the port; a far one by the work that it pushes. -/
theorem vectorMemory : Obligations.VectorMemory := by
  unfold Obligations.VectorMemory
  refine ⟨fun s c v rs1 f2 set ew h => ?_, fun s c v rs1 rs2 cc ew mode h => ?_⟩
  · intro k size n run
    have access {mode : Nat} {ld st : Instr} {addr : Nat → Word} {form : Prop} {steps : Nat} (hld : exec ld s = vLoad c mode v rs1 f2 set ew s)
        (hst : exec st s = vStore c mode v rs1 f2 set ew s) (haddr : addr = vmAddr k mode rs1 f2 set ew)
        (hform : form → vmIllegal mode f2 set ew = false ∧ (mode = 2 → k.carOk set size = true)) (hsteps : steps = portSteps k mode f2 ew) :
        run mode ld st addr form steps := by
      subst haddr hsteps
      dsimp only [run]
      intro hf hport
      obtain ⟨hi, hc⟩ := hform hf
      refine ⟨fun hall => ?_, fun i hi' j hj => ⟨fun ha hn => ?_, fun ha hfit hn => ?_⟩⟩
      · have hfit (e : Enc) : vmFault k e mode rs1 f2 set ew = none :=
          vmFault_none hi hport hc (fun j hj => (hall j hj).1) fun j hj => vmFits_iff.2 (hall j hj).2
        refine ⟨fun hsound => ?_, ?_⟩
        · refine ⟨_, vmLoaded s c mode rs1 f2 set ew, fun j hj => vmLoaded_lane hj, hld.trans (vLoad_sound h (hfit _) hsound), ?_,
            ⟨rfl, fun d hd => State.core_upd_ne _ hd.symm⟩⟩
          rw [State.core_upd_self c _ h.core]
          exact ((k.vmAfter_taken mode rs1 f2 set ew h.landed).addPend rfl).retired
        · obtain ⟨t, ht, hreq⟩ := answer_of_done (vStore_run h (hfit _))
          obtain ⟨ws, p, hput⟩ := localPut_core (s := s) h.core (joinRuns (vmStored s c mode v rs1 f2 set ew))
          refine ⟨t, hst.trans ht, ?_, fun x => ?_⟩
          · rw [hreq.core, State.core_upd_self c _ h.core, State.core_upd_self c _ h.core, hput, List.append_nil]
            exact (k.vmAfter_merged mode rs1 f2 set ew ws p h.landed).retired
          · rw [hreq.mem, State.upd_mem, State.upd_mem, localPut_mem, joinRuns_get]
            exact Mem.get_elements ..
      · have hfault (e : Enc) := vmFault_misaligned (e := e) hi hport hc hj ha hn
        obtain rfl | rfl := hi'
        · exact hld.trans (vLoad_trap h (hfault _))
        · exact hst.trans (vStore_trap h (hfault _))
      · have hfault (e : Enc) := vmFault_outside (e := e) hi hport hc hj ha (fun q hq => vmFits_iff.2 (hfit q hq))
          (Bool.eq_false_iff.2 fun h => hn (vmFits_iff.1 h))
        obtain rfl | rfl := hi'
        · exact hld.trans (vLoad_trap h (hfault _))
        · exact hst.trans (vStore_trap h (hfault _))
    refine ⟨access (exec_vld ..) (exec_vst ..) rfl (fun hset => ?_) rfl, access (exec_vlds ..) (exec_vsts ..) rfl (fun hset => ?_) ?_,
      access (exec_vldC ..) (exec_vstC ..) rfl (fun ⟨hf2, hok⟩ => ?_) rfl,
      access (exec_vgather ..) (exec_vscatter ..) ?_ (fun ⟨hset, hew⟩ => ?_) rfl⟩
    · exact ⟨by simp [vmIllegal, hset], fun h => by cases h⟩
    · exact ⟨by simp [vmIllegal, hset], fun h => by cases h⟩
    · simp [portSteps, elemCount, n, size, k]
    · exact ⟨by simp [vmIllegal, hf2], fun _ => hok⟩
    · funext j
      simp [vmAddr, bits, show 32 * j + 31 + 1 - 32 * j = 32 by omega]
    · exact ⟨by simp [vmIllegal, hset]; omega, fun h => by cases h⟩
  · intro k size addr issued hcc ha
    have haddr (j : Nat) : vfAddr k rs1 rs2 ew mode j = addr j := by
      cases mode
      · simp [vfAddr, addr, Word.plus, BitVec.ofNat_mul, size]
      · rfl
    have hf (e : Enc) : vfFault k e rs1 rs2 cc ew mode = none := vfFault_none hcc fun j hj => by rw [haddr]; exact ha j hj
    have hruns : (List.range (elemCount ew)).map (fun j => (vfAddr k rs1 rs2 ew mode j, size)) =
        (List.range (512 / size)).map fun j => (addr j, size) :=
      List.map_congr_left fun j _ => by rw [haddr]
    have hputs : ((lanesOf (8 * size) (elemCount ew) (k.rv v).toNat).zipIdx).map (fun p => (vfAddr k rs1 rs2 ew mode p.2, leBytes size p.1)) =
        (List.range (512 / size)).map fun j => (addr j, leBytes size (((k.rv v).toNat >>> (8 * size * j)) % 2 ^ (8 * size))) := by
      rw [map_zipIdx_lanesOf]
      exact List.map_congr_left fun j _ => by rw [haddr]
    refine ⟨?_, ?_⟩
    · rw [← hruns]
      dsimp only [issued]
      rw [exec_vfld, execVfld]
      exact issue_pushes h rfl (hf _) rfl
    · rw [← hputs]
      dsimp only [issued]
      rw [exec_vfst, execVfst]
      exact issue_pushes h rfl (hf _) rfl

end Sys2Proof.Machine
end

section
/-! SUPPORT. A local store that merges with host memory: the state that refutes the claim about poisoned words (R72, R451). -/

namespace Sys2Proof.Machine

/-- Core 0 in service at M, its first page mapped for code. Its window begins at address 4 and its first page stands in the memory of a
host, whose code is not the part's: a tag there covers no bytes (`ecUnit`). The tag stands 32 bytes into that page. -/
def hostWindow : State :=
  let s := State.reset.upd 0 fun k => { k with
    idn := { k.idn with lwb := 4, lwl := 0x10000, lwp := [0x40000000] }
    pw := { k.pw with svc := .inService, ring := true } }
  { s with place := { s.place with pages := [⟨0, 0, 0, 15, 0, 0, none, false, false, false⟩] }, poison := [0x400000000020] }

theorem hostWindow_ready : hostWindow.Ready 0 false where
  core := by decide
  issues := by decide +kernel
  landed := by decide +kernel
  clear := by decide +kernel
  array := by decide +kernel
  update := by decide +kernel
  borrow := by decide +kernel
  aligned := by decide +kernel
  slots := by decide +kernel
  rep := by decide +kernel
  fetch := by decide +kernel

/-- A doubleword stored at address 32 lies across the tag, so that its range holds it, but neither of the two words that it writes in part does. -/
theorem hostWindow_poisoned : hostWindow.isPoisoned (hostWindow.windowPa 0 32) 8 = true := by decide +kernel
theorem hostWindow_inWindow : (hostWindow.core 0).inWindow 32 8 = true := by decide +kernel
/-- The store logs nothing. -/
theorem hostWindow_store : (match exec (.sd 0 5 0 32) hostWindow with
    | .next t => decide (t.log.next = hostWindow.log.next)
    | _ => false) = true := by decide +kernel

/-- Refutes O12: where the window's page stands in a host's memory, a store over a poisoned range notes no word of it. -/
theorem not_localAccess : ¬ Obligations.LocalAccess := by
  unfold Obligations.LocalAccess
  intro h
  obtain ⟨-, hstores⟩ := h
  obtain ⟨-, -, -, hsd, -, -⟩ := hstores hostWindow 0 5 0 32 hostWindow_ready
  obtain ⟨t, ws, ht, -, hpoisoned, -⟩ := hsd (by decide +kernel) hostWindow_inWindow
  obtain ⟨-, -, hlog⟩ := hpoisoned hostWindow_poisoned
  have hsame := hostWindow_store
  rw [ht] at hsame
  exact absurd hlog (by rw [of_decide_eq_true hsame]; exact Nat.lt_irrefl _)

end Sys2Proof.Machine
end

section
/-! SUPPORT. A far store of a displaced task: the state that refutes the claim about its counter (R75, R413, R416). -/

namespace Sys2Proof.Machine

/-- A store of one byte at address 0x108 by core 0 at M, for the task whose group is 5, counted on cc8. -/
def displacedStore : Work :=
  ⟨0, 0, 8, 0, .fst, 0x108, [], [(0x108, [7])], .m, 0, 5, 0, 0, 1, .going, [], [], none, []⟩
/-- The counter of the core. -/
def Core.counting (k : Core) : Core := { k with cnt := { k.cnt with cc := vset k.cnt.cc 8 1 } }
/-- That task is displaced from core 0, which is in service with another group and has one piece of work of its own on cc8. -/
def displaced : State :=
  let s := State.reset.upd 0 fun k => { k.counting with pw := { k.pw with svc := .inService, ring := true } }
  { s with
    works := [displacedStore]
    place := { s.place with pages := [⟨0, 0, 0, 15, 0, 0, none, false, false, false⟩] }
    host := { s.host with returning := [(0, { Core.reset.counting with idn := { Core.reset.idn with group := 5 } }, [])] } }

theorem displaced_noWaits : displaced.NoWaits := by
  intro c _
  obtain h | ⟨rfl, h⟩ := State.core_upd_cases State.reset 0 c fun k =>
    { k.counting with pw := { k.pw with svc := .inService, ring := true } }
  · exact (congrArg Core.wait h).trans (by rw [State.core_reset]; rfl)
  · exact (congrArg Core.wait h).trans (by rw [State.core_reset]; rfl)
theorem displaced_onlyWork : displaced.OnlyWork displacedStore := ⟨rfl, rfl⟩
theorem displaced_puts (i : Nat) (q : Word × List Byte) (h : displacedStore.puts[i]? = some q) : q.2.length ∈ [1, 2, 4, 8] ∧
    q.1.toNat % q.2.length = 0 ∧ displaced.translate displacedStore.part displacedStore.priv false true q.1.toNat = .ok (0x108 + i) ∧
    displaced.Readable (0x108 + i) q.2.length ∧ ∃ d, homeOf (0x108 + i) = some (0, d) := by
  match i with
  | 0 => cases h; exact ⟨by decide, by decide, by decide +kernel, ⟨by decide +kernel, by decide +kernel⟩, 0, by decide +kernel⟩
  | i + 1 => simp [displacedStore] at h

/-- The store completes, and the displaced task's counter falls: the core's own stays at 1. -/
theorem displaced_completes : (match exec (.farAccessComplete 0 .none) displaced with
    | .next t => decide ((t.core 0).outst 8 = 1)
    | _ => false) = true := by decide +kernel

/-- Refutes O16: the counter of a store whose task is displaced from its core is not the core's. -/
theorem not_farAccess : ¬ Obligations.FarAccess := by
  unfold Obligations.FarAccess
  intro h
  obtain ⟨-, -, hstores⟩ := h
  obtain ⟨-, t, ht, -, -, hcount, -⟩ := hstores displaced displacedStore (fun i => 0x108 + i) displaced_noWaits displaced_onlyWork
    (by decide) (by decide) (.inl rfl) rfl (by decide) rfl (by decide +kernel) displaced_puts
  have hsame := displaced_completes
  rw [show exec (.farAccessComplete 0 .none) displaced = .next t from ht] at hsame
  dsimp only at hsame
  have hone : (t.core displacedStore.core).outst displacedStore.cc = 1 := of_decide_eq_true hsame
  have hzero : (displaced.core displacedStore.core).outst displacedStore.cc - 1 = 0 := by decide +kernel
  rw [hone, hzero] at hcount
  exact absurd hcount (by decide)

end Sys2Proof.Machine
end

section
/-! SUPPORT. All that an entry leaves: what its bank saves, the registers of the handler, and what stays as it was (R100, R102 to R106, R109,
R110). -/

namespace Sys2Proof.Machine

variable {s t u : State} {c : Nat}

/-! ### What a right descriptor names (R99, R100) -/

theorem Desc.valid_target {d : Desc} {n : Nat} (h : d.valid n = true) (hn : n ≠ 0x1F) :
    (d.tpriv = 1 ∨ d.tpriv = 2) ∧ (bits d.flags 9 8 = 1 ∨ bits d.flags 9 8 = 2) := by
  unfold Desc.valid at h
  rw [if_neg hn] at h
  simp only [Bool.and_eq_true, Bool.or_eq_true, beq_iff_eq] at h
  obtain ⟨-, ⟨⟨⟨hlevel, hbank⟩, -⟩, -⟩, -⟩ := h
  exact ⟨hlevel, hbank⟩
theorem Desc.valid_bank {d : Desc} {n : Nat} (h : d.valid n = true) (hn : n ≠ 0x1F) : d.bank ≠ .main := by
  unfold Desc.bank
  obtain ⟨-, hb | hb⟩ := d.valid_target h hn <;> rw [hb] <;> decide
theorem Desc.valid_argc {d : Desc} {n : Nat} (h : d.valid n = true) (hn : 0x80 ≤ n) : d.argc ≤ 8 := by
  unfold Desc.valid at h
  rw [if_neg (by omega), if_pos hn] at h
  simp only [Bool.and_eq_true, decide_eq_true_eq] at h
  obtain ⟨-, -, ⟨hargc, -⟩, -⟩ := h
  exact hargc

theorem Desc.tpriv_lt (d : Desc) : d.tpriv < 4 := Nat.mod_lt _ (by decide)
theorem Priv.num_lt (p : Priv) : p.num < 4 := by cases p <;> decide
theorem Bank.num_lt (b : Bank) : b.num < 4 := by cases b <;> decide
theorem Bank.num_dec {b : BitVec 2} (h : b ≠ 3) : (Bank.dec b.toNat).num = b.toNat := by
  revert b; decide

/-! ### Banks and save registers -/

theorem Status.busy_setBusy (st : Status) {b : Bank} (v : Bool) (h : b ≠ .main) : (st.setBusy b v).busy b = v := by
  cases b
  · exact absurd rfl h
  · rfl
  · rfl
theorem TrapRegs.save_setSave_ne (r : TrapRegs) (v : SaveSet) : ∀ {b b' : Bank}, b ≠ b' → b ≠ .main → b' ≠ .main →
    (r.setSave b v).save b' = r.save b'
  | .main, _, _, hb, _ => absurd rfl hb
  | _, .main, _, _, hb' => absurd rfl hb'
  | .b1, .b1, hne, _, _ | .b2, .b2, hne, _, _ => absurd rfl hne
  | .b1, .b2, _, _, _ | .b2, .b1, _, _, _ => rfl

/-- The x registers with those of one shadow bank at zero (R103 step 3). -/
def XRegs.wiped (xs : XRegs) (b : Bank) : XRegs :=
  match b with
  | .b2 => { xs with b2 := Vector.replicate 32 0 }
  | _ => { xs with b1 := Vector.replicate 32 0 }
/-- The x registers with the first `n` arguments of a gate, x10 onwards, in bank `b` (R119). -/
def XRegs.withArgs (xs : XRegs) (b : Bank) (arg : Nat → Word) (n : Nat) : XRegs :=
  (List.range n).foldl (fun xs i => xs.set b (BitVec.ofNat 5 (10 + i)) (arg i)) xs

theorem XRegs.withArgs_succ (xs : XRegs) (b : Bank) (arg : Nat → Word) (n : Nat) :
    xs.withArgs b arg (n + 1) = (xs.withArgs b arg n).set b (BitVec.ofNat 5 (10 + n)) (arg n) := by
  simp [XRegs.withArgs, List.range_succ]

theorem XRegs.get_wiped_ne (xs : XRegs) (r : Reg) : ∀ {b b' : Bank}, b ≠ b' → b ≠ .main → (xs.wiped b).get b' r = xs.get b' r
  | .main, _, _, hb => absurd rfl hb
  | .b1, .b1, hne, _ | .b2, .b2, hne, _ => absurd rfl hne
  | .b1, .main, _, _ | .b1, .b2, _, _ | .b2, .main, _, _ | .b2, .b1, _, _ => rfl
theorem XRegs.get_withArgs_ne (xs : XRegs) {b b' : Bank} (arg : Nat → Word) (n : Nat) (r : Reg) (hne : b ≠ b') :
    (xs.withArgs b arg n).get b' r = xs.get b' r := by
  induction n with
  | zero => rfl
  | succ n ih => rw [XRegs.withArgs_succ, XRegs.get_set_ne _ _ _ _ _ _ (.inl hne), ih]

/-- The numbers of the argument registers, x10 to x17. -/
theorem argReg_toNat {i : Nat} (h : i < 8) : (BitVec.ofNat 5 (10 + i)).toNat = 10 + i := by
  rw [BitVec.toNat_ofNat]; omega
theorem argReg_ne_zero {i : Nat} (h : i < 8) : BitVec.ofNat 5 (10 + i) ≠ 0 := by
  rw [← BitVec.toNat_ne_iff_ne, argReg_toNat h]
  show 10 + i ≠ 0
  omega
theorem argReg_ne {i j : Nat} (hi : i < 8) (hj : j < 8) (h : i ≠ j) : BitVec.ofNat 5 (10 + i) ≠ BitVec.ofNat 5 (10 + j) := by
  rw [← BitVec.toNat_ne_iff_ne, argReg_toNat hi, argReg_toNat hj]; omega
theorem XRegs.get_withArgs (xs : XRegs) (b : Bank) (arg : Nat → Word) {n i : Nat} (hn : n ≤ 8) (hi : i < n) :
    (xs.withArgs b arg n).get b (BitVec.ofNat 5 (10 + i)) = arg i := by
  induction n with
  | zero => exact absurd hi (Nat.not_lt_zero i)
  | succ n ih =>
    rw [XRegs.withArgs_succ]
    by_cases h : i = n
    · subst h
      exact XRegs.get_set_self _ _ _ _ (argReg_ne_zero (by omega))
    · rw [XRegs.get_set_ne _ _ _ _ _ _ (.inr (argReg_ne (by omega) (by omega) (Ne.symm h))), ih (by omega) (by omega)]

/-! ### Entry into a bank (R103, R104) -/

theorem Core.idleTo_step (k : Core) (h : Nat) : (k.idleTo h).tm.step = max k.tm.step h := by
  unfold Core.idleTo
  split
  · rw [Core.idle_tm]; dsimp only; omega
  · omega

/-- The x registers after an entry into bank `b` by descriptor `n` (R103 steps 3 and 5, R119). -/
def Core.entryX (k : Core) (d : Desc) (n : Nat) (b : Bank) : XRegs :=
  let wiped := if d.tpriv < (k.tr.save b).estat.hpriv.toNat then k.x.wiped b else k.x
  let stacked := if d.hsp = 0 then wiped else wiped.set b 2 (BitVec.ofNat 64 d.hsp)
  if 0x80 ≤ n then stacked.withArgs b (fun i => k.rx (BitVec.ofNat 5 (10 + i))) d.argc else stacked.set b 3 (BitVec.ofNat 64 d.extra)

section
variable {k : Core} {d : Desc} {n : Nat} {b : Bank}

theorem Core.entryX_ne (hb : b ≠ .main) {b' : Bank} (hne : b ≠ b') (r : Reg) : (k.entryX d n b).get b' r = k.x.get b' r := by
  have hwiped : (if d.tpriv < (k.tr.save b).estat.hpriv.toNat then k.x.wiped b else k.x).get b' r = k.x.get b' r := by
    split
    · exact XRegs.get_wiped_ne _ _ hne hb
    · rfl
  have hset (xs : XRegs) (q : Reg) (v : Word) : (xs.set b q v).get b' r = xs.get b' r := XRegs.get_set_ne _ _ _ _ _ _ (.inl hne)
  unfold Core.entryX
  dsimp only
  split <;> split <;> simp only [XRegs.get_withArgs_ne _ _ _ _ hne, hset, hwiped]
theorem Core.entryX_arg (hn : 0x80 ≤ n) (hargc : d.argc ≤ 8) {i : Nat} (hi : i < d.argc) :
    (k.entryX d n b).get b (BitVec.ofNat 5 (10 + i)) = k.rx (BitVec.ofNat 5 (10 + i)) := by
  unfold Core.entryX
  rw [if_pos hn]
  exact XRegs.get_withArgs _ _ _ hargc hi
theorem Core.entryX_cookie (hn : n < 0x80) : (k.entryX d n b).get b 3 = BitVec.ofNat 64 d.extra := by
  unfold Core.entryX
  rw [if_neg (by omega)]
  exact XRegs.get_set_self _ _ _ _ (by decide)
theorem Core.entryX_stack (hn : n < 0x80) (hs : d.hsp ≠ 0) : (k.entryX d n b).get b 2 = BitVec.ofNat 64 d.hsp := by
  unfold Core.entryX
  rw [if_neg (by omega), if_neg hs, XRegs.get_set_ne _ _ _ _ _ _ (.inr (by decide))]
  exact XRegs.get_set_self _ _ _ _ (by decide)
end

/-- What the entry's bank saves of the core for the cause `x` (R104, R109, R110, R113, R114). -/
def Core.entrySave (k : Core) (d : Desc) (x : Trap) (esc gate barw : Bool) : SaveSet where
  epc := x.epc.getD k.flow.resume
  estat := {
    hpriv := BitVec.ofNat 2 d.tpriv, ceil := BitVec.ofNat 2 k.level.num, ppriv := BitVec.ofNat 2 k.level.num,
    pbank := BitVec.ofNat 2 k.bank.num, pie := k.tr.status.ie, gate := gate, ds := BitVec.ofNat 2 k.flow.ds,
    repip := k.flow.rep.isSome, repu := (k.flow.rep.map (·.u)).getD false, barw := barw }
  ecause := ecauseOf x esc
  edata0 := x.edata0
  edata1 := x.edata1
  ebtgt := if k.flow.slots = 0 then 0 else k.flow.btgt
  erepc := match k.flow.rep with | some r => BitVec.ofNat 16 r.left | none => 0

section
variable {k : Core} {d : Desc} {x : Trap} {esc gate barw : Bool}

/-- The levels and the bank that ESTAT records stand in its fields of two bits. -/
theorem Core.entrySave_estat : let e := (k.entrySave d x esc gate barw).estat
    e.hpriv.toNat = d.tpriv ∧ e.ceil.toNat = k.level.num ∧ e.ppriv.toNat = k.level.num ∧ e.pbank.toNat = k.bank.num := by
  have hnum {v : Nat} (hv : v < 4) : (BitVec.ofNat 2 v).toNat = v := Nat.mod_eq_of_lt hv
  exact ⟨hnum d.tpriv_lt, hnum k.level.num_lt, hnum k.level.num_lt, hnum k.bank.num_lt⟩
theorem Core.entrySave_ds (h : k.flow.slots = 0) : (k.entrySave d x esc gate barw).estat.ds = 0 := by
  simp [Core.entrySave, Flow.ds, h]
/-- Outside a repeat, the PC of a cause that names none is that of the instruction not issued. -/
theorem Core.entrySave_epc (hr : k.flow.rep = none) (hx : x.epc = none) : (k.entrySave d x esc gate barw).epc = k.flow.pc := by
  simp [Core.entrySave, Flow.resume, hr, hx]
end

/-- The core `k` has entered bank `b` by descriptor `d` of number `n`, saved `sv` there, and is now `k'`, whose handler begins at step `h`
at the earliest. -/
structure Core.InHandler (k : Core) (d : Desc) (n : Nat) (b : Bank) (sv : SaveSet) (h : Nat) (k' : Core) : Prop where
  save : k'.tr.save b = sv
  saveOther : ∀ {b'}, b ≠ b' → b' ≠ .main → k'.tr.save b' = k.tr.save b'
  level : k'.level = Priv.dec d.tpriv
  bank : k'.bank = b
  busy : k'.tr.status.busy b = true
  ie : k'.tr.status.ie = false
  pc : k'.flow.pc = BitVec.ofNat 64 d.haddr
  step : k'.tm.step = max k.tm.step h
  x : k'.x = k.entryX d n b
  v : k'.v = k.v
  cnt : k'.cnt = k.cnt

theorem enterBank_inHandler (hc : c < 160) {b : Bank} (hb : b ≠ .main) (n : Nat) (x : Trap) (esc gate barw async : Bool) (h : Nat) :
    (s.core c).InHandler (s.desc c n) n b ((s.core c).entrySave (s.desc c n) x esc gate barw) h
      ((enterBank c n b x esc gate barw async h s).core c) := by
  have hsave (b' : Bank) : ((enterBank c n b x esc gate barw async h s).core c).tr.save b' =
      ((s.core c).tr.setSave b ((s.core c).entrySave (s.desc c n) x esc gate barw)).save b' := by
    unfold enterBank
    dsimp only
    rw [State.core_upd_self c _ hc, TrapRegs.save_congr (Core.idleTo_tr_save1 _ _) (Core.idleTo_tr_save2 _ _),
      TrapRegs.save_congr (Core.count_tr_save1 _ _ _) (Core.count_tr_save2 _ _ _)]
    cases b' <;> rfl
  have hstatus := enterBank_status (s := s) (n := n) (b := b) (t := x) (esc := esc) (gate := gate) (barw := barw) (async := async) (h := h) hc
  obtain ⟨hlevel, hbank, hie, hpc, -⟩ := hstatus
  have hframe := enterBank_frame (s := s) (n := n) (b := b) (t := x) (esc := esc) (gate := gate) (barw := barw) (async := async) (h := h) hc
  obtain ⟨hv, hcnt, -⟩ := hframe
  refine { save := ?_, saveOther := fun hne hb' => ?_, level := hlevel, bank := hbank, busy := ?_, ie := hie, pc := hpc, step := ?_,
           x := ?_, v := hv, cnt := hcnt }
  · rw [hsave, TrapRegs.save_setSave]
  · rw [hsave, TrapRegs.save_setSave_ne _ _ hne hb hb']
  all_goals
    unfold enterBank
    dsimp only
    rw [State.core_upd_self c _ hc]
  · rw [Core.idleTo_tr_status, Core.count_tr_status]
    exact Status.busy_setBusy _ true hb
  · rw [Core.idleTo_step, Core.count_tm]
  · rw [Core.idleTo_x, Core.count_x]
    cases b <;> rfl

/-! ### What stands beside a core -/

theorem State.Beside.upd (s : State) (c : Nat) (f : Core → Core) : s.Beside (s.upd c f) c :=
  ⟨rfl, fun _ he => State.core_upd_ne f (Ne.symm he)⟩
theorem State.Beside.trans (h : s.Beside t c) (g : t.Beside u c) : s.Beside u c :=
  ⟨g.mem.trans h.mem, fun d hd => (g.others d hd).trans (h.others d hd)⟩
theorem State.Beside.requeued (h : s.Beside t c) (g : t.Requeued u) : s.Beside u c :=
  ⟨g.mem.trans h.mem, fun d hd => (g.core d).trans (h.others d hd)⟩
theorem enterBank_beside (n : Nat) (b : Bank) (x : Trap) (esc gate barw async : Bool) (h : Nat) :
    s.Beside (enterBank c n b x esc gate barw async h s) c := by
  unfold enterBank
  exact .upd s c _

/-! ### A synchronous cause (R102, R103) -/

/-- With nothing to land, a handler begins eight steps on. -/
theorem State.Ready.handlerStep {w : Bool} (h : s.Ready c w) :
    max ((s.core c).tm.step + 8) ((s.core c).lastLand + 1) = (s.core c).tm.step + 8 := by
  rw [Core.lastLand_clear h.landed h.clear]; omega
/-- An exception taken by a core with nothing to land is its cause's entry. -/
theorem takeException_ready {w : Bool} (h : s.Ready c w) (x : Trap) :
    takeException c x s = enterSync c x ((s.core c).tm.step + 8) s := by
  rw [takeException_clear x h.landed h.clear, h.handlerStep]

/-- A cause with a right descriptor at the level or above, its bank free, enters that bank. -/
theorem enterSync_valid {x : Trap} {n : Nat} (hx : x.cause.toNat = n) {d : Desc} (h : Nat) (hr : (s.core c).tr.status.resc = false)
    (hd : d = s.desc c n) (hv : d.valid n = true) (hl : (s.core c).level.num ≤ d.tpriv) (hb : (s.core c).tr.status.busy d.bank = false) :
    enterSync c x h s = enterBank c n d.bank x false (decide (0x80 ≤ n)) false false h s := by
  subst hx hd
  unfold enterSync
  rw [if_neg (by simp [hr]), routeOf_valid _ _ hv hl hb]
  simp

/-- In `t` the fault `x` of the instruction that core `c` would issue in `s` has been delivered by descriptor `g`, to a bank other than
the one in use, and nothing else has changed. -/
structure State.Faulted (s t : State) (c : Nat) (x : Trap) (g : Desc) : Prop where
  epc : ((t.core c).tr.save g.bank).epc = (s.core c).flow.pc
  ecause : ((t.core c).tr.save g.bank).ecause = ecauseOf x false
  edata0 : ((t.core c).tr.save g.bank).edata0 = x.edata0
  edata1 : ((t.core c).tr.save g.bank).edata1 = x.edata1
  gate : ((t.core c).tr.save g.bank).estat.gate = false
  pc : (t.core c).flow.pc = BitVec.ofNat 64 g.haddr
  save : (s.core c).bank ≠ .main → (t.core c).tr.save (s.core c).bank = (s.core c).tr.save (s.core c).bank
  x : ∀ r, (t.core c).x.get (s.core c).bank r = (s.core c).x.get (s.core c).bank r
  v : (t.core c).v = (s.core c).v
  beside : s.Beside t c

/-- A fault at issue on a ready core, answered as a command is. -/
theorem enterSync_faulted {w : Bool} {x : Trap} {n : Nat} {g : Desc} (h : s.Ready c w) (hx : x.epc = none) (hn : x.cause.toNat = n)
    (hlt : n < 0x1F) (hr : (s.core c).tr.status.resc = false) (hg : g = s.desc c n) (hv : g.valid n = true)
    (hl : (s.core c).level.num ≤ g.tpriv) (hb : (s.core c).tr.status.busy g.bank = false) (hne : (s.core c).bank ≠ g.bank) (step : Nat) :
    ∃ u, done s (enterSync c x step s) = .next u ∧ s.Faulted u c x g := by
  have hmain : g.bank ≠ .main := g.valid_bank hv (by omega)
  rw [enterSync_valid hn step hr hg hv hl hb, decide_eq_false (by omega)]
  have hin := enterBank_inHandler (s := s) h.core hmain n x false false false false step
  rw [← hg] at hin
  obtain ⟨u, hu, hreq⟩ := answer_of_done (s := s) (t := enterBank c n g.bank x false false false false step s) rfl
  refine ⟨u, hu, ?_⟩
  rw [← hreq.core c] at hin
  exact {
    epc := by rw [hin.save, Core.entrySave_epc h.rep hx]
    ecause := by rw [hin.save]; rfl
    edata0 := by rw [hin.save]; rfl
    edata1 := by rw [hin.save]; rfl
    gate := by rw [hin.save]; rfl
    pc := hin.pc
    save := hin.saveOther (Ne.symm hne)
    x := fun r => by rw [hin.x, Core.entryX_ne hmain (Ne.symm hne)]
    v := hin.v
    beside := (enterBank_beside ..).requeued hreq }

end Sys2Proof.Machine
end

section
/-! SUPPORT. The word that has no meaning: its entry, its escalation, rescue and the core that stops (R53, R102 to R106, R115, R116). -/

namespace Sys2Proof.Machine

variable {s t u : State} {c : Nat}

/-- A word without a meaning, where a ready core would issue it: the entry of its cause. -/
theorem exec_illegal_ready {w0 : Word32} {w1 : Option Word32} (h : s.Ready c w1.isSome) (hf : (Enc.mk w0 w1).formed = true)
    (ha : (Enc.mk w0 w1).assigned = false) : exec (.exceptionEntry c (.illegal w0 w1)) s =
      done s (enterSync c (illegal ⟨w0, w1⟩ 0) ((s.core c).tm.step + 8) s) := by
  rw [exec_exceptionEntry]
  unfold execExceptionEntry
  rw [if_neg (Nat.not_le.2 h.core), if_neg (by simp [h.issues])]
  simp only [h.arrive, h.notDue, hf, ha]
  rw [if_neg (by simp), if_neg (by simp), issueI_ready h id]
  exact congrArg (done s) (takeException_ready h _)

/-- ECAUSE of ILLEGAL_OP, and as it escalates (R110). -/
theorem ecauseOf_illegal (e : Enc) : ecauseOf (illegal e 0) false = 1 := by simp [ecauseOf, illegal]
theorem ecauseOf_illegal_escalated (e : Enc) : ecauseOf (illegal e 0) true = 0x11E := by simp [ecauseOf, illegal]

/-- Settles O19: the entry into the descriptor's bank, field by field. -/
theorem exceptionEntry : Obligations.ExceptionEntry := by
  unfold Obligations.ExceptionEntry
  intro s c w0 w1 d h hf ha hr hd hv hl hb hne
  have hmain : d.bank ≠ .main := d.valid_bank hv (by decide)
  have hin := enterBank_inHandler (s := s) h.core hmain 1 (illegal ⟨w0, w1⟩ 0) false false false false ((s.core c).tm.step + 8)
  rw [exec_illegal_ready h hf ha, enterSync_valid (x := illegal ⟨w0, w1⟩ 0) rfl _ hr hd hv hl hb]
  obtain ⟨u, hu, hreq⟩ := answer_of_done (s := s) (t := enterBank c 1 d.bank (illegal ⟨w0, w1⟩ 0) false false false false
    ((s.core c).tm.step + 8) s) rfl
  rw [← hd, ← hreq.core c] at hin
  have hbeside : s.Beside u c := (enterBank_beside ..).requeued hreq
  obtain ⟨hhpriv, hceil, hppriv, hpbank⟩ := (s.core c).entrySave_estat (d := d) (x := illegal ⟨w0, w1⟩ 0) (esc := false) (gate := false)
    (barw := false)
  refine ⟨u, hu, ?_⟩
  dsimp only
  rw [hin.save]
  refine ⟨rfl, ecauseOf_illegal _, rfl, rfl, hppriv, hpbank, rfl, hhpriv, hceil, rfl, Core.entrySave_ds h.slots, ?_, hin.bank, hin.busy, hin.ie,
    hin.pc, ?_, fun hs => ?_, ?_, fun r => ?_, hin.v, hin.cnt, hbeside.mem, hbeside.others⟩
  · rw [hin.level]
    exact Desc.valid_tpriv hv (by decide)
  · rw [hin.step]
    omega
  · rw [Core.rx, hin.bank, hin.x]
    exact Core.entryX_stack (by decide) hs
  · rw [Core.rx, hin.bank, hin.x]
    exact Core.entryX_cookie (by decide)
  · rw [hin.x]
    exact Core.entryX_ne hmain (Ne.symm hne) r

/-! ### Where a cause without a right descriptor goes (R102) -/

section
variable {x : Trap} {n : Nat} (hx : x.cause.toNat = n) (hn : n ≠ 0x1E) (h : Nat) (hr : (s.core c).tr.status.resc = false)
  (hv : (s.desc c n).valid n = false)
include hx hn hr hv

/-- Its descriptor not valid, a cause goes through descriptor 0x1E, where that is valid and has its bank free. -/
theorem enterSync_escalated {d : Desc} (hd : d = s.desc c 0x1E) (he : d.valid 0x1E = true)
    (hb : (s.core c).tr.status.busy d.bank = false) : enterSync c x h s = enterBank c 0x1E d.bank x true false false false h s := by
  subst hx hd
  have hroute : routeOf s c x.cause.toNat false = .enter 0x1E true (s.desc c 0x1E).bank := by
    simp [routeOf, hv, hn, he, routeBank, hb]
  unfold enterSync
  rw [if_neg (by simp [hr]), hroute]
  simp
/-- With descriptor 0x1E not valid either, it goes to rescue. -/
theorem enterSync_rescue (he : (s.desc c 0x1E).valid 0x1E = false) : enterSync c x h s = enterRescue c x true false h s := by
  subst hx
  have hroute : routeOf s c x.cause.toNat false = .rescue true := by simp [routeOf, hv, hn, he]
  unfold enterSync
  rw [if_neg (by simp [hr]), hroute]
end
/-- While a rescue is in progress every synchronous cause stops the core. -/
theorem enterSync_inRescue {x : Trap} (h : Nat) (hr : (s.core c).tr.status.resc = true) : enterSync c x h s = stopCore c s := by
  unfold enterSync
  rw [if_pos hr]

/-! ### Rescue and the stop (R115, R116) -/

/-- The core with the rescue record of the cause `x`. -/
def Core.withRescue (k : Core) (x : Trap) (esc : Bool) : Core :=
  { k with tr := { k.tr with rescue := { k.tr.rescue with
      mrpc := x.epc.getD k.flow.resume, mrstat := BitVec.ofNat 64 k.tr.status.word, mrcause := ecauseOf x esc,
      mredata0 := x.edata0, mredata1 := x.edata1 } } }
/-- The core in the handler of descriptor 0x1F, which begins at `pc`. -/
def Core.toRescue (k : Core) (pc : Word) : Core :=
  { k with
    tr := { k.tr with status := { k.tr.status with priv := .m, ie := false, resc := true } }
    flow := k.flow.handler pc
    wait := none
    arr := { k.arr with svalid := false } }

theorem enterRescue_valid {x : Trap} {esc async : Bool} (h : Nat) (hc : c < 160) (hv : (s.desc c 0x1F).valid 0x1F = true) :
    enterRescue c x esc async h s = s.upd c fun k =>
      (((k.withRescue x esc).toRescue (BitVec.ofNat 64 (s.desc c 0x1F).haddr)).count (if async then 25 else 24) 1).idleTo h := by
  unfold enterRescue
  dsimp only
  rw [if_pos hv, State.upd_upd _ _ _ hc]
  rfl
theorem enterRescue_invalid {x : Trap} {esc async : Bool} (h : Nat) (hv : (s.desc c 0x1F).valid 0x1F = false) :
    enterRescue c x esc async h s = stopCore c (s.upd c fun k => k.withRescue x esc) := by
  unfold enterRescue
  dsimp only
  rw [if_neg (by simp [hv])]
  rfl

@[simp] theorem Core.idleTo_tr_rescue (k : Core) (n : Nat) : (k.idleTo n).tr.rescue = k.tr.rescue := by
  unfold Core.idleTo; split <;> simp

/-- In `t` core `c` has stopped issue and the lead hub has recorded it; nothing that a program sees of the core or of memory has changed. -/
structure State.Stopped (s t : State) (c : Nat) : Prop where
  stopped : (t.core c).pw.stopped = true
  x : (t.core c).x = (s.core c).x
  mem : t.mem = s.mem
  log : t.log.next = s.log.next + 1

theorem stopCore_stopped (hc : c < 160) : s.Stopped (stopCore c s) c := by
  have hcore : (stopCore c s).core c = { s.core c with pw := { (s.core c).pw with stopped := true }, wait := none } :=
    State.core_upd_self (s := s) c (fun k => { k with pw := { k.pw with stopped := true }, wait := none }) hc
  exact ⟨by rw [hcore], by rw [hcore], rfl, rfl⟩
theorem enterRescue_stopped {x : Trap} {esc async : Bool} (h : Nat) (hc : c < 160) (hv : (s.desc c 0x1F).valid 0x1F = false) :
    s.Stopped (enterRescue c x esc async h s) c := by
  rw [enterRescue_invalid h hv]
  obtain ⟨hstop, hx, hmem, hlog⟩ := stopCore_stopped (s := s.upd c fun k => k.withRescue x esc) hc
  exact ⟨hstop, hx.trans (by rw [State.core_upd_self _ _ hc]; rfl), hmem, hlog⟩
theorem State.Stopped.requeued (h : s.Stopped t c) (g : t.Requeued u) : s.Stopped u c :=
  ⟨by rw [g.core]; exact h.stopped, by rw [g.core]; exact h.x, g.mem.trans h.mem, by rw [g.log]; exact h.log⟩
theorem State.Stopped.canIssue (h : s.Stopped t c) : (t.core c).canIssue = false := by
  simp [Core.canIssue, h.stopped]

/-- Settles O20: by where the cause goes: rescue with its handler, the stop, or the handler of ESCALATE. -/
theorem escalationAndRescue : Obligations.EscalationAndRescue := by
  unfold Obligations.EscalationAndRescue
  intro s c w0 w1 h hf ha hv i k
  let x := illegal ⟨w0, w1⟩ 0
  have hexec : exec i s = done s (enterSync c x (k.tm.step + 8) s) := exec_illegal_ready h hf ha
  have hx : x.cause.toNat = 1 := rfl
  have hne : (1 : Nat) ≠ 0x1E := by decide
  refine ⟨fun he hf hr => ?_, fun hstop => ?_, fun d hd he hr hb => ?_⟩
  · rw [enterSync_rescue hx hne _ hr hv he, enterRescue_valid _ h.core hf] at hexec
    obtain ⟨u, hu, hreq⟩ := answer_of_done hexec
    refine ⟨u, hu, ?_⟩
    rw [hreq.core, State.core_upd_self _ _ h.core]
    simp only [Core.level, Core.idleTo_tr_rescue, Core.idleTo_tr_status, Core.idleTo_flow, Core.idleTo_x, Core.count_tr_rescue,
      Core.count_tr_status, Core.count_flow, Core.count_x, Core.toRescue, Core.withRescue]
    exact ⟨rfl, rfl, ecauseOf_illegal_escalated ⟨w0, w1⟩, rfl, trivial, trivial, rfl, rfl, hreq.mem⟩
  · have hstopped : s.Stopped (enterSync c x (k.tm.step + 8) s) c := by
      by_cases hr : k.tr.status.resc = true
      · rw [enterSync_inRescue _ hr]
        exact stopCore_stopped h.core
      · obtain ⟨he, hf⟩ := hstop.resolve_left hr
        rw [enterSync_rescue hx hne _ (by simpa using hr) hv he]
        exact enterRescue_stopped _ h.core hf
    obtain ⟨u, hu, hreq⟩ := answer_of_done hexec
    have hend := hstopped.requeued hreq
    exact ⟨u, hu, hend.stopped, hend.canIssue, hend.x, hend.mem, hend.log⟩
  · rw [enterSync_escalated hx hne _ hr hv hd he hb] at hexec
    have hin := enterBank_inHandler (s := s) h.core (d.valid_bank he (by decide)) 0x1E x true false false false (k.tm.step + 8)
    obtain ⟨u, hu, hreq⟩ := answer_of_done hexec
    rw [← hd, ← hreq.core c] at hin
    refine ⟨u, hu, ?_, ?_, hin.pc, hreq.mem⟩
    · rw [hin.save]
      exact ecauseOf_illegal_escalated _
    · rw [hin.save]
      rfl

end Sys2Proof.Machine
end

section
/-! SUPPORT. Gates: their checks, the fault of each, and the entry (R117 to R119). -/

namespace Sys2Proof.Machine

variable {s t u : State} {c : Nat}

/-! ### A core that has issued -/

@[simp] theorem Core.beat_bank (k : Core) : k.beat.bank = k.bank := by simp [Core.bank]
@[simp] theorem Core.beat_level (k : Core) : k.beat.level = k.level := by simp [Core.level]
@[simp] theorem Core.beat_rx (k : Core) (r : Reg) : k.beat.rx r = k.rx r := by simp [Core.rx]
@[simp] theorem Core.beat_save (k : Core) (b : Bank) : k.beat.tr.save b = k.tr.save b :=
  TrapRegs.save_congr k.beat_tr_save1 k.beat_tr_save2 b

/-! ### The checks (R118, R119) -/

/-- Argument `i` of a gate is past its bound. -/
def Core.argOver (k : Core) (d : Desc) (i : Nat) : Bool :=
  bits (d.arg i) 5 0 != 0 && decide (2 ^ bits (d.arg i) 5 0 ≤ (k.rx (BitVec.ofNat 5 (10 + i))).toNat)
/-- Argument `i` of a gate is a pointer whose range is not mapped as it asks. -/
def State.argUnmapped (s : State) (c : Nat) (d : Desc) (i : Nat) : Bool :=
  bitOf (d.arg i) 7 && !s.mapped (s.spaceOf c) (s.core c).level (bitOf (d.arg i) 6) ((s.core c).rx (BitVec.ofNat 5 (10 + i))).toNat
    ((s.core c).rx (BitVec.ofNat 5 (10 + (i + 1)))).toNat

theorem Core.argOver_eq_false {k : Core} {d : Desc} {i : Nat} : k.argOver d i = false ↔
    bits (d.arg i) 5 0 = 0 ∨ (k.rx (BitVec.ofNat 5 (10 + i))).toNat < 2 ^ bits (d.arg i) 5 0 := by
  simp only [Core.argOver, Bool.and_eq_false_iff, bne_eq_false_iff_eq, decide_eq_false_iff_not, Nat.not_le]
theorem State.argUnmapped_eq_false {d : Desc} {i : Nat} : s.argUnmapped c d i = false ↔ (bitOf (d.arg i) 7 = true →
    s.mapped (s.spaceOf c) (s.core c).level (bitOf (d.arg i) 6) ((s.core c).rx (BitVec.ofNat 5 (10 + i))).toNat
      ((s.core c).rx (BitVec.ofNat 5 (10 + (i + 1)))).toNat = true) := by
  rw [State.argUnmapped, Bool.and_eq_false_iff, Bool.not_eq_false', ← Bool.not_eq_true, imp_iff_not_or]

section
variable {n : Nat} {d : Desc} (hd : d = s.desc c n)
include hd

theorem gateFault_invalid (hv : d.valid n = false) : gateFault s c n = some { cause := 0x0A } := by
  subst hd
  unfold gateFault
  exact if_pos (by rw [hv]; rfl)
theorem gateFault_below (hv : d.valid n = true) (hmin : (s.core c).level.num < d.minpriv) :
    gateFault s c n = some { cause := 0x0A, reason := 1 } := by
  subst hd
  unfold gateFault
  dsimp only
  rw [if_neg (by simp [hv]), if_pos hmin]
theorem gateFault_above (hv : d.valid n = true) (hmin : d.minpriv ≤ (s.core c).level.num) (hmax : d.tpriv < (s.core c).level.num) :
    gateFault s c n = some { cause := 0x0A, reason := 2 } := by
  subst hd
  unfold gateFault
  dsimp only
  rw [if_neg (by simp [hv]), if_neg (Nat.not_lt.2 hmin), if_pos hmax]

section
variable (hv : d.valid n = true) (hmin : d.minpriv ≤ (s.core c).level.num) (hmax : (s.core c).level.num ≤ d.tpriv)
include hv hmin hmax

theorem gateFault_over {i : Nat} (hi : (List.range d.argc).find? ((s.core c).argOver d) = some i) : gateFault s c n =
    some { cause := 0x0B, reason := 1, index := BitVec.ofNat 16 i, edata0 := (s.core c).rx (BitVec.ofNat 5 (10 + i)) } := by
  subst hd
  unfold Core.argOver at hi
  unfold gateFault
  dsimp only
  rw [if_neg (by simp [hv]), if_neg (Nat.not_lt.2 hmin), if_neg (Nat.not_lt.2 hmax), hi]
theorem gateFault_unmapped (hover : (List.range d.argc).find? ((s.core c).argOver d) = none) {i : Nat}
    (hi : (List.range d.argc).find? (s.argUnmapped c d) = some i) : gateFault s c n =
    some { cause := 0x0B, reason := 2, index := BitVec.ofNat 16 i, edata0 := (s.core c).rx (BitVec.ofNat 5 (10 + i)),
           edata1 := (s.core c).rx (BitVec.ofNat 5 (10 + (i + 1))) } := by
  subst hd
  unfold Core.argOver at hover
  unfold State.argUnmapped at hi
  unfold gateFault
  dsimp only
  rw [if_neg (by simp [hv]), if_neg (Nat.not_lt.2 hmin), if_neg (Nat.not_lt.2 hmax), hover]
  dsimp only
  rw [hi]
theorem gateFault_none (hover : (List.range d.argc).find? ((s.core c).argOver d) = none)
    (hunmapped : (List.range d.argc).find? (s.argUnmapped c d) = none) : gateFault s c n = none := by
  subst hd
  unfold Core.argOver at hover
  unfold State.argUnmapped at hunmapped
  unfold gateFault
  dsimp only
  rw [if_neg (by simp [hv]), if_neg (Nat.not_lt.2 hmin), if_neg (Nat.not_lt.2 hmax), hover]
  dsimp only
  rw [hunmapped]
end
end

/-- The first argument that fails a check. -/
theorem find?_range_of_first {p : Nat → Bool} {n i : Nat} (hi : i < n) (hp : p i = true) (hbefore : ∀ j, j < i → p j = false) :
    (List.range n).find? p = some i := by
  rw [List.find?_range_eq_some]
  exact ⟨hp, List.mem_range.2 hi, fun j hj => by rw [hbefore j hj]; rfl⟩
theorem find?_range_of_none {p : Nat → Bool} {n : Nat} (h : ∀ j, j < n → p j = false) : (List.range n).find? p = none :=
  List.find?_eq_none.2 fun j hj => by simp [h j (List.mem_range.1 hj)]

/-! ### GATE on a ready core (R119) -/

section
variable {n : BitVec 8} (h : s.Ready c false)
include h

theorem exec_gate_illegal (hn : n.toNat < 0x80) : exec (.gate c n) s =
    .next { takeException c { cause := 1, edata0 := (encGate 0 n.toNat).data } s with pending := s.pending } := by
  rw [exec_gate, execGate, issueI_ready h id]
  simp only [illegalIf, hn, decide_true, if_true]
  rfl
theorem exec_gate_faulted (hn : 0x80 ≤ n.toNat) {x : Trap} (hf : gateFault s c n.toNat = some x) :
    exec (.gate c n) s = done s (enterSync c x ((s.core c).tm.step + 8) s) := by
  rw [exec_gate, execGate, issueI_ready h id]
  simp only [illegalIf, Nat.not_lt.2 hn, decide_false, Bool.false_eq_true, if_false, landEntry_clear h.landed h.clear, h.clear, hf,
    h.handlerStep]
theorem exec_gate_entered (hn : 0x80 ≤ n.toNat) (hf : gateFault s c n.toNat = none) : exec (.gate c n) s =
    done s (enterSync c { cause := BitVec.ofNat 8 n.toNat, epc := some ((s.core c).flow.pc + 4) } ((s.core c).tm.step + 8)
      (s.upd c Core.beat)) := by
  have hbeat : landEntry c (s.upd c Core.beat) = s.upd c Core.beat :=
    landEntry_clear (by simp [State.core_upd_self _ _ h.core, h.landed]) (by simp [State.core_upd_self _ _ h.core, h.clear])
  rw [exec_gate, execGate, issueI_ready h id]
  simp only [illegalIf, Nat.not_lt.2 hn, decide_false, Bool.false_eq_true, if_false, landEntry_clear h.landed h.clear, h.clear, hf,
    h.handlerStep, hbeat]
end

/-! ### ECAUSE (R110) -/

theorem ecauseOf_eq {x : Trap} {i r n : Nat} (hi : x.index.toNat = i) (hr : x.reason.toNat = r) (hn : x.cause.toNat = n) :
    ecauseOf x false = BitVec.ofNat 64 (i * 2 ^ 16 + r * 2 ^ 8 + n) := by
  subst hi hr hn; rfl
theorem ecauseOf_cause {x : Trap} {n : BitVec 8} (hi : x.index = 0) (hr : x.reason = 0) (hn : x.cause = n) :
    ecauseOf x false = n.setWidth 64 := by
  rw [ecauseOf_eq (i := 0) (r := 0) (by rw [hi]; rfl) (by rw [hr]; rfl) (congrArg _ hn)]
  exact BitVec.eq_of_toNat_eq (by simp)

/-- A gate that passes its checks: the core that has issued it enters the descriptor's bank, with the PC after the gate. -/
theorem exec_gate_inHandler {n : BitVec 8} {d : Desc} (h : s.Ready c false) (hn : 0x80 ≤ n.toNat) (hf : gateFault s c n.toNat = none)
    (hr : (s.core c).tr.status.resc = false) (hd : d = s.desc c n.toNat) (hv : d.valid n.toNat = true) (hl : (s.core c).level.num ≤ d.tpriv)
    (hb : (s.core c).tr.status.busy d.bank = false) {x : Trap}
    (hx : x = { cause := BitVec.ofNat 8 n.toNat, epc := some ((s.core c).flow.pc + 4) }) :
    ∃ u, exec (.gate c n) s = .next u ∧ (s.core c).beat.InHandler d n.toNat d.bank ((s.core c).beat.entrySave d x false true false)
      ((s.core c).tm.step + 8) (u.core c) ∧ s.Beside u c := by
  have hcore : (s.upd c Core.beat).core c = (s.core c).beat := State.core_upd_self c _ h.core
  have hdesc : (s.upd c Core.beat).desc c n.toNat = d := hd.symm
  have hcause : x.cause.toNat = n.toNat := by rw [hx, BitVec.ofNat_toNat, BitVec.setWidth_eq]
  have henter := exec_gate_entered h hn hf
  rw [← hx, enterSync_valid hcause _ (by rw [hcore]; simpa using hr) hdesc.symm hv (by rw [hcore]; simpa using hl)
    (by rw [hcore]; simpa using hb), decide_eq_true hn] at henter
  have hin := enterBank_inHandler (s := s.upd c Core.beat) h.core (d.valid_bank hv (by omega)) n.toNat x false true false false
    ((s.core c).tm.step + 8)
  obtain ⟨u, hu, hreq⟩ := answer_of_done henter
  rw [hdesc, hcore, ← hreq.core c] at hin
  exact ⟨u, hu, hin, ((State.Beside.upd s c Core.beat).trans (enterBank_beside ..)).requeued hreq⟩

/-- Settles O21: a gate that passes its checks enters on a core that has issued it; each check that fails is that fault's delivery. -/
theorem gates : Obligations.Gates := by
  unfold Obligations.Gates
  intro s c n d h hr hd k x bounded ranged open_ denied
  have hbounded (i : Nat) : k.argOver d i = false ↔ bounded i := Core.argOver_eq_false
  have hranged (i : Nat) : s.argUnmapped c d i = false ↔ ranged i := State.argUnmapped_eq_false
  have deny {y : Trap} {cause reason i : Nat} (hn : 0x80 ≤ n.toNat) (hf : gateFault s c n.toNat = some y) (hy : y.epc = none)
      (hi : y.index.toNat = i) (hreason : y.reason.toNat = reason) (hcause : y.cause.toNat = cause) (hlt : cause < 0x1F) :
      denied cause reason i y.edata0 y.edata1 := by
    intro g hg hv hl hb hne
    obtain ⟨u, hu, hfault⟩ := enterSync_faulted h hy hcause hlt hr hg hv hl hb hne (k.tm.step + 8)
    exact ⟨u, (exec_gate_faulted h hn hf).trans hu, hfault.epc, hfault.ecause.trans (ecauseOf_eq hi hreason hcause), hfault.edata0,
      hfault.edata1, hfault.gate, hfault.pc, hfault.x, hfault.v, hfault.beside⟩
  refine ⟨fun hn hopen hargs hb hne => ?_, exec_gate_illegal h, fun hn => ⟨fun hv => ?_, fun hv hmin => ?_, fun hv hmin hmax => ?_,
    fun i hopen hi hbefore hover => ?_, fun i hopen hi hall hbefore hun => ?_⟩⟩
  · obtain ⟨hv, hmin, hmax⟩ := hopen
    have hfault : gateFault s c n.toNat = none := gateFault_none hd hv hmin hmax
      (find?_range_of_none fun i hi => have ⟨hbound, _⟩ := hargs i hi; (hbounded i).2 hbound)
      (find?_range_of_none fun i hi => have ⟨_, hrange⟩ := hargs i hi; (hranged i).2 hrange)
    obtain ⟨u, hu, hin, hbeside⟩ := exec_gate_inHandler h hn hfault hr hd hv hmax hb rfl
    obtain ⟨-, -, hppriv, hpbank⟩ := k.beat.entrySave_estat (d := d) (x := { cause := BitVec.ofNat 8 n.toNat, epc := some (k.flow.pc + 4) })
      (esc := false) (gate := true) (barw := false)
    refine ⟨u, hu, ?_⟩
    dsimp only
    rw [hin.save]
    refine ⟨rfl, ecauseOf_cause rfl rfl (BitVec.ofNat_toNat ..), rfl, hppriv.trans (by simp [k]), hpbank.trans (by simp [k]), ?_, hin.bank,
      hin.ie, hin.pc, fun i hi => ?_, fun r => ?_, hin.v.trans (by simp [k]), hbeside⟩
    · rw [hin.level]
      exact Desc.valid_tpriv hv (by omega)
    · rw [Core.rx, hin.bank, hin.x, Core.entryX_arg hn (d.valid_argc hv hn) hi, Core.beat_rx]
    · rw [hin.x, Core.entryX_ne (d.valid_bank hv (by omega)) (Ne.symm hne), Core.beat_x]
  · exact deny hn (gateFault_invalid hd hv) rfl rfl rfl rfl (by decide)
  · exact deny hn (gateFault_below hd hv hmin) rfl rfl rfl rfl (by decide)
  · exact deny hn (gateFault_above hd hv hmin hmax) rfl rfl rfl rfl (by decide)
  · obtain ⟨hv, hmin, hmax⟩ := hopen
    have hfirst : (List.range d.argc).find? (k.argOver d) = some i :=
      find?_range_of_first hi (by rwa [← hbounded, Bool.not_eq_false] at hover) fun j hj => (hbounded j).2 (hbefore j hj)
    have hargc := d.valid_argc hv hn
    exact deny hn (gateFault_over hd hv hmin hmax hfirst) rfl (Nat.mod_eq_of_lt (by omega)) rfl rfl (by decide)
  · obtain ⟨hv, hmin, hmax⟩ := hopen
    have hfirst : (List.range d.argc).find? (s.argUnmapped c d) = some i :=
      find?_range_of_first hi (by rwa [← hranged, Bool.not_eq_false] at hun) fun j hj => (hranged j).2 (hbefore j hj)
    have hargc := d.valid_argc hv hn
    exact deny hn (gateFault_unmapped hd hv hmin hmax (find?_range_of_none fun j hj => (hbounded j).2 (hall j hj)) hfirst) rfl
      (Nat.mod_eq_of_lt (by omega)) rfl rfl (by decide)

end Sys2Proof.Machine
end

section
/-! SUPPORT. The return from an exception: its refusals and what it restores (R120 to R122). -/

namespace Sys2Proof.Machine

variable {s : State} {c : Nat} {nx : RetNext}

/-! ### Refusals (R120) -/

section
variable {k : Core} {e : Estat} (he : (k.tr.save k.bank).estat = e)
include he

theorem eretRefused_level (h : ¬ (e.ppriv ≠ 3 ∧ e.ppriv.toNat ≤ e.ceil.toNat)) : eretRefused k = some 1 := by
  subst he
  unfold eretRefused
  exact if_pos (by rwa [not_and_or, not_not, Nat.not_le] at h)

section
variable (hlevel : e.ppriv ≠ 3 ∧ e.ppriv.toNat ≤ e.ceil.toNat)
include hlevel

theorem eretRefused_maint (h : ¬ (k.tr.maint = true → e.ppriv = 2)) : eretRefused k = some 2 := by
  subst he
  unfold eretRefused
  dsimp only
  rw [if_neg (by simpa using hlevel), if_pos (by simpa using h)]

section
variable (hmaint : k.tr.maint = true → e.ppriv = 2)
include hmaint

theorem eretRefused_bank
    (h : ¬ (e.pbank.toNat ≠ k.bank.num ∧ e.pbank ≠ 3 ∧ (e.pbank ≠ 0 → k.tr.status.busy (Bank.dec e.pbank.toNat) = true))) :
    eretRefused k = some 3 := by
  subst he
  unfold eretRefused
  dsimp only
  rw [if_neg (by simpa using hlevel), if_neg (by simpa using hmaint), if_pos]
  simpa only [not_and_or, not_not, Classical.not_imp, Bool.not_eq_true, Bool.not_eq_true', ne_eq] using h
theorem eretRefused_slots
    (hbank : e.pbank.toNat ≠ k.bank.num ∧ e.pbank ≠ 3 ∧ (e.pbank ≠ 0 → k.tr.status.busy (Bank.dec e.pbank.toNat) = true))
    (h : ¬ (e.ds ≠ 3 ∧ (e.ds ≠ 0 → e.repip = false))) : eretRefused k = some 4 := by
  subst he
  unfold eretRefused
  dsimp only
  rw [if_neg (by simpa using hlevel), if_neg (by simpa using hmaint), if_neg (by simpa using hbank), if_pos]
  simpa only [not_and_or, not_not, Classical.not_imp, Bool.not_eq_false, ne_eq] using h
end
end
end

/-! ### ERET on a ready core -/

section
variable (h : s.Ready c false)
include h

/-- ERET at T or in the main bank is illegal. -/
theorem exec_eret_illegal (hk : (s.core c).level = .t ∨ (s.core c).bank = .main) : exec (.eret c nx) s =
    done s (enterSync c { cause := 1, edata0 := (encGate 1 0).data } ((s.core c).tm.step + 8) s) := by
  rw [exec_eret, execEret, issueI_ready h id]
  simp only [noFault, landEntry_clear h.landed h.clear, h.clear, h.handlerStep]
  rw [if_pos (by simpa using hk)]
  rfl
/-- A refusal is the entry of RET_PRIV. -/
theorem exec_eret_refused (hl : (s.core c).level ≠ .t) (hb : (s.core c).bank ≠ .main) {r : Byte} (hr : eretRefused (s.core c) = some r) :
    exec (.eret c nx) s = done s (enterSync c { cause := 9, reason := r } ((s.core c).tm.step + 8) s) := by
  rw [exec_eret, execEret, issueI_ready h id]
  simp only [noFault, landEntry_clear h.landed h.clear, h.clear, h.handlerStep, hr]
  rw [if_neg (by simp [hl, hb])]
end

/-! ### What a return restores (R113, R120) -/

/-- Where the entry stood in no delay slot and in no repeat, the return resumes at the PC it saved, in none either. -/
theorem resumeFlow_plain (f : Flow) (sv : SaveSet) (nx : RetNext) (hr : sv.estat.repip = false) (hd : sv.estat.ds = 0) :
    resumeFlow f sv nx = ⟨sv.epc, 0, 0, none, true, none, f.repc, sv.estat.barw⟩ := by
  simp [resumeFlow, hr, hd]

section
variable {k : Core} {e : Estat} (he : (k.tr.save k.bank).estat = e)
include he

theorem returnFrom_x_plain (hg : e.gate = false) : (returnFrom k nx).x = k.x := by
  subst he
  simp [returnFrom, hg]
/-- A return from a gate copies x10 and x11 back (R120). -/
theorem returnFrom_x_gate (hg : e.gate = true) {r : Reg} (hr : r = 10 ∨ r = 11) : (returnFrom k nx).rx r = k.rx r := by
  subst he
  have hx : (returnFrom k nx).x = (k.x.set (returnFrom k nx).bank 10 (k.rx 10)).set (returnFrom k nx).bank 11 (k.rx 11) :=
    if_pos hg
  rw [Core.rx, hx]
  obtain rfl | rfl := hr
  · rw [XRegs.get_set_ne _ _ _ _ _ _ (.inr (by decide)), XRegs.get_set_self _ _ _ _ (by decide)]
  · exact XRegs.get_set_self _ _ _ _ (by decide)
end

/-- The core `k` has returned by the ESTAT `e` from an entry in no delay slot and in no repeat, and is now `k'` (R120, R121). -/
structure Core.Returned (k : Core) (e : Estat) (k' : Core) : Prop where
  flow : k'.flow = ⟨(k.tr.save k.bank).epc, 0, 0, none, true, none, k.flow.repc, e.barw⟩
  level : k'.level.num = e.ppriv.toNat
  bank : k'.bank.num = e.pbank.toNat
  ie : k'.tr.status.ie = e.pie
  freed : k'.tr.status.busy k.bank = false
  args : e.gate = true → ∀ {r : Reg}, r = 10 ∨ r = 11 → k'.rx r = k.rx r
  x : e.gate = false → k'.x = k.x
  v : k'.v = k.v
  step : k'.tm.step = k.tm.step + 4

theorem returnFrom_returned {k : Core} {e : Estat} (he : (k.tr.save k.bank).estat = e) (hlevel : e.ppriv ≠ 3) (hbank : e.pbank ≠ 3)
    (hb : k.bank ≠ .main) (hds : e.ds = 0) (hrep : e.repip = false) :
    k.Returned e ((returnFrom k.beat nx).idleTo (k.tm.step + 4)) := by
  have he' : (k.beat.tr.save k.beat.bank).estat = e := by rw [Core.beat_save, Core.beat_bank, he]
  have hstatus := returnFrom_status he' nx
  rw [Core.beat_bank, Core.beat_tr_status] at hstatus
  have hrx (r : Reg) : ((returnFrom k.beat nx).idleTo (k.tm.step + 4)).rx r = (returnFrom k.beat nx).rx r := by
    simp only [Core.rx, Core.bank, Core.idleTo_x, Core.idleTo_tr_status]
  constructor
  case flow =>
    rw [Core.idleTo_flow, returnFrom_flow, Core.beat_save, Core.beat_bank, Core.beat_flow, resumeFlow_plain _ _ _ (by rw [he, hrep])
      (by rw [he, hds]), he]
  case level =>
    rw [Core.level, Core.idleTo_tr_status, hstatus]
    exact Priv.num_dec hlevel
  case bank =>
    rw [Core.bank, Core.idleTo_tr_status, hstatus]
    exact Bank.num_dec hbank
  case ie => rw [Core.idleTo_tr_status, hstatus]
  case freed =>
    rw [Core.idleTo_tr_status, hstatus]
    exact Status.busy_setBusy _ false hb
  case args => exact fun hg r hr => by rw [hrx, returnFrom_x_gate he' hg hr, Core.beat_rx]
  case x => exact fun hg => by rw [Core.idleTo_x, returnFrom_x_plain he' hg, Core.beat_x]
  case v => exact (Core.idleTo_v _ _).trans k.beat_v
  case step =>
    have hstep : (returnFrom k.beat nx).tm.step = k.tm.step + 1 := congrArg Timing.step k.beat_tm
    rw [Core.idleTo_step, hstep]
    omega

/-- Settles O23: a return that nothing refuses, field by field; and each refusal as the delivery of RET_PRIV. -/
theorem exceptionReturn : Obligations.ExceptionReturn := by
  unfold Obligations.ExceptionReturn
  intro s c nx h k e _ level maint bank slots refused
  have refuse {r : Byte} {reason : Nat} (hl : k.level ≠ .t) (hb : k.bank ≠ .main) (hr : eretRefused k = some r) (hn : r.toNat = reason) :
      refused reason := by
    intro g hg hv hresc hlevel hbusy hne
    obtain ⟨u, hu, hfault⟩ := enterSync_faulted (x := { cause := 9, reason := r }) (n := 9) h rfl rfl (by decide) hresc hg hv hlevel hbusy hne
      (k.tm.step + 8)
    refine ⟨u, (exec_eret_refused h hl hb hr).trans hu, hfault.epc, hfault.ecause.trans ?_, hfault.save hb, hfault.pc, hfault.x, hfault.v,
      hfault.beside⟩
    rw [ecauseOf_eq (i := 0) (n := 9) rfl hn rfl, Nat.zero_mul, Nat.zero_add]
  refine ⟨fun hl hb hlevel hmaint hbank hds hrep => ?_, exec_eret_illegal h, fun hl hb => ⟨fun hn => ?_, fun hlevel hn => ?_,
    fun hlevel hmaint hn => ?_, fun hlevel hmaint hbank hn => ?_⟩⟩
  · have hslots : slots := ⟨by rw [hds]; decide, fun hne => absurd hds hne⟩
    have ⟨hpriv, _⟩ := hlevel
    have ⟨_, hpbank, _⟩ := hbank
    have hret : k.Returned e ((returnFrom k.beat nx).idleTo (k.tm.step + 4)) := returnFrom_returned rfl hpriv hpbank hb hds hrep
    refine ⟨_, exec_eret_ready h nx hl hb (eretRefused_eq_none rfl hlevel hmaint hbank hslots), ?_⟩
    rw [State.core_upd_self _ _ h.core]
    exact ⟨congrArg Flow.pc hret.flow, congrArg Flow.slots hret.flow, congrArg Flow.rep hret.flow, hret.level, hret.bank, hret.ie, hret.freed,
      fun hg => ⟨hret.args hg (.inl rfl), hret.args hg (.inr rfl)⟩, hret.x, hret.v, hret.step, .upd s c _⟩
  · exact refuse hl hb (eretRefused_level rfl hn) rfl
  · exact refuse hl hb (eretRefused_maint rfl hlevel hn) rfl
  · exact refuse hl hb (eretRefused_bank rfl hlevel hmaint hn) rfl
  · exact refuse hl hb (eretRefused_slots rfl hlevel hmaint hbank hn) rfl

end Sys2Proof.Machine
end

section
/-! SUPPORT. Number formats: what encoding makes of a value that a format holds, and what NaN, infinities and zeros give (R134, R137 to
R139). -/

namespace Sys2Proof.Machine

/-! ### Rounding a value that the format holds (R134, R137) -/

theorem bitLen_le {m n : Nat} (h : m < 2 ^ n) : bitLen m ≤ n := by
  unfold bitLen
  split
  · exact Nat.zero_le n
  · next h0 => exact (Nat.log2_lt h0).2 h
theorem bitLen_eq {m n : Nat} (hl : 2 ^ n ≤ m) (hu : m < 2 ^ (n + 1)) : bitLen m = n + 1 := by
  have h0 : m ≠ 0 := (Nat.lt_of_lt_of_le (Nat.two_pow_pos n) hl).ne'
  rw [bitLen, if_neg h0, (Nat.log2_eq_iff h0).2 ⟨hl, hu⟩]

theorem roundTo_self (r : Rnd) (neg : Bool) (m : Nat) (e : Int) : roundTo r neg m e e = (m, false) := by simp [roundTo]

/-- A magnitude that scales to no more than another is not above it. -/
theorem magLt_eq_false {a b k : Nat} {x y : Int} (hb : b ≤ a * 2 ^ k) (hy : y + k ≤ x) : magLt a x b y = false := by
  have hk : 2 ^ k ≤ 2 ^ (x - y).toNat := Nat.pow_le_pow_right two_pos (by omega)
  have hle : b ≤ a * 2 ^ (x - y).toNat := hb.trans (Nat.mul_le_mul_left a hk)
  unfold magLt
  split
  · next h =>
    obtain rfl : x = y := by omega
    simpa using hle
  · simpa using hle

/-- A magnitude that format `f` has an encoding for: a subnormal one, or a normal one no larger than the largest. -/
structure Fmt.Holds (f : Fmt) (m : Nat) (e : Int) : Prop where
  place : (e = f.lsb ∧ m < 2 ^ f.mw) ∨ (f.lsb ≤ e ∧ 2 ^ f.mw ≤ m ∧ m < 2 ^ (f.mw + 1))
  fits : magLt f.maxM f.maxE m e = false

/-- The encoding of such a magnitude, without its sign. -/
def Fmt.codeOf (f : Fmt) (m : Nat) (e : Int) : Nat :=
  if m < 2 ^ f.mw then m else m - 2 ^ f.mw + (e + f.mw + f.bias).toNat * 2 ^ f.mw

/-- The exponent to which such a magnitude is rounded is its own. -/
theorem Fmt.Holds.grid {f : Fmt} {m : Nat} {e : Int} (h : f.Holds m e) : max (e + (bitLen m : Int) - ((f.mw : Int) + 1)) f.lsb = e := by
  rcases h.place with ⟨rfl, hm⟩ | ⟨hl, hn, hm⟩
  · have := bitLen_le hm
    omega
  · rw [bitLen_eq hn hm]
    omega

/-- Rounding leaves it as it is, and sets no flag. -/
theorem Fmt.round_held {f : Fmt} {m : Nat} {e : Int} (h : f.Holds m e) (r : Rnd) (o : Ovf) (neg : Bool) :
    f.round r o neg m e = (f.signed neg (f.codeOf m e), 0) := by
  have hq : m ≠ 2 ^ (f.mw + 1) := by
    rcases h.place with ⟨-, hm⟩ | ⟨-, -, hm⟩
    · exact (hm.trans (Nat.pow_lt_pow_right one_lt_two (Nat.lt_succ_self _))).ne
    · exact hm.ne
  unfold Fmt.round
  split
  · next h0 => simp [h0, codeOf]
  · simp [h.grid, roundTo_self, h.fits, hq, codeOf]

/-! ### The fields of an encoding (R125) -/

/-- The exponent field. -/
def Fmt.expOf (f : Fmt) (v : Nat) : Nat := bits v (f.ew + f.mw - 1) f.mw
/-- The number that an encoding stands for where no top encoding takes it. -/
def Fmt.num (f : Fmt) (v : Nat) : FV :=
  let neg := bitOf v (f.ew + f.mw)
  if f.expOf v = 0 then .fin neg (v % 2 ^ f.mw) f.lsb else .fin neg (v % 2 ^ f.mw + 2 ^ f.mw) (f.lsb + f.expOf v - 1)

section
variable {f : Fmt} {v : Nat}

theorem Fmt.decode_ieee (h : f.top = .ieee) : f.decode v = if f.expOf v = 2 ^ f.ew - 1 then
    if v % 2 ^ f.mw = 0 then .inf (bitOf v (f.ew + f.mw)) else .nan (!bitOf (v % 2 ^ f.mw) (f.mw - 1)) else f.num v := by
  unfold Fmt.decode
  rw [h]
  rfl
theorem Fmt.decode_e4m3 (h : f.top = .e4m3) :
    f.decode v = if f.expOf v = 15 ∧ v % 2 ^ f.mw = 7 then .nan false else f.num v := by
  unfold Fmt.decode
  rw [h]
  rfl
theorem Fmt.decode_e2m1 (h : f.top = .e2m1) : f.decode v = f.num v := by
  unfold Fmt.decode
  rw [h]
  rfl

variable (hew : 0 < f.ew)
include hew

theorem Fmt.expOf_eq : f.expOf v = v / 2 ^ f.mw % 2 ^ f.ew := by
  rw [expOf, bits, Nat.shiftRight_eq_div_pow, show f.ew + f.mw - 1 + 1 - f.mw = f.ew by omega]
theorem Fmt.expOf_lt : f.expOf v < 2 ^ f.ew := by
  rw [Fmt.expOf_eq hew]
  exact Nat.mod_lt _ (Nat.two_pow_pos _)

/-- An encoding is its sign, its exponent and its mantissa. -/
theorem Fmt.signed_fields (hv : v < 2 ^ f.width) : f.signed (bitOf v (f.ew + f.mw)) (v % 2 ^ f.mw + f.expOf v * 2 ^ f.mw) = v := by
  have hsign : v / 2 ^ f.mw / 2 ^ f.ew < 2 := by
    rw [Nat.div_div_eq_div_mul, Nat.div_lt_iff_lt_mul (Nat.mul_pos (Nat.two_pow_pos _) (Nat.two_pow_pos _))]
    rw [Fmt.width, show 1 + f.ew + f.mw = 1 + (f.mw + f.ew) by omega, Nat.pow_add, Nat.pow_add] at hv
    exact hv
  have hbit : b2n (bitOf v (f.ew + f.mw)) = v / 2 ^ f.mw / 2 ^ f.ew := by
    rw [bitOf, Nat.testBit_eq_decide_div_mod_eq, Nat.add_comm, Nat.pow_add, ← Nat.div_div_eq_div_mul, Nat.mod_eq_of_lt hsign]
    interval_cases v / 2 ^ f.mw / 2 ^ f.ew <;> rfl
  rw [Fmt.signed, hbit, Fmt.expOf_eq hew, Nat.pow_add]
  calc v % 2 ^ f.mw + v / 2 ^ f.mw % 2 ^ f.ew * 2 ^ f.mw + v / 2 ^ f.mw / 2 ^ f.ew * (2 ^ f.ew * 2 ^ f.mw)
      = v % 2 ^ f.mw + (v / 2 ^ f.mw % 2 ^ f.ew + 2 ^ f.ew * (v / 2 ^ f.mw / 2 ^ f.ew)) * 2 ^ f.mw := by ring
    _ = v := by rw [Nat.mod_add_div, Nat.mod_add_div']

/-- A number that does not pass the largest is encoded as itself. -/
theorem Fmt.encode_num (hv : v < 2 ^ f.width) (hfits : ∀ n m e, f.num v = .fin n m e → magLt f.maxM f.maxE m e = false) :
    f.encode (f.num v) = (v, 0) := by
  have hm : v % 2 ^ f.mw < 2 ^ f.mw := Nat.mod_lt _ (Nat.two_pow_pos _)
  have hv := Fmt.signed_fields hew hv
  unfold Fmt.num at hfits ⊢
  split at hfits
  · next h0 =>
    rw [h0, Nat.zero_mul, Nat.add_zero] at hv
    rw [if_pos h0, encode, Fmt.round_held ⟨.inl ⟨rfl, hm⟩, hfits _ _ _ rfl⟩, codeOf, if_pos hm, hv]
  · next h0 =>
    have hcode : (f.lsb + f.expOf v - 1 + f.mw + f.bias).toNat = f.expOf v := by
      unfold lsb
      omega
    rw [if_neg h0, encode, Fmt.round_held ⟨.inr ⟨by omega, by omega, by rw [Nat.pow_succ]; omega⟩, hfits _ _ _ rfl⟩, codeOf, if_neg (by omega),
      Nat.add_sub_cancel, hcode, hv]

end

/-! ### Each format (R126) -/

/-- A format with infinities and NaNs in its top exponent, whose largest value is the one below them. -/
structure Fmt.Ieee (f : Fmt) : Prop where
  top : f.top = .ieee
  ew : 0 < f.ew
  maxM : f.maxM = 2 ^ (f.mw + 1) - 1
  maxE : f.maxE = f.lsb + (2 ^ f.ew - 2) - 1
  deep : f.lsb ≤ f.maxE

theorem Fmt.Ieee.encode_decode {f : Fmt} (h : f.Ieee) {v : Nat} (hv : v < 2 ^ f.width) (hn : (f.decode v).isNan = false) :
    f.encode (f.decode v) = (v, 0) := by
  have hm : v % 2 ^ f.mw < 2 ^ f.mw := Nat.mod_lt _ (Nat.two_pow_pos _)
  have hfields := Fmt.signed_fields h.ew hv
  rw [Fmt.decode_ieee h.top] at hn ⊢
  split at hn
  · next he =>
    rw [if_pos he]
    split at hn
    · next h0 =>
      rw [if_pos h0, encode, infCode, ← he]
      rw [h0, Nat.zero_add] at hfields
      rw [hfields]
    · exact absurd hn (by simp [FV.isNan])
  · next he =>
    rw [if_neg he]
    refine Fmt.encode_num h.ew hv fun n m e hnum => ?_
    have hexp : (f.expOf v : Int) ≤ 2 ^ f.ew - 2 := by
      have hlt := Fmt.expOf_lt (v := v) h.ew
      have hpow : ((2 ^ f.ew : Nat) : Int) = 2 ^ f.ew := by push_cast; rfl
      omega
    have hme : m ≤ f.maxM * 2 ^ 0 ∧ e ≤ f.maxE := by
      have hmax := h.maxM
      have hmaxE := h.maxE
      have hdeep := h.deep
      rw [Nat.pow_succ] at hmax
      unfold Fmt.num at hnum
      split at hnum <;> simp only [FV.fin.injEq] at hnum <;> omega
    exact magLt_eq_false hme.1 (by simpa using hme.2)

theorem fp32_ieee : fp32.Ieee := ⟨rfl, by decide, by decide, by decide, by decide⟩
theorem bf16_ieee : bf16.Ieee := ⟨rfl, by decide, by decide, by decide, by decide⟩
theorem fp16_ieee : fp16.Ieee := ⟨rfl, by decide, by decide, by decide, by decide⟩
theorem e5m2_ieee : e5m2.Ieee := ⟨rfl, by decide, by decide, by decide, by decide⟩

/-- E4M3 has one NaN of each sign and no infinity: below the NaN the top exponent holds numbers. -/
theorem e4m3_encode_decode {v : Nat} (hv : v < 2 ^ e4m3.width) (hn : (e4m3.decode v).isNan = false) : e4m3.encode (e4m3.decode v) = (v, 0) := by
  have hm : v % 2 ^ e4m3.mw < 8 := Nat.mod_lt _ (by decide)
  have hexp : e4m3.expOf v < 16 := Fmt.expOf_lt (by decide)
  rw [Fmt.decode_e4m3 rfl] at hn ⊢
  split at hn
  · exact absurd hn (by simp [FV.isNan])
  · next h =>
    rw [if_neg h]
    refine Fmt.encode_num (by decide) hv fun n m e hnum => ?_
    have hmw : 2 ^ e4m3.mw = 8 := rfl
    have hlsb : e4m3.lsb = -9 := rfl
    have hme : (m ≤ 14 ∧ e ≤ 5) ∨ (m ≤ 28 ∧ e ≤ 4) := by
      unfold Fmt.num at hnum
      split at hnum <;> simp only [FV.fin.injEq] at hnum <;> omega
    rcases hme with ⟨hm, he⟩ | ⟨hm, he⟩
    · exact magLt_eq_false (k := 1) hm (show e + 1 ≤ 6 by omega)
    · exact magLt_eq_false (k := 2) hm (show e + 2 ≤ 6 by omega)

/-- E2M1 has numbers alone. -/
theorem e2m1_encode_decode {v : Nat} (hv : v < 2 ^ e2m1.width) : e2m1.encode (e2m1.decode v) = (v, 0) := by
  rw [Fmt.decode_e2m1 rfl]
  refine Fmt.encode_num (by decide) hv fun n m e hnum => ?_
  have hm : v % 2 ^ e2m1.mw < 2 := Nat.mod_lt _ (by decide)
  have hexp : e2m1.expOf v < 4 := Fmt.expOf_lt (by decide)
  have hmw : 2 ^ e2m1.mw = 2 := rfl
  have hlsb : e2m1.lsb = -1 := rfl
  have hme : m ≤ 3 ∧ e ≤ 1 := by
    unfold Fmt.num at hnum
    split at hnum <;> simp only [FV.fin.injEq] at hnum <;> omega
  exact magLt_eq_false (k := 0) hme.1 (show e + 0 ≤ 1 by omega)

/-! ### NaN (R138, R139) -/

section
variable {a b c : FV}

@[simp] theorem FV.isNan_neg (a : FV) : a.neg.isNan = a.isNan := by cases a <;> rfl
@[simp] theorem FV.isSig_neg (a : FV) : a.neg.isSig = a.isSig := by cases a <;> rfl
theorem FV.isNan_iff : a.isNan = true ↔ ∃ s, a = .nan s := by cases a <;> simp [FV.isNan]
theorem FV.isZero_iff : a.isZero = true ↔ ∃ n e, a = .fin n 0 e := by cases a <;> simp [FV.isZero]

theorem FV.add_nan (h : a.isNan = true ∨ b.isNan = true) : a.add b = (.nan false, sigFlag a b) := by
  rcases h with h | h <;> obtain ⟨s, rfl⟩ := FV.isNan_iff.1 h
  · cases b <;> rfl
  · cases a <;> rfl
theorem FV.mul_nan (h : a.isNan = true ∨ b.isNan = true) : a.mul b = (.nan false, sigFlag a b) := by
  rcases h with h | h <;> obtain ⟨s, rfl⟩ := FV.isNan_iff.1 h
  · cases b <;> rfl
  · cases a <;> rfl
theorem FV.div_nan (h : a.isNan = true ∨ b.isNan = true) : a.div b = (.nan false, sigFlag a b) := by
  rcases h with h | h <;> obtain ⟨s, rfl⟩ := FV.isNan_iff.1 h
  · cases b <;> rfl
  · cases a <;> rfl
theorem FV.sqrt_nan (h : a.isNan = true) : a.sqrt = (.nan false, if a.isSig then ffNV else 0) := by
  obtain ⟨s, rfl⟩ := FV.isNan_iff.1 h
  rfl

theorem FV.rel_nan (h : a.isNan = true ∨ b.isNan = true) (op : Nat) :
    FV.rel op a b = (false, if op = 0 then sigFlag a b else ffNV) := by
  rw [FV.rel, if_pos (by simpa using h)]
theorem FV.minmax_nan (h : a.isNan = true ∨ b.isNan = true) (mx : Bool) :
    FV.minmax mx a b = (if a.isNan then if b.isNan then .nan false else b else a, sigFlag a b) := by
  rcases h with h | h <;> obtain ⟨s, rfl⟩ := FV.isNan_iff.1 h
  · cases b <;> rfl
  · cases a <;> rfl

/-- A product raises NV or nothing. -/
theorem FV.mul_flags (a b : FV) : (a.mul b).2 = 0 ∨ (a.mul b).2 = ffNV := by
  unfold FV.mul sigFlag
  grind

/-- A fused operation with a NaN among its operands is NaN, and raises NV where one of them signals. -/
theorem FV.fma_nan (h : a.isNan = true ∨ b.isNan = true ∨ c.isNan = true) : (a.fma b c).1 = .nan false ∧
    ((a.isSig || b.isSig || c.isSig) = true → (a.fma b c).2 = ffNV) := by
  by_cases hab : a.isNan = true ∨ b.isNan = true
  · have hfma : a.fma b c = (.nan false, sigFlag a b ||| if c.isSig then ffNV else 0) := by
      unfold FV.fma
      rw [FV.mul_nan hab]
      rfl
    rw [hfma, sigFlag]
    refine ⟨rfl, fun hs => ?_⟩
    revert hs
    cases a.isSig || b.isSig <;> cases c.isSig <;> decide
  · obtain ⟨s, rfl⟩ := FV.isNan_iff.1 (show c.isNan = true by tauto)
    have hsig (x : FV) (hx : ¬x.isNan = true) : x.isSig = false := by
      cases x
      case nan => exact absurd rfl hx
      all_goals rfl
    have hflags := FV.mul_flags a b
    rw [not_or] at hab
    rw [hsig a hab.1, hsig b hab.2]
    unfold FV.fma
    generalize a.mul b = r at hflags
    obtain ⟨p, f⟩ := r
    obtain rfl | rfl : f = 0 ∨ f = ffNV := hflags
    all_goals
      dsimp only
      split
      · exact ⟨rfl, by rintro rfl; rfl⟩
      · rw [FV.add_nan (.inr rfl)]
        exact ⟨rfl, by rintro rfl; simp [sigFlag, FV.isSig, ffNV]⟩

/-! ### Infinities, zeros and order (R139) -/

theorem FV.div_zero {n n' : Bool} {m : Nat} {e e' : Int} (hm : m ≠ 0) : FV.div (.fin n m e) (.fin n' 0 e') = (.inf (n != n'), ffDZ) := by
  simp [FV.div, hm]

theorem FV.cmp_swap (ha : a.isNan = false) (hb : b.isNan = false) : FV.cmp b a = -FV.cmp a b := by
  cases a with
  | nan => cases ha
  | inf n =>
    cases b with
    | nan => cases hb
    | inf p => cases n <;> cases p <;> rfl
    | fin => cases n <;> rfl
  | fin n m e =>
    cases b with
    | nan => cases hb
    | inf p => cases p <;> rfl
    | fin p q x => simp [FV.cmp, min_comm]

/-- The order of FMIN and FMAX: by value, and −0 below +0. -/
def FV.below (a b : FV) : Bool := decide (FV.cmp a b < 0) || (decide (FV.cmp a b = 0) && a.signBit && !b.signBit)

theorem FV.below_iff : a.below b = true ↔ FV.cmp a b < 0 ∨ (FV.cmp a b = 0 ∧ a.signBit = true ∧ b.signBit = false) := by
  simp [FV.below, and_assoc]
theorem FV.below_asymm (ha : a.isNan = false) (hb : b.isNan = false) (h : b.below a = true) : a.below b = false := by
  rw [FV.below_iff, FV.cmp_swap ha hb] at h
  rw [Bool.eq_false_iff, Ne, FV.below_iff]
  rcases h with h | ⟨h, hs, -⟩
  · omega
  · rintro (h' | ⟨-, -, hs'⟩)
    · omega
    · exact absurd hs (by simp [hs'])

theorem FV.minmax_num (ha : a.isNan = false) (hb : b.isNan = false) (mx : Bool) :
    FV.minmax mx a b = (if a.below b != mx then a else b, 0) := by
  cases a with
  | nan => cases ha
  | inf => cases b with
    | nan => cases hb
    | inf => rfl
    | fin => rfl
  | fin => cases b with
    | nan => cases hb
    | inf => rfl
    | fin => rfl

end

/-! ### Results in FP32 -/

theorem roundOp_nan (f : FF) : roundOp (.nan false, f) = (0x7FC00000, f) := Prod.ext rfl BitVec.or_zero
theorem roundOp_inf (n : Bool) (f : FF) : roundOp (.inf n, f) = (if n then 0xFF800000 else 0x7F800000, f) :=
  Prod.ext (by cases n <;> rfl) BitVec.or_zero

/-- Settles O14: a value that is no NaN is one that its format holds; and each operation of R138 and R139 by the kinds of its operands. -/
theorem numberFormats : Obligations.NumberFormats := by
  unfold Obligations.NumberFormats
  refine ⟨fun f hf v hv hn => ?_, ?_⟩
  · simp only [List.mem_cons, List.not_mem_nil, or_false] at hf
    rcases hf with rfl | rfl | rfl | rfl | rfl | rfl
    · exact fp32_ieee.encode_decode hv hn
    · exact bf16_ieee.encode_decode hv hn
    · exact fp16_ieee.encode_decode hv hn
    · exact e5m2_ieee.encode_decode hv hn
    · exact e4m3_encode_decode hv hn
    · exact e2m1_encode_decode hv
  intro nan bad neg less
  have hbad {r : FV × FF} {sig : Bool} (h : r = (.nan false, if sig then ffNV else 0)) : roundOp r = bad sig := by
    rw [h, roundOp_nan]
  have invalid {r : FV × FF} (h : r = (.nan false, ffNV)) : roundOp r = (nan, ffNV) := by rw [h, roundOp_nan]
  refine ⟨fun a b h => ?_, fun a h => hbad (FV.sqrt_nan h), fun a b d h => ?_, fun a b n p ha hb => ?_, fun a b ⟨n, ha⟩ hb => ?_,
    fun a b ha hb => ?_, fun a b ⟨n, m, e, ha, hm⟩ hb => ?_, fun a h => ?_, fun a b ha hb => ?_⟩
  · refine ⟨hbad (FV.add_nan h), hbad ?_, hbad (FV.mul_nan h), hbad (FV.div_nan h), FV.rel_nan h 0, FV.rel_nan h 1, FV.rel_nan h 2,
      fun mx => ?_⟩
    · rw [FV.add_nan (by simpa using h), sigFlag, FV.isSig_neg]
    · rw [FV.minmax_nan h]
      exact ⟨rfl, rfl⟩
  · obtain ⟨hv, hf⟩ := FV.fma_nan h
    have hr := roundOp_nan ((f32 a).fma (f32 b) (f32 d)).2
    rw [← hv] at hr
    rw [show roundOp ((f32 a).fma (f32 b) (f32 d)) = _ from hr]
    exact ⟨rfl, hf⟩
  · refine ⟨fun hne => invalid ?_, fun heq => invalid ?_, invalid ?_⟩ <;> rw [ha, hb]
    · simp [FV.add, hne]
    · simp [FV.add, FV.neg, heq]
    · rfl
  · obtain ⟨p, e, hb⟩ := FV.isZero_iff.1 hb
    constructor <;> refine invalid ?_ <;> rw [ha, hb] <;> rfl
  · obtain ⟨n, e, ha⟩ := FV.isZero_iff.1 ha
    obtain ⟨p, x, hb⟩ := FV.isZero_iff.1 hb
    refine invalid ?_
    rw [ha, hb]
    rfl
  · obtain ⟨p, x, hb⟩ := FV.isZero_iff.1 hb
    have hdiv : fdivB a b = (if n != p then 0xFF800000 else 0x7F800000, ffDZ) := by
      rw [fdivB, ha, hb, FV.div_zero hm, roundOp_inf]
    rw [hdiv]
    exact ⟨rfl, by cases n != p <;> rfl⟩
  · refine invalid ?_
    rcases h with ⟨m, e, ha, hm⟩ | ha <;> rw [ha]
    · simp [FV.sqrt, hm]
    · rfl
  · have hlt : less (f32 a) (f32 b) → (f32 a).below (f32 b) = true := FV.below_iff.2
    have hgt : less (f32 b) (f32 a) → (f32 a).below (f32 b) = false := fun h => FV.below_asymm ha hb (FV.below_iff.2 h)
    refine ⟨fun h => ?_, fun h => ?_⟩ <;> rw [FV.minmax_num ha hb, FV.minmax_num ha hb]
    · rw [hlt h]
      exact ⟨rfl, rfl⟩
    · rw [hgt h]
      exact ⟨rfl, rfl⟩

end Sys2Proof.Machine
end

section
/-! SUPPORT. The datapath of the long-vector unit, the lanes of a result, and the floating-point forms lane by lane (R139, R149, R150, R154
to R156). -/

namespace Sys2Proof.Machine

variable {s : State} {c : Nat}

/-! ### The datapath (R150) -/

/-- A core whose datapath an instruction takes for four steps. -/
def Core.dpTaken (k : Core) (f : Core → Core) : Core :=
  let k' := (f k).dpUse
  { k' with tm := { k'.tm with dpFree := k.tm.step + 4 } }.retire false

/-- A datapath instruction of a right form on a ready core whose datapath is free: it may be given what it makes of the core as it stands
at issue. -/
theorem issueV_ready (h : s.Ready c false) (hd : (s.core c).tm.dpFree ≤ (s.core c).tm.step) {e : Enc} (he : e.wide = false) {bad : Bool}
    (hb : bad = false) {f g : Core → Core} (hfg : f (s.core c) = g (s.core c)) :
    issueV c e bad f s = .next (s.upd c fun k => k.dpTaken g) := by
  unfold issueV
  dsimp only
  rw [issueP_ready_core h he (by rw [hb, if_neg Bool.false_ne_true, if_neg (Nat.not_lt.2 hd)]) rfl]
  exact congrArg _ (State.upd_congr c (by rw [hfg]; rfl))

/-! ### Lanes (R149) -/

/-- Lane `j` of a register, in lanes of `w` bits. -/
def laneAt (w : Nat) (v : BitVec 4096) (j : Nat) : Nat := (v.toNat >>> (w * j)) % 2 ^ w

theorem laneAt_lt (w : Nat) (v : BitVec 4096) (j : Nat) : laneAt w v j < 2 ^ w := Nat.mod_lt _ (Nat.two_pow_pos w)
theorem lanesV_eq (t : Nat) (v : BitVec 4096) : lanesV t v = (List.range (vn t)).map (laneAt (vw t) v) := rfl
@[simp] theorem lanesV_length (t : Nat) (v : BitVec 4096) : (lanesV t v).length = vn t := by simp [lanesV_eq]
theorem lanesV_getD {t j : Nat} (v : BitVec 4096) (hj : j < vn t) : (lanesV t v).getD j 0 = laneAt (vw t) v j := by
  simp [lanesV_eq, hj]

/-- The lanes of a register fill it. -/
theorem vw_mul_vn {t : Nat} (ht : t ≤ 9) : vw t * vn t = 4096 := by
  interval_cases t <;> rfl

/-- The register that lanes make has them. -/
theorem vecOf_lane {t : Nat} {l : List Nat} (hl : vw t * l.length = 4096) (j : Nat) : laneAt (vw t) (vecOf t l) j = l.getD j 0 % 2 ^ vw t := by
  have hlt := ofLanes_lt (vw t) l
  rw [hl] at hlt
  rw [laneAt, vecOf, toNat_ofNat_fits hlt, ofLanes_lane]
/-- As `vecOf_lane`, for a lane that is given for each number. -/
theorem vecOf_range_lane {t j : Nat} (ht : t ≤ 9) (f : Nat → Nat) (hj : j < vn t) :
    laneAt (vw t) (vecOf t ((List.range (vn t)).map f)) j = f j % 2 ^ vw t := by
  rw [vecOf_lane (by simp [vw_mul_vn ht])]
  simp [hj]

/-! ### Lane-wise forms (R153 to R155) -/

theorem zipSrc_range (n : Nat) (d a b : Nat → Nat) : zipSrc ((List.range n).map d) ((List.range n).map a) ((List.range n).map b) =
    (List.range n).map fun j => ⟨d j, a j, b j⟩ := by
  simp [zipSrc, List.zip_map', Function.comp_def]

/-- What a lane-wise form gives in lane `j`. -/
def vaLane (k : Core) (t : Nat) (vd vs1 vs2 : Reg) (f : VSrc → Nat × FF) (j : Nat) : Nat × FF :=
  f ⟨laneAt (vw t) (k.rv vd) j, laneAt (vw t) (k.rv vs1) j, laneAt (vw t) (k.rv vs2) j⟩

theorem vaRun_eq (k : Core) (t : Nat) (vd vs1 vs2 : Reg) (f : VSrc → Nat × FF) : vaRun t vd vs1 vs2 f k =
    k.landV 8 vd (vecOf t ((List.range (vn t)).map fun j => (vaLane k t vd vs1 vs2 f j).1))
      ((List.range (vn t)).foldl (fun a j => a ||| (vaLane k t vd vs1 vs2 f j).2) 0) := by
  simp only [vaRun, lanesV_eq, zipSrc_range, List.map_map, List.foldl_map]
  rfl

/-- A lane-wise form of a type it takes: its lanes, and all their flags together. -/
theorem vaI_ready (h : s.Ready c false) (hd : (s.core c).tm.dpFree ≤ (s.core c).tm.step) {vd vs1 vs2 : Reg} {ty : BitVec 4} {func : Nat}
    {types : Nat → Bool} {unary : Bool} (ht : types ty.toNat = true) (hu : unary = true → vs2 = 0) (hty : ty.toNat ≤ 9)
    (f : Nat → VSrc → Nat × FF) : ∃ r, (∀ j, j < vn ty.toNat →
        laneAt (vw ty.toNat) r j = (vaLane (s.core c) ty.toNat vd vs1 vs2 (f ty.toNat) j).1 % 2 ^ vw ty.toNat) ∧
      vaI c func types unary vd vs1 vs2 ty f s = .next (s.upd c fun k => k.dpTaken fun k => k.landV 8 vd r
        ((List.range (vn ty.toNat)).foldl (fun a j => a ||| (vaLane (s.core c) ty.toNat vd vs1 vs2 (f ty.toNat) j).2) 0)) :=
  ⟨_, fun _ hj => vecOf_range_lane hty _ hj, issueV_ready h hd rfl (by cases unary <;> simp [ht, hu]) (vaRun_eq ..)⟩

/-- Settles O25: each form is a `vaI` of a type it takes, whose lane is the operation that the statement names. -/
theorem vectorFloatLanes : Obligations.VectorFloatLanes := by
  unfold Obligations.VectorFloatLanes
  intro s c vd vs1 vs2 ty h hlo hhi hd k w g lane run fl rel D
  have form {i : Instr} {func : Nat} {types : Nat → Bool} {unary : Bool} {F : Nat → VSrc → Nat × FF} {f : Nat → Nat → Nat → Nat × FF}
      (hi : exec i s = vaI c func types unary vd vs1 vs2 ty F s) (ht : types ty.toNat = true) (hu : unary = true → vs2 = 0)
      (hf : ∀ d a b, F ty.toNat ⟨d, a, b⟩ = f d a b) : run i f := by
    obtain ⟨r, hr, hexec⟩ := vaI_ready h hd (vd := vd) (vs1 := vs1) (vs2 := vs2) (func := func) ht hu (by omega) F
    simp only [vaLane, hf] at hr hexec
    exact ⟨r, hr, hi.trans hexec⟩
  have hfloat : isFloatTy ty.toNat = true := decide_eq_true ⟨hlo, hhi⟩
  have binary {i : Instr} {func : Nat} {F : Nat → VSrc → Nat × FF} {f : Nat → Nat → Nat → Nat × FF}
      (hi : exec i s = vaI c func isFloatTy false vd vs1 vs2 ty F s) (hf : ∀ d a b, F ty.toNat ⟨d, a, b⟩ = f d a b) : run i f :=
    form hi hfloat (fun hu => absurd hu Bool.false_ne_true) hf
  refine ⟨binary (exec_vfadd ..) fun _ _ _ => rfl, binary (exec_vfsub ..) fun _ _ _ => rfl, binary (exec_vfmul ..) fun _ _ _ => rfl,
    binary (exec_vfma ..) fun _ _ _ => rfl, binary (exec_vfnma ..) fun _ _ _ => rfl, binary (exec_vfmin ..) fun _ _ _ => rfl,
    binary (exec_vfmax ..) fun _ _ _ => rfl, binary (exec_vfeq ..) fun _ _ _ => rfl, binary (exec_vflt ..) fun _ _ _ => rfl,
    binary (exec_vfle ..) fun _ _ _ => rfl, fun hz => ⟨?_, ?_, fun h4 => ?_⟩⟩
  · exact form (exec_vfabs ..) hfloat (fun _ => hz) fun _ _ _ => rfl
  · exact form (exec_vfneg ..) hfloat (fun _ => hz) fun _ _ _ => rfl
  · have ht : (ty.toNat == 4) = true := by rw [h4]; rfl
    exact ⟨form (exec_vfrcpe ..) ht (fun _ => hz) fun _ _ _ => rfl, form (exec_vfrsqe ..) ht (fun _ => hz) fun _ _ _ => rfl,
      form (exec_vfexp2e ..) ht (fun _ => hz) fun _ _ _ => rfl⟩

end Sys2Proof.Machine
end

section
/-! SUPPORT. Lists cut into runs, runs joined, and the fixed tree (R160, R163): each element by its place. -/

namespace Sys2Proof.Machine

/-! ### Runs -/

theorem chunks_eq {α : Type} {n : Nat} (hn : 0 < n) (k : Nat) (l : List α) (h : n * k ≤ l.length) :
    chunks n k l = (List.range k).map fun i => (l.drop (n * i)).take n := by
  induction k generalizing l with
  | zero => rfl
  | succ k ih =>
    rw [Nat.mul_succ] at h
    have hne : l.isEmpty = false := by
      rw [List.isEmpty_eq_false_iff, ← List.length_pos_iff]
      omega
    rw [chunks, hne, if_neg Bool.false_ne_true, ih (l.drop n) (by rw [List.length_drop]; omega), List.range_succ_eq_map, List.map_cons,
      List.map_map]
    simp only [Function.comp_def, List.drop_drop, Nat.mul_succ, Nat.mul_zero, List.drop_zero, Nat.add_comm]

/-- A run of a list that is given by its places. -/
theorem take_drop_range {α : Type} (f : Nat → α) {N a n : Nat} (h : a + n ≤ N) :
    (((List.range N).map f).drop a).take n = (List.range n).map fun q => f (a + q) := by
  refine List.ext_getElem (by simp; omega) fun i _ _ => ?_
  simp

theorem chunks_range {α : Type} (f : Nat → α) {n k a N : Nat} (hn : 0 < n) (h : a + n * k ≤ N) :
    chunks n k (((List.range N).map f).drop a) = (List.range k).map fun i => (List.range n).map fun q => f (a + (n * i + q)) := by
  rw [chunks_eq hn k _ (by simp; omega)]
  refine List.map_congr_left fun i hi => ?_
  have hle : n * (i + 1) ≤ n * k := Nat.mul_le_mul_left n (List.mem_range.1 hi)
  rw [Nat.mul_succ] at hle
  rw [List.drop_drop, take_drop_range f (by omega)]
  simp only [Nat.add_assoc]

theorem flatMap_length {α : Type} {n : Nat} (m : Nat) (f : Nat → List α) (hf : ∀ q, q < m → (f q).length = n) :
    ((List.range m).flatMap f).length = n * m := by
  induction m with
  | zero => rfl
  | succ m ih =>
    rw [List.range_succ, List.flatMap_append, List.length_append, ih fun q hq => hf q (by omega), List.flatMap_singleton, hf m (by omega),
      Nat.mul_succ]
/-- Runs of one length joined: element `i` of run `q`. -/
theorem flatMap_getD {α : Type} {n m : Nat} {f : Nat → List α} (hf : ∀ q, q < m → (f q).length = n) {q i : Nat} (hq : q < m) (hi : i < n)
    (d : α) : ((List.range m).flatMap f).getD (n * q + i) d = (f q).getD i d := by
  induction m with
  | zero => omega
  | succ m ih =>
    have hlen := flatMap_length m f fun q hq => hf q (by omega)
    rw [List.range_succ, List.flatMap_append, List.flatMap_singleton]
    rcases Nat.lt_succ_iff_lt_or_eq.1 hq with h | rfl
    · have hle : n * (q + 1) ≤ n * m := Nat.mul_le_mul_left n h
      rw [Nat.mul_succ] at hle
      rw [List.getD_append _ _ _ _ (by omega), ih (fun q hq => hf q (by omega)) h]
    · rw [List.getD_append_right _ _ _ _ (by omega), hlen, Nat.add_sub_cancel_left]

/-! ### Numbers of two parts -/

theorem add_mul_shiftRight_low (x y : Nat) {n i w : Nat} (h : i + w ≤ n) : ((x + 2 ^ n * y) >>> i) % 2 ^ w = (x >>> i) % 2 ^ w := by
  obtain ⟨d, rfl⟩ := Nat.exists_eq_add_of_le h
  rw [Nat.shiftRight_eq_div_pow, Nat.shiftRight_eq_div_pow, Nat.pow_add, Nat.pow_add, Nat.mul_assoc, Nat.mul_assoc,
    Nat.add_mul_div_left _ _ (Nat.two_pow_pos i), Nat.add_mul_mod_self_left]
theorem mod_shiftRight_low (x : Nat) {n i w : Nat} (h : i + w ≤ n) : ((x % 2 ^ n) >>> i) % 2 ^ w = (x >>> i) % 2 ^ w := by
  rw [← add_mul_shiftRight_low (x % 2 ^ n) (x / 2 ^ n) h, Nat.mod_add_div]
theorem add_mul_shiftRight_high {x n : Nat} (hx : x < 2 ^ n) (y i : Nat) : (x + 2 ^ n * y) >>> (n + i) = y >>> i := by
  rw [Nat.shiftRight_add, Nat.shiftRight_eq_div_pow (m := x + _), Nat.add_mul_div_left _ _ (Nat.two_pow_pos n), Nat.div_eq_of_lt hx, Nat.zero_add]

theorem leNat_append (a b : List Byte) : leNat (a ++ b) = leNat a + 256 ^ a.length * leNat b := by
  induction a with
  | nil => simp [leNat]
  | cons x xs ih =>
    rw [List.cons_append, leNat, ih, leNat, List.length_cons, Nat.pow_succ]
    ring
/-- Bytes are the lanes of 8 bits of their number. -/
theorem leNat_eq_ofLanes (l : List Byte) : leNat l = ofLanes 8 (l.map BitVec.toNat) := by
  induction l with
  | nil => rfl
  | cons b bs ih =>
    rw [leNat, ih, List.map_cons, ofLanes, Nat.mod_eq_of_lt b.isLt]
    rfl

/-! ### The fixed tree (R163) -/

/-- Value `i` of level `m` of the tree over the leaves `f`. -/
def treeAt {α : Type} (comb : α → α → α) (f : Nat → α) : Nat → Nat → α
  | 0, i => f i
  | m + 1, i => comb (treeAt comb f m (2 * i)) (treeAt comb f m (2 * i + 1))

section
variable {α : Type} (comb : α → α → α)

theorem treeFold_go_range (f : Nat → α) (n : Nat) :
    treeFold.go comb ((List.range (2 * n)).map f) = (List.range n).map fun i => comb (f (2 * i)) (f (2 * i + 1)) := by
  induction n generalizing f with
  | zero => rfl
  | succ n ih =>
    rw [Nat.mul_succ, List.range_succ_eq_map, List.range_succ_eq_map, List.range_succ_eq_map (n := n)]
    simp only [List.map_cons, List.map_map, treeFold.go]
    rw [ih (f ∘ Nat.succ ∘ Nat.succ)]
    rfl
theorem treeFold_singleton (n : Nat) (x : α) : treeFold comb n [x] = [x] := by
  induction n with
  | zero => rfl
  | succ n ih => exact ih

theorem treeAt_succ (f : Nat → α) (m i : Nat) :
    treeAt comb (fun i => comb (f (2 * i)) (f (2 * i + 1))) m i = treeAt comb f (m + 1) i := by
  induction m generalizing i with
  | zero => rfl
  | succ m ih =>
    rw [treeAt, ih, ih]
    rfl
/-- Neighbours combine until the root is left. -/
theorem treeFold_range (l k : Nat) (f : Nat → α) : treeFold comb (l + k) ((List.range (2 ^ l)).map f) = [treeAt comb f l 0] := by
  induction l generalizing f with
  | zero => exact treeFold_singleton comb _ _
  | succ l ih => rw [Nat.succ_add, treeFold, Nat.pow_succ', treeFold_go_range, ih, treeAt_succ]

variable {comb}

/-- What one part `φ` of the values of a tree is, where its leaves and its levels say so. -/
theorem treeAt_part {β : Type} {φ : α → β} {f : Nat → α} {A : Nat → Nat → β} {l : Nat} (h0 : ∀ i, i < 2 ^ l → φ (f i) = A 0 i)
    (hs : ∀ m i a b, φ a = A m (2 * i) → φ b = A m (2 * i + 1) → φ (comb a b) = A (m + 1) i) (m i : Nat) (h : 2 ^ m * (i + 1) ≤ 2 ^ l) :
    φ (treeAt comb f m i) = A m i := by
  induction m generalizing i with
  | zero => exact h0 i (by omega)
  | succ m ih =>
    rw [Nat.pow_succ, Nat.mul_assoc] at h
    refine hs m i _ _ (ih _ (le_trans (Nat.mul_le_mul_left _ (by omega)) h)) (ih _ (le_trans (Nat.mul_le_mul_left _ (by omega)) h))
end

/-- A tree of sums holds the sum of its leaves. -/
theorem treeAt_add (f : Nat → Int) (m i : Nat) : treeAt (· + ·) f m i = ((List.range (2 ^ m)).map fun j => f (2 ^ m * i + j)).sum := by
  induction m generalizing i with
  | zero => simp [treeAt]
  | succ m ih =>
    have hright (j : Nat) : 2 ^ m * (2 * i) + (2 ^ m + j) = 2 ^ m * (2 * i + 1) + j := by ring
    rw [treeAt, ih, ih, Nat.pow_succ, Nat.mul_assoc, Nat.mul_two, List.range_add, List.map_append, List.sum_append, List.map_map]
    simp only [Function.comp_def, hright]

/-- A tree of maxima holds the greatest of its leaves. -/
theorem treeAt_max (f : Nat → Int) (m i : Nat) : (∃ j, j < 2 ^ m ∧ treeAt max f m i = f (2 ^ m * i + j)) ∧
    ∀ j, j < 2 ^ m → f (2 ^ m * i + j) ≤ treeAt max f m i := by
  induction m generalizing i with
  | zero =>
    refine ⟨⟨0, by simp, by simp [treeAt]⟩, fun j hj => ?_⟩
    obtain rfl : j = 0 := by simpa using hj
    simp [treeAt]
  | succ m ih =>
    obtain ⟨⟨a, ha, hma⟩, hla⟩ := ih (2 * i)
    obtain ⟨⟨b, hb, hmb⟩, hlb⟩ := ih (2 * i + 1)
    have hleft (j : Nat) : 2 ^ (m + 1) * i + j = 2 ^ m * (2 * i) + j := by ring
    have hright (j : Nat) : 2 ^ (m + 1) * i + (2 ^ m + j) = 2 ^ m * (2 * i + 1) + j := by ring
    rw [treeAt]
    refine ⟨?_, fun j hj => ?_⟩
    · rcases max_choice (treeAt max f m (2 * i)) (treeAt max f m (2 * i + 1)) with h | h
      · exact ⟨a, by omega, by rw [h, hleft, hma]⟩
      · exact ⟨2 ^ m + b, by omega, by rw [h, hright, hmb]⟩
    · rcases Nat.lt_or_ge j (2 ^ m) with h | h
      · rw [hleft]
        exact (hla j h).trans (le_max_left _ _)
      · obtain ⟨d, rfl⟩ := Nat.exists_eq_add_of_le h
        rw [hright]
        exact (hlb d (by omega)).trans (le_max_right _ _)

end Sys2Proof.Machine
end

section
/-! SUPPORT. The FP8 dot product, conversions, packing and summaries of the long-vector unit (R144, R158 to R160, R162, R163). -/

namespace Sys2Proof.Machine

variable {s : State} {c : Nat}

/-! ### Format VW on a ready core -/

theorem vwI_ready (h : s.Ready c false) (hd : (s.core c).tm.dpFree ≤ (s.core c).tm.step) {func : Nat} {bad : Bool} {vd vs1 vs2 : Reg}
    {ty : BitVec 4} {hi : Bool} (hb : bad = false) {f g : Core → Core} (hfg : f (s.core c) = g (s.core c)) :
    vwI c func bad vd vs1 vs2 ty hi f s = .next (s.upd c fun k => k.dpTaken g) := issueV_ready h hd rfl hb hfg

/-- What a summary has to be: its type, its second source and its half are right. -/
theorem sumI_ready (h : s.Ready c false) (hd : (s.core c).tm.dpFree ≤ (s.core c).tm.step) {func : Nat} {vd vs1 vs2 : Reg} {ty : BitVec 4}
    (ht : ty.toNat ≤ 8) (hz : vs2 = 0) {f g : Core → Core} (hfg : f (s.core c) = g (s.core c)) :
    sumI c func vd vs1 vs2 ty false f s = .next (s.upd c fun k => k.dpTaken g) :=
  vwI_ready h hd (by simp [hz]; omega) hfg

/-! ### The FP8 dot product (R144, R158) -/

/-- Lane `j` of the dot product: the sum of the lane of `d` and of its two products, rounded once. -/
def dot2Lane (t off : Nat) (d a b : BitVec 4096) (j : Nat) : BitVec 32 × FF :=
  let x (v : BitVec 4096) (q : Nat) : FV := (fmtOf t).decode (laneAt 8 v (off + (2 * j + q)))
  let p (q : Nat) : FV × FF := (x a q).mul (x b q)
  let o := roundOp (sumFV [fp32.decode (laneAt 32 d j), (p 0).1, (p 1).1])
  (o.1, o.2 ||| (0 ||| (p 0).2 ||| (p 1).2))

theorem execVdot2_lanes (h : s.Ready c false) (hd : (s.core c).tm.dpFree ≤ (s.core c).tm.step) {vd vs1 vs2 : Reg} {ty : BitVec 4}
    (ht : ty.toNat = 7 ∨ ty.toNat = 8) (hi : Bool) : ∃ r f,
      (∀ j, j < 128 → laneAt 32 r j = (dot2Lane ty.toNat (if hi then 256 else 0) ((s.core c).rv vd) ((s.core c).rv vs1)
        ((s.core c).rv vs2) j).1.toNat) ∧
      execVdot2 c vd vs1 vs2 ty hi s = .next (s.upd c fun k => k.dpTaken fun k => k.landV 8 vd r f) := by
  have hvn : vn ty.toNat = 512 := by rcases ht with h | h <;> rw [h] <;> rfl
  have hvw : vw ty.toNat = 8 := by rcases ht with h | h <;> rw [h] <;> rfl
  have hrun : (if hi then 256 else 0) + 2 * 128 ≤ 512 := by cases hi <;> decide
  let res (j : Nat) := dot2Lane ty.toNat (if hi then 256 else 0) ((s.core c).rv vd) ((s.core c).rv vs1) ((s.core c).rv vs2) j
  refine ⟨vecOf 4 ((List.range 128).map fun j => (res j).1.toNat), (List.range 128).foldl (fun a j => a ||| (res j).2) 0, fun j hj => ?_,
    vwI_ready h hd (by rcases ht with h | h <;> simp [h]) ?_⟩
  · exact (vecOf_range_lane (t := 4) (by decide) _ hj).trans (Nat.mod_eq_of_lt (res j).1.isLt)
  · have hpair : List.range 2 = [0, 1] := rfl
    simp only [lanesV_eq, hvn, hvw, show vn 4 = 128 from rfl, chunks_range _ two_pos hrun, hpair, List.zip_map', List.map_map, List.foldl_map,
      Function.comp_def, List.map_cons, List.map_nil, List.zipWith_cons_cons, List.zipWith_nil_left, List.foldl_cons, List.foldl_nil]
    rfl

/-! ### Conversions (R159) -/

theorem vcvtPair_types {t u : Nat} (h : vcvtPair t u = true) : t ≤ 9 ∧ u ≤ 9 := by
  simp [vcvtPair] at h
  omega

/-- A lane width is a power of 2. -/
theorem vw_pow {t : Nat} (ht : t ≤ 9) : ∃ l, vw t = 2 ^ l := by
  interval_cases t
  exacts [⟨3, rfl⟩, ⟨4, rfl⟩, ⟨5, rfl⟩, ⟨6, rfl⟩, ⟨5, rfl⟩, ⟨4, rfl⟩, ⟨4, rfl⟩, ⟨3, rfl⟩, ⟨3, rfl⟩, ⟨2, rfl⟩]
/-- A part of a register in narrow lanes `t`, as long as a register in wide lanes `u`, lies inside it. -/
theorem vn_part {t u p : Nat} (ht : t ≤ 9) (hu : u ≤ 9) (hle : vw t ≤ vw u) (hp : vw t * p < vw u) : p * vn u + vn u ≤ vn t := by
  obtain ⟨a, ha⟩ := vw_pow ht
  obtain ⟨b, hb⟩ := vw_pow hu
  have hpos : 0 < vw t := ha ▸ Nat.two_pow_pos a
  have hdvd : vw t ∣ vw u := by
    rw [ha, hb] at hle ⊢
    exact Nat.pow_dvd_pow 2 ((Nat.pow_le_pow_iff_right one_lt_two).1 hle)
  obtain ⟨m, hm⟩ := hdvd
  have hlt : p + 1 ≤ m := by
    rw [hm] at hp
    exact Nat.lt_of_mul_lt_mul_left hp
  have hvn : vn t = m * vn u := by
    refine Nat.eq_of_mul_eq_mul_left hpos ?_
    rw [vw_mul_vn ht, ← Nat.mul_assoc, ← hm, vw_mul_vn hu]
  rw [hvn, ← Nat.succ_mul]
  exact Nat.mul_le_mul_right _ hlt

/-- A list with a part of it replaced. -/
theorem replaced_getD {l mid : List Nat} {a : Nat} (h : a + mid.length ≤ l.length) (j : Nat) :
    (l.take a ++ mid ++ l.drop (a + mid.length)).getD j 0 = if a ≤ j ∧ j < a + mid.length then mid.getD (j - a) 0 else l.getD j 0 := by
  simp only [List.getD_eq_getElem?_getD, List.getElem?_append, List.getElem?_take, List.getElem?_drop, List.length_append, List.length_take]
  rw [Nat.min_eq_left (by omega)]
  rcases Nat.lt_or_ge j a with hlo | hlo
  · rw [if_pos (by omega), if_pos hlo, if_pos hlo, if_neg (by omega)]
  · rcases Nat.lt_or_ge j (a + mid.length) with hhi | hhi
    · rw [if_pos hhi, if_neg (by omega), if_pos ⟨hlo, hhi⟩]
    · rw [if_neg (by omega), if_neg (by omega), Nat.add_sub_cancel' hhi]

/-- A lane converted. -/
def cvtLane (t u : Nat) (ovf : Bool) (v : BitVec 4096) (j : Nat) : Nat × FF := convElem u ovf .rne (elemFV t (laneAt (vw t) v j))

section
variable {vd vs1 : Reg} {ty u : BitVec 4} {ovf : Bool} {part : BitVec 3}

/-- To lanes no narrower: a part of the source fills the register. -/
theorem execVcvt_widen (h : s.Ready c false) (hd : (s.core c).tm.dpFree ≤ (s.core c).tm.step) (hp : vcvtPair ty.toNat u.toNat = true)
    (hle : vw ty.toNat ≤ vw u.toNat) (hpart : vw ty.toNat * part.toNat < vw u.toNat) : ∃ r f,
      (∀ j, j < vn u.toNat → laneAt (vw u.toNat) r j =
        (cvtLane ty.toNat u.toNat ovf ((s.core c).rv vs1) (part.toNat * vn u.toNat + j)).1 % 2 ^ vw u.toNat) ∧
      execVcvt c vd vs1 u ovf ty false part s = .next (s.upd c fun k => k.dpTaken fun k => k.landV 8 vd r f) := by
  obtain ⟨ht, hu⟩ := vcvtPair_types hp
  let res (j : Nat) := cvtLane ty.toNat u.toNat ovf ((s.core c).rv vs1) (part.toNat * vn u.toNat + j)
  refine ⟨vecOf u.toNat ((List.range (vn u.toNat)).map fun j => (res j).1),
    (List.range (vn u.toNat)).foldl (fun a j => a ||| (res j).2) 0, fun j hj => vecOf_range_lane hu _ hj,
    vwI_ready h hd (by simp [hp, max_eq_right hle, min_eq_left hle]; omega) ?_⟩
  simp only [if_pos hle, lanesV_eq, take_drop_range _ (vn_part ht hu hle hpart), List.map_map, List.foldl_map]
  rfl

/-- To narrower lanes: the whole source goes into the part of the register that the form names. -/
theorem execVcvt_narrow (h : s.Ready c false) (hd : (s.core c).tm.dpFree ≤ (s.core c).tm.step) (hp : vcvtPair ty.toNat u.toNat = true)
    (hlt : vw u.toNat < vw ty.toNat) (hpart : vw u.toNat * part.toNat < vw ty.toNat) : ∃ r f,
      (∀ j, j < vn u.toNat → laneAt (vw u.toNat) r j =
        if part.toNat * vn ty.toNat ≤ j ∧ j < (part.toNat + 1) * vn ty.toNat then
          (cvtLane ty.toNat u.toNat ovf ((s.core c).rv vs1) (j - part.toNat * vn ty.toNat)).1 % 2 ^ vw u.toNat
        else laneAt (vw u.toNat) ((s.core c).rv vd) j) ∧
      execVcvt c vd vs1 u ovf ty false part s = .next (s.upd c fun k => k.dpTaken fun k => k.landV 8 vd r f) := by
  obtain ⟨ht, hu⟩ := vcvtPair_types hp
  have hfit := vn_part hu ht hlt.le hpart
  let res (j : Nat) := cvtLane ty.toNat u.toNat ovf ((s.core c).rv vs1) j
  let mid : List Nat := (List.range (vn ty.toNat)).map fun j => (res j).1
  let old : List Nat := lanesV u.toNat ((s.core c).rv vd)
  let a := part.toNat * vn ty.toNat
  have hmid : mid.length = vn ty.toNat := by simp [mid]
  refine ⟨vecOf u.toNat (old.take a ++ mid ++ old.drop (a + vn ty.toNat)), (List.range (vn ty.toNat)).foldl (fun a j => a ||| (res j).2) 0,
    fun j hj => ?_, vwI_ready h hd (by simp [hp, max_eq_left hlt.le, min_eq_right hlt.le]; omega) ?_⟩
  · have hlen : vw u.toNat * (old.take a ++ mid ++ old.drop (a + vn ty.toNat)).length = 4096 := by
      rw [← vw_mul_vn hu]
      congr 1
      simp [old, hmid]
      omega
    rw [vecOf_lane hlen, ← hmid, replaced_getD (by simpa [old, hmid] using hfit), hmid, Nat.succ_mul]
    split
    · next hin => simp [mid, res, show j - a < vn ty.toNat by omega, a]
    · rw [lanesV_getD _ hj, Nat.mod_eq_of_lt (laneAt_lt ..)]
  · simp only [if_neg (Nat.not_le.2 hlt), lanesV_eq, List.map_map, List.foldl_map]
    rfl
end

/-! ### Blocks of E2M1 (R131, R132, R160) -/

theorem packE2m1_codes_length (rnd : Nat → Rnd) (vs : List FV) : (packE2m1 rnd vs).2.1.length = vs.length := by
  unfold packE2m1
  split <;> simp

/-- Bits of a register that a number makes. -/
theorem ofNat_bits (x : Nat) {n i w : Nat} (h : i + w ≤ n) : ((BitVec.ofNat n x).toNat >>> i) % 2 ^ w = (x >>> i) % 2 ^ w := by
  rw [BitVec.toNat_ofNat, mod_shiftRight_low x h]
theorem ofNat_lane (x : Nat) {w j : Nat} (h : w * j + w ≤ 4096) : laneAt w (BitVec.ofNat 4096 x) j = (x >>> (w * j)) % 2 ^ w :=
  ofNat_bits x h

/-- The bytes of a number and others behind them: bits of the number, and each byte behind it. -/
theorem leNat_leBytes_append {n x : Nat} (hx : x < 2 ^ (8 * n)) (l : List Byte) :
    (∀ i w, i + w ≤ 8 * n → (leNat (leBytes n x ++ l) >>> i) % 2 ^ w = (x >>> i) % 2 ^ w) ∧
    ∀ q, (leNat (leBytes n x ++ l) >>> (8 * (n + q))) % 2 ^ 8 = (l.getD q 0).toNat := by
  have hsum : leNat (leBytes n x ++ l) = x + 2 ^ (8 * n) * ofLanes 8 (l.map BitVec.toNat) := by
    rw [leNat_append, leBytes_length, leNat_leBytes, leNat_eq_ofLanes, show (256 : Nat) = 2 ^ 8 from rfl, ← Nat.pow_mul, Nat.mod_eq_of_lt hx]
  refine ⟨fun i w hi => by rw [hsum, add_mul_shiftRight_low _ _ hi], fun q => ?_⟩
  rw [hsum, Nat.mul_add, add_mul_shiftRight_high hx, ofLanes_lane]
  have hget : (l.map BitVec.toNat).getD q 0 = (l.getD q 0).toNat := by
    simp only [List.getD_eq_getElem?_getD, List.getElem?_map]
    cases l[q]? <;> rfl
  rw [hget]
  exact Nat.mod_eq_of_lt (l.getD q 0).isLt

/-- Block `q` of a register of FP32 lanes, packed. -/
def packBlock (v : BitVec 4096) (q : Nat) : Byte × List Nat × FF :=
  packE2m1 (fun _ => .rne) ((List.range 32).map fun i => fp32.decode (laneAt 32 v (32 * q + i)))

theorem packBlock_codes_length (v : BitVec 4096) (q : Nat) : (packBlock v q).2.1.length = 32 := by
  simp [packBlock, packE2m1_codes_length]

theorem execVpk4_lanes (h : s.Ready c false) (hd : (s.core c).tm.dpFree ≤ (s.core c).tm.step) {vd vs1 vs2 : Reg} {ty : BitVec 4}
    (ht : ty = 4) (hz : vs2 = 0) : ∃ r f,
      (∀ q, q < 4 → laneAt 8 r (64 + q) = (packBlock ((s.core c).rv vs1) q).1.toNat ∧
        ∀ i, i < 32 → laneAt 4 r (32 * q + i) = (packBlock ((s.core c).rv vs1) q).2.1.getD i 0 % 16) ∧
      execVpk4 c vd vs1 vs2 ty false s = .next (s.upd c fun k => k.dpTaken fun k => k.landV 8 vd r f) := by
  let blk := packBlock ((s.core c).rv vs1)
  let codes := ofLanes 4 ((List.range 4).flatMap fun q => (blk q).2.1)
  let scales := (List.range 4).map fun q => (blk q).1
  have hlen := flatMap_length 4 (fun q => (blk q).2.1) fun q _ => packBlock_codes_length _ q
  have hcodes : codes < 2 ^ (8 * 64) := by
    have hlt := ofLanes_lt 4 ((List.range 4).flatMap fun q => (blk q).2.1)
    rw [hlen, show 4 * (32 * 4) = 8 * 64 from rfl] at hlt
    exact hlt
  obtain ⟨hlow, hhigh⟩ := leNat_leBytes_append hcodes scales
  refine ⟨BitVec.ofNat 4096 (leNat (leBytes 64 codes ++ scales)), (List.range 4).foldl (fun a q => a ||| (blk q).2.2) 0,
    fun q hq => ⟨?_, fun i hi => ?_⟩, vwI_ready h hd (by simp [ht, hz]) ?_⟩
  · rw [ofNat_lane _ (by omega), hhigh]
    simp [scales, hq, blk]
  · rw [ofNat_lane _ (by omega), hlow _ _ (by omega), ofLanes_lane, flatMap_getD (fun q _ => packBlock_codes_length _ q) hq hi]
    rfl
  · have hchunks := chunks_range (fun i => fp32.decode (laneAt 32 ((s.core c).rv vs1) i)) (n := 32) (k := 4) (a := 0) (N := 128) (by decide) (by decide)
    simp only [List.drop_zero, Nat.zero_add] at hchunks
    simp only [lanesV_eq, List.map_map]
    change (s.core c).landV 8 vd (BitVec.ofNat 4096 (leNat (leBytes 64 (ofLanes 4 (((chunks 32 4 ((List.range 128).map fun i =>
      fp32.decode (laneAt 32 ((s.core c).rv vs1) i))).map _).flatMap _)) ++ ((chunks 32 4 ((List.range 128).map fun i =>
      fp32.decode (laneAt 32 ((s.core c).rv vs1) i))).map _).map _))) (((chunks 32 4 ((List.range 128).map fun i =>
      fp32.decode (laneAt 32 ((s.core c).rv vs1) i))).map _).foldl _ 0) = _
    simp only [hchunks, List.map_map, List.flatMap_map, List.foldl_map]
    rfl

/-- Element `i` of block `q` of a register of E2M1 blocks. -/
def unpackElem (v : BitVec 4096) (q i : Nat) : Nat :=
  (fp32.encode (decodeE2m1 (BitVec.ofNat 8 (laneAt 8 v (64 + q))) (laneAt 4 v (32 * q + i)))).1

theorem execVunpk4_lanes (h : s.Ready c false) (hd : (s.core c).tm.dpFree ≤ (s.core c).tm.step) {vd vs1 vs2 : Reg} {ty : BitVec 4}
    (ht : ty = 4) (hz : vs2 = 0) : ∃ r f,
      (∀ q i, q < 4 → i < 32 → laneAt 32 r (32 * q + i) = unpackElem ((s.core c).rv vs1) q i % 2 ^ 32) ∧
      execVunpk4 c vd vs1 vs2 ty false s = .next (s.upd c fun k => k.dpTaken fun k => k.landV 8 vd r f) := by
  let row (q : Nat) : List Nat := (List.range 32).map (unpackElem ((s.core c).rv vs1) q)
  have hrow (q : Nat) : (row q).length = 32 := by simp [row]
  have hlen := flatMap_length 4 row fun q _ => hrow q
  refine ⟨vecOf 4 ((List.range 4).flatMap row), 0, fun q i hq hi => ?_, vwI_ready h hd (by simp [ht, hz]) ?_⟩
  · refine (vecOf_lane (t := 4) (by rw [hlen]; rfl) _).trans ?_
    rw [flatMap_getD (fun q _ => hrow q) hq hi]
    simp [row, hi, show vw 4 = 32 from rfl]
  · have hchunks := chunks_range (laneAt 4 ((s.core c).rv vs1)) (n := 32) (k := 4) (a := 0) (N := 128) (by decide) (by decide)
    simp only [List.drop_zero, Nat.zero_add] at hchunks
    have hscales : (lanesOf 8 4 (((s.core c).rv vs1).toNat >>> 512)).map (BitVec.ofNat 8) =
        (List.range 4).map fun q => BitVec.ofNat 8 (laneAt 8 ((s.core c).rv vs1) (64 + q)) := by
      simp only [lanesOf, List.map_map, Function.comp_def, ← Nat.shiftRight_add, laneAt, Nat.mul_add]
    dsimp only
    rw [hscales, show lanesOf 4 128 ((s.core c).rv vs1).toNat = (List.range 128).map (laneAt 4 ((s.core c).rv vs1)) from rfl, hchunks,
      List.zip_map', List.flatMap_map]
    simp only [List.map_map]
    rfl

/-! ### Summaries (R162, R163) -/

/-- A register is zero where each of its lanes is. -/
theorem eq_zero_of_lanes {t : Nat} (ht : t ≤ 9) {v : BitVec 4096} (h : ∀ j, j < vn t → laneAt (vw t) v j = 0) : v = 0 := by
  refine BitVec.eq_of_getLsbD_eq fun i hi => ?_
  have hfull := vw_mul_vn ht
  have hpos : 0 < vw t := Nat.pos_of_ne_zero fun h0 => by rw [h0, Nat.zero_mul] at hfull; cases hfull
  have hj : i / vw t < vn t := by
    rw [Nat.div_lt_iff_lt_mul hpos, Nat.mul_comm, hfull]
    exact hi
  have hbit := congrArg (Nat.testBit · (i % vw t)) (h _ hj)
  simp only [laneAt, Nat.testBit_mod_two_pow, Nat.mod_lt _ hpos, decide_true, Bool.true_and, Nat.testBit_shiftRight, Nat.div_add_mod,
    Nat.zero_testBit] at hbit
  rw [← BitVec.testBit_toNat, hbit]
  exact BitVec.getLsbD_zero.symm
theorem laneAt_zero (w j : Nat) : laneAt w 0#4096 j = 0 := by
  rw [laneAt, BitVec.toNat_zero, Nat.zero_shiftRight, Nat.zero_mod]

theorem any_lane_iff {t : Nat} (ht : t ≤ 9) (v : BitVec 4096) : (lanesV t v).any (· != 0) = true ↔ v ≠ 0 := by
  rw [lanesV_eq, List.any_map, List.any_eq_true]
  refine ⟨?_, fun hv => ?_⟩
  · rintro ⟨j, -, hj⟩ rfl
    simp [laneAt_zero] at hj
  · by_contra hnone
    refine hv (eq_zero_of_lanes ht fun j hj => ?_)
    by_contra hne
    exact hnone ⟨j, List.mem_range.2 hj, by simpa using hne⟩
theorem any_lane_value {t : Nat} (ht : t ≤ 9) (v : BitVec 4096) :
    (if (lanesV t v).any (· != 0) then (1 : Word) else 0) = if v = 0 then 0 else 1 := by
  rw [if_congr (any_lane_iff ht v) rfl rfl, ite_not]
theorem all_lanes_iff (t : Nat) (v : BitVec 4096) : (lanesV t v).all (· != 0) = true ↔ ∀ j, j < vn t → laneAt (vw t) v j ≠ 0 := by
  simp [lanesV_eq]

/-- The lanes are the leaves of a tree of no more levels than the model's folds take. -/
theorem vn_pow {t : Nat} (ht : t ≤ 8) : ∃ l, 2 ^ l = vn t ∧ l ≤ 10 := by
  interval_cases t
  exacts [⟨9, rfl, by decide⟩, ⟨8, rfl, by decide⟩, ⟨7, rfl, by decide⟩, ⟨6, rfl, by decide⟩,
    ⟨7, rfl, by decide⟩, ⟨8, rfl, by decide⟩, ⟨8, rfl, by decide⟩, ⟨9, rfl, by decide⟩, ⟨9, rfl, by decide⟩]
theorem treeFold_lanes {α : Type} (comb : α → α → α) {t l : Nat} (hl : 2 ^ l = vn t) (h10 : l ≤ 10) (f : Nat → α) (v : BitVec 4096) :
    treeFold comb 10 ((lanesV t v).map f) = [treeAt comb (fun i => f (laneAt (vw t) v i)) l 0] := by
  rw [lanesV_eq, List.map_map, ← hl, ← Nat.add_sub_cancel' h10, treeFold_range]
  rfl

/-- The place that a search of all numbers below `n` finds. -/
theorem findIdx_range (n : Nat) (P : Nat → Bool) : (List.range n).findIdx P ≤ n ∧ (∀ j, j < (List.range n).findIdx P → P j = false) ∧
    ((List.range n).findIdx P < n → P ((List.range n).findIdx P) = true) := by
  have hle : (List.range n).findIdx P ≤ n := by simpa using List.findIdx_le_length (p := P) (xs := List.range n)
  refine ⟨hle, fun j hj => ?_, fun hlt => ?_⟩
  · simpa using List.not_of_lt_findIdx hj
  · have hat := List.findIdx_getElem (p := P) (xs := List.range n) (w := by simpa using hlt)
    rwa [List.getElem_range] at hat

/-- Signed lane `j`. -/
def intLane (t : Nat) (v : BitVec 4096) (j : Nat) : Int := sx t (laneAt (vw t) v j)

theorem treeInt_add {t : Nat} (ht : t ≤ 8) (v : BitVec 4096) : treeInt (· + ·) t v = ((List.range (vn t)).map (intLane t v)).sum := by
  obtain ⟨l, hl, h10⟩ := vn_pow ht
  rw [treeInt, treeFold_lanes _ hl h10, List.head?_cons, Option.getD_some, treeAt_add, hl]
  simp only [Nat.mul_zero, Nat.zero_add]
  rfl
/-- The greatest signed lane, and the first that equals it. -/
theorem treeInt_max {t : Nat} (ht : t ≤ 8) (v : BitVec 4096) : ∃ j, j < vn t ∧ treeInt max t v = intLane t v j ∧
    (∀ i, i < vn t → intLane t v i ≤ treeInt max t v) ∧ (∀ i, i < j → intLane t v i < treeInt max t v) ∧
    ((lanesV t v).map (sx t)).findIdx (· == treeInt max t v) = j := by
  obtain ⟨l, hl, h10⟩ := vn_pow ht
  have htree : treeInt max t v = treeAt max (intLane t v) l 0 := by
    rw [treeInt, treeFold_lanes _ hl h10, List.head?_cons, Option.getD_some]
    rfl
  obtain ⟨⟨a, ha, hma⟩, hall⟩ := treeAt_max (intLane t v) l 0
  simp only [← htree, hl, Nat.mul_zero, Nat.zero_add] at ha hma hall
  have hfind : ((lanesV t v).map (sx t)).findIdx (· == treeInt max t v) =
      (List.range (vn t)).findIdx (fun j => intLane t v j == treeInt max t v) := by
    rw [lanesV_eq, List.map_map, List.findIdx_map]
    rfl
  obtain ⟨-, hbefore, hat⟩ := findIdx_range (vn t) fun j => intLane t v j == treeInt max t v
  have hlt : (List.range (vn t)).findIdx (fun j => intLane t v j == treeInt max t v) < vn t := by
    by_contra hge
    exact absurd (hbefore a (by omega)) (by simp [hma])
  refine ⟨_, hlt, (beq_iff_eq.1 (hat hlt)).symm, hall, fun i hi => lt_of_le_of_ne (hall i (hi.trans hlt)) ?_, hfind⟩
  simpa using hbefore i hi

/-- A lane as the leaf of a tree of FP32 values. -/
def floatLeaf (t x : Nat) : BitVec 32 := if t = 4 then BitVec.ofNat 32 x else (toF32 ((fmtOf t).decode x)).1

/-- The value of a tree of FP32 operations, where `A` is given level by level from the lanes. -/
theorem treeFloat_value {t l : Nat} (hl : 2 ^ l = vn t) (h10 : l ≤ 10) (comb : FV → FV → FV × FF) (v : BitVec 4096) {A : Nat → Nat → BitVec 32}
    (h0 : ∀ i, i < 2 ^ l → A 0 i = floatLeaf t (laneAt (vw t) v i))
    (hs : ∀ m i, A (m + 1) i = (roundOp (comb (f32 (A m (2 * i))) (f32 (A m (2 * i + 1))))).1) :
    treeFloat comb t v = (A l 0, (treeFloat comb t v).2) := by
  refine Prod.ext ?_ rfl
  rw [treeFloat, treeFold_lanes _ hl h10, List.head?_cons, Option.getD_some]
  refine treeAt_part (φ := Prod.fst) (l := l) (fun i hi => ?_) (fun m i a b ha hb => ?_) l 0 (by omega)
  · rw [h0 i hi, floatLeaf]
    split <;> rfl
  · rw [hs, ← ha, ← hb]

section
variable (h : s.Ready c false) (hd : (s.core c).tm.dpFree ≤ (s.core c).tm.step) {vd vs1 vs2 : Reg} {ty : BitVec 4} (ht : ty.toNat ≤ 8)
  (hz : vs2 = 0)
include h hd ht hz

theorem execVmaxs_int (hint : isIntTy ty.toNat = true) {m : Int} (hm : treeInt max ty.toNat ((s.core c).rv vs1) = m) :
    execVmaxs c vd vs1 vs2 ty false s = .next (s.upd c fun k => k.dpTaken fun k => k.landX 8 vd (BitVec.ofInt 64 m)) :=
  sumI_ready h hd ht hz (by simp only [hint, if_true, hm]; rfl)
theorem execVmaxi_int (hint : isIntTy ty.toNat = true) {j : Nat} (hj : ((lanesV ty.toNat ((s.core c).rv vs1)).map (sx ty.toNat)).findIdx
    (· == treeInt max ty.toNat ((s.core c).rv vs1)) = j) :
    execVmaxi c vd vs1 vs2 ty false s = .next (s.upd c fun k => k.dpTaken fun k => k.landX 8 vd (BitVec.ofNat 64 j)) :=
  sumI_ready h hd ht hz (by simp only [hint, if_true, hj])
theorem execVsums_int (hint : isIntTy ty.toNat = true) {m : Int} (hm : treeInt (· + ·) ty.toNat ((s.core c).rv vs1) = m) :
    execVsums c vd vs1 vs2 ty false s = .next (s.upd c fun k => k.dpTaken fun k => k.landX 8 vd (BitVec.ofInt 64 m)) :=
  sumI_ready h hd ht hz (by simp only [hint, if_true, hm]; rfl)

theorem execVmaxs_float (hf : isIntTy ty.toNat = false) {x : BitVec 32 × FF}
    (hx : treeFloat (FV.minmax true) ty.toNat ((s.core c).rv vs1) = x) :
    execVmaxs c vd vs1 vs2 ty false s = .next (s.upd c fun k => k.dpTaken fun k => k.landF 8 vd x) :=
  sumI_ready h hd ht hz (by simp only [hf, Bool.false_eq_true, if_false, hx])
theorem execVmaxi_float (hf : isIntTy ty.toNat = false) {y : BitVec 32} {fl : FF}
    (hx : treeFloat (FV.minmax true) ty.toNat ((s.core c).rv vs1) = (y, fl)) {j : Nat} (hj : (List.range (vn ty.toNat)).findIdx
      (fun i => sameMax ((fmtOf ty.toNat).decode (laneAt (vw ty.toNat) ((s.core c).rv vs1) i)) (f32 y)) = j) :
    execVmaxi c vd vs1 vs2 ty false s = .next (s.upd c fun k => k.dpTaken fun k => k.landXF 8 vd (BitVec.ofNat 64 j) fl) := by
  subst hj
  exact sumI_ready h hd ht hz (by simp only [hf, Bool.false_eq_true, if_false, hx, lanesV_eq, List.findIdx_map]; rfl)
theorem execVsums_float (hf : isIntTy ty.toNat = false) {x : BitVec 32 × FF} (hx : treeFloat FV.add ty.toNat ((s.core c).rv vs1) = x) :
    execVsums c vd vs1 vs2 ty false s = .next (s.upd c fun k => k.dpTaken fun k => k.landF 8 vd x) :=
  sumI_ready h hd ht hz (by simp only [hf, Bool.false_eq_true, if_false, hx])
end

/-- Settles O28: each form by its lanes, and a summary by its bits or its tree. -/
theorem vectorConvertAndSummary : Obligations.VectorConvertAndSummary := by
  unfold Obligations.VectorConvertAndSummary
  intro s c vd vs1 vs2 ty h hd k t w lane ends vec
  refine ⟨fun ht hi => ?_, fun ovf h4 => ?_, fun ovf h5 => ?_, fun u ovf part hp => ?_, fun h4 hz => ⟨?_, ?_⟩, fun ht hz => ⟨?_, ?_⟩,
    fun ht hz => ?_, fun hlo hhi hz l add top hl => ?_⟩
  · obtain ⟨r, f, hr, hexec⟩ := execVdot2_lanes h hd (vd := vd) (vs1 := vs1) (vs2 := vs2) ht hi
    exact ⟨r, f, hr, hexec⟩
  · subst h4
    obtain ⟨r, f, hr, hexec⟩ := execVcvt_narrow h hd (vd := vd) (vs1 := vs1) (ty := 4) (u := 5) (ovf := ovf) (part := 0) rfl (by decide) (by decide)
    refine ⟨r, f, fun j hj => (hr j (by simp [vn, vw]; omega)).trans ?_, hexec⟩
    rw [if_pos ⟨by simp, by simpa [vn, vw] using hj⟩]
    rfl
  · subst h5
    obtain ⟨r, f, hr, hexec⟩ := execVcvt_widen h hd (vd := vd) (vs1 := vs1) (ty := 5) (u := 4) (ovf := ovf) (part := 0) rfl (by decide) (by decide)
    refine ⟨r, f, fun j hj => (hr j hj).trans ?_, hexec⟩
    rw [show (0 : BitVec 3).toNat * vn (4 : BitVec 4).toNat + j = j by simp]
    rfl
  · exact ⟨fun hle hpart => execVcvt_widen h hd hp hle hpart, fun hlt hpart => execVcvt_narrow h hd hp hlt hpart⟩
  · exact execVpk4_lanes h hd h4 hz
  · exact execVunpk4_lanes h hd h4 hz
  · exact sumI_ready h hd ht hz (congrArg (k.landX 8 vd) (any_lane_value (by omega) _))
  · exact ⟨_, rfl, sumI_ready h hd ht hz (congrArg (k.landX 8 vd) (if_congr (all_lanes_iff t _) rfl rfl))⟩
  · intro val
    have hint : isIntTy t = true := decide_eq_true ht
    have ht8 : t ≤ 8 := by omega
    obtain ⟨j, hj, hm, hall, hlt, hfind⟩ := treeInt_max ht8 (k.rv vs1)
    exact ⟨⟨treeInt max t (k.rv vs1), j, hj, hm, hall, hlt, execVmaxs_int h hd ht8 hz hint rfl, execVmaxi_int h hd ht8 hz hint hfind⟩,
      execVsums_int h hd ht8 hz hint (treeInt_add ht8 _)⟩
  · intro at_ wide h0 hs
    have hfloat : isIntTy t = false := decide_eq_false (by omega)
    obtain ⟨l', hl', h10⟩ := vn_pow hhi
    obtain rfl : l' = l := Nat.pow_right_injective (le_refl 2) (hl'.trans hl.symm)
    have hadd := treeFloat_value hl h10 FV.add (k.rv vs1) (fun i hi => (h0 i hi).1) fun m i => (hs m i).1
    have htop := treeFloat_value hl h10 (FV.minmax true) (k.rv vs1) (fun i hi => (h0 i hi).2) fun m i => (hs m i).2
    obtain ⟨hle, hbefore, hat⟩ := findIdx_range (vn t) fun i => sameMax (at_ i) (f32 (top l' 0))
    exact ⟨⟨_, execVsums_float h hd hhi hz hfloat hadd⟩, ⟨_, execVmaxs_float h hd hhi hz hfloat htop⟩, _, _, hle.trans_eq hl'.symm, hbefore,
      fun hlt => hat (hlt.trans_eq hl'), execVmaxi_float h hd hhi hz hfloat htop rfl⟩

end Sys2Proof.Machine
end

section
/-! SUPPORT. What the commit of a pass writes: the elements of the accumulator tile, for a product pass, a pass of two elements and a pass
of distances (R173, R207, R212, R239, R247). -/

namespace Sys2Proof.Machine

/-! ### Tiles after a commit (R173, R212) -/

/-- Bytes of a little-endian number that stand in a longer run of bytes. -/
theorem Mem.nat_of_get {m : Mem} {a n v : Nat} (h : ∀ i, i < n → m.get (a + i) = BitVec.ofNat 8 (v / 256 ^ i)) : m.nat a n = v % 256 ^ n := by
  have hbytes : m.bytes a n = leBytes n v := by
    refine List.ext_getElem (by rw [Mem.bytes_length, leBytes_length]) fun i h1 h2 => ?_
    rw [Mem.bytes_length] at h1
    have hget := leBytes_getD n v i h1
    rw [List.getD_eq_getElem _ _ h2] at hget
    rw [hget, ← h i h1]
    simp [Mem.bytes]
  rw [Mem.nat, hbytes, leNat_leBytes]

/-- The bytes of row `r` that a commit lays down. -/
def commitRow (tl : Tile) (fresh : Nat) (rows : List (List Nat)) (r : Nat) : List Byte :=
  let bs := if r < tl.shape.rows then packRow 4 (rows.getD r []) else []
  bs ++ (List.range (512 - bs.length)).map fun i => Config.freeByte (fresh + 512 * r + bs.length + i)

theorem packRow_four (l : List Nat) : packRow 4 l = leBytes (4 * l.length) (ofLanes 32 l) := by
  rw [packRow, show fmtBits 4 = 32 from rfl, show l.length * 32 / 8 = 4 * l.length by omega]

theorem commitRow_length {tl : Tile} {rows : List (List Nat)} {r : Nat} (hr : r < tl.shape.rows → (rows.getD r []).length ≤ 128) (fresh : Nat) :
    (commitRow tl fresh rows r).length = 512 := by
  unfold commitRow
  split
  · next h =>
    have hle := hr h
    rw [packRow_four]
    simp only [List.length_append, List.length_map, List.length_range, leBytes_length]
    omega
  · simp

/-- Element `j` of row `r` of a tile after a commit. -/
theorem Tile.commit_code {tl : Tile} {rows : List (List Nat)} (hrows : ∀ r, r < tl.shape.rows → (rows.getD r []).length ≤ 128) (fresh : Nat)
    {r j : Nat} (hr : r < tl.shape.rows) (hr128 : r < 128) (hj : j < (rows.getD r []).length) :
    (tl.commit fresh rows).data.nat (512 * r + 4 * j) 4 = (rows.getD r []).getD j 0 % 2 ^ 32 := by
  have hlen := hrows r hr
  have hdata : (tl.commit fresh rows).data = Mem.cells 0 ((List.range 128).flatMap (commitRow tl fresh rows)) := rfl
  have hlane := ofLanes_lane 32 (rows.getD r []) j
  rw [Nat.shiftRight_eq_div_pow, show 32 * j = 8 * (4 * j) by omega, Nat.pow_mul] at hlane
  rw [hdata, Mem.nat_of_get (v := ofLanes 32 (rows.getD r []) / 256 ^ (4 * j))]
  · exact hlane
  · intro i hi
    rw [Mem.get_cells, if_pos (Nat.zero_le _), Nat.sub_zero, Nat.add_assoc,
      flatMap_getD (n := 512) (fun q _ => commitRow_length (hrows q) fresh) hr128 (by omega), commitRow, if_pos hr, packRow_four,
      List.getD_append _ _ _ _ (by rw [leBytes_length]; omega), leBytes_getD _ _ _ (by omega), Nat.pow_add, Nat.div_div_eq_div_mul]

/-- The tiles of a core after the results `l` are committed. -/
def tilesCommitted (fresh : Nat) (l : List (Nat × List (List Nat))) (ts : Vector Tile 16) : Vector Tile 16 :=
  l.foldl (fun ts t => vset ts t.1 ((vget ts t.1 .reset).commit (fresh + 65536 * t.1) t.2)) ts

theorem foldl_setTile_commit (fresh : Nat) (l : List (Nat × List (List Nat))) (k : Core) :
    l.foldl (fun k t => k.setTile t.1 ((k.tile t.1).commit (fresh + 65536 * t.1) t.2)) k = { k with tiles := tilesCommitted fresh l k.tiles } := by
  induction l generalizing k with
  | nil => rfl
  | cons t l ih =>
    rw [List.foldl_cons, ih]
    rfl

/-! ### Results (R207, R239, R247) -/

/-- The results `out` are the elements `code` of tile `d` under shape `sh`: nothing where the shape has no element. -/
def PassOut.Gives (out : PassOut) (d : Nat) (sh : TShape) (code : Nat → Nat → Nat) : Prop :=
  (out.tiles = [] ∧ (sh.rows = 0 ∨ sh.cols = 0)) ∨ ∃ rows, out.tiles = [(d, rows)] ∧ ∀ r, r < sh.rows →
    (rows.getD r []).length = sh.cols ∧ ∀ j, j < sh.cols → (rows.getD r []).getD j 0 = code r j ∧ code r j < 2 ^ 32

/-- The tile then holds them, and the other tiles are as they were. -/
theorem PassOut.Gives.committed {out : PassOut} {d : Nat} {k k' : Core} {code : Nat → Nat → Nat} {fresh : Nat}
    (h : out.Gives d (k.shape d) code) (hd : d < 16) (hrows : (k.shape d).rows ≤ 128) (hcols : (k.shape d).cols ≤ 128)
    (hk : k'.tiles = tilesCommitted fresh out.tiles k.tiles) :
    (∀ r j, r < (k.shape d).rows → j < (k.shape d).cols → k'.accCode d r j = code r j) ∧ ∀ i, i ≠ d → k'.tile i = k.tile i := by
  rcases h with ⟨hnil, hempty⟩ | ⟨rows, hone, hcode⟩
  · rw [hnil] at hk
    exact ⟨fun r j hr hj => by omega, fun i _ => congrArg (vget · i _) hk⟩
  · rw [hone] at hk
    refine ⟨fun r j hr hj => ?_, fun i hi => (congrArg (vget · i _) hk).trans (vget_vset_ne _ _ _ hi.symm)⟩
    have htile : k'.tile d = (k.tile d).commit (fresh + 65536 * d) rows := (congrArg (vget · d _) hk).trans (vget_vset_self _ _ _ _ hd)
    obtain ⟨hlen, hval⟩ := hcode r hr
    obtain ⟨heq, hlt⟩ := hval j hj
    rw [Core.accCode, htile, Tile.commit_code (fun q hq => (hcode q hq).1.trans_le hcols) _ hr (by omega) (by omega), heq, Nat.mod_eq_of_lt hlt]

/-- A matrix of results of at most 128 columns stands in one tile. -/
theorem cutTiles_gives {d n : Nat} {rows : List (List Nat)} {sh : TShape} {code : Nat → Nat → Nat} {fl : FF} (hn : n = sh.cols)
    (hcols : sh.cols ≤ 128) (h : ∀ r, r < sh.rows → (rows.getD r []).length = sh.cols ∧
      ∀ j, j < sh.cols → (rows.getD r []).getD j 0 = code r j ∧ code r j < 2 ^ 32) : PassOut.Gives ⟨cutTiles d n rows, fl⟩ d sh code := by
  subst hn
  rcases Nat.eq_zero_or_pos sh.cols with h0 | hpos
  · exact .inl ⟨by simp [cutTiles, h0], .inr h0⟩
  · refine .inr ⟨rows.map fun r => (r.drop (128 * 0)).take 128, ?_, fun r hr => ?_⟩
    · simp [cutTiles, show (sh.cols + 127) / 128 = 1 by omega]
    · obtain ⟨hlen, hval⟩ := h r hr
      have hrow : (rows.map fun r => (r.drop (128 * 0)).take 128).getD r [] = rows.getD r [] := by
        have htake : ((rows.getD r []).drop (128 * 0)).take 128 = rows.getD r [] := List.take_of_length_le (hlen.trans_le hcols)
        simp only [List.getD_eq_getElem?_getD, List.getElem?_map] at htake ⊢
        cases hg : rows[r]? with
        | none => rfl
        | some x =>
          rw [hg] at htake
          exact htake
      rw [hrow]
      exact ⟨hlen, hval⟩

theorem map_mapIdx {α β γ : Type} (l : List α) (f : Nat → α → β) (g : β → γ) : (l.mapIdx f).map g = l.mapIdx fun i a => g (f i a) :=
  List.ext_getElem (by simp) fun i _ _ => by simp
/-- An element of a matrix that is given by its places. -/
theorem mapIdx_rows_getD {α β : Type} (x : List α) (g : α → List β) (f : Nat → α → Nat → β → Nat) (dx : α) (dy : β) {r : Nat}
    (hr : r < x.length) : ((x.mapIdx fun r a => (g a).mapIdx (f r a)).getD r []).length = (g (x.getD r dx)).length ∧
      ∀ j, j < (g (x.getD r dx)).length →
        ((x.mapIdx fun r a => (g a).mapIdx (f r a)).getD r []).getD j 0 = f r (x.getD r dx) j ((g (x.getD r dx)).getD j dy) := by
  have hrow : (x.mapIdx fun r a => (g a).mapIdx (f r a)).getD r [] = (g (x.getD r dx)).mapIdx (f r (x.getD r dx)) := by simp [hr]
  rw [hrow]
  refine ⟨List.length_mapIdx, fun j hj => ?_⟩
  generalize g (x.getD r dx) = l at hj
  simp [hj]

theorem mmElem_lt (k grp : Nat) (c0 : FV) (xs ss : List FV) : (mmElem k grp c0 xs ss).1 < 2 ^ 32 := (freeSumOf k _).1.isLt
theorem elemOp_lt (op : BitVec 2) (a b : FV) : (elemOp op a b).1 < 2 ^ 32 := by
  unfold elemOp
  exact BitVec.isLt _

section
variable (k : Core) (fresh : Nat) {d : Nat} {sh : TShape} (hcols : sh.cols ≤ 128)
include hcols

theorem gangedOut_gives (grp : Nat) (accum : Bool) {xs ss : List (List FV)} (hx : xs.length = sh.rows) (hs : ss.length = sh.cols) :
    (gangedOut k fresh d grp accum xs ss).Gives d sh fun r j =>
      (mmElem (fresh + r * ss.length + j) grp (if accum then k.accFV d r j else .zero) (xs.getD r []) (ss.getD j [])).1 := by
  have hcodes (f : Nat → List FV → Nat → List FV → Nat × FF) : codesOf (xs.mapIdx fun r xr => ss.mapIdx (f r xr)) =
      xs.mapIdx fun r xr => ss.mapIdx fun n sc => (f r xr n sc).1 := by
    simp only [codesOf, map_mapIdx]
  unfold gangedOut
  dsimp only
  rw [hcodes]
  refine cutTiles_gives hs hcols fun r hr => ?_
  obtain ⟨hlen, hval⟩ := mapIdx_rows_getD xs (fun _ => ss) (fun r xr n sc =>
    (mmElem (fresh + r * ss.length + n) grp (if accum then k.accFV (d + n / 128) r (n % 128) else .zero) xr sc).1) [] [] (hx ▸ hr)
  refine ⟨hlen.trans hs, fun j hj => ⟨(hval j (hs ▸ hj)).trans ?_, mmElem_lt ..⟩⟩
  rw [Nat.div_eq_of_lt (show j < 128 by omega), Nat.mod_eq_of_lt (show j < 128 by omega), Nat.add_zero]

theorem distOut_gives (accum : Bool) {ds : List (List Int)} (hd : ds.length = sh.rows) (hrow : ∀ row ∈ ds, row.length = sh.cols) (n : Nat) :
    (distOut k d accum 0 ds n).Gives d sh fun r j =>
      (BitVec.ofInt 32 ((if accum then (k.accCode d r j : Int) else 0) + (ds.getD r []).getD j 0)).toNat := by
  cases ds with
  | nil => exact .inl ⟨rfl, .inl hd.symm⟩
  | cons row rest =>
    refine cutTiles_gives (hrow row (List.mem_cons_self ..)) hcols fun r hr => ?_
    have hrl : r < (row :: rest).length := hd ▸ hr
    obtain ⟨hlen, hval⟩ := mapIdx_rows_getD (row :: rest) id (fun r _ n v =>
      intCode 32 ((if accum then (k.accCode (d + n / 128) r (n % 128) : Int) else 0) + v)) [] 0 hrl
    have hwidth : ((row :: rest).getD r []).length = sh.cols := by
      rw [List.getD_eq_getElem _ _ hrl]
      exact hrow _ (List.getElem_mem _)
    refine ⟨hlen.trans hwidth, fun j hj => ⟨(hval j (hwidth.symm ▸ hj)).trans ?_, BitVec.isLt _⟩⟩
    rw [Nat.div_eq_of_lt (show j < 128 by omega), Nat.mod_eq_of_lt (show j < 128 by omega)]
    rfl
end

theorem elemOut_gives {d : Nat} {sh : TShape} (op : BitVec 2) {a b : List (List FV)} (ha : a.length = sh.rows) (hb : b.length = sh.rows)
    (hrow : ∀ row ∈ a ++ b, row.length = sh.cols) : (elemOut d op a b).Gives d sh fun r j =>
      (elemOp op ((a.getD r []).getD j .zero) ((b.getD r []).getD j .zero)).1 := by
  refine .inr ⟨_, rfl, fun r hr => ?_⟩
  have hra : r < a.length := ha ▸ hr
  have hrb : r < b.length := hb ▸ hr
  have hla : a[r].length = sh.cols := hrow _ (List.mem_append_left _ (List.getElem_mem _))
  have hlb : b[r].length = sh.cols := hrow _ (List.mem_append_right _ (List.getElem_mem _))
  have hget : (codesOf (List.zipWith (fun ra rb => List.zipWith (elemOp op) ra rb) a b)).getD r [] =
      (List.zipWith (elemOp op) a[r] b[r]).map (·.1) := by
    simp [codesOf, hra, hrb]
  rw [hget]
  refine ⟨by simp [hla, hlb], fun j hj => ⟨?_, elemOp_lt ..⟩⟩
  simp [hra, hrb, hla, hlb, hj]

end Sys2Proof.Machine
end

section
/-! SUPPORT. A pass in the array: its events on the ring, its start and its commit, and the wait for an empty array (R212 to R214, R219,
R220, R224). -/

namespace Sys2Proof.Machine

variable {s t u : State} {c : Nat}

/-! ### What the array leaves of its core -/

/-- What the array's own work leaves of its core. -/
structure Core.ArrayKeeps (k k' : Core) : Prop where
  x : k'.x = k.x
  v : k'.v = k.v
  pend : k'.tm.pend = k.tm.pend
  wait : k'.wait = k.wait
  pw : k'.pw = k.pw

theorem Core.ArrayKeeps.trans {k k' k'' : Core} (h : k.ArrayKeeps k') (g : k'.ArrayKeeps k'') : k.ArrayKeeps k'' :=
  ⟨g.x.trans h.x, g.v.trans h.v, g.pend.trans h.pend, g.wait.trans h.wait, g.pw.trans h.pw⟩

section
variable (k : Core) (n t : Nat)

@[simp] theorem Core.countStream_x : (k.countStream t).x = k.x := Core.count_x ..
@[simp] theorem Core.countStream_v : (k.countStream t).v = k.v := Core.count_v ..
@[simp] theorem Core.countStream_tm : (k.countStream t).tm = k.tm := Core.count_tm ..
@[simp] theorem Core.countStream_cnt : (k.countStream t).cnt = k.cnt := Core.count_cnt ..
@[simp] theorem Core.countStream_wait : (k.countStream t).wait = k.wait := Core.count_wait ..
@[simp] theorem Core.countStream_tiles : (k.countStream t).tiles = k.tiles := Core.count_tiles ..
@[simp] theorem Core.countStream_pw : (k.countStream t).pw = k.pw := Core.count_pw ..
theorem Core.countStream_arr : (k.countStream t).arr = { k.arr with settled := max k.arr.settled t } := by
  unfold Core.countStream
  simp
@[simp] theorem Core.countStream_queue : (k.countStream t).arr.queue = k.arr.queue := by rw [Core.countStream_arr]
@[simp] theorem Core.countStream_upd : (k.countStream t).arr.upd = k.arr.upd := by rw [Core.countStream_arr]
@[simp] theorem Core.countStream_portUse : (k.countStream t).arr.portUse = k.arr.portUse := by rw [Core.countStream_arr]
@[simp] theorem Core.countStream_nextEvent : (k.countStream t).arr.nextEvent = k.arr.nextEvent := by rw [Core.countStream_arr]; rfl

theorem Core.countStream_keeps : k.ArrayKeeps (k.countStream t) := ⟨by simp, by simp, by simp, by simp, by simp⟩
theorem Core.idle_keeps : k.ArrayKeeps (k.idle n) := ⟨by simp, by simp, by simp, by simp, by simp⟩
end

/-! ### Events in order of their steps -/

section
variable {n te : Nat} {e : AEvent}

theorem arrayUpTo_later (h : ∀ te e, (s.core c).arr.nextEvent = some (te, e) → n < te) (fuel : Nat) : arrayUpTo c n fuel s = s := by
  cases fuel with
  | zero => rfl
  | succ fuel =>
    rw [arrayUpTo]
    split
    · next te e he => rw [if_neg (Nat.not_le.2 (h te e he))]
    · rfl
theorem arrayUpTo_due (h : (s.core c).arr.nextEvent = some (te, e)) (hle : te ≤ n) (fuel : Nat) :
    arrayUpTo c n (fuel + 1) s = arrayUpTo c n fuel (arrayEvent c te e s) := by
  rw [arrayUpTo, h]
  exact if_pos hle

theorem settleArray_eq (hq : (s.core c).arr.queue ≠ []) : ∃ fuel, settleArray c s =
    (arrayUpTo c (s.core c).tm.step (fuel + 1) s).upd c fun k => k.countStream (s.core c).tm.step := by
  have hpos := List.length_pos_iff.2 hq
  have hfuel : 0 < 4 * ((s.core c).arr.queue.length + (s.core c).arr.upd.length) + ((s.core c).arr.upd.map (·.steps)).sum +
      ((s.core c).arr.queue.map (·.steps)).sum + (s.core c).arr.portUse.length := by omega
  obtain ⟨fuel, hsucc⟩ := Nat.exists_eq_succ_of_ne_zero hfuel.ne'
  refine ⟨fuel, ?_⟩
  unfold settleArray settleTo
  dsimp only
  rw [hsucc]
  exact if_neg (by simp [hq])
/-- With a pass in the array and no event due, only its stream steps are counted. -/
theorem settleArray_later (hq : (s.core c).arr.queue ≠ []) (h : ∀ te e, (s.core c).arr.nextEvent = some (te, e) → (s.core c).tm.step < te) :
    settleArray c s = s.upd c fun k => k.countStream (s.core c).tm.step := by
  obtain ⟨fuel, hs⟩ := settleArray_eq hq
  rw [hs, arrayUpTo_later h]
/-- As `settleArray_later`, where one event is due. -/
theorem settleArray_once (hq : (s.core c).arr.queue ≠ []) (h : (s.core c).arr.nextEvent = some (te, e)) (hle : te ≤ (s.core c).tm.step)
    (h' : ∀ tn en, ((arrayEvent c te e s).core c).arr.nextEvent = some (tn, en) → (s.core c).tm.step < tn) :
    settleArray c s = (arrayEvent c te e s).upd c fun k => k.countStream (s.core c).tm.step := by
  obtain ⟨fuel, hs⟩ := settleArray_eq hq
  rw [hs, arrayUpTo_due h hle, arrayUpTo_later h']
end

/-! ### The ring of a core with nothing due but its passes -/

/-- Nothing but its passes comes due at core `c`, and it does not wait. -/
structure State.PassesAlone (s : State) (c : Nat) : Prop where
  core : c < 160
  pend : (s.core c).tm.pend = []
  wait : (s.core c).wait = none
  hold : (s.core c).pw.calHold = none

theorem State.PassesAlone.of_keeps (h : s.PassesAlone c) (hk : (s.core c).ArrayKeeps (t.core c)) : t.PassesAlone c :=
  ⟨h.core, hk.pend.trans h.pend, hk.wait.trans h.wait, by rw [hk.pw, h.hold]⟩

theorem heldBorrow_none (h : (s.core c).pw.calHold = none) : heldBorrow c s = s := by
  unfold heldBorrow
  rw [h]

/-- The ring beats to a step: the steps pass idle, and the array is settled there. -/
theorem ringTo_eq (h : s.PassesAlone c) (n : Nat) : ringTo c n s = heldBorrow c (settleArray c (s.upd c fun k => k.idle (n - (s.core c).tm.step))) := by
  have hcause : s.causeNow c = 0 := by rw [State.causeNow, h.wait]
  have hpend : ((s.upd c fun k => k.idle (n - (s.core c).tm.step)).core c).tm.pend = [] := by
    rw [State.core_upd_self c _ h.core, Core.idle_tm]
    exact h.pend
  unfold ringTo
  dsimp only
  rw [hcause, stepsPass_nil _ _ h.pend]
  unfold arrive catchUp
  dsimp only
  rw [show (s.upd c fun k => k.idleStall (n - (s.core c).tm.step) 0) = s.upd c fun k => k.idle (n - (s.core c).tm.step) from rfl, hpend]
  rfl

/-- What the way to a step gives where no event is due by it. -/
theorem ringTo_later {n : Nat} (h : s.PassesAlone c) (hn : (s.core c).tm.step ≤ n) (hq : (s.core c).arr.queue ≠ [])
    (he : ∀ te e, (s.core c).arr.nextEvent = some (te, e) → n < te) :
    ringTo c n s = s.upd c fun k => (k.idle (n - (s.core c).tm.step)).countStream n := by
  have hcore : (s.upd c fun k => k.idle (n - (s.core c).tm.step)).core c = (s.core c).idle (n - (s.core c).tm.step) := State.core_upd_self c _ h.core
  have hstep : ((s.core c).idle (n - (s.core c).tm.step)).tm.step = n := by
    rw [Core.idle_tm]
    exact Nat.add_sub_cancel' hn
  have hlater := settleArray_later (s := s.upd c fun k => k.idle (n - (s.core c).tm.step)) (c := c) (by rw [hcore]; simpa using hq)
    (by rw [hcore, hstep]; simpa using he)
  rw [hcore, hstep, State.upd_upd _ _ _ h.core] at hlater
  rw [ringTo_eq h, hlater]
  refine heldBorrow_none ?_
  rw [State.core_upd_self c _ h.core]
  simpa using h.hold

/-- As `ringTo_later`, where one event is due, and none after it by then. -/
theorem ringTo_event {n te : Nat} {e : AEvent} {s1 : State} (h : s.PassesAlone c) (hq : (s.core c).arr.queue ≠ [])
    (he : (s.core c).arr.nextEvent = some (te, e)) (hle : te ≤ max (s.core c).tm.step n)
    (hs1 : arrayEvent c te e (s.upd c fun k => k.idle (n - (s.core c).tm.step)) = s1) (h1 : s1.PassesAlone c)
    (hlater : ∀ tn en, (s1.core c).arr.nextEvent = some (tn, en) → max (s.core c).tm.step n < tn) :
    ringTo c n s = s1.upd c fun k => k.countStream (max (s.core c).tm.step n) := by
  have hcore : (s.upd c fun k => k.idle (n - (s.core c).tm.step)).core c = (s.core c).idle (n - (s.core c).tm.step) := State.core_upd_self c _ h.core
  have hstep : ((s.core c).idle (n - (s.core c).tm.step)).tm.step = max (s.core c).tm.step n := by
    rw [Core.idle_tm]
    show (s.core c).tm.step + (n - (s.core c).tm.step) = _
    omega
  have honce := settleArray_once (s := s.upd c fun k => k.idle (n - (s.core c).tm.step)) (c := c) (te := te) (e := e) (by rw [hcore]; simpa using hq)
    (by rw [hcore]; simpa using he) (by rw [hcore, hstep]; exact hle) (by rw [hs1, hcore, hstep]; exact hlater)
  rw [hcore, hstep, hs1] at honce
  rw [ringTo_eq h, honce]
  refine heldBorrow_none ?_
  rw [State.core_upd_self c _ h.core]
  simpa using h1.hold

/-! ### The commit of the one pass (R212, R214) -/

/-- Whether a pass goes on to the update path. -/
def Pass.updates (p : Pass) : Bool :=
  match p.data with
  | .trap _ _ _ _ _ _ _ _ _ _ => true
  | _ => false

/-- Core `k'` is core `k` after the commit of its one pass `p`. -/
structure Core.Committed (k : Core) (p : Pass) (fresh : Nat) (k' : Core) : Prop where
  keeps : k.ArrayKeeps k'
  step : k'.tm.step = k.tm.step
  queue : k'.arr.queue = []
  later : ∀ te e, k'.arr.nextEvent = some (te, e) → p.commitAt < te
  last : p.updates = false → k'.arr.nextEvent = none
  tiles : k'.tiles = tilesCommitted fresh (passOut k fresh p).1.tiles k.tiles
  lowered : p.updates = false → p.cc < 16 → k'.outst p.cc = k.outst p.cc - 1

/-- An array with no pass, no item and no use of the port has no event to come. -/
theorem ArrayState.nextEvent_empty {a : ArrayState} (hq : a.queue = []) (hu : a.upd = []) (hp : a.portUse = []) : a.nextEvent = none := by
  simp [nextEvent, results, hq, hu, hp, argMin]
/-- The next event of an array with one item, which has still to be emitted, is its emission. -/
theorem ArrayState.nextEvent_emit {a : ArrayState} {u : UpdItem} {n : Nat} (hq : a.queue = []) (hu : a.upd = [u]) (hp : a.portUse = [])
    (hn : u.emitFrom = some n) (he : u.endAt = none) : a.nextEvent = some (n + 16, .emit u.id) := by
  simp [nextEvent, results, hq, hu, hp, argMin, hn, UpdItem.nextStep, he, blockedEmit]

/-- A core with the results `out` of its pass in its tiles and flags, the commit counted. -/
def Core.withResults (k : Core) (fresh : Nat) (out : PassOut) : Core :=
  (({ k with tiles := tilesCommitted fresh out.tiles k.tiles } : Core).orFF out.flags).count 12 1

section
variable (k : Core) (fresh : Nat) (out : PassOut)
theorem Core.withResults_arr : (k.withResults fresh out).arr = k.arr := Core.count_arr ..
theorem Core.withResults_cnt : (k.withResults fresh out).cnt = k.cnt := Core.count_cnt ..
theorem Core.withResults_tm : (k.withResults fresh out).tm = k.tm := Core.count_tm ..
theorem Core.withResults_tiles : (k.withResults fresh out).tiles = tilesCommitted fresh out.tiles k.tiles := Core.count_tiles ..
theorem Core.withResults_keeps : k.ArrayKeeps (k.withResults fresh out) :=
  ⟨Core.count_x .., Core.count_v .., congrArg Timing.pend (Core.count_tm ..), Core.count_wait .., Core.count_pw ..⟩
end

/-- The commit of the one pass: its results, and then either its counter falls or its item enters the update path. -/
theorem commitOldest_eq {p : Pass} (hq : (s.core c).arr.queue = [p]) : ∃ k fr, commitOldest c s = { s.upd c (fun _ => k) with fresh := fr } ∧
    let k1 := (s.core c).withResults s.fresh (passOut (s.core c) s.fresh p).1
    (k = ({ k1 with arr := { k1.arr with queue := [] } } : Core).lower p.cc none ∨
      p.updates = true ∧ ∃ i : UpdItem, i.emitFrom = some p.commitAt ∧ i.endAt = none ∧
        k = { k1 with arr := { k1.arr with queue := [], upd := k1.arr.upd ++ [i] } }) := by
  unfold commitOldest
  dsimp only
  rw [hq]
  dsimp only
  rw [foldl_setTile_commit]
  refine ⟨_, _, rfl, ?_⟩
  split
  · next hd => exact .inr ⟨by rw [Pass.updates, hd], _, rfl, rfl, rfl⟩
  · exact .inl rfl

theorem commitOldest_one {p : Pass} (hq : (s.core c).arr.queue = [p]) (hu : (s.core c).arr.upd = []) (hp : (s.core c).arr.portUse = []) :
    ∃ k fr, commitOldest c s = { s.upd c (fun _ => k) with fresh := fr } ∧ (s.core c).Committed p s.fresh k := by
  obtain ⟨k, fr, hcommit, hk⟩ := commitOldest_eq hq
  refine ⟨k, fr, hcommit, ?_⟩
  have harr := (s.core c).withResults_arr s.fresh (passOut (s.core c) s.fresh p).1
  have hcnt := (s.core c).withResults_cnt s.fresh (passOut (s.core c) s.fresh p).1
  have htm := (s.core c).withResults_tm s.fresh (passOut (s.core c) s.fresh p).1
  have htiles := (s.core c).withResults_tiles s.fresh (passOut (s.core c) s.fresh p).1
  obtain ⟨hx, hv, hpend, hwait, hpw⟩ := (s.core c).withResults_keeps s.fresh (passOut (s.core c) s.fresh p).1
  rw [← harr] at hu hp
  generalize (s.core c).withResults s.fresh (passOut (s.core c) s.fresh p).1 = k1 at hk hu hp harr hcnt htm htiles hx hv hpend hwait hpw
  rcases hk with rfl | ⟨hup, i, hfrom, hend, rfl⟩
  · have hnone : ({ k1.arr with queue := [] } : ArrayState).nextEvent = none := ArrayState.nextEvent_empty rfl hu hp
    refine ⟨⟨hx, hv, hpend, hwait, hpw⟩, congrArg Timing.step htm, rfl, fun te e he => ?_, fun _ => hnone, htiles, fun _ hcc => ?_⟩
    · exact absurd (hnone.symm.trans he) (by simp)
    · exact (vget_vset_self _ _ _ _ hcc).trans (congrArg (fun n : Counters => vget n.cc p.cc 0 - 1) hcnt)
  · have hemit : ({ k1.arr with queue := [], upd := k1.arr.upd ++ [i] } : ArrayState).nextEvent = some (p.commitAt + 16, .emit i.id) :=
      ArrayState.nextEvent_emit rfl (by rw [hu]; rfl) hp hfrom hend
    have hno (h : p.updates = false) : False := by rw [hup] at h; cases h
    refine ⟨⟨hx, hv, hpend, hwait, hpw⟩, congrArg Timing.step htm, rfl, fun te e he => ?_, fun h => (hno h).elim, htiles, fun h => (hno h).elim⟩
    obtain ⟨rfl, -⟩ := Prod.mk.inj (Option.some.inj (hemit.symm.trans he))
    omega

/-- What a pass computes depends on its core by the tiles alone. -/
theorem passOut_congr {k k' : Core} (h : k'.tiles = k.tiles) (fresh : Nat) (p : Pass) : passOut k' fresh p = passOut k fresh p := by
  have hcode : k'.accCode = k.accCode := by
    funext d r j
    rw [Core.accCode, Core.accCode, Core.tile, Core.tile, h]
  unfold passOut gangedOut tentOut distOut trapOut Core.accFV
  rw [hcode]

/-- The one event of an array that holds one pass. -/
theorem ArrayState.nextEvent_commit {a : ArrayState} {p : Pass} (hq : a.queue = [p]) (hu : a.upd = []) (hp : a.portUse = []) (hue : p.ue = none) :
    a.nextEvent = some (p.commitAt, .commit) := by
  simp [nextEvent, results, hq, hu, hp, hue, argMin]

/-- State `t` is state `s` after the commit of the one pass `p` of core `c`. -/
structure State.PassEnded (s t : State) (c : Nat) (p : Pass) : Prop where
  beside : s.Beside t c
  keeps : (s.core c).ArrayKeeps (t.core c)
  step : (t.core c).tm.step = max (s.core c).tm.step p.commitAt
  queue : (t.core c).arr.queue = []
  tiles : (t.core c).tiles = tilesCommitted s.fresh (passOut (s.core c) s.fresh p).1.tiles (s.core c).tiles
  lowered : p.updates = false → p.cc < 16 → (t.core c).outst p.cc = (s.core c).outst p.cc - 1

/-- The ring beats to the commit of the one pass. -/
theorem ringTo_commit {p : Pass} (h : s.PassesAlone c) (hq : (s.core c).arr.queue = [p]) (hu : (s.core c).arr.upd = [])
    (hp : (s.core c).arr.portUse = []) (hue : p.ue = none) (hlast : p.updates = false ∨ (s.core c).tm.step ≤ p.commitAt) :
    s.PassEnded (ringTo c p.commitAt s) c p := by
  let n := p.commitAt - (s.core c).tm.step
  let k0 := ((s.core c).idle n).countStream p.commitAt
  let s0 := (s.upd c fun k => k.idle n).upd c fun k => k.countStream p.commitAt
  have hs0 : s0.core c = k0 := by
    rw [State.core_upd_self c _ h.core, State.core_upd_self c _ h.core]
  obtain ⟨k, fr, hcommit, hk⟩ := commitOldest_one (s := s0) (c := c) (p := p) (by rw [hs0]; simpa [k0] using hq) (by rw [hs0]; simpa [k0] using hu)
    (by rw [hs0]; simpa [k0] using hp)
  rw [hs0] at hk
  have hkeep : (s.core c).ArrayKeeps k := ((Core.idle_keeps _ _).trans (Core.countStream_keeps _ _)).trans hk.keeps
  let s1 : State := { s0.upd c (fun _ => k) with fresh := fr }
  have hcore1 : s1.core c = k := State.core_upd_self (s := s0) c (fun _ => k) h.core
  have hring := ringTo_event (n := p.commitAt) h (by simp [hq]) (ArrayState.nextEvent_commit hq hu hp hue) (le_max_right _ _)
    (show _ = s1 from hcommit) (h.of_keeps (by rw [hcore1]; exact hkeep)) (fun tn en hn => by
      rw [hcore1] at hn
      rcases hlast with hlast | hlast
      · rw [hk.last hlast] at hn
        cases hn
      · rw [max_eq_right hlast]
        exact hk.later tn en hn)
  have hbeside : s.Beside s1 c :=
    ((State.Beside.upd s c _).trans (State.Beside.upd _ c _)).trans (u := s1) ⟨rfl, fun d hd => State.core_upd_ne (s := s0) (fun _ => k) hd.symm⟩
  have htiles0 : k0.tiles = (s.core c).tiles := by simp [k0]
  have hcore : (ringTo c p.commitAt s).core c = k.countStream (max (s.core c).tm.step p.commitAt) := by
    rw [hring, State.core_upd_self c _ h.core, hcore1]
  refine ⟨?_, ?_, ?_, ?_, ?_, fun hup hcc => ?_⟩
  · rw [hring]
    exact hbeside.trans (State.Beside.upd s1 c _)
  · rw [hcore]
    exact hkeep.trans (Core.countStream_keeps _ _)
  · rw [hcore, Core.countStream_tm, hk.step]
    simp only [k0, Core.countStream_tm, Core.idle_tm, n]
    omega
  · rw [hcore, Core.countStream_queue, hk.queue]
  · rw [hcore, Core.countStream_tiles, hk.tiles, htiles0, passOut_congr htiles0]
    rfl
  · rw [hcore, Core.outst, Core.countStream_cnt]
    exact (hk.lowered hup hcc).trans (by simp [k0, Core.outst])

/-! ### The feed of the one pass (R213, R219, R220) -/

/-- Pass `p` after a stream step that its feed held up, the memory port having taken `v` bytes. -/
def Pass.heldUp (p : Pass) (v : Nat) : Pass :=
  { p with
    cred := p.cred + min p.dem (Config.fieldBytes - v)
    str := p.str + 1
    waits := p.waits + 1 }

theorem Pass.commitAt_eq (p : Pass) : p.commitAt = p.b + p.str + 134 + p.tail := by
  unfold commitAt passLen b loadLen Config.drain
  omega
theorem Pass.heldUp_commitAt (p : Pass) (v : Nat) : (p.heldUp v).commitAt = p.commitAt + 1 := by
  rw [commitAt_eq, commitAt_eq]
  show p.b + (p.str + 1) + 134 + p.tail = _
  omega

section
variable {a : ArrayState} {p : Pass} {n v : Nat}

theorem ArrayState.feedAt_one (hq : a.queue = [p]) (hd : p.dem ≠ 0) (hlo : p.b ≤ n) (hhi : n < p.b + p.str) : a.feedAt n = some p := by
  simp [feedAt, hq, hd, hlo, hhi]

/-- A use of the memory port in the stream of the one pass comes before its commit. -/
theorem ArrayState.nextEvent_port (hq : a.queue = [p]) (hu : a.upd = []) (hp : a.portUse = [(n, v)]) (hue : p.ue = none)
    (hfeed : a.feedAt n = some p) (hhi : n < p.b + p.str) : a.nextEvent = some (n, .port v) := by
  have hlt : ¬p.commitAt < n := by
    rw [Pass.commitAt_eq]
    omega
  simp [nextEvent, results, hq, hu, hp, hue, hfeed, argMin, hlt]

theorem ArrayState.feedStep_held (hq : a.queue = [p]) (hp : a.portUse = [(n, v)]) (hfeed : a.feedAt n = some p)
    (hshort : ¬p.dem ≤ p.cred + min p.dem (Config.fieldBytes - v)) :
    (a.feedStep n v).1.queue = [p.heldUp v] ∧ (a.feedStep n v).1.upd = a.upd ∧ (a.feedStep n v).1.portUse = [] := by
  have hfeed' : ({ a with portUse := a.portUse.filter fun q => decide (n < q.1) } : ArrayState).feedAt n = some p := hfeed
  unfold feedStep
  dsimp only
  rw [hfeed']
  dsimp only
  rw [if_neg hshort]
  refine ⟨?_, rfl, by simp [hp]⟩
  simp [hq, Pass.heldUp]
end

/-- A core after the memory port took `v` bytes in stream step `n`. -/
def Core.fed (k : Core) (n v : Nat) : Core :=
  ({ k with arr := (k.arr.feedStep n v).1 } : Core).count 9 (b2n (k.arr.feedStep n v).2)

theorem Core.fed_arr (k : Core) (n v : Nat) : (k.fed n v).arr = (k.arr.feedStep n v).1 := Core.count_arr ..
theorem Core.fed_tm (k : Core) (n v : Nat) : (k.fed n v).tm = k.tm := Core.count_tm ..
theorem Core.fed_keeps (k : Core) (n v : Nat) : k.ArrayKeeps (k.fed n v) :=
  ⟨Core.count_x .., Core.count_v .., congrArg Timing.pend (Core.count_tm ..), Core.count_wait .., Core.count_pw ..⟩
theorem arrayEvent_port (s : State) (c n v : Nat) :
    arrayEvent c n (.port v) s = (s.upd c fun k => k.countStream n).upd c fun k => k.fed n v := rfl

/-- The ring beats to the step in which the feed of the one pass is held up. -/
theorem ringTo_port {p : Pass} {n v : Nat} (h : s.PassesAlone c) (hq : (s.core c).arr.queue = [p]) (hu : (s.core c).arr.upd = [])
    (hp : (s.core c).arr.portUse = [(n, v)]) (hue : p.ue = none) (hd : p.dem ≠ 0) (hlo : p.b ≤ n) (hhi : n < p.b + p.str)
    (hn : (s.core c).tm.step ≤ n) (hshort : ¬p.dem ≤ p.cred + min p.dem (Config.fieldBytes - v)) :
    s.Beside (ringTo c n s) c ∧ (s.core c).ArrayKeeps ((ringTo c n s).core c) ∧ ((ringTo c n s).core c).tm.step = n ∧
    ((ringTo c n s).core c).arr.queue = [p.heldUp v] ∧ ((ringTo c n s).core c).arr.upd = [] ∧ ((ringTo c n s).core c).arr.portUse = [] := by
  let k0 := ((s.core c).idle (n - (s.core c).tm.step)).countStream n
  let k1 := k0.fed n v
  let s0 := s.upd c fun k => k.idle (n - (s.core c).tm.step)
  let s1 := (s0.upd c fun k => k.countStream n).upd c fun k => k.fed n v
  have hcore0 : (s0.upd c fun k => k.countStream n).core c = k0 := by
    rw [State.core_upd_self (s := s0) c _ h.core, State.core_upd_self c _ h.core]
  have hcore1 : s1.core c = k1 := by
    rw [State.core_upd_self (s := s0.upd c fun k => k.countStream n) c (fun k => k.fed n v) h.core, hcore0]
  have hfeed : (s.core c).arr.feedAt n = some p := ArrayState.feedAt_one hq hd hlo hhi
  obtain ⟨hq1, hu1, hp1⟩ := ArrayState.feedStep_held (a := k0.arr) (p := p) (n := n) (v := v) (by simpa [k0] using hq) (by simpa [k0] using hp)
    (ArrayState.feedAt_one (by simpa [k0] using hq) hd hlo hhi) hshort
  have harr1 : k1.arr = (k0.arr.feedStep n v).1 := Core.fed_arr ..
  have hu1 : k1.arr.upd = [] := by
    rw [harr1, hu1]
    simpa [k0] using hu
  rw [← harr1] at hq1 hp1
  have hkeep : (s.core c).ArrayKeeps k1 := ((Core.idle_keeps _ _).trans (Core.countStream_keeps _ _)).trans (Core.fed_keeps _ _ _)
  have hcommit := ArrayState.nextEvent_commit hq1 hu1 hp1 hue
  have hring := ringTo_event (s := s) (s1 := s1) (n := n) h (by simp [hq]) (ArrayState.nextEvent_port hq hu hp hue hfeed hhi)
    (le_max_right _ _) (arrayEvent_port s0 c n v) (h.of_keeps (by rw [hcore1]; exact hkeep)) (fun tn en he => by
      rw [hcore1, hcommit, Pass.heldUp_commitAt, Pass.commitAt_eq] at he
      obtain ⟨rfl, -⟩ := Prod.mk.inj (Option.some.inj he)
      omega)
  have hcore : (ringTo c n s).core c = k1.countStream (max (s.core c).tm.step n) := by
    rw [hring, State.core_upd_self c _ h.core, hcore1]
  rw [hcore]
  refine ⟨?_, hkeep.trans (Core.countStream_keeps _ _), ?_, by rw [Core.countStream_queue, hq1], by rw [Core.countStream_upd, hu1],
    by rw [Core.countStream_portUse, hp1]⟩
  · rw [hring]
    exact (((State.Beside.upd s c _).trans (State.Beside.upd _ c _)).trans (State.Beside.upd _ c _)).trans (State.Beside.upd s1 c _)
  · have htm : k1.tm = k0.tm := Core.fed_tm ..
    rw [Core.countStream_tm, htm]
    simp only [k0, Core.countStream_tm, Core.idle_tm]
    omega

/-! ### The commands (R212, R214, R224) -/

theorem onArray_run (hc : c < 144) (hb : (s.core c).beats = true) (f : State → State) : onArray c s f = done s (f s) := by
  unfold onArray
  rw [if_neg (by omega), if_neg (by simp [isHub]; omega), if_neg (by simp [hb])]

theorem ringToCommit_beats {p : Pass} {id n : Nat} {e : AEvent} (hq : (s.core c).arr.queue = [p]) (hid : p.id = id)
    (he : (s.core c).arr.nextEvent = some (n, e)) (fuel : Nat) : ringToCommit c id (fuel + 1) s = ringToCommit c id fuel (ringTo c n s) := by
  rw [ringToCommit, hq, he]
  exact if_pos hid
theorem ringToCommit_empty (hq : (s.core c).arr.queue = []) (id fuel : Nat) : ringToCommit c id fuel s = s := by
  cases fuel with
  | zero => rfl
  | succ fuel =>
    rw [ringToCommit, hq]
    rfl

theorem exec_passCommit_eq {p : Pass} (hc : c < 144) (hb : (s.core c).beats = true) (hq : (s.core c).arr.queue = [p]) :
    exec (.passCommit c) s = done s (endWait c (ringToCommit c p.id 32 s)) := by
  rw [exec_passCommit, execPassCommit, onArray_run hc hb, hq]
  rfl

/-- The rest of the way to the commit, from a state in which no use of the port is due. -/
theorem ringToCommit_ends {p : Pass} (h : s.PassesAlone c) (hq : (s.core c).arr.queue = [p]) (hu : (s.core c).arr.upd = [])
    (hp : (s.core c).arr.portUse = []) (hue : p.ue = none) (hlast : p.updates = false ∨ (s.core c).tm.step ≤ p.commitAt) (fuel : Nat) :
    s.PassEnded (endWait c (ringToCommit c p.id (fuel + 1) s)) c p := by
  have hend := ringTo_commit h hq hu hp hue hlast
  rw [ringToCommit_beats hq rfl (ArrayState.nextEvent_commit hq hu hp hue), ringToCommit_empty hend.queue,
    endWait_none (hend.keeps.wait.trans h.wait)]
  exact hend

theorem State.PassEnded.requeued {p : Pass} (h : s.PassEnded t c p) (g : t.Requeued u) : s.PassEnded u c p := by
  obtain ⟨hb, hk, hs, hq, ht, hl⟩ := h
  rw [← g.core c] at hk hs hq ht hl
  exact ⟨hb.requeued g, hk, hs, hq, ht, hl⟩

/-- PASS_COMMIT with one pass, whose feed nothing holds up. -/
theorem exec_passCommit_ends {p : Pass} (h : s.PassesAlone c) (hc : c < 144) (hb : (s.core c).beats = true) (hq : (s.core c).arr.queue = [p])
    (hu : (s.core c).arr.upd = []) (hp : (s.core c).arr.portUse = []) (hue : p.ue = none)
    (hlast : p.updates = false ∨ (s.core c).tm.step ≤ p.commitAt) : ∃ t, exec (.passCommit c) s = .next t ∧ s.PassEnded t c p := by
  obtain ⟨t, ht, hreq⟩ := answer_of_done (exec_passCommit_eq hc hb hq)
  exact ⟨t, ht, (ringToCommit_ends h hq hu hp hue hlast 31).requeued hreq⟩

/-- PASS_COMMIT with one pass, whose feed the memory port holds up in one stream step. -/
theorem exec_passCommit_heldUp {p : Pass} {n v : Nat} (h : s.PassesAlone c) (hc : c < 144) (hb : (s.core c).beats = true)
    (hq : (s.core c).arr.queue = [p]) (hu : (s.core c).arr.upd = []) (hp : (s.core c).arr.portUse = [(n, v)]) (hue : p.ue = none)
    (hd : p.dem ≠ 0) (hlo : p.b ≤ n) (hhi : n < p.b + p.str) (hn : (s.core c).tm.step ≤ n)
    (hshort : ¬p.dem ≤ p.cred + min p.dem (Config.fieldBytes - v)) : ∃ t, exec (.passCommit c) s = .next t ∧ (t.core c).arr.queue = [] ∧
      (t.core c).tm.step = p.commitAt + 1 ∧ (t.core c).x = (s.core c).x ∧ s.Beside t c := by
  obtain ⟨hbeside, hkeep, hstep, hq1, hu1, hp1⟩ := ringTo_port h hq hu hp hue hd hlo hhi hn hshort
  have hfirst := ringToCommit_beats hq rfl (ArrayState.nextEvent_port hq hu hp hue (ArrayState.feedAt_one hq hd hlo hhi) hhi) 31
  have hcommit := p.heldUp_commitAt v
  have hbound := p.commitAt_eq
  have hend := ringToCommit_ends (h.of_keeps hkeep) hq1 hu1 hp1 hue (.inr (by omega)) 30
  obtain ⟨t, ht, hreq⟩ := answer_of_done (exec_passCommit_eq hc hb hq)
  rw [hfirst] at hreq
  have hended := hend.requeued hreq
  refine ⟨t, ht, hended.queue, ?_, hended.keeps.x.trans hkeep.x, hbeside.trans hended.beside⟩
  rw [hended.step, hstep]
  omega

/-- PASS_START with one pass that has not begun. -/
theorem exec_passStart_begins {p : Pass} (h : s.PassesAlone c) (hc : c < 144) (hb : (s.core c).beats = true) (hq : (s.core c).arr.queue = [p])
    (hu : (s.core c).arr.upd = []) (hp : (s.core c).arr.portUse = []) (hue : p.ue = none) (hlt : (s.core c).tm.step < p.start) :
    ∃ t, exec (.passStart c) s = .next t ∧ (t.core c).tm.step = p.start ∧ (t.core c).arr.queue = [p] ∧ (t.core c).tiles = (s.core c).tiles ∧
      (t.core c).x = (s.core c).x ∧ s.Beside t c := by
  have hevent := ArrayState.nextEvent_commit hq hu hp hue
  have hcommit : p.start < p.commitAt := by
    rw [Pass.commitAt_eq, Pass.b]
    omega
  let s1 := s.upd c fun k => (k.idle (p.start - (s.core c).tm.step)).countStream p.start
  have hcore : s1.core c = ((s.core c).idle (p.start - (s.core c).tm.step)).countStream p.start := State.core_upd_self c _ h.core
  have hstep : (s1.core c).tm.step = p.start := by
    rw [hcore, Core.countStream_tm, Core.idle_tm]
    exact Nat.add_sub_cancel' hlt.le
  have hqueue : (s1.core c).arr.queue = [p] := by
    rw [hcore]
    simpa using hq
  have hring : ringTo c p.start s = s1 := ringTo_later h hlt.le (by simp [hq]) fun te e he => by
    obtain ⟨rfl, -⟩ := Prod.mk.inj (Option.some.inj (hevent.symm.trans he))
    exact hcommit
  have hway : ringToStart c p.id 16 s = s1 := by
    have hfind {q : State} (hq : (q.core c).arr.queue = [p]) : ((q.core c).arr.queue.find? fun x => x.id == p.id) = some p := by simp [hq]
    have hnext : max ((s.core c).tm.step + 1) (min p.commitAt p.start) = p.start := by omega
    rw [ringToStart]
    dsimp only
    rw [hfind hq, hevent]
    dsimp only
    rw [if_neg (Nat.not_le.2 hlt), hnext, hring, ringToStart]
    dsimp only
    rw [hfind hqueue]
    exact if_pos hstep.ge
  have hexec : exec (.passStart c) s = done s s1 := by
    have hfind : ((s.core c).arr.queue.find? fun q => decide ((s.core c).tm.step < q.start)) = some p := by simp [hq, hlt]
    have hwait : (s1.core c).wait = none := by
      rw [hcore]
      simpa using h.wait
    rw [exec_passStart, execPassStart, onArray_run hc hb]
    dsimp only
    rw [hfind]
    dsimp only
    rw [hway, endWait_none hwait]
  obtain ⟨t, ht, hreq⟩ := answer_of_done hexec
  refine ⟨t, ht, ?_, ?_, ?_, ?_, (State.Beside.upd s c _).requeued hreq⟩ <;> rw [hreq.core]
  · exact hstep
  · exact hqueue
  · rw [hcore]
    simp
  · rw [hcore]
    simp

end Sys2Proof.Machine
end

section
/-! SUPPORT. The life of a pass, from its start to the wait for an empty array (R212 to R214, R219, R220, R224): O34. -/

namespace Sys2Proof.Machine

variable {s t : State} {c : Nat}

/-! ### AQUIET (R224) -/

/-- The wait of an AQUIET. -/
def aquietWait (s : State) (c : Nat) (rs1 : Reg) : Wait :=
  mkWait s c .array 0 rs1 false false (encWide 0x21 (rs1.toNat * 2 ^ 13) 0)

theorem waitEnd_array {w : Wait} (hk : w.kind = .array) (hq : (s.core c).arr.queue = []) : waitEnd s c w = .ret none := by
  unfold waitEnd
  rw [hk]
  exact if_pos (by rw [hq]; rfl)

theorem returnWait_array {w : Wait} (hk : w.kind = .array) (hp : (s.core c).tm.pend = []) :
    returnWait c w none s = s.upd c fun k => { k with wait := none, flow := k.flow.advance w.wide } := by
  unfold returnWait waitTake
  rw [hk]
  dsimp only
  rw [landUpTo_nil _ hp]

theorem execAquiet_eq (h : s.Ready c) (hc : c < 144) (rs1 : Reg) : exec (.aquiet c rs1) s =
    match illegalIf (encWide 0x21 (rs1.toNat * 2 ^ 13) 0) ((s.core c).level == .t) with
    | some t => done s (takeException c t s)
    | none => done s (returnWait c (aquietWait s c rs1) none (s.upd c Core.beat)) := by
  have hend : waitEnd s c (mkWait s c .array 0 rs1 false false (encWide 0x21 (rs1.toNat * 2 ^ 13) 0)) = .ret none :=
    waitEnd_array rfl h.array
  have hhub : ¬(isHub c && decide (c < 160)) = true := by
    simp [isHub]
    omega
  rw [exec_aquiet, execAquiet, if_neg hhub, issueWait, issueI_ready h fun _ => rfl]
  simp only [id, hend]
  cases illegalIf (encWide 0x21 (rs1.toNat * 2 ^ 13) 0) ((s.core c).level == .t) <;> rfl

/-- AQUIET of an empty array returns at once. -/
theorem exec_aquiet_empty (h : s.Ready c) (hc : c < 144) (hl : (s.core c).level ≠ .t) (rs1 : Reg) : ∃ t, exec (.aquiet c rs1) s = .next t ∧
    (t.core c).wait = none ∧ (t.core c).flow = (s.core c).flow.advance true ∧ (t.core c).x = (s.core c).x ∧ s.Beside t c := by
  have hbeat : (s.upd c Core.beat).core c = (s.core c).beat := State.core_upd_self c _ h.core
  have hret := returnWait_array (s := s.upd c Core.beat) (w := aquietWait s c rs1) rfl (by rw [hbeat]; simpa using h.landed)
  have hexec : exec (.aquiet c rs1) s = done s ((s.upd c Core.beat).upd c fun k => { k with
      wait := none
      flow := k.flow.advance true }) := by
    rw [execAquiet_eq h hc, illegalIf, if_neg (by simpa using hl), hret]
    rfl
  rw [done_upd_upd _ _ h.core] at hexec
  refine ⟨_, hexec, ?_, ?_, ?_, State.Beside.upd s c _⟩ <;> rw [State.core_upd_self c _ h.core]
  · exact congrArg (Flow.advance · true) (Core.beat_flow _)
  · exact Core.beat_x _

/-- At T it is illegal. -/
theorem exec_aquiet_t (h : s.Ready c) (hc : c < 144) (hl : (s.core c).level = .t) (rs1 : Reg) : exec (.aquiet c rs1) s =
    .next { takeException c { cause := 1, edata0 := (encWide 0x21 (rs1.toNat * 2 ^ 13) 0).data } s with pending := s.pending } := by
  rw [execAquiet_eq h hc, illegalIf, if_pos (by simp [hl])]
  rfl

/-! ### The commit of a pass that leaves its results in one tile (R212, R214) -/

/-- PASS_COMMIT of a pass with one destination, whose results are the elements `code` of it. -/
theorem exec_passCommit_gives {p : Pass} {d : Nat} {code : Nat → Nat → Nat} (h : s.PassesAlone c) (hc : c < 144)
    (hb : (s.core c).beats = true) (hq : (s.core c).arr.queue = [p]) (hu : (s.core c).arr.upd = []) (hp : (s.core c).arr.portUse = [])
    (hue : p.ue = none) (hup : p.updates = false) (hd : d < 16) (hcc : p.cc < 16) (hrows : ((s.core c).shape d).rows ≤ 128)
    (hcols : ((s.core c).shape d).cols ≤ 128) (hout : (passOut (s.core c) s.fresh p).1.Gives d ((s.core c).shape d) code) :
    ∃ t, exec (.passCommit c) s = .next t ∧ (t.core c).arr.queue = [] ∧ (t.core c).tm.step = max (s.core c).tm.step p.commitAt ∧
      (t.core c).outst p.cc = (s.core c).outst p.cc - 1 ∧
      (∀ r j, r < ((s.core c).shape d).rows → j < ((s.core c).shape d).cols → (t.core c).accCode d r j = code r j) ∧
      (∀ i, i ≠ d → (t.core c).tile i = (s.core c).tile i) ∧ (t.core c).x = (s.core c).x ∧ (t.core c).v = (s.core c).v ∧ s.Beside t c := by
  obtain ⟨t, ht, hend⟩ := exec_passCommit_ends h hc hb hq hu hp hue (.inl hup)
  obtain ⟨hcode, hother⟩ := hout.committed hd hrows hcols hend.tiles
  exact ⟨t, ht, hend.queue, hend.step, hend.lowered hup hcc, hcode, hother, hend.keeps.x, hend.keeps.v, hend.beside⟩

section
variable (k : Core) (fresh : Nat) {p : Pass} {d : Nat} {code : Nat → Nat → Nat} (hdst : p.dst = [d]) (hcols : (k.shape d).cols ≤ 128)
include hdst

include hcols in
theorem passOut_mm_gives {grp : Nat} {xs ss : List (List FV)} (hdata : p.data = .mm false grp xs ss 0) (hx : xs.length = (k.shape d).rows)
    (hs : ss.length = (k.shape d).cols) : (passOut k fresh p).1.Gives d (k.shape d) fun r j =>
      (mmElem (fresh + r * ss.length + j) grp (if p.accum then k.accFV d r j else .zero) (xs.getD r []) (ss.getD j [])).1 := by
  have hout : (passOut k fresh p).1 = gangedOut k fresh d grp p.accum xs ss := by
    unfold passOut
    rw [hdata, hdst]
    rfl
  rw [hout]
  exact gangedOut_gives k fresh hcols grp p.accum hx hs

theorem passOut_elem_gives {op : BitVec 2} {a b : List (List FV)} (hdata : p.data = .elem op false a b) (ha : a.length = (k.shape d).rows)
    (hb : b.length = (k.shape d).rows) (hrow : ∀ row ∈ a ++ b, row.length = (k.shape d).cols) :
    (passOut k fresh p).1.Gives d (k.shape d) fun r j => (elemOp op ((a.getD r []).getD j .zero) ((b.getD r []).getD j .zero)).1 := by
  have hout : (passOut k fresh p).1 = elemOut d op a b := by
    unfold passOut
    rw [hdata, hdst]
    rfl
  rw [hout]
  exact elemOut_gives op ha hb hrow

include hcols in
theorem passOut_dist_gives {ds : List (List Int)} {n : Nat} (hdata : p.data = .dist 0 ds n) (hds : ds.length = (k.shape d).rows)
    (hrow : ∀ row ∈ ds, row.length = (k.shape d).cols) : (passOut k fresh p).1.Gives d (k.shape d) fun r j =>
      (BitVec.ofInt 32 ((if p.accum then (k.accCode d r j : Int) else 0) + (ds.getD r []).getD j 0)).toNat := by
  have hout : (passOut k fresh p).1 = distOut k d p.accum 0 ds n := by
    unfold passOut
    rw [hdata, hdst]
    rfl
  rw [hout]
  exact distOut_gives k hcols p.accum hds hrow n
end

/-- Settles O34: with one pass in the array its commit is the ring's next event, but for the use of the port that holds up its feed. -/
theorem passLife : Obligations.PassLife := by
  unfold Obligations.PassLife
  refine ⟨fun s c p d hc hb hpend _ hu hhold hwait hq hp hue hdst _ hd hcc => ?_,
    fun s c p n v hc hb hpend _ hu hhold hwait hq hp hue hdem hcred hv hlt hlo hhi => ?_,
    fun s c rs1 h hc => ⟨fun hl => exec_aquiet_empty h hc hl rs1, fun hl => exec_aquiet_t h hc hl rs1⟩⟩
  · have halone : s.PassesAlone c := ⟨by omega, hpend, hwait, hhold⟩
    refine ⟨exec_passStart_begins halone hc hb hq hu hp hue, fun hrows hcols =>
      ⟨fun grp xs ss hdata hx hs => ?_, fun op a b hdata ha hbl hrow => ?_, fun ds m hdata hds hrow => ?_⟩⟩
    · exact exec_passCommit_gives halone hc hb hq hu hp hue (by rw [Pass.updates, hdata]) (by omega) hcc hrows hcols
        (passOut_mm_gives _ _ hdst hcols hdata hx hs)
    · exact exec_passCommit_gives halone hc hb hq hu hp hue (by rw [Pass.updates, hdata]) (by omega) hcc hrows hcols
        (passOut_elem_gives _ _ hdst hdata ha hbl hrow)
    · exact exec_passCommit_gives halone hc hb hq hu hp hue (by rw [Pass.updates, hdata]) (by omega) hcc hrows hcols
        (passOut_dist_gives _ _ hdst hcols hdata hds hrow)
  · have halone : s.PassesAlone c := ⟨by omega, hpend, hwait, hhold⟩
    have hshort : ¬p.dem ≤ p.cred + min p.dem (Config.fieldBytes - v) := by
      rw [hdem, Config.fieldBytes]
      omega
    exact exec_passCommit_heldUp halone hc hb hq hu hp hue (by omega) hlo hhi hlt.le hshort

end Sys2Proof.Machine
end

section
/-! SUPPORT. Magnitudes as real numbers, integer roots, and the FP32 number to which a value rounds (R125, R134). -/

namespace Sys2Proof.Machine

/-! ### Magnitudes as real numbers -/

theorem zpow_sub_toNat {e le : Int} (h : le ≤ e) : (2 : ℝ) ^ (e - le).toNat * 2 ^ le = 2 ^ e := by
  rw [← zpow_natCast, ← zpow_add₀ two_ne_zero]
  congr 1
  omega

theorem magLt_iff {a b : Nat} {x y : Int} : magLt a x b y = true ↔ (a : ℝ) * 2 ^ x < b * 2 ^ y := by
  unfold magLt
  split
  · next h =>
    rw [← zpow_sub_toNat h, ← mul_assoc, mul_lt_mul_iff_left₀ (by positivity), decide_eq_true_eq]
    norm_cast
  · next h =>
    rw [← zpow_sub_toNat (Int.le_of_not_le h), ← mul_assoc, mul_lt_mul_iff_left₀ (by positivity), decide_eq_true_eq]
    norm_cast

theorem magLt_eq_false_iff {a b : Nat} {x y : Int} : magLt a x b y = false ↔ (b : ℝ) * 2 ^ y ≤ a * 2 ^ x := by
  rw [← not_lt, ← magLt_iff, Bool.not_eq_true]

theorem fvReal_eq (n : Bool) (m : Nat) (e : Int) : fvReal n m e = if n then -((m : ℝ) * 2 ^ e) else (m : ℝ) * 2 ^ e := by
  cases n <;> simp [fvReal]

theorem abs_fvReal (n : Bool) (m : Nat) (e : Int) : |fvReal n m e| = (m : ℝ) * 2 ^ e := by
  have hnn : (0 : ℝ) ≤ m * 2 ^ e := by positivity
  rw [fvReal_eq]
  split
  · rw [abs_neg, abs_of_nonneg hnn]
  · exact abs_of_nonneg hnn

/-! ### Integer roots -/

theorem isqrtAux_spec (n i r : Nat) (hl : r * r ≤ n) (hu : n < (r + 2 ^ i) * (r + 2 ^ i)) : isqrtAux i n r = Nat.sqrt n := by
  induction i generalizing r with
  | zero => exact Nat.eq_sqrt.2 ⟨hl, hu⟩
  | succ i ih =>
    rw [isqrtAux]
    split
    · next h => exact ih _ h (by rw [Nat.pow_succ] at hu; convert hu using 2 <;> ring)
    · next h => exact ih _ hl (Nat.lt_of_not_le h)

theorem lt_two_pow_bitLen (n : Nat) : n < 2 ^ bitLen n := by
  unfold bitLen
  split
  · omega
  · exact Nat.lt_log2_self

theorem isqrt_eq_sqrt (n : Nat) : isqrt n = Nat.sqrt n := by
  refine isqrtAux_spec n _ 0 (Nat.zero_le _) ((lt_two_pow_bitLen n).trans_le ?_)
  rw [Nat.zero_add, ← Nat.pow_add]
  exact Nat.pow_le_pow_right two_pos (by omega)

/-! ### Rounding -/

theorem roundTo_between (r : Rnd) (neg : Bool) (m : Nat) (e le : Int) :
    ⌊(m : ℝ) * 2 ^ (e - le)⌋₊ ≤ (roundTo r neg m e le).1 ∧ (roundTo r neg m e le).1 ≤ ⌈(m : ℝ) * 2 ^ (e - le)⌉₊ := by
  unfold roundTo
  split
  · next h =>
    have hx : (m : ℝ) * 2 ^ (e - le) = (m * 2 ^ (e - le).toNat : Nat) := by
      rw [← Int.toNat_of_nonneg (Int.sub_nonneg.2 h), zpow_natCast]
      push_cast
      rfl
    rw [hx, Nat.floor_natCast, Nat.ceil_natCast]
    exact ⟨le_rfl, le_rfl⟩
  · next h =>
    have hx : (m : ℝ) * 2 ^ (e - le) = m / (2 ^ (le - e).toNat : Nat) := by
      rw [show e - le = -((le - e).toNat : Int) by omega, zpow_neg, zpow_natCast, div_eq_mul_inv]
      push_cast
      rfl
    have hfloor : ⌊(m : ℝ) * 2 ^ (e - le)⌋₊ = m / 2 ^ (le - e).toNat := by rw [hx, Nat.floor_div_natCast, Nat.floor_natCast]
    dsimp only
    split
    · exact ⟨hfloor.le, hfloor ▸ Nat.floor_le_ceil _⟩
    · next hrem =>
      have hlt : m / 2 ^ (le - e).toNat < ⌈(m : ℝ) * 2 ^ (e - le)⌉₊ := by
        rw [Nat.lt_ceil, hx, lt_div_iff₀ (by positivity)]
        have := Nat.div_add_mod m (2 ^ (le - e).toNat)
        rw [← Nat.cast_mul, Nat.cast_lt, Nat.mul_comm]
        omega
      split <;> constructor <;> dsimp only <;> omega

theorem Fmt.round_code {f : Fmt} {m : Nat} {e le : Int} (hm : m ≠ 0) (r : Rnd) (neg : Bool)
    (hle : max (e + (bitLen m : Int) - ((f.mw : Int) + 1)) f.lsb = le) (hfit : magLt f.maxM f.maxE (roundTo r neg m e le).1 le = false) :
    (f.round r .toInf neg m e).1 = f.signed neg (if (roundTo r neg m e le).1 = 2 ^ (f.mw + 1) then f.codeOf (2 ^ f.mw) (le + 1)
      else f.codeOf (roundTo r neg m e le).1 le) := by
  unfold Fmt.round
  rw [if_neg hm]
  simp only [hle, hfit, Bool.false_eq_true, if_false]
  split <;> rfl

/-- The FP32 encoding of a normal magnitude stands for it. -/
theorem f32_codeOf (n : Bool) {q : Nat} {e : Int} (hl : 2 ^ 23 ≤ q) (hu : q < 2 ^ 24) (he : -149 ≤ e) (he' : e ≤ 104) :
    f32 (BitVec.ofNat 32 (fp32.signed n (fp32.codeOf q e))) = .fin n q e ∧
      isNormal32 (BitVec.ofNat 32 (fp32.signed n (fp32.codeOf q e))) = true := by
  obtain ⟨x, rfl⟩ : ∃ x : Nat, e = x - 150 := ⟨(e + 150).toNat, by omega⟩
  have hcode : fp32.codeOf q (x - 150) = (q - 2 ^ 23) + x * 2 ^ 23 := by
    have : ((x : Int) - 150 + fp32.mw + fp32.bias).toNat = x := by
      have : fp32.bias = 127 := rfl
      have : fp32.mw = 23 := rfl
      omega
    rw [Fmt.codeOf, this, if_neg (by simpa [fp32] using hl)]
    rfl
  have hsigned : fp32.signed n (fp32.codeOf q (x - 150)) = (q - 2 ^ 23) + x * 2 ^ 23 + b2n n * 2 ^ 31 := by rw [hcode]; rfl
  have hb : b2n n ≤ 1 := by cases n <;> decide
  have hnat : (BitVec.ofNat 32 (fp32.signed n (fp32.codeOf q (x - 150)))).toNat = (q - 2 ^ 23) + x * 2 ^ 23 + b2n n * 2 ^ 31 := by
    rw [hsigned, BitVec.toNat_ofNat]
    omega
  have hexp : bits ((q - 2 ^ 23) + x * 2 ^ 23 + b2n n * 2 ^ 31) 30 23 = x := by
    rw [bits, Nat.shiftRight_eq_div_pow]
    omega
  have hbit : bitOf ((q - 2 ^ 23) + x * 2 ^ 23 + b2n n * 2 ^ 31) 31 = n := by
    rw [bitOf, Nat.testBit_eq_decide_div_mod_eq]
    cases n <;> simp [b2n] <;> omega
  refine ⟨?_, ?_⟩
  · have hex : fp32.expOf ((q - 2 ^ 23) + x * 2 ^ 23 + b2n n * 2 ^ 31) = x := hexp
    have hmant : ((q - 2 ^ 23) + x * 2 ^ 23 + b2n n * 2 ^ 31) % 2 ^ fp32.mw + 2 ^ fp32.mw = q := by
      change _ % 2 ^ 23 + 2 ^ 23 = q
      omega
    have hlsb : fp32.lsb + x - 1 = (x : Int) - 150 := by
      have : fp32.lsb = -149 := rfl
      omega
    rw [f32, hnat, Fmt.decode_ieee rfl, hex, if_neg (by change x ≠ 2 ^ 8 - 1; omega), Fmt.num, hex, if_neg (by omega), hmant, hlsb]
    exact congrArg (FV.fin · q _) hbit
  · rw [isNormal32, hnat, hexp]
    simp
    omega

/-! ### Relative bounds -/

/-- `r` is within `2^-p` of the positive number `y`, relatively. -/
def Within (p : Nat) (r y : ℝ) : Prop := |r - y| ≤ y / 2 ^ p

theorem Within.weaken {p q : Nat} {r y : ℝ} (h : Within p r y) (hy : 0 ≤ y) (hqp : q ≤ p) : Within q r y :=
  le_trans h (div_le_div_of_nonneg_left hy (by positivity) (pow_le_pow_right₀ one_le_two hqp))

theorem Within.nonneg {p : Nat} {r y : ℝ} (h : Within p r y) (hy : 0 ≤ y) : 0 ≤ r := by
  have hle : y / 2 ^ p ≤ y := div_le_self hy (one_le_pow₀ one_le_two)
  have := (abs_le.1 (show |r - y| ≤ y / 2 ^ p from h)).1
  linarith

/-- Half of a bound and a quarter of it make no more than the bound. -/
theorem Within.trans {p q r : Nat} {a b c : ℝ} (hab : Within q a b) (hbc : Within r b c) (hc : 0 ≤ c) (hq : p + 1 ≤ q) (hr : p + 2 ≤ r) :
    Within p a c := by
  have hab := hab.weaken (hbc.nonneg hc) hq
  have hbc := hbc.weaken hc hr
  unfold Within at *
  have h1 : b / 2 ^ (p + 1) = b / 2 ^ p / 2 := by rw [pow_succ]; field_simp
  have h2 : c / 2 ^ (p + 2) = c / 2 ^ p / 4 := by rw [pow_add]; field_simp; norm_num
  have hle : c / 2 ^ p ≤ c := div_le_self hc (one_le_pow₀ one_le_two)
  have hb : b / 2 ^ p ≤ (5 / 4 * c) / 2 ^ p := by
    gcongr
    linarith [le_abs_self (b - c)]
  have hb' : (5 / 4 * c) / 2 ^ p = 5 / 4 * (c / 2 ^ p) := by ring
  have hnn : 0 ≤ c / 2 ^ p := by positivity
  linarith [abs_sub_le a b c]

theorem Within.inv {p : Nat} {b c : ℝ} (h : Within (p + 1) b c) (hc : 0 < c) : Within p b⁻¹ c⁻¹ := by
  unfold Within at *
  have hp : (1 : ℝ) ≤ 2 ^ p := one_le_pow₀ one_le_two
  have h1 : c / 2 ^ (p + 1) = c / 2 ^ p / 2 := by rw [pow_succ]; field_simp
  have hle : c / 2 ^ p ≤ c := div_le_self hc.le hp
  have hb : c / 2 ≤ b := by linarith [neg_abs_le (b - c)]
  have hb0 : 0 < b := by linarith
  have hdiff : b⁻¹ - c⁻¹ = (c - b) / (b * c) := by field_simp
  rw [hdiff, abs_div, abs_sub_comm, abs_of_pos (mul_pos hb0 hc), div_le_iff₀ (mul_pos hb0 hc)]
  calc |b - c| ≤ c / 2 / 2 ^ p := by rw [h1] at h; linarith [show c / 2 / 2 ^ p = c / 2 ^ p / 2 by ring]
    _ ≤ b / 2 ^ p := by gcongr
    _ = c⁻¹ / 2 ^ p * (b * c) := by field_simp

theorem two_pow_bitLen_le {m : Nat} (hm : m ≠ 0) : 2 ^ bitLen m ≤ 2 * m := by
  rw [bitLen, if_neg hm, Nat.pow_succ, Nat.mul_comm]
  exact Nat.mul_le_mul_left 2 (Nat.log2_self_le hm)

/-! ### Rounding to a normal FP32 number (R134) -/

/-- The exponent of the last of the 24 bits of a magnitude. -/
def topOf (m : Nat) (e : Int) : Int := e + (bitLen m : Int) - 24

theorem scaled_topOf (m : Nat) (e : Int) : (m : ℝ) * 2 ^ (e - topOf m e) * 2 ^ topOf m e = m * 2 ^ e := by
  rw [mul_assoc, ← zpow_add₀ two_ne_zero, Int.sub_add_cancel]

/-- In units of its last place a magnitude has 24 bits. -/
theorem scaled_bounds {m : Nat} (hm : m ≠ 0) (e : Int) : (2 : ℝ) ^ 23 ≤ m * 2 ^ (e - topOf m e) ∧ (m : ℝ) * 2 ^ (e - topOf m e) < 2 ^ 24 := by
  have hlt : (m : ℝ) < 2 ^ (bitLen m : ℤ) := by exact_mod_cast lt_two_pow_bitLen m
  have hle : (2 : ℝ) ^ (bitLen m : ℤ) ≤ 2 * m := by exact_mod_cast two_pow_bitLen_le hm
  have hexp : (2 : ℝ) ^ (bitLen m : ℤ) * 2 ^ (e - topOf m e) = 2 ^ 24 := by
    rw [← zpow_add₀ two_ne_zero, topOf, show (bitLen m : ℤ) + (e - (e + bitLen m - 24)) = (24 : ℕ) by omega, zpow_natCast]
  have hpos : (0 : ℝ) < 2 ^ (e - topOf m e) := by positivity
  refine ⟨?_, by rw [← hexp]; gcongr⟩
  have := mul_le_mul_of_nonneg_right hle hpos.le
  rw [hexp] at this
  linarith

theorem zpow_two_lt {x y : Int} (h : (2 : ℝ) ^ x < 2 ^ y) : x < y := (zpow_lt_zpow_iff_right₀ one_lt_two).1 h

/-- In the range of normal numbers the last place is one of theirs. -/
theorem topOf_bounds {m : Nat} {e : Int} (hm : m ≠ 0) (hl : (2 : ℝ) ^ (-126 : ℤ) ≤ m * 2 ^ e) (hu : (m : ℝ) * 2 ^ e < 2 ^ (128 : ℤ)) :
    -149 ≤ topOf m e ∧ topOf m e ≤ 104 := by
  obtain ⟨hXl, hXu⟩ := scaled_bounds hm e
  rw [← scaled_topOf] at hl hu
  have hlow : (2 : ℝ) ^ (-126 : ℤ) < 2 ^ (24 + topOf m e) := by
    rw [zpow_add₀ two_ne_zero]
    exact hl.trans_lt (by gcongr; exact_mod_cast hXu)
  have hhigh : (2 : ℝ) ^ (23 + topOf m e) < 2 ^ (128 : ℤ) := by
    rw [zpow_add₀ two_ne_zero]
    exact lt_of_le_of_lt (by gcongr; exact_mod_cast hXl) hu
  have := zpow_two_lt hlow
  have := zpow_two_lt hhigh
  omega

/-- A magnitude that rounding takes to `q` in units of its last place, within FP32: the encoding stands for it, and is normal. -/
theorem toF32_fin (n : Bool) {m q : Nat} {e : Int} (hm : m ≠ 0) (ht : -149 ≤ topOf m e) (hq : (roundTo .rne n m e (topOf m e)).1 = q)
    (hl : 2 ^ 23 ≤ q) (hu : q ≤ 2 ^ 24) (hfit : (q : ℝ) * 2 ^ topOf m e ≤ (2 ^ 24 - 1) * 2 ^ (104 : ℤ)) :
    ∃ q' x, f32 (toF32 (.fin n m e)).1 = .fin n q' x ∧ isNormal32 (toF32 (.fin n m e)).1 = true ∧
      (q' : ℝ) * 2 ^ x = q * 2 ^ topOf m e := by
  have hmax : ((fp32.maxM : ℕ) : ℝ) * 2 ^ fp32.maxE = (2 ^ 24 - 1) * 2 ^ (104 : ℤ) := by norm_num [fp32]
  have hcode := Fmt.round_code (f := fp32) (e := e) (le := topOf m e) hm .rne n (max_eq_left ht)
    (by rw [hq, magLt_eq_false_iff, hmax]; exact hfit)
  have hto : (toF32 (.fin n m e)).1 = BitVec.ofNat 32 (fp32.round .rne .toInf n m e).1 := rfl
  have hlow : (2 : ℝ) ^ (23 : ℤ) * 2 ^ topOf m e ≤ q * 2 ^ topOf m e := by gcongr; exact_mod_cast hl
  have hhigh : ((2 : ℝ) ^ 24 - 1) * 2 ^ (104 : ℤ) < 2 ^ (128 : ℤ) := by norm_num
  rw [hto, hcode, hq]
  rcases Nat.lt_or_eq_of_le hu with hlt | rfl
  · have hlt' : (2 : ℝ) ^ (23 + topOf m e) < 2 ^ (128 : ℤ) := by
      rw [zpow_add₀ two_ne_zero]
      linarith
    have := zpow_two_lt hlt'
    obtain ⟨hf, hn⟩ := f32_codeOf n hl hlt ht (by omega)
    rw [if_neg (by change q ≠ 2 ^ 24; omega)]
    exact ⟨q, _, hf, hn, rfl⟩
  · have hlt' : (2 : ℝ) ^ (24 + topOf m e) < 2 ^ (128 : ℤ) := by
      rw [zpow_add₀ two_ne_zero]
      exact lt_of_le_of_lt (by exact_mod_cast hfit) hhigh
    have := zpow_two_lt hlt'
    obtain ⟨hf, hn⟩ := f32_codeOf n (q := 2 ^ 23) (e := topOf m e + 1) (by decide) (by decide) (by omega) (by omega)
    rw [if_pos (show 2 ^ 24 = 2 ^ (fp32.mw + 1) from rfl)]
    refine ⟨2 ^ 23, topOf m e + 1, hf, hn, ?_⟩
    rw [zpow_add₀ two_ne_zero]
    push_cast
    ring

/-- A value in the range of the normal FP32 numbers rounds to one of them, within a unit of its last place. -/
theorem toF32_within (n : Bool) {m : Nat} {e : Int} (hm : m ≠ 0) (hl : (2 : ℝ) ^ (-126 : ℤ) ≤ m * 2 ^ e)
    (hu : (m : ℝ) * 2 ^ e ≤ (2 ^ 24 - 1) * 2 ^ (104 : ℤ)) :
    ∃ q x, f32 (toF32 (.fin n m e)).1 = .fin n q x ∧ isNormal32 (toF32 (.fin n m e)).1 = true ∧
      Within 23 ((q : ℝ) * 2 ^ x) (m * 2 ^ e) := by
  obtain ⟨htl, htu⟩ := topOf_bounds hm hl (hu.trans_lt (by norm_num))
  obtain ⟨hXl, hXu⟩ := scaled_bounds hm e
  obtain ⟨hql, hqu⟩ := roundTo_between .rne n m e (topOf m e)
  have ht : (0 : ℝ) < 2 ^ topOf m e := by positivity
  have hval := scaled_topOf m e
  generalize (m : ℝ) * 2 ^ (e - topOf m e) = X at *
  generalize hq : (roundTo .rne n m e (topOf m e)).1 = q at hql hqu
  have hfit : (q : ℝ) * 2 ^ topOf m e ≤ (2 ^ 24 - 1) * 2 ^ (104 : ℤ) := by
    -- the largest number is a whole number of units
    have hmax : ((2 : ℝ) ^ 24 - 1) * 2 ^ (104 : ℤ) = ((2 ^ 24 - 1) * 2 ^ (104 - topOf m e).toNat : ℕ) * 2 ^ topOf m e := by
      rw [Nat.cast_mul, mul_assoc, Nat.cast_pow, Nat.cast_ofNat, zpow_sub_toNat htu]
      norm_num
    rw [hmax] at hu ⊢
    rw [← hval, mul_le_mul_iff_left₀ ht] at hu
    rw [mul_le_mul_iff_left₀ ht, Nat.cast_le]
    exact hqu.trans (Nat.ceil_le.2 hu)
  obtain ⟨q', x, hf, hn, hv⟩ := toF32_fin n hm htl hq (le_trans (Nat.le_floor (by exact_mod_cast hXl)) hql)
    (hqu.trans (Nat.ceil_le.2 (by exact_mod_cast hXu.le))) hfit
  refine ⟨q', x, hf, hn, ?_⟩
  have h1 : (q : ℝ) < X + 1 := lt_of_le_of_lt (by exact_mod_cast hqu) (Nat.ceil_lt_add_one (by linarith))
  have h2 : X < q + 1 := lt_of_lt_of_le (Nat.lt_floor_add_one X) (by exact_mod_cast Nat.succ_le_succ hql)
  have habs : |(q : ℝ) - X| ≤ X / 2 ^ 23 := abs_le.2 ⟨by linarith, by linarith⟩
  rw [Within, hv, ← hval, ← sub_mul, abs_mul, abs_of_pos ht, mul_div_right_comm]
  gcongr

end Sys2Proof.Machine
end

section
/-! SUPPORT. The three estimates of the long-vector unit (R156). -/

namespace Sys2Proof.Machine

/-! ### Estimates (R156) -/

/-- The bound of R156: `r` is finite and within `2^-12` of `y`, relatively. -/
def Near (r : BitVec 32) (y : ℝ) : Prop := ∃ n m e, f32 r = .fin n m e ∧ |fvReal n m e - y| ≤ |y| / 2 ^ 12

theorem near_of_within {r : BitVec 32} {n : Bool} {m : Nat} {e : Int} (hr : f32 r = .fin n m e) {v : ℝ} (hv : 0 ≤ v)
    (h : Within 12 (m * 2 ^ e) v) : Near r (if n then -v else v) := by
  refine ⟨n, m, e, hr, ?_⟩
  rw [fvReal_eq]
  unfold Within at h
  cases n
  · simpa [abs_of_nonneg hv] using h
  · rw [if_pos rfl, if_pos rfl, neg_sub_neg, abs_sub_comm, abs_neg, abs_of_nonneg hv]
    exact h

/-- The numbers that FP32 encodings stand for. -/
theorem f32_fin {a : BitVec 32} {n : Bool} {m : Nat} {e : Int} (h : f32 a = .fin n m e) : -149 ≤ e ∧ e ≤ 104 ∧ m < 2 ^ 24 := by
  have hexp : fp32.expOf a.toNat < 256 := Fmt.expOf_lt (by decide)
  have hm : a.toNat % 2 ^ 23 < 2 ^ 23 := Nat.mod_lt _ (by decide)
  have hlsb : fp32.lsb = -149 := rfl
  have hmw : fp32.mw = 23 := rfl
  rw [f32, Fmt.decode_ieee rfl] at h
  split at h
  · split at h <;> cases h
  · next htop =>
    change fp32.expOf a.toNat ≠ 255 at htop
    simp only [Fmt.num, hmw, hlsb] at h
    split at h <;> cases h <;> omega

theorem estimate_of {P : BitVec 32 → Prop} {normal ok : Bool} {cand r : BitVec 32} (hn : normal = true) (hr : P r) (hc : ok = true → P cand) :
    P (estimate normal ok cand r) := by
  rw [estimate, hn]
  cases ok
  · exact hr
  · exact hc rfl

theorem nearQuot_iff {m n d : Nat} {e x y : Int} : nearQuot m e n x d y = true ↔
    |(m : ℝ) * 2 ^ e * (d * 2 ^ y) - n * 2 ^ x| ≤ n * 2 ^ x / 2 ^ 12 := by
  obtain ⟨lo, hlo⟩ : ∃ lo, lo = min (e + y) x := ⟨_, rfl⟩
  have hpos : (0 : ℝ) < 2 ^ lo := by positivity
  have ha : ((m * d * 2 ^ (e + y - lo).toNat : ℕ) : ℝ) * 2 ^ lo = m * 2 ^ e * (d * 2 ^ y) := by
    push_cast
    rw [mul_assoc, zpow_sub_toNat (by omega), zpow_add₀ two_ne_zero]
    ring
  have hb : ((n * 2 ^ (x - lo).toNat : ℕ) : ℝ) * 2 ^ lo = n * 2 ^ x := by
    push_cast
    rw [mul_assoc, zpow_sub_toNat (by omega)]
  rw [nearQuot, ← hlo, ← ha, ← hb]
  generalize m * d * 2 ^ (e + y - lo).toNat = a
  generalize n * 2 ^ (x - lo).toNat = b
  rw [← sub_mul, abs_mul, abs_of_pos hpos, mul_div_right_comm, mul_le_mul_iff_left₀ hpos, le_div_iff₀ (by positivity), decide_eq_true_eq]
  have hdist : |(a : ℝ) - b| = ((if a ≤ b then b - a else a - b : ℕ) : ℝ) := by
    split
    · next h => rw [abs_sub_comm, Nat.cast_sub h, abs_of_nonneg (sub_nonneg.2 (Nat.cast_le.2 h))]
    · next h =>
      have h := Nat.le_of_not_le h
      rw [Nat.cast_sub h, abs_of_nonneg (sub_nonneg.2 (Nat.cast_le.2 h))]
  rw [hdist]
  norm_cast

/-- A candidate whose product with `v` is near 1 is near its reciprocal. -/
theorem within_inv_of_mul_near {c v : ℝ} (hv : 0 < v) (h : |c * v - 1| ≤ 1 / 2 ^ 12) : Within 12 c v⁻¹ := by
  have hdiff : c - v⁻¹ = (c * v - 1) * v⁻¹ := by field_simp
  rw [Within, hdiff, abs_mul, abs_of_pos (inv_pos.2 hv), div_eq_mul_one_div, mul_comm]
  gcongr

/-! ### VFRCPE -/

/-- The quotient of 1 and `m` with its sticky bit, in units of 2 to the minus `65 + bitLen m`. -/
def recipNum (m : Nat) : Nat := 2 * (2 ^ (64 + bitLen m) / m) + b2n (decide (2 ^ (64 + bitLen m) % m ≠ 0))

theorem div_one (n : Bool) {m : Nat} (hm : m ≠ 0) (e : Int) :
    (FV.div (.fin n 1 0) (.fin false m e)).1 = .fin n (recipNum m) (-e - ↑(64 + bitLen m) - 1) := by
  simp [FV.div, hm, recipNum]

section
variable {m : Nat}

theorem recipNum_le_two_mul {T : Nat} (h : 2 ^ (64 + bitLen m) ≤ T * m) : recipNum m ≤ 2 * T := by
  have hdiv := Nat.div_add_mod (2 ^ (64 + bitLen m)) m
  have hle := Nat.div_le_of_le_mul (Nat.mul_comm T m ▸ h)
  unfold recipNum
  by_cases h0 : 2 ^ (64 + bitLen m) % m = 0
  · simpa [h0, b2n] using hle
  · have hlt : 2 ^ (64 + bitLen m) / m < T := Nat.lt_of_mul_lt_mul_left (a := m) (by rw [Nat.mul_comm m T]; omega)
    simp [h0, b2n]
    omega

variable (hm : m ≠ 0)
include hm

theorem two_mul_le_recipNum {T : Nat} (h : T * m ≤ 2 ^ (64 + bitLen m)) : 2 * T ≤ recipNum m := by
  have := (Nat.le_div_iff_mul_le (Nat.pos_of_ne_zero hm)).2 h
  unfold recipNum
  omega
omit hm in
theorem lt_two_pow_recipNum : m < 2 ^ (64 + bitLen m) :=
  (lt_two_pow_bitLen m).trans_le (Nat.pow_le_pow_right two_pos (Nat.le_add_left _ _))
theorem recipNum_ne_zero : recipNum m ≠ 0 := by
  have := two_mul_le_recipNum hm (T := 1) (by rw [Nat.one_mul]; exact lt_two_pow_recipNum.le)
  omega
theorem recipNum_near : |(recipNum m : ℝ) - 2 * (2 ^ (64 + bitLen m) / m)| ≤ 1 := by
  have hm0 : (0 : ℝ) < m := by exact_mod_cast Nat.pos_of_ne_zero hm
  have hdiv : (m : ℝ) * (2 ^ (64 + bitLen m) / m : ℕ) + (2 ^ (64 + bitLen m) % m : ℕ) = 2 ^ (64 + bitLen m) := by
    exact_mod_cast Nat.div_add_mod (2 ^ (64 + bitLen m)) m
  have hmod : ((2 ^ (64 + bitLen m) % m : ℕ) : ℝ) < m := by exact_mod_cast Nat.mod_lt _ (Nat.pos_of_ne_zero hm)
  have hmod0 : (0 : ℝ) ≤ (2 ^ (64 + bitLen m) % m : ℕ) := Nat.cast_nonneg _
  have hq : (2 : ℝ) ^ (64 + bitLen m) / m = (2 ^ (64 + bitLen m) / m : ℕ) + (2 ^ (64 + bitLen m) % m : ℕ) / m := by
    rw [← hdiv]
    field_simp
  have hfrac : ((2 ^ (64 + bitLen m) % m : ℕ) : ℝ) / m < 1 := (div_lt_one hm0).2 hmod
  have hfrac0 : (0 : ℝ) ≤ (2 ^ (64 + bitLen m) % m : ℕ) / m := by positivity
  rw [hq, recipNum]
  by_cases h0 : 2 ^ (64 + bitLen m) % m = 0
  · simp [h0, b2n]
  · simp only [ne_eq, h0, not_false_eq_true, decide_true, b2n, if_true]
    push_cast
    rw [abs_le]
    constructor <;> linarith

theorem recipNum_unit (e : Int) : (2 : ℝ) ^ (-e - ↑(64 + bitLen m) : ℤ) * (2 ^ (64 + bitLen m) / m) = ((m : ℝ) * 2 ^ e)⁻¹ := by
  rw [zpow_sub₀ two_ne_zero, zpow_neg, zpow_natCast]
  field_simp
omit hm in
theorem recipNum_half_unit (e : Int) : (2 : ℝ) ^ (-e - ↑(64 + bitLen m) - 1 : ℤ) = 2 ^ (-e - ↑(64 + bitLen m) : ℤ) / 2 := by
  rw [zpow_sub_one₀ two_ne_zero, div_eq_mul_inv]

/-- The sticky quotient is within `2^-65` of the reciprocal. -/
theorem recipNum_within (e : Int) : Within 65 (recipNum m * 2 ^ (-e - ↑(64 + bitLen m) - 1 : ℤ)) ((m : ℝ) * 2 ^ e)⁻¹ := by
  have hm0 : (0 : ℝ) < m := by exact_mod_cast Nat.pos_of_ne_zero hm
  have hbig : (2 : ℝ) ^ 64 ≤ 2 ^ (64 + bitLen m) / m := by
    rw [le_div_iff₀ hm0, pow_add]
    gcongr
    exact_mod_cast (lt_two_pow_bitLen m).le
  have hnear : |(recipNum m : ℝ) - 2 * (2 ^ (64 + bitLen m) / m)| ≤ 2 * (2 ^ (64 + bitLen m) / m) / 2 ^ 65 :=
    (recipNum_near hm).trans (by rw [le_div_iff₀ (by positivity)]; linarith)
  have hinv : ((m : ℝ) * 2 ^ e)⁻¹ = 2 * (2 ^ (64 + bitLen m) / m) * 2 ^ (-e - ↑(64 + bitLen m) - 1 : ℤ) := by
    rw [← recipNum_unit hm, recipNum_half_unit]
    ring
  have hpos : (0 : ℝ) < 2 ^ (-e - ↑(64 + bitLen m) - 1 : ℤ) := by positivity
  rw [Within, hinv, ← sub_mul, abs_mul, abs_of_pos hpos, mul_div_right_comm]
  gcongr

/-- A whole number of units that the reciprocal does not go below, or above, its sticky quotient does not either. -/
theorem units_le_recipNum {T : Nat} {e : Int} (h : (T : ℝ) * 2 ^ (-e - ↑(64 + bitLen m) : ℤ) ≤ ((m : ℝ) * 2 ^ e)⁻¹) :
    (T : ℝ) * 2 ^ (-e - ↑(64 + bitLen m) : ℤ) ≤ recipNum m * 2 ^ (-e - ↑(64 + bitLen m) - 1 : ℤ) := by
  have hm0 : (0 : ℝ) < m := by exact_mod_cast Nat.pos_of_ne_zero hm
  rw [← recipNum_unit hm, mul_comm (T : ℝ), mul_le_mul_iff_right₀ (by positivity), le_div_iff₀ hm0] at h
  have hT : ((2 * T : ℕ) : ℝ) ≤ recipNum m := Nat.cast_le.2 (two_mul_le_recipNum hm (by exact_mod_cast h))
  rw [recipNum_half_unit, mul_div_assoc', le_div_iff₀ two_pos, mul_right_comm]
  gcongr
  rw [mul_comm]
  exact_mod_cast hT
theorem recipNum_le_units {T : Nat} {e : Int} (h : ((m : ℝ) * 2 ^ e)⁻¹ ≤ T * 2 ^ (-e - ↑(64 + bitLen m) : ℤ)) :
    (recipNum m : ℝ) * 2 ^ (-e - ↑(64 + bitLen m) - 1 : ℤ) ≤ T * 2 ^ (-e - ↑(64 + bitLen m) : ℤ) := by
  have hm0 : (0 : ℝ) < m := by exact_mod_cast Nat.pos_of_ne_zero hm
  rw [← recipNum_unit hm, mul_comm (T : ℝ), mul_le_mul_iff_right₀ (by positivity), div_le_iff₀ hm0] at h
  have hT : (recipNum m : ℝ) ≤ (2 * T : ℕ) := Nat.cast_le.2 (recipNum_le_two_mul (by exact_mod_cast h))
  rw [recipNum_half_unit, mul_div_assoc', div_le_iff₀ two_pos, mul_right_comm]
  gcongr
  rw [mul_comm]
  exact_mod_cast hT

/-- A normal reciprocal stays in the range of normal numbers with its sticky bit. -/
theorem recipNum_range {e : Int} (he : -149 ≤ e) (hl : (2 : ℝ) ^ (-126 : ℤ) ≤ ((m : ℝ) * 2 ^ e)⁻¹)
    (hu : ((m : ℝ) * 2 ^ e)⁻¹ ≤ (2 ^ 24 - 1) * 2 ^ (104 : ℤ)) :
    (2 : ℝ) ^ (-126 : ℤ) ≤ recipNum m * 2 ^ (-e - ↑(64 + bitLen m) - 1 : ℤ) ∧
      (recipNum m : ℝ) * 2 ^ (-e - ↑(64 + bitLen m) - 1 : ℤ) ≤ (2 ^ 24 - 1) * 2 ^ (104 : ℤ) := by
  constructor
  · rcases le_total 126 (e + ↑(64 + bitLen m)) with h | h
    · have hT : (2 : ℝ) ^ (-126 : ℤ) = (2 ^ (-126 - (-e - ↑(64 + bitLen m)) : ℤ).toNat : ℕ) * 2 ^ (-e - ↑(64 + bitLen m) : ℤ) := by
        rw [Nat.cast_pow, Nat.cast_ofNat, zpow_sub_toNat (by omega)]
      rw [hT] at hl ⊢
      exact units_le_recipNum hm hl
    · have hone : ((1 : ℕ) : ℝ) * 2 ^ (-e - ↑(64 + bitLen m) : ℤ) ≤ ((m : ℝ) * 2 ^ e)⁻¹ := by
        have hm0 : (0 : ℝ) < m := by exact_mod_cast Nat.pos_of_ne_zero hm
        have hle : (m : ℝ) ≤ 2 ^ (64 + bitLen m) := by exact_mod_cast lt_two_pow_recipNum.le
        rw [← recipNum_unit hm, mul_comm, Nat.cast_one]
        gcongr
        rwa [one_le_div hm0]
      have hge := units_le_recipNum hm hone
      rw [Nat.cast_one, one_mul] at hge
      exact (zpow_le_zpow_right₀ one_le_two (by omega)).trans hge
  · have hT : ((2 : ℝ) ^ 24 - 1) * 2 ^ (104 : ℤ) =
        ((2 ^ 24 - 1) * 2 ^ (104 - (-e - ↑(64 + bitLen m)) : ℤ).toNat : ℕ) * 2 ^ (-e - ↑(64 + bitLen m) : ℤ) := by
      rw [Nat.cast_mul, mul_assoc, Nat.cast_pow, Nat.cast_ofNat, zpow_sub_toNat (by omega)]
      norm_num
    rw [hT] at hu ⊢
    exact recipNum_le_units hm hu
end

theorem rcpE_near {a : BitVec 32} {n : Bool} {m : Nat} {e : Int} (h : f32 a = .fin n m e) (hm : m ≠ 0)
    (hl : (2 : ℝ) ^ (-126 : ℤ) ≤ |(fvReal n m e)⁻¹|) (hu : |(fvReal n m e)⁻¹| ≤ (2 ^ 24 - 1) * 2 ^ (104 : ℤ)) :
    Near (rcpE a).1 (fvReal n m e)⁻¹ := by
  have hm0 : (0 : ℝ) < m := by exact_mod_cast Nat.pos_of_ne_zero hm
  have hv : (0 : ℝ) < m * 2 ^ e := by positivity
  rw [abs_inv, abs_fvReal] at hl hu
  have hsign : (fvReal n m e)⁻¹ = if n then -((m : ℝ) * 2 ^ e)⁻¹ else ((m : ℝ) * 2 ^ e)⁻¹ := by
    rw [fvReal_eq, apply_ite Inv.inv, inv_neg]
  obtain ⟨hdl, hdu⟩ := recipNum_range hm (f32_fin h).1 hl hu
  obtain ⟨q, x, hq, hnormal, hw⟩ := toF32_within n (recipNum_ne_zero hm) hdl hdu
  have hw : Within 12 (q * 2 ^ x) ((m : ℝ) * 2 ^ e)⁻¹ := hw.trans (recipNum_within hm e) (by positivity) (by decide) (by decide)
  rw [rcpE, h, hsign]
  simp only [hm, if_false, div_one n hm]
  refine estimate_of (P := fun r => Near r _) hnormal (near_of_within hq (by positivity) hw) fun hok => ?_
  split at hok
  · next n' m' e' hc =>
    rw [Bool.and_eq_true, beq_iff_eq, nearQuot_iff] at hok
    obtain ⟨rfl, hok⟩ := hok
    simp only [Nat.cast_one, zpow_zero, mul_one] at hok
    exact near_of_within hc (by positivity) (within_inv_of_mul_near hv hok)
  · cases hok

/-! ### VFRSQE -/

/-- The number under the root, with an even exponent, in units of `2^-64`. -/
def rootArg (m : Nat) (e : Int) : Nat := (if e % 2 = 0 then m else 2 * m) * 2 ^ 64
/-- The root with its sticky bit. -/
def rootNum (m : Nat) (e : Int) : Nat := 2 * Nat.sqrt (rootArg m e) + b2n (decide (Nat.sqrt (rootArg m e) * Nat.sqrt (rootArg m e) ≠ rootArg m e))
/-- The exponent of the root. -/
def rootExp (e : Int) : Int := e / 2 - 32 - 1

section
variable {m : Nat} (hm : m ≠ 0)
include hm

theorem sqrt_fin (e : Int) : FV.sqrt (.fin false m e) = (.fin false (rootNum m e) (rootExp e), 0) := by
  have hexp : (if e % 2 = 0 then e else e - 1) / 2 = e / 2 := by split <;> omega
  simp only [FV.sqrt, hm, if_false, Bool.false_eq_true, isqrt_eq_sqrt, rootNum, rootArg, rootExp, ← hexp]
  split <;> rfl

theorem rootArg_large (e : Int) : 2 ^ 64 ≤ rootArg m e := by
  unfold rootArg
  split <;> omega

theorem rootNum_ne_zero (e : Int) : rootNum m e ≠ 0 := by
  have hs : 1 ≤ Nat.sqrt (rootArg m e) := Nat.le_sqrt.2 (le_trans (by norm_num) (rootArg_large hm e))
  unfold rootNum
  omega

omit hm in
theorem rootNum_near (e : Int) : |(rootNum m e : ℝ) - 2 * √(rootArg m e)| ≤ 1 := by
  have hle := Real.nat_sqrt_le_real_sqrt (a := rootArg m e)
  have hlt := Real.real_sqrt_lt_nat_sqrt_succ (a := rootArg m e)
  unfold rootNum
  by_cases h : Nat.sqrt (rootArg m e) * Nat.sqrt (rootArg m e) = rootArg m e
  · have hs : √(rootArg m e : ℝ) = Nat.sqrt (rootArg m e) := by
      conv_lhs => rw [← h]
      rw [Nat.cast_mul, Real.sqrt_mul_self (Nat.cast_nonneg _)]
    simp [h, b2n, hs]
  · simp only [ne_eq, h, not_false_eq_true, decide_true, b2n, if_true]
    push_cast
    rw [abs_le]
    constructor <;> linarith

omit hm in
theorem sqrt_eq_rootArg (e : Int) : √((m : ℝ) * 2 ^ e) = 2 * √(rootArg m e) * 2 ^ rootExp e := by
  have harg : (rootArg m e : ℝ) * (2 * 2 ^ rootExp e) ^ 2 = m * 2 ^ e := by
    unfold rootArg rootExp
    rw [← zpow_one_add₀ two_ne_zero, ← zpow_natCast, ← zpow_mul]
    split
    · next h =>
      rw [show (1 + (e / 2 - 32 - 1)) * (2 : ℕ) = e + -(64 : ℕ) by omega, zpow_add₀ two_ne_zero, zpow_neg, zpow_natCast]
      push_cast
      field_simp
      norm_num
    · next h =>
      rw [show (1 + (e / 2 - 32 - 1)) * (2 : ℕ) = e + -(64 : ℕ) + -1 by omega, zpow_add₀ two_ne_zero, zpow_add₀ two_ne_zero, zpow_neg, zpow_natCast,
        zpow_neg_one]
      push_cast
      field_simp
      norm_num
      ring
  rw [← harg, Real.sqrt_mul (Nat.cast_nonneg _), Real.sqrt_sq (by positivity)]
  ring

/-- The sticky root is within `2^-33` of the root. -/
theorem rootNum_within (e : Int) : Within 33 (rootNum m e * 2 ^ rootExp e) √((m : ℝ) * 2 ^ e) := by
  have hbig : (2 : ℝ) ^ 32 ≤ √(rootArg m e) := by
    refine Real.le_sqrt_of_sq_le ?_
    rw [← pow_mul]
    exact_mod_cast rootArg_large hm e
  have hnear : |(rootNum m e : ℝ) - 2 * √(rootArg m e)| ≤ 2 * √(rootArg m e) / 2 ^ 33 :=
    (rootNum_near e).trans (by rw [le_div_iff₀ (by positivity)]; linarith)
  have hpos : (0 : ℝ) < 2 ^ rootExp e := by positivity
  rw [Within, sqrt_eq_rootArg, ← sub_mul, abs_mul, abs_of_pos hpos, mul_div_right_comm]
  gcongr

/-- The root of an FP32 number is far from the ends of its range. -/
theorem sqrt_range {e : Int} (he : -149 ≤ e) (he' : e ≤ 104) (hu : m < 2 ^ 24) :
    (2 : ℝ) ^ (-75 : ℤ) ≤ √((m : ℝ) * 2 ^ e) ∧ √((m : ℝ) * 2 ^ e) ≤ 2 ^ (64 : ℤ) := by
  constructor
  · refine Real.le_sqrt_of_sq_le ?_
    calc ((2 : ℝ) ^ (-75 : ℤ)) ^ 2 ≤ 1 * 2 ^ (-149 : ℤ) := by norm_num
      _ ≤ m * 2 ^ e := by
        gcongr
        · exact_mod_cast Nat.one_le_iff_ne_zero.2 hm
        · exact one_le_two
  · refine Real.sqrt_le_iff.2 ⟨by positivity, ?_⟩
    calc (m : ℝ) * 2 ^ e ≤ 2 ^ 24 * 2 ^ (104 : ℤ) := by
          gcongr
          · exact_mod_cast hu.le
          · exact one_le_two
      _ ≤ (2 ^ (64 : ℤ)) ^ 2 := by norm_num

end

/-- What lies near the reciprocal root of an FP32 number is in the range of normal numbers. -/
theorem range_of_within_rsqrt {D z : ℝ} (hD : Within 30 D z⁻¹) (hl : (2 : ℝ) ^ (-75 : ℤ) ≤ z) (hu : z ≤ 2 ^ (64 : ℤ)) :
    (2 : ℝ) ^ (-126 : ℤ) ≤ D ∧ D ≤ (2 ^ 24 - 1) * 2 ^ (104 : ℤ) := by
  have hz : 0 < z := lt_of_lt_of_le (by positivity) hl
  have hinv : z⁻¹ ≤ 2 ^ (75 : ℤ) := by rw [inv_le_comm₀ hz (by positivity), ← zpow_neg]; exact hl
  have hinv' : (2 : ℝ) ^ (-64 : ℤ) ≤ z⁻¹ := by rw [le_inv_comm₀ (by positivity) hz, ← zpow_neg]; exact hu
  have hD := abs_le.1 (show |D - z⁻¹| ≤ z⁻¹ / 2 ^ 30 from hD)
  have hsmall : z⁻¹ / 2 ^ 30 ≤ z⁻¹ / 2 := by gcongr; norm_num
  constructor
  · calc (2 : ℝ) ^ (-126 : ℤ) ≤ 2 ^ (-64 : ℤ) / 2 := by norm_num
      _ ≤ z⁻¹ / 2 := by gcongr
      _ ≤ D := by linarith [hD.1]
  · calc D ≤ 2 * z⁻¹ := by linarith [hD.2]
      _ ≤ 2 * 2 ^ (75 : ℤ) := by gcongr
      _ ≤ (2 ^ 24 - 1) * 2 ^ (104 : ℤ) := by norm_num

/-- A candidate whose product with the root has its square near 1 is near the reciprocal root. -/
theorem within_of_sq {c v : ℝ} (hc : 0 ≤ c) (hv : 0 < v) (hl : 4095 ^ 2 ≤ c ^ 2 * v * 2 ^ 24) (hu : c ^ 2 * v * 2 ^ 24 ≤ 4097 ^ 2) :
    Within 12 c (√v)⁻¹ := by
  have hz : 0 < √v := Real.sqrt_pos.2 hv
  have hsq : c ^ 2 * v * 2 ^ 24 = (c * √v * 4096) ^ 2 := by rw [mul_pow, mul_pow, Real.sq_sqrt hv.le]; norm_num
  rw [hsq] at hl hu
  have hl := (pow_le_pow_iff_left₀ (by norm_num) (by positivity) two_ne_zero).1 hl
  have hu := (pow_le_pow_iff_left₀ (by positivity) (by norm_num) two_ne_zero).1 hu
  exact within_inv_of_mul_near hz (abs_le.2 ⟨by linarith, by linarith⟩)

/-- The check of a candidate `m' * 2^e'` for the reciprocal root of `m * 2^e`. -/
theorem within_of_rsqrt_ok {m m' : Nat} {e e' : Int} (hm : m ≠ 0)
    (hl : magLt (m' * m' * m * 2 ^ 24) (2 * e' + e) (4095 * 4095) 0 = false)
    (hu : magLt (4097 * 4097) 0 (m' * m' * m * 2 ^ 24) (2 * e' + e) = false) : Within 12 ((m' : ℝ) * 2 ^ e') (√((m : ℝ) * 2 ^ e))⁻¹ := by
  have hm0 : (0 : ℝ) < m := by exact_mod_cast Nat.pos_of_ne_zero hm
  rw [magLt_eq_false_iff] at hl hu
  have hval : ((m' * m' * m * 2 ^ 24 : ℕ) : ℝ) * 2 ^ (2 * e' + e) = ((m' : ℝ) * 2 ^ e') ^ 2 * ((m : ℝ) * 2 ^ e) * 2 ^ 24 := by
    rw [zpow_add₀ two_ne_zero, two_mul, zpow_add₀ two_ne_zero]
    push_cast
    ring
  rw [hval] at hl hu
  exact within_of_sq (by positivity) (by positivity) (le_trans (by norm_num) hl) (hu.trans (by norm_num))

/-- What the model's root is, and how near it is. -/
theorem sqrt_spec {m : Nat} (hm : m ≠ 0) (e : Int) :
    ∃ q x, FV.sqrt (.fin false m e) = (.fin false q x, 0) ∧ q ≠ 0 ∧ Within 33 ((q : ℝ) * 2 ^ x) √((m : ℝ) * 2 ^ e) :=
  ⟨rootNum m e, rootExp e, sqrt_fin hm e, rootNum_ne_zero hm e, rootNum_within hm e⟩

/-- The reciprocal of what lies near a root `z` within the range of those of FP32, rounded. -/
theorem toF32_recipNum_within {q : Nat} {x : Int} {z : ℝ} (hq : q ≠ 0) (hw : Within 33 ((q : ℝ) * 2 ^ x) z) (hl : (2 : ℝ) ^ (-75 : ℤ) ≤ z)
    (hu : z ≤ 2 ^ (64 : ℤ)) : ∃ m e, f32 (toF32 (FV.div (.fin false 1 0) (.fin false q x)).1).1 = .fin false m e ∧
      isNormal32 (toF32 (FV.div (.fin false 1 0) (.fin false q x)).1).1 = true ∧ Within 12 ((m : ℝ) * 2 ^ e) z⁻¹ := by
  have hz : 0 < z := lt_of_lt_of_le (by positivity) hl
  have hnn : 0 ≤ z⁻¹ := inv_nonneg.2 hz.le
  have hD := (recipNum_within hq x).trans (hw.inv hz) hnn (p := 30) (by decide) (by decide)
  obtain ⟨hDl, hDu⟩ := range_of_within_rsqrt hD hl hu
  obtain ⟨m, e, hf, hnormal, hr⟩ := toF32_within false (recipNum_ne_zero hq) hDl hDu
  rw [div_one false hq]
  exact ⟨m, e, hf, hnormal, hr.trans hD hnn (by decide) (by decide)⟩

theorem rsqrtE_near {a : BitVec 32} {m : Nat} {e : Int} (h : f32 a = .fin false m e) (hm : m ≠ 0) :
    Near (rsqrtE a).1 (√((m : ℝ) * 2 ^ e))⁻¹ := by
  obtain ⟨he, he', hu⟩ := f32_fin h
  obtain ⟨hzl, hzu⟩ := sqrt_range hm he he' hu
  obtain ⟨q, x, hs, hq, hw⟩ := sqrt_spec hm e
  obtain ⟨m1, e1, hf, hnormal, hr⟩ := toF32_recipNum_within hq hw hzl hzu
  have hnn : 0 ≤ (√((m : ℝ) * 2 ^ e))⁻¹ := by positivity
  rw [rsqrtE, h]
  simp only [hm, if_false, Bool.false_eq_true, hs]
  refine estimate_of (P := fun r => Near r _) hnormal (near_of_within hf hnn hr) fun hok => ?_
  split at hok
  · next m' e' hc =>
    rw [Bool.and_eq_true, Bool.not_eq_true', Bool.not_eq_true'] at hok
    exact near_of_within hc hnn (within_of_rsqrt_ok hm hok.1 hok.2)
  · cases hok

/-! ### VFEXP2E -/

/-- The power that the lowest `j` digits of the fraction `f` give, in units of which 1 is `B`. -/
noncomputable def fracPower (B : ℝ) (f j : Nat) : ℝ := B * 2 ^ (((f % 2 ^ j : ℕ) : ℝ) / 2 ^ j)

theorem fracPower_zero (B : ℝ) (f : Nat) : fracPower B f 0 = B := by
  rw [fracPower, pow_zero, Nat.mod_one, Nat.cast_zero, zero_div, Real.rpow_zero, mul_one]

/-- A fraction of one more digit is half of that digit and the fraction before it. -/
theorem frac_succ (f j : Nat) :
    (((f % 2 ^ (j + 1) : ℕ) : ℝ) / 2 ^ (j + 1)) * (2 : ℕ) = ((f % 2 ^ j : ℕ) : ℝ) / 2 ^ j + (if bitOf f j then 1 else 0) := by
  rw [Nat.mod_pow_succ, bitOf, Nat.testBit_eq_decide_div_mod_eq, pow_succ]
  push_cast
  rcases Nat.mod_two_eq_zero_or_one (f / 2 ^ j) with h | h
  · rw [h]
    simp
    field_simp
  · rw [h]
    simp
    field_simp

/-- One more digit: the power so far, doubled for a digit 1, under the root. -/
theorem fracPower_succ {B : ℝ} (hB : 0 ≤ B) (f j : Nat) :
    fracPower B f (j + 1) = √((if bitOf f j then 2 * fracPower B f j else fracPower B f j) * B) := by
  have hsq : fracPower B f (j + 1) ^ 2 = (if bitOf f j then 2 * fracPower B f j else fracPower B f j) * B := by
    rw [fracPower, fracPower, mul_pow, ← Real.rpow_mul_natCast two_pos.le, frac_succ, Real.rpow_add two_pos]
    cases bitOf f j <;> simp <;> ring
  rw [← hsq, Real.sqrt_sq (by unfold fracPower; positivity)]

/-- A root of what is at most 4 too small, rounded down, is at most 4 too small. -/
theorem sqrt_step {acc d B : Nat} {c : ℝ} (hd : d = 1 ∨ d = 2) (hB : 0 < B) (hl : B ≤ acc) (hle : (acc : ℝ) ≤ c) (hc : c ≤ acc + 4) :
    B ≤ Nat.sqrt (d * acc * B) ∧ (Nat.sqrt (d * acc * B) : ℝ) ≤ √(d * c * B) ∧ √(d * c * B) ≤ Nat.sqrt (d * acc * B) + 4 := by
  have hB0 : (0 : ℝ) < B := by exact_mod_cast hB
  have hlR : (B : ℝ) ≤ acc := by exact_mod_cast hl
  have hdl : (1 : ℝ) ≤ d := by rcases hd with rfl | rfl <;> norm_num
  have hdu : (d : ℝ) ≤ 2 := by rcases hd with rfl | rfl <;> norm_num
  have hlow := Real.nat_sqrt_le_real_sqrt (a := d * acc * B)
  have hhigh := Real.real_sqrt_lt_nat_sqrt_succ (a := d * acc * B)
  push_cast at hlow hhigh
  refine ⟨Nat.le_sqrt.2 ?_, hlow.trans (Real.sqrt_le_sqrt (by gcongr)), ?_⟩
  · exact Nat.mul_le_mul_right B (le_trans hl (Nat.le_mul_of_pos_left acc (by omega)))
  · -- the two roots are at most 3 apart
    suffices h : √(d * c * B) ≤ √(d * acc * B) + 3 by linarith
    refine Real.sqrt_le_iff.2 ⟨by positivity, ?_⟩
    have hsq : √((d : ℝ) * acc * B) ^ 2 = d * acc * B := Real.sq_sqrt (by positivity)
    have hroot : 2 * d / 3 * (B : ℝ) ≤ √(d * acc * B) := by
      refine Real.le_sqrt_of_sq_le ?_
      calc (2 * d / 3 * (B : ℝ)) ^ 2 = 4 * d / 9 * (d * B * B) := by ring
        _ ≤ 1 * (d * acc * B) := by gcongr; linarith
        _ = d * acc * B := one_mul _
    have hgap : d * c * B ≤ d * (acc + 4) * (B : ℝ) := by gcongr
    linarith [show (√(d * acc * B) + 3) ^ 2 = √((d : ℝ) * acc * B) ^ 2 + 6 * √(d * acc * B) + 9 by ring,
      show d * (acc + 4) * (B : ℝ) = d * acc * B + 6 * (2 * d / 3 * B) by ring]

/-- The model's power after `j` digits, in units of which 1 is `B`. -/
def fracAcc (B f j : Nat) : Nat := (List.range j).foldl (fun acc j => isqrt ((if bitOf f j then 2 * acc else acc) * B)) B

theorem fracAcc_succ (B f j : Nat) : fracAcc B f (j + 1) = isqrt ((if bitOf f j then 2 * fracAcc B f j else fracAcc B f j) * B) := by
  rw [fracAcc, List.range_succ, List.foldl_append]
  rfl

theorem fracAcc_bounds {B : Nat} (hB : 0 < B) (f j : Nat) :
    B ≤ fracAcc B f j ∧ (fracAcc B f j : ℝ) ≤ fracPower B f j ∧ fracPower B f j ≤ fracAcc B f j + 4 := by
  induction j with
  | zero =>
    rw [fracPower_zero, show fracAcc B f 0 = B from rfl]
    exact ⟨le_rfl, le_rfl, by linarith⟩
  | succ j ih =>
    obtain ⟨hl, hle, hc⟩ := ih
    have hstep {d : Nat} (hd : d = 1 ∨ d = 2) := sqrt_step hd hB hl hle hc
    rw [fracAcc_succ, fracPower_succ (Nat.cast_nonneg B), isqrt_eq_sqrt]
    cases bitOf f j
    · simpa only [Nat.one_mul, Nat.cast_one, one_mul, Bool.false_eq_true, if_false] using hstep (.inl rfl)
    · exact hstep (.inr rfl)

/-- The power of the fraction, at most 4 units too small. -/
theorem exp2Frac_bounds {f : Nat} (hf : f < 2 ^ 149) : 2 ^ 256 ≤ exp2Frac f ∧ (exp2Frac f : ℝ) ≤ 2 ^ 256 * 2 ^ ((f : ℝ) / 2 ^ 149) ∧
    (2 : ℝ) ^ 256 * 2 ^ ((f : ℝ) / 2 ^ 149) ≤ exp2Frac f + 4 := by
  have h := fracAcc_bounds (Nat.two_pow_pos 256) f 149
  rw [fracPower, Nat.mod_eq_of_lt hf, Nat.cast_pow, Nat.cast_ofNat] at h
  exact h

/-- A value in units of the least digit of FP32. -/
theorem signedAt_value {n : Bool} {m : Nat} {e le : Int} (he : le ≤ e) : (signedAt n m e le : ℝ) * 2 ^ le = fvReal n m e := by
  rw [signedAt, fvReal_eq, ← zpow_sub_toNat he]
  cases n <;> simp <;> ring

/-- The power of 2 by the whole part and the fraction of its exponent. -/
theorem two_rpow_split (i : Int) : (2 : ℝ) ^ ((i : ℝ) * 2 ^ (-149 : ℤ)) =
    2 ^ (((i % 2 ^ 149).toNat : ℝ) / 2 ^ 149) * 2 ^ (i / 2 ^ 149) := by
  have hmod : ((i % 2 ^ 149).toNat : ℤ) = i % 2 ^ 149 := Int.toNat_of_nonneg (Int.emod_nonneg _ (by norm_num))
  have hi : (i : ℝ) = (i % 2 ^ 149).toNat + 2 ^ 149 * (i / 2 ^ 149 : ℤ) := by
    have h := Int.emod_add_mul_ediv i (2 ^ 149)
    rw [← hmod] at h
    exact_mod_cast h.symm
  have hexp : (i : ℝ) * 2 ^ (-149 : ℤ) = ((i % 2 ^ 149).toNat : ℝ) / 2 ^ 149 + (i / 2 ^ 149 : ℤ) := by
    conv_lhs => rw [hi]
    rw [zpow_neg, show (149 : ℤ) = (149 : ℕ) from rfl, zpow_natCast]
    field_simp
  rw [hexp, Real.rpow_add two_pos, Real.rpow_intCast]

/-- A power whose exponent is an FP32 number below 128 rounds to no infinity: the number is at most 128 less its own last place. -/
theorem le_of_lt_128 {n : Bool} {m : Nat} {e : Int} (hm : m < 2 ^ 24) (h : fvReal n m e < 128) : fvReal n m e ≤ 128 - 1 / 2 ^ 17 := by
  have hm' : (m : ℝ) ≤ 2 ^ 24 := by exact_mod_cast hm.le
  rw [fvReal_eq] at h ⊢
  cases n
  · rw [if_neg Bool.false_ne_true] at h ⊢
    rcases le_or_gt (-17) e with he | he
    · have hval : ((m * 2 ^ (e - -17).toNat : ℕ) : ℝ) * 2 ^ (-17 : ℤ) = m * 2 ^ e := by
        push_cast
        rw [mul_assoc, zpow_sub_toNat he]
      rw [← hval] at h ⊢
      have hlt : m * 2 ^ (e - -17).toNat < 2 ^ 24 := by
        have : ((m * 2 ^ (e - -17).toNat : ℕ) : ℝ) < (2 ^ 24 : ℕ) := by
          rw [← mul_lt_mul_iff_left₀ (show (0 : ℝ) < 2 ^ (-17 : ℤ) by positivity)]
          exact lt_of_lt_of_eq h (by norm_num)
        exact_mod_cast this
      have hle : ((m * 2 ^ (e - -17).toNat : ℕ) : ℝ) ≤ (2 ^ 24 - 1 : ℕ) := Nat.cast_le.2 (by omega)
      calc ((m * 2 ^ (e - -17).toNat : ℕ) : ℝ) * 2 ^ (-17 : ℤ) ≤ (2 ^ 24 - 1 : ℕ) * 2 ^ (-17 : ℤ) := by gcongr
        _ = 128 - 1 / 2 ^ 17 := by norm_num
    · calc (m : ℝ) * 2 ^ e ≤ 2 ^ 24 * 2 ^ (-18 : ℤ) := by
            gcongr
            · exact one_le_two
            · omega
        _ ≤ 128 - 1 / 2 ^ 17 := by norm_num
  · rw [if_pos rfl]
    have : (0 : ℝ) ≤ m * 2 ^ e := by positivity
    calc -((m : ℝ) * 2 ^ e) ≤ 0 := by linarith
      _ ≤ 128 - 1 / 2 ^ 17 := by norm_num

theorem two_rpow_le_max {y : ℝ} (h : y ≤ 128 - 1 / 2 ^ 17) : (2 : ℝ) ^ y ≤ (2 ^ 24 - 1) * 2 ^ (104 : ℤ) := by
  -- by Bernoulli's inequality
  have hroot : (2 : ℝ) ^ (-(1 / 2 ^ 17) : ℝ) ≤ 1 - 1 / 2 ^ 24 := by
    have hpow : ((2 : ℝ) ^ (-(1 / 2 ^ 17) : ℝ)) ^ (2 ^ 17) = 1 / 2 := by
      rw [← Real.rpow_mul_natCast two_pos.le]
      norm_num [Real.rpow_neg_one]
    have hb := one_add_mul_le_pow (a := -(1 / 2 ^ 24 : ℝ)) (by norm_num) (2 ^ 17)
    rw [← pow_le_pow_iff_left₀ (by positivity) (by norm_num) (n := 2 ^ 17) (by norm_num), hpow]
    refine le_trans ?_ hb
    norm_num
  calc (2 : ℝ) ^ y ≤ 2 ^ (128 + -(1 / 2 ^ 17) : ℝ) := Real.rpow_le_rpow_of_exponent_le one_le_two (by linarith)
    _ = 2 ^ (128 : ℝ) * 2 ^ (-(1 / 2 ^ 17) : ℝ) := Real.rpow_add two_pos _ _
    _ ≤ 2 ^ (128 : ℝ) * (1 - 1 / 2 ^ 24) := by gcongr
    _ = (2 ^ 24 - 1) * 2 ^ (104 : ℤ) := by
      rw [show (128 : ℝ) = (128 : ℕ) by norm_num, Real.rpow_natCast]
      norm_num

theorem exp2E_over_iff {n : Bool} {m : Nat} {e : Int} : (!n && !magLt m e 128 0) = true ↔ 128 ≤ fvReal n m e := by
  rw [fvReal_eq, Bool.and_eq_true, Bool.not_eq_true', Bool.not_eq_true', magLt_eq_false_iff]
  have hnn : (0 : ℝ) ≤ m * 2 ^ e := by positivity
  cases n
  · simp
  · simp
    linarith
theorem exp2E_under_iff {n : Bool} {m : Nat} {e : Int} : (n && magLt 150 0 m e) = true ↔ fvReal n m e < -150 := by
  rw [fvReal_eq, Bool.and_eq_true, magLt_iff]
  have hnn : (0 : ℝ) ≤ m * 2 ^ e := by positivity
  cases n
  · simp
    linarith
  · simp

/-- What the model's power of `y = i * 2^-149` is, before its rounding: `p` units, at most 4 too small. -/
theorem exp2_bounds (i : Int) : ∃ p, p = exp2Frac (i % 2 ^ 149).toNat ∧ 2 ^ 256 ≤ p ∧
    (p : ℝ) * 2 ^ (i / 2 ^ 149 - 256) ≤ 2 ^ ((i : ℝ) * 2 ^ (-149 : ℤ)) ∧
    (2 : ℝ) ^ ((i : ℝ) * 2 ^ (-149 : ℤ)) ≤ ((p + 4 : ℕ) : ℝ) * 2 ^ (i / 2 ^ 149 - 256) := by
  have hlt : (i % 2 ^ 149).toNat < 2 ^ 149 := by
    have := Int.emod_lt_of_pos i (show (0 : ℤ) < 2 ^ 149 by norm_num)
    omega
  obtain ⟨hl, hle, hge⟩ := exp2Frac_bounds hlt
  have hunit : (2 : ℝ) ^ ((i : ℝ) * 2 ^ (-149 : ℤ)) =
      2 ^ 256 * 2 ^ (((i % 2 ^ 149).toNat : ℝ) / 2 ^ 149) * 2 ^ (i / 2 ^ 149 - 256) := by
    rw [two_rpow_split, zpow_sub₀ two_ne_zero, show (256 : ℤ) = (256 : ℕ) from rfl, zpow_natCast]
    field_simp
  refine ⟨_, rfl, hl, ?_, ?_⟩
  · rw [hunit]
    gcongr
  · rw [hunit, Nat.cast_add, Nat.cast_ofNat]
    exact mul_le_mul_of_nonneg_right hge (by positivity)

theorem exp2_within {p : Nat} {w : Int} {V : ℝ} (hp : 2 ^ 256 ≤ p) (hl : (p : ℝ) * 2 ^ w ≤ V) (hu : V ≤ ((p + 4 : ℕ) : ℝ) * 2 ^ w) :
    Within 250 (p * 2 ^ w) V := by
  have hpR : (2 : ℝ) ^ 256 ≤ p := by exact_mod_cast hp
  have hw : (0 : ℝ) < 2 ^ w := by positivity
  have hmul := mul_le_mul_of_nonneg_right hpR hw.le
  push_cast at hu
  rw [Within, abs_sub_comm, abs_of_nonneg (by linarith), le_div_iff₀ (by positivity)]
  calc (V - p * 2 ^ w) * 2 ^ 250 ≤ (4 * 2 ^ w) * 2 ^ 250 := by gcongr; linarith
    _ ≤ 2 ^ 256 * 2 ^ w := by linarith
    _ ≤ V := hmul.trans hl

theorem within_of_ends {c l u V : ℝ} (hl : |c - l| ≤ l / 2 ^ 12) (hu : |c - u| ≤ u / 2 ^ 12) (hlV : l ≤ V) (hVu : V ≤ u) : Within 12 c V := by
  rw [abs_le] at hl hu
  rw [Within, abs_le]
  constructor <;> linarith [hl.2, hu.1]

theorem exp2E_near {a : BitVec 32} {n : Bool} {m : Nat} {e : Int} (h : f32 a = .fin n m e) (hl : -126 ≤ fvReal n m e)
    (hu : fvReal n m e < 128) : Near (exp2E a).1 (2 ^ fvReal n m e) := by
  obtain ⟨he, -, hm⟩ := f32_fin h
  have hover : ¬(!n && !magLt m e 128 0) = true := by rw [exp2E_over_iff]; linarith
  have hunder : ¬(n && magLt 150 0 m e) = true := by rw [exp2E_under_iff]; linarith
  have hmax := two_rpow_le_max (le_of_lt_128 hm hu)
  have hy := signedAt_value (n := n) (m := m) he
  generalize hi : signedAt n m e (-149) = i at hy
  rw [← hy] at hmax hl ⊢
  obtain ⟨p, hp, hp256, hlow, hhigh⟩ := exp2_bounds i
  have hV : (0 : ℝ) ≤ 2 ^ ((i : ℝ) * 2 ^ (-149 : ℤ)) := by positivity
  have hwhole : -126 ≤ i / 2 ^ 149 := by
    have hi' : (-126 * 2 ^ 149 : ℤ) ≤ i := by
      have : ((-126 * 2 ^ 149 : ℤ) : ℝ) * 2 ^ (-149 : ℤ) ≤ i * 2 ^ (-149 : ℤ) := le_trans (by norm_num) hl
      exact_mod_cast (mul_le_mul_iff_left₀ (by positivity)).1 this
    exact (Int.le_ediv_iff_mul_le (by norm_num)).2 hi'
  have hmin : (2 : ℝ) ^ (-126 : ℤ) ≤ p * 2 ^ (i / 2 ^ 149 - 256) := by
    calc (2 : ℝ) ^ (-126 : ℤ) ≤ 2 ^ ((256 : ℕ) + (i / 2 ^ 149 - 256)) := zpow_le_zpow_right₀ one_le_two (by omega)
      _ = 2 ^ 256 * 2 ^ (i / 2 ^ 149 - 256) := by rw [zpow_add₀ two_ne_zero, zpow_natCast]
      _ ≤ p * 2 ^ (i / 2 ^ 149 - 256) := by
        gcongr
        exact_mod_cast hp256
  obtain ⟨q, x, hq, -, hr⟩ := toF32_within false (by omega) hmin (hlow.trans hmax)
  rw [exp2E, h]
  simp only [hover, hunder, if_false, hi, ← hp, Bool.false_eq_true]
  refine estimate_of (P := fun r => Near r _) (decide_eq_true hwhole) ?_ fun hok => ?_
  · exact near_of_within hq hV (hr.trans (exp2_within hp256 hlow hhigh) hV (by decide) (by decide))
  · split at hok
    · next m' e' hc =>
      rw [Bool.and_eq_true, nearQuot_iff, nearQuot_iff] at hok
      simp only [Nat.cast_one, zpow_zero, mul_one] at hok
      exact near_of_within hc hV (within_of_ends hok.1 hok.2 hlow hhigh)
    · cases hok

/-- Settles O26: the normal operands by the bounds of each estimate, the others by the branch that they take. -/
theorem estimates : Obligations.Estimates := by
  unfold Obligations.Estimates
  refine ⟨fun a n m e h => ⟨fun hm hy => ?_, fun hm hn => ?_, fun hl hu => ?_, fun hm => ?_, fun hm hn => ?_, fun hy => ?_, fun hy => ?_⟩,
    fun a => ⟨fun h => ?_, fun h => ?_⟩⟩
  · exact rcpE_near h hm hy.1 hy.2
  · subst hn
    have hnear := rsqrtE_near h hm
    rwa [show (m : ℝ) * 2 ^ e = fvReal false m e by rw [fvReal_eq]; rfl] at hnear
  · exact exp2E_near h hl hu
  · subst hm
    rw [rcpE, rsqrtE, h]
    cases n <;> exact ⟨rfl, rfl⟩
  · rw [rsqrtE, h]
    simp only [hm, hn, if_true, if_false]
    rfl
  · rw [exp2E, h]
    simp only [exp2E_over_iff.2 hy, if_true]
    rfl
  · have hover : ¬(!n && !magLt m e 128 0) = true := by rw [exp2E_over_iff]; linarith
    rw [exp2E, h]
    simp only [hover, exp2E_under_iff.2 hy, if_true, Bool.false_eq_true, if_false]
  · rw [rsqrtE, exp2E, h]
    exact ⟨rfl, rfl⟩
  · rw [exp2E, h]
    rfl

end Sys2Proof.Machine
end

section
/-! SUPPORT. The integer and bitwise forms of the long-vector unit lane by lane, and what a datapath instruction refuses (R150, R154). -/

namespace Sys2Proof.Machine

variable {s : State} {c : Nat}

/-! ### What a datapath instruction refuses (R150, R153) -/

theorem issueV_illegal (h : s.Ready c false) {e : Enc} (he : e.wide = false) {bad : Bool} (hb : bad = true) (eff : Core → Core) :
    issueV c e bad eff s = .next { takeException c { cause := 1, edata0 := e.data } s with pending := s.pending } :=
  issueP_ready_trap h he _ (by rw [hb]; rfl)

theorem issueV_busy (h : s.Ready c false) (hd : (s.core c).tm.step < (s.core c).tm.dpFree) {e : Enc} (he : e.wide = false) {bad : Bool}
    (hb : bad = false) (eff : Core → Core) :
    issueV c e bad eff s = .next { takeException c { cause := 1, reason := 1, edata0 := e.data } s with pending := s.pending } :=
  issueP_ready_trap h he _ (by rw [hb, if_neg Bool.false_ne_true, if_pos hd]; rfl)

/-! ### Lanes as bit vectors (R149) -/

/-- Lane `j` of a register, as a word of `w` bits. -/
def bvLane (w : Nat) (v : BitVec 4096) (j : Nat) : BitVec w := (v >>> (w * j)).setWidth w

@[simp] theorem bvLane_toNat (w : Nat) (v : BitVec 4096) (j : Nat) : (bvLane w v j).toNat = laneAt w v j := by
  rw [bvLane, BitVec.toNat_setWidth, BitVec.toNat_ushiftRight, laneAt]
theorem bvLane_eq {w : Nat} {v : BitVec 4096} {j : Nat} {x : BitVec w} : bvLane w v j = x ↔ laneAt w v j = x.toNat := by
  rw [← bvLane_toNat, BitVec.toNat_inj]

/-- A lane-wise form without flags of a type it takes: what it makes of the words in the lanes. -/
theorem vaI_words (h : s.Ready c false) (hd : (s.core c).tm.dpFree ≤ (s.core c).tm.step) {vd vs1 vs2 : Reg} {ty : BitVec 4} {func : Nat}
    {types : Nat → Bool} (ht : types ty.toNat = true) (hty : ty.toNat ≤ 9) {F : Nat → VSrc → Nat × FF}
    {f : BitVec (vw ty.toNat) → BitVec (vw ty.toNat) → BitVec (vw ty.toNat) → BitVec (vw ty.toNat)}
    (hf : ∀ d a b, F ty.toNat ⟨d.toNat, a.toNat, b.toNat⟩ = ((f d a b).toNat, 0)) : ∃ r,
      (∀ j, j < vn ty.toNat → bvLane (vw ty.toNat) r j = f (bvLane _ ((s.core c).rv vd) j) (bvLane _ ((s.core c).rv vs1) j)
        (bvLane _ ((s.core c).rv vs2) j)) ∧
      vaI c func types false vd vs1 vs2 ty F s = .next (s.upd c fun k => k.dpTaken fun k => k.land 8 (.v vd r)) := by
  obtain ⟨r, hr, hexec⟩ := vaI_ready h hd (vd := vd) (vs1 := vs1) (vs2 := vs2) (func := func) ht (fun hu => absurd hu Bool.false_ne_true) hty F
  have hlane (j : Nat) : vaLane (s.core c) ty.toNat vd vs1 vs2 (F ty.toNat) j = ((f (bvLane _ ((s.core c).rv vd) j)
      (bvLane _ ((s.core c).rv vs1) j) (bvLane _ ((s.core c).rv vs2) j)).toNat, 0) := by
    rw [← hf]
    simp only [vaLane, bvLane_toNat]
  have hflags : (List.range (vn ty.toNat)).foldl (fun a j => a ||| (vaLane (s.core c) ty.toNat vd vs1 vs2 (F ty.toNat) j).2) 0 = 0 := by
    simp only [hlane]
    exact List.foldl_fixed' (fun _ => BitVec.or_zero) _
  refine ⟨r, fun j hj => ?_, ?_⟩
  · rw [bvLane_eq, hr j hj, hlane]
    exact Nat.mod_eq_of_lt (BitVec.isLt _)
  · rw [hexec, hflags]
    rfl

/-! ### Words made of integers (R154) -/

section
variable {w : Nat} (a b : BitVec w)

theorem ofInt_min_toInt : BitVec.ofInt w (min a.toInt b.toInt) = if a.toInt < b.toInt then a else b := by
  split
  · next h => rw [min_eq_left h.le, BitVec.ofInt_toInt]
  · next h => rw [min_eq_right (Int.not_lt.1 h), BitVec.ofInt_toInt]
theorem ofInt_max_toInt : BitVec.ofInt w (max a.toInt b.toInt) = if a.toInt < b.toInt then b else a := by
  split
  · next h => rw [max_eq_right h.le, BitVec.ofInt_toInt]
  · next h => rw [max_eq_left (Int.not_lt.1 h), BitVec.ofInt_toInt]
theorem ofNat_min_toNat : BitVec.ofNat w (min a.toNat b.toNat) = if a.toNat < b.toNat then a else b := by
  split
  · next h => rw [min_eq_left h.le, BitVec.ofNat_toNat, BitVec.setWidth_eq]
  · next h => rw [min_eq_right (Nat.not_lt.1 h), BitVec.ofNat_toNat, BitVec.setWidth_eq]
theorem ofNat_max_toNat : BitVec.ofNat w (max a.toNat b.toNat) = if a.toNat < b.toNat then b else a := by
  split
  · next h => rw [max_eq_right h.le, BitVec.ofNat_toNat, BitVec.setWidth_eq]
  · next h => rw [max_eq_left (Nat.not_lt.1 h), BitVec.ofNat_toNat, BitVec.setWidth_eq]
theorem ofNat_andn : BitVec.ofNat w (a.toNat &&& (2 ^ w - 1 - b.toNat)) = a &&& ~~~b := by
  rw [← BitVec.toNat_not, ← BitVec.toNat_and, BitVec.ofNat_toNat, BitVec.setWidth_eq]
theorem ofNat_shl (n : Nat) : BitVec.ofNat w (a.toNat <<< n) = a <<< n := BitVec.eq_of_toNat_eq (by simp)
theorem ofNat_shr (n : Nat) : BitVec.ofNat w (a.toNat >>> n) = a >>> n := by
  rw [← BitVec.toNat_ushiftRight, BitVec.ofNat_toNat, BitVec.setWidth_eq]
theorem ofInt_sar (n : Nat) : BitVec.ofInt w (a.toInt / (2 ^ n : Nat)) = a.sshiftRight n := by
  rw [← Int.shiftRight_eq_div_pow, ← BitVec.toInt_sshiftRight, BitVec.ofInt_toInt]
end

/-! ### The word that each form makes of the words in a lane (R154) -/

section
variable {t d : Nat} (a b : BitVec (vw t))

theorem vInt_word {g : Nat → VSrc → Int} {x : VSrc} {r : BitVec (vw t)} (h : BitVec.ofInt (vw t) (g t x) = r) : vInt g t x = (r.toNat, 0) := by
  rw [← h]
  rfl
theorem vBit_word {g : Nat → Nat → Nat → Nat} {x : VSrc} {r : BitVec (vw t)} (h : BitVec.ofNat (vw t) (g (vw t) x.a x.b) = r) :
    vBit g t x = (r.toNat, 0) := by
  rw [← h, vBit, BitVec.toNat_ofNat]
theorem sx_toNat : sx t a.toNat = a.toInt := by rw [sx, sextInt, BitVec.ofNat_toNat, BitVec.setWidth_eq]
/-- The word of a relation: all ones where it holds. -/
theorem allOnes_word (p : Bool) : (allOnes t p, (0 : FF)) = ((if p then BitVec.allOnes (vw t) else 0).toNat, 0) := by
  cases p <;> simp [allOnes, BitVec.toNat_allOnes]

theorem and_word : vBit (fun _ a b => a &&& b) t ⟨d, a.toNat, b.toNat⟩ = ((a &&& b).toNat, 0) := vBit_word (by simp)
theorem or_word : vBit (fun _ a b => a ||| b) t ⟨d, a.toNat, b.toNat⟩ = ((a ||| b).toNat, 0) := vBit_word (by simp)
theorem xor_word : vBit (fun _ a b => a ^^^ b) t ⟨d, a.toNat, b.toNat⟩ = ((a ^^^ b).toNat, 0) := vBit_word (by simp)
theorem andn_word : vBit (fun w a b => a &&& (2 ^ w - 1 - b)) t ⟨d, a.toNat, b.toNat⟩ = ((a &&& ~~~b).toNat, 0) :=
  vBit_word (ofNat_andn a b)
theorem add_word : vInt (fun _ x => x.a + x.b) t ⟨d, a.toNat, b.toNat⟩ = ((a + b).toNat, 0) := vInt_word (by simp [BitVec.ofInt_add])
theorem sub_word : vInt (fun _ x => x.a - x.b) t ⟨d, a.toNat, b.toNat⟩ = ((a - b).toNat, 0) := vInt_word (by
  rw [Int.sub_eq_add_neg, BitVec.ofInt_add, BitVec.sub_eq_add_neg]
  simp [BitVec.ofInt_neg])
theorem mul_word : vInt (fun _ x => x.a * x.b) t ⟨d, a.toNat, b.toNat⟩ = ((a * b).toNat, 0) := vInt_word (by simp [BitVec.ofInt_mul])
theorem mac_word (d : BitVec (vw t)) : vInt (fun _ x => x.d + x.a * x.b) t ⟨d.toNat, a.toNat, b.toNat⟩ = ((d + a * b).toNat, 0) :=
  vInt_word (by simp [BitVec.ofInt_add, BitVec.ofInt_mul])
theorem mulh_word : vInt (fun t x => sx t x.a * sx t x.b / (2 ^ vw t : Nat)) t ⟨d, a.toNat, b.toNat⟩ =
    ((BitVec.ofInt (vw t) (a.toInt * b.toInt / 2 ^ vw t)).toNat, 0) := vInt_word (by simp only [sx_toNat]; norm_cast)
theorem mulhu_word : vBit (fun w a b => a * b / 2 ^ w) t ⟨d, a.toNat, b.toNat⟩ =
    ((BitVec.ofNat (vw t) (a.toNat * b.toNat / 2 ^ vw t)).toNat, 0) := vBit_word rfl
theorem min_word : vInt (fun t x => min (sx t x.a) (sx t x.b)) t ⟨d, a.toNat, b.toNat⟩ = ((if a.toInt < b.toInt then a else b).toNat, 0) :=
  vInt_word (by simp only [sx_toNat]; exact ofInt_min_toInt a b)
theorem max_word : vInt (fun t x => max (sx t x.a) (sx t x.b)) t ⟨d, a.toNat, b.toNat⟩ = ((if a.toInt < b.toInt then b else a).toNat, 0) :=
  vInt_word (by simp only [sx_toNat]; exact ofInt_max_toInt a b)
theorem minu_word : vBit (fun _ a b => min a b) t ⟨d, a.toNat, b.toNat⟩ = ((if a.toNat < b.toNat then a else b).toNat, 0) :=
  vBit_word (ofNat_min_toNat a b)
theorem maxu_word : vBit (fun _ a b => max a b) t ⟨d, a.toNat, b.toNat⟩ = ((if a.toNat < b.toNat then b else a).toNat, 0) :=
  vBit_word (ofNat_max_toNat a b)
theorem sll_word : vBit (fun w a b => a <<< (b % w)) t ⟨d, a.toNat, b.toNat⟩ = ((a <<< (b.toNat % vw t)).toNat, 0) :=
  vBit_word (ofNat_shl a _)
theorem srl_word : vBit (fun w a b => a >>> (b % w)) t ⟨d, a.toNat, b.toNat⟩ = ((a >>> (b.toNat % vw t)).toNat, 0) :=
  vBit_word (ofNat_shr a _)
theorem sra_word : vInt (fun t x => sx t x.a / (2 ^ (x.b % vw t) : Nat)) t ⟨d, a.toNat, b.toNat⟩ =
    ((a.sshiftRight (b.toNat % vw t)).toNat, 0) := vInt_word (by simp only [sx_toNat]; exact ofInt_sar a _)
theorem seq_word : (allOnes t (a.toNat == b.toNat), (0 : FF)) = ((if a == b then BitVec.allOnes (vw t) else 0).toNat, 0) := by
  rw [← allOnes_word, show (a == b) = (a.toNat == b.toNat) by rw [Bool.eq_iff_iff]; simp [BitVec.toNat_inj]]
theorem slt_word : (allOnes t (decide (sx t a.toNat < sx t b.toNat)), (0 : FF)) =
    ((if decide (a.toInt < b.toInt) then BitVec.allOnes (vw t) else 0).toNat, 0) := by
  rw [sx_toNat, sx_toNat, allOnes_word]
theorem sltu_word : (allOnes t (decide (a.toNat < b.toNat)), (0 : FF)) =
    ((if decide (a.toNat < b.toNat) then BitVec.allOnes (vw t) else 0).toNat, 0) := allOnes_word _
end

/-- Settles O24: each form is a `vaI` whose lane is the operation on words that the statement names. -/
theorem vectorIntegerLanes : Obligations.VectorIntegerLanes := by
  unfold Obligations.VectorIntegerLanes
  intro s c vd vs1 vs2 ty h k w lane run all bits ints bad
  have form {i : Instr} {func : Nat} {types : Nat → Bool} {F : Nat → VSrc → Nat × FF} {f : BitVec w → BitVec w → BitVec w → BitVec w}
      (hi : exec i s = vaI c func types false vd vs1 vs2 ty F s) (ht : types ty.toNat = true) (hty : ty.toNat ≤ 9)
      (hf : ∀ d a b, F ty.toNat ⟨d.toNat, a.toNat, b.toNat⟩ = ((f d a b).toNat, 0)) : run i f := by
    intro hd
    obtain ⟨r, hr, hexec⟩ := vaI_words h hd (vd := vd) (vs1 := vs1) (vs2 := vs2) (func := func) ht hty hf
    exact ⟨r, hr, hi.trans hexec⟩
  have refuse {i : Instr} {func : Nat} {types : Nat → Bool} {F : Nat → VSrc → Nat × FF}
      (hi : exec i s = vaI c func types false vd vs1 vs2 ty F s) :
      (types ty.toNat = false → bad (func, i) 0) ∧ (types ty.toNat = true → k.tm.step < k.tm.dpFree → bad (func, i) 1) :=
    ⟨fun ht => hi.trans (issueV_illegal h rfl (by simp [ht]) _), fun ht hd => hi.trans (issueV_busy h hd rfl (by simp [ht]) _)⟩
  have bit {i : Instr} {func : Nat} {F : Nat → VSrc → Nat × FF}
      (hi : exec i s = vaI c func (fun t => decide (t ≤ 6)) false vd vs1 vs2 ty F s) :
      (7 ≤ ty.toNat → bad (func, i) 0) ∧ (ty.toNat ≤ 6 → k.tm.step < k.tm.dpFree → bad (func, i) 1) :=
    ⟨fun ht => (refuse hi).1 (decide_eq_false (by omega)), fun ht => (refuse hi).2 (decide_eq_true ht)⟩
  have int {i : Instr} {func : Nat} {F : Nat → VSrc → Nat × FF} (hi : exec i s = vaI c func isIntTy false vd vs1 vs2 ty F s) :
      (4 ≤ ty.toNat → bad (func, i) 0) ∧ (ty.toNat ≤ 3 → k.tm.step < k.tm.dpFree → bad (func, i) 1) :=
    ⟨fun ht => (refuse hi).1 (decide_eq_false (by omega)), fun ht => (refuse hi).2 (decide_eq_true ht)⟩
  refine ⟨fun ht => ?_, fun ht => ?_, ?_, ?_⟩
  · have hbits : decide (ty.toNat ≤ 6) = true := decide_eq_true ht
    have hty : ty.toNat ≤ 9 := by omega
    exact ⟨form (exec_vand ..) hbits hty fun _ => and_word, form (exec_vor ..) hbits hty fun _ => or_word,
      form (exec_vxor ..) hbits hty fun _ => xor_word, form (exec_vandn ..) hbits hty fun _ => andn_word⟩
  · have hint : isIntTy ty.toNat = true := decide_eq_true ht
    have hty : ty.toNat ≤ 9 := by omega
    exact ⟨form (exec_vadd ..) hint hty fun _ => add_word, form (exec_vsub ..) hint hty fun _ => sub_word,
      form (exec_vmul ..) hint hty fun _ => mul_word, form (exec_vmac ..) hint hty fun d a b => mac_word a b d,
      form (exec_vmulh ..) hint hty fun _ => mulh_word, form (exec_vmulhu ..) hint hty fun _ => mulhu_word,
      form (exec_vmin ..) hint hty fun _ => min_word, form (exec_vmax ..) hint hty fun _ => max_word,
      form (exec_vminu ..) hint hty fun _ => minu_word, form (exec_vmaxu ..) hint hty fun _ => maxu_word,
      form (exec_vsll ..) hint hty fun _ => sll_word, form (exec_vsrl ..) hint hty fun _ => srl_word,
      form (exec_vsra ..) hint hty fun _ => sra_word, form (exec_vseq ..) hint hty fun _ => seq_word,
      form (exec_vslt ..) hint hty fun _ => slt_word, form (exec_vsltu ..) hint hty fun _ => sltu_word⟩
  · simp only [bits, List.forall_mem_cons, List.not_mem_nil, false_imp_iff, implies_true, and_true]
    exact ⟨bit (exec_vand ..), bit (exec_vor ..), bit (exec_vxor ..), bit (exec_vandn ..)⟩
  · simp only [ints, List.forall_mem_cons, List.not_mem_nil, false_imp_iff, implies_true, and_true]
    exact ⟨int (exec_vadd ..), int (exec_vsub ..), int (exec_vmul ..), int (exec_vmulh ..), int (exec_vmulhu ..), int (exec_vmin ..),
      int (exec_vmax ..), int (exec_vminu ..), int (exec_vmaxu ..), int (exec_vsll ..), int (exec_vsrl ..), int (exec_vsra ..),
      int (exec_vseq ..), int (exec_vslt ..), int (exec_vsltu ..), int (exec_vmac ..)⟩

end Sys2Proof.Machine
end

section
/-! SUPPORT. Widening multiplies, integer dot products and permutes of the long-vector unit (R157, R158, R161). -/

namespace Sys2Proof.Machine

variable {s : State} {c : Nat}

theorem wrap_word {t w : Nat} (hw : vw t = w) (i : Int) : wrap t i = (BitVec.ofInt w i).toNat := by
  subst hw
  rfl
theorem sx_laneAt (t : Nat) (v : BitVec 4096) (j : Nat) : sx t (laneAt (vw t) v j) = (bvLane (vw t) v j).toInt := by
  rw [← bvLane_toNat, sx_toNat]
/-- An integer added to a lane. -/
theorem ofInt_laneAt_add (w : Nat) (v : BitVec 4096) (j : Nat) (i : Int) :
    BitVec.ofInt w ((laneAt w v j : Int) + i) = bvLane w v j + BitVec.ofInt w i := by
  rw [BitVec.ofInt_add, BitVec.ofInt_natCast, ← bvLane_toNat, BitVec.ofNat_toNat, BitVec.setWidth_eq]

/-! ### Widening multiplies (R157) -/

/-- The type of the lanes that a widening multiply of `t` writes. -/
def wideTy (t : Nat) : Nat := if decide (t ≤ 2) then t + 1 else 4

theorem wideTy_fits {t : Nat} (ht : t ≤ 2 ∨ t = 5 ∨ t = 6) :
    wideTy t ≤ 9 ∧ vn (wideTy t) = vn t / 2 ∧ vw (wideTy t) = 2 * vw t ∧ vn t / 2 + vn t / 2 ≤ vn t := by
  rcases ht with ht | rfl | rfl
  · interval_cases t <;> decide
  · decide
  · decide

/-- What a widening multiply makes of a lane of vd and the lanes of its sources. -/
def widenLane (t : Nat) (uns acc : Bool) (x : VSrc) : Nat × FF :=
  if decide (t ≤ 2) then (wrap (wideTy t) ((if acc then (x.d : Int) else 0) + widenInt uns t x.a * widenInt uns t x.b), 0)
  else
    let p := roundOp (((fmtOf t).decode x.a).mul ((fmtOf t).decode x.b))
    if acc then
      let q := faddB (BitVec.ofNat 32 x.d) p.1
      (q.1.toNat, p.2 ||| q.2)
    else (p.1.toNat, p.2)

/-- The first lane of the half that a widening multiply takes. -/
def halfOff (t : Nat) (hi : Bool) : Nat := if hi then vn t / 2 else 0

/-- Lane `j` of a widening multiply. -/
def wideLane (k : Core) (t : Nat) (uns acc hi : Bool) (vd vs1 vs2 : Reg) (j : Nat) : Nat × FF :=
  widenLane t uns acc ⟨laneAt (vw (wideTy t)) (k.rv vd) j, laneAt (vw t) (k.rv vs1) (halfOff t hi + j), laneAt (vw t) (k.rv vs2) (halfOff t hi + j)⟩

section
variable (h : s.Ready c false) (hd : (s.core c).tm.dpFree ≤ (s.core c).tm.step) {vd vs1 vs2 : Reg} {ty : BitVec 4} {hi : Bool}
include h hd

theorem widenMul_ready {func : Nat} {uns acc : Bool} (ht : ty.toNat ≤ 2 ∨ (uns = false ∧ (ty.toNat = 5 ∨ ty.toNat = 6))) : ∃ r,
    (∀ j, j < vn ty.toNat / 2 → laneAt (vw (wideTy ty.toNat)) r j =
      (wideLane (s.core c) ty.toNat uns acc hi vd vs1 vs2 j).1 % 2 ^ vw (wideTy ty.toNat)) ∧
    widenMul c func uns acc vd vs1 vs2 ty hi s = .next (s.upd c fun k => k.dpTaken fun k => k.landV 8 vd r
      ((List.range (vn ty.toNat / 2)).foldl (fun a j => a ||| (wideLane (s.core c) ty.toNat uns acc hi vd vs1 vs2 j).2) 0)) := by
  obtain ⟨h9, hvn, -, hhalf⟩ := wideTy_fits (t := ty.toNat) (by omega)
  have hoff : halfOff ty.toNat hi + vn ty.toNat / 2 ≤ vn ty.toNat := by unfold halfOff; split <;> omega
  let res (j : Nat) := wideLane (s.core c) ty.toNat uns acc hi vd vs1 vs2 j
  refine ⟨vecOf (wideTy ty.toNat) ((List.range (vn (wideTy ty.toNat))).map fun j => (res j).1),
    fun j hj => vecOf_range_lane h9 _ (hvn ▸ hj), vwI_ready h hd ?_ ?_⟩
  · rcases ht with ht | ⟨rfl, ht | ht⟩ <;> simp [ht]
  · unfold halfOff at hoff
    have hlanes : lanesV (wideTy ty.toNat) ((s.core c).rv vd) =
        (List.range (vn ty.toNat / 2)).map (laneAt (vw (wideTy ty.toNat)) ((s.core c).rv vd)) := by rw [lanesV_eq, hvn]
    unfold wideTy at hlanes
    dsimp only
    rw [hlanes]
    simp only [lanesV_eq, take_drop_range _ hoff, zipSrc_range, List.map_map, List.foldl_map, hvn]
    rfl

/-- The integer forms: the product of two words, in a word of twice their width, alone or on top of the lane of vd. -/
theorem widenMul_ints {func : Nat} {uns acc : Bool} (ht : ty.toNat ≤ 2) : ∃ r,
    (∀ j, j < vn ty.toNat / 2 → bvLane (2 * vw ty.toNat) r j = (if acc then bvLane (2 * vw ty.toNat) ((s.core c).rv vd) j else 0) +
      BitVec.ofInt (2 * vw ty.toNat) (widenInt uns ty.toNat (laneAt (vw ty.toNat) ((s.core c).rv vs1) (halfOff ty.toNat hi + j)) *
        widenInt uns ty.toNat (laneAt (vw ty.toNat) ((s.core c).rv vs2) (halfOff ty.toNat hi + j)))) ∧
    widenMul c func uns acc vd vs1 vs2 ty hi s = .next (s.upd c fun k => k.dpTaken fun k => k.land 8 (.v vd r)) := by
  obtain ⟨r, hr, hexec⟩ := widenMul_ready h hd (vd := vd) (vs1 := vs1) (vs2 := vs2) (hi := hi) (func := func) (uns := uns) (acc := acc)
    (.inl ht)
  obtain ⟨-, -, hvw, -⟩ := wideTy_fits (.inl ht)
  refine ⟨r, fun j hj => ?_, ?_⟩
  · have hlane := hr j hj
    simp only [wideLane, widenLane, decide_eq_true ht, if_true, wrap_word hvw, hvw] at hlane
    rw [bvLane_eq, hlane, Nat.mod_eq_of_lt (BitVec.isLt _)]
    cases acc
    · simp only [Bool.false_eq_true, if_false, zero_add]
    · simp only [if_true, ofInt_laneAt_add]
  · have hflags : (List.range (vn ty.toNat / 2)).foldl
        (fun a j => a ||| (wideLane (s.core c) ty.toNat uns acc hi vd vs1 vs2 j).2) 0 = 0 := by
      simp only [wideLane, widenLane, decide_eq_true ht, if_true]
      exact List.foldl_fixed' (fun _ => BitVec.or_zero) _
    rw [hexec, hflags]
    rfl

/-- The product of two lanes of BF16 or FP16, in FP32. -/
def wideProd (k : Core) (t : Nat) (hi : Bool) (vs1 vs2 : Reg) (j : Nat) : BitVec 32 :=
  (roundOp (((fmtOf t).decode (laneAt (vw t) (k.rv vs1) (halfOff t hi + j))).mul
    ((fmtOf t).decode (laneAt (vw t) (k.rv vs2) (halfOff t hi + j))))).1

theorem widenMul_floats {func : Nat} {acc : Bool} (ht : ty.toNat = 5 ∨ ty.toNat = 6) : ∃ r fl,
    (∀ j, j < 128 → bvLane 32 r j = if acc then (faddB (bvLane 32 ((s.core c).rv vd) j) (wideProd (s.core c) ty.toNat hi vs1 vs2 j)).1
      else wideProd (s.core c) ty.toNat hi vs1 vs2 j) ∧
    widenMul c func false acc vd vs1 vs2 ty hi s = .next (s.upd c fun k => k.dpTaken fun k => k.landV 8 vd r fl) := by
  obtain ⟨r, hr, hexec⟩ := widenMul_ready h hd (vd := vd) (vs1 := vs1) (vs2 := vs2) (hi := hi) (func := func) (acc := acc) (.inr ⟨rfl, ht⟩)
  have hints : ¬(decide (ty.toNat ≤ 2) = true) := by rw [decide_eq_true_eq]; omega
  have hwide : wideTy ty.toNat = 4 := if_neg hints
  have hvn : vn ty.toNat / 2 = 128 := by rcases ht with h | h <;> rw [h] <;> rfl
  rw [hwide, hvn] at hr
  refine ⟨r, _, fun j hj => ?_, hexec⟩
  have hlane := hr j hj
  simp only [wideLane, widenLane, hints, hwide] at hlane
  rw [bvLane_eq]
  refine hlane.trans ?_
  rw [← bvLane_toNat, BitVec.ofNat_toNat]
  cases acc
  · exact Nat.mod_eq_of_lt (BitVec.isLt _)
  · exact Nat.mod_eq_of_lt (BitVec.isLt _)
end

/-! ### Integer dot products (R158) -/

/-- The lanes of a register in runs of `n`. -/
theorem chunks_lanesV {t n k : Nat} (hn : 0 < n) (h : n * k = vn t) (v : BitVec 4096) :
    chunks n k (lanesV t v) = (List.range k).map fun i => (List.range n).map fun q => laneAt (vw t) v (n * i + q) := by
  have hchunks := chunks_range (laneAt (vw t) v) (a := 0) hn (by omega : 0 + n * k ≤ vn t)
  simp only [List.drop_zero, Nat.zero_add] at hchunks
  exact hchunks

theorem dotInt_ready (h : s.Ready c false) (hd : (s.core c).tm.dpFree ≤ (s.core c).tm.step) {vd vs1 vs2 : Reg} {ty : BitVec 4}
    {func t n : Nat} (ht : ty.toNat = t) (hn : 0 < n) (hvn : n * 128 = vn t) : ∃ r,
      (∀ j, j < 128 → bvLane 32 r j = bvLane 32 ((s.core c).rv vd) j + BitVec.ofInt 32 ((List.range n).map fun q =>
        (bvLane (vw t) ((s.core c).rv vs1) (n * j + q)).toInt * (bvLane (vw t) ((s.core c).rv vs2) (n * j + q)).toInt).sum) ∧
      dotInt c func t n vd vs1 vs2 ty false s = .next (s.upd c fun k => k.dpTaken fun k => k.land 8 (.v vd r)) := by
  let sum (j : Nat) : Int := ((List.range n).map fun q =>
    (bvLane (vw t) ((s.core c).rv vs1) (n * j + q)).toInt * (bvLane (vw t) ((s.core c).rv vs2) (n * j + q)).toInt).sum
  refine ⟨vecOf 2 ((List.range 128).map fun j => wrap 2 ((laneAt 32 ((s.core c).rv vd) j : Int) + sum j)), fun j hj => ?_,
    vwI_ready h hd (by simp [ht]) ?_⟩
  · rw [bvLane_eq]
    refine (vecOf_range_lane (t := 2) (by decide) _ hj).trans ?_
    rw [wrap_word (t := 2) (w := 32) rfl, ofInt_laneAt_add]
    exact Nat.mod_eq_of_lt (BitVec.isLt _)
  · simp only [chunks_lanesV hn hvn]
    simp only [lanesV_eq, show vn 2 = 128 from rfl, List.zip_map', List.map_map, Function.comp_def, List.zipWith_map,
      List.zipWith_self, sx_laneAt]
    rfl

/-! ### Permutes (R161) -/

/-- As `vecOf_lane`, for lanes that need not fill the register. -/
theorem vecOf_lane_of_le {t : Nat} {l : List Nat} (hl : vw t * l.length ≤ 4096) (j : Nat) :
    laneAt (vw t) (vecOf t l) j = l.getD j 0 % 2 ^ vw t := by
  have hlt := (ofLanes_lt (vw t) l).trans_le (pow_le_pow_right₀ one_le_two hl)
  rw [laneAt, vecOf, toNat_ofNat_fits hlt, ofLanes_lane]

section
variable {t : Nat} (ht : t ≤ 9) (v : BitVec 4096)
include ht

/-- Lanes moved down by `d`. -/
theorem slideD_lane (d j : Nat) : bvLane (vw t) (vecOf t ((lanesV t v).drop (min d (vn t)))) j =
    if j + d < vn t then bvLane (vw t) v (j + d) else 0 := by
  have hlen : vw t * ((lanesV t v).drop (min d (vn t))).length ≤ 4096 := by
    rw [← vw_mul_vn ht, List.length_drop, lanesV_length]
    exact Nat.mul_le_mul_left _ (Nat.sub_le _ _)
  rw [bvLane_eq, vecOf_lane_of_le hlen, List.getD_eq_getElem?_getD, List.getElem?_drop, ← List.getD_eq_getElem?_getD]
  split
  · next hlt =>
    rw [Nat.min_eq_left (by omega), Nat.add_comm, lanesV_getD _ hlt, bvLane_toNat, Nat.mod_eq_of_lt (laneAt_lt ..)]
  · rw [List.getD_eq_default _ _ (by rw [lanesV_length]; omega)]
    simp

/-- Lanes moved up by `d`. -/
theorem slideU_lane (d : Nat) {j : Nat} (hj : j < vn t) :
    bvLane (vw t) (vecOf t (List.replicate (min d (vn t)) 0 ++ (lanesV t v).take (vn t - min d (vn t)))) j =
      if d ≤ j then bvLane (vw t) v (j - d) else 0 := by
  have hlen : vw t * (List.replicate (min d (vn t)) 0 ++ (lanesV t v).take (vn t - min d (vn t))).length = 4096 := by
    rw [← vw_mul_vn ht, List.length_append, List.length_replicate, List.length_take, lanesV_length]
    congr 1
    omega
  rw [bvLane_eq, vecOf_lane hlen]
  split
  · next hle =>
    rw [Nat.min_eq_left (by omega), List.getD_append_right _ _ _ _ (by simpa using hle), List.length_replicate, List.getD_eq_getElem?_getD,
      List.getElem?_take_of_lt (by omega), ← List.getD_eq_getElem?_getD, lanesV_getD _ (by omega), bvLane_toNat, Nat.mod_eq_of_lt (laneAt_lt ..)]
  · rw [List.getD_append _ _ _ _ (by simp; omega), List.getD_replicate _ (by omega)]
    simp

/-- Lanes picked by the numbers in another register. -/
theorem perm_lane (i : BitVec 4096) {j : Nat} (hj : j < vn t) :
    bvLane (vw t) (vecOf t ((lanesV t i).map fun i => (lanesV t v).getD (i % vn t) 0)) j =
      bvLane (vw t) v ((bvLane (vw t) i j).toNat % vn t) := by
  rw [bvLane_eq, lanesV_eq t i, List.map_map, vecOf_range_lane ht _ hj, bvLane_toNat, bvLane_toNat, Function.comp_apply,
    lanesV_getD _ (Nat.mod_lt _ (by omega)), Nat.mod_eq_of_lt (laneAt_lt ..)]
end

/-- Settles O27: each form by the lanes of the register that it lands. -/
theorem vectorWideAndPermute : Obligations.VectorWideAndPermute := by
  unfold Obligations.VectorWideAndPermute
  intro s c vd vs1 vs2 ty hi h hd k w n lane ends half a b wide dot move d
  have ha (j : Nat) : (a j).toNat = laneAt w (k.rv vs1) (halfOff ty.toNat hi + j) := bvLane_toNat _ _ _
  have hb (j : Nat) : (b j).toNat = laneAt w (k.rv vs2) (halfOff ty.toNat hi + j) := bvLane_toNat _ _ _
  refine ⟨fun ht => ?_, fun ht => ?_, fun ht hh => ?_, fun ht hh => ?_, fun ht => ?_⟩
  · have form {i : Instr} {func : Nat} {uns acc : Bool} {f : BitVec (2 * w) → Nat → BitVec (2 * w)}
        (he : exec i s = widenMul c func uns acc vd vs1 vs2 ty hi s)
        (hf : ∀ x j, f x j = (if acc then x else 0) +
          BitVec.ofInt (2 * w) (widenInt uns ty.toNat (a j).toNat * widenInt uns ty.toNat (b j).toNat)) : wide i f := by
      obtain ⟨r, hr, hexec⟩ := widenMul_ints h hd (vd := vd) (vs1 := vs1) (vs2 := vs2) (hi := hi) (func := func) (uns := uns) (acc := acc) ht
      refine ⟨r, he.trans hexec, fun j hj => ?_⟩
      rw [hf, ha, hb]
      exact hr j hj
    have signed (x : BitVec w) : widenInt false ty.toNat x.toNat = x.toInt := sx_toNat x
    have unsigned (x : BitVec w) : widenInt true ty.toNat x.toNat = (x.toNat : Int) := rfl
    refine ⟨form (f := fun _ j => BitVec.ofInt _ ((a j).toInt * (b j).toInt)) (exec_vwmul ..) fun x j => ?_,
      form (f := fun _ j => BitVec.ofNat _ ((a j).toNat * (b j).toNat)) (exec_vwmulu ..) fun x j => ?_,
      form (f := fun x j => x + BitVec.ofInt _ ((a j).toInt * (b j).toInt)) (exec_vwmac ..) fun x j => ?_,
      form (f := fun x j => x + BitVec.ofNat _ ((a j).toNat * (b j).toNat)) (exec_vwmacu ..) fun x j => ?_⟩
    · rw [signed, signed, if_neg Bool.false_ne_true, zero_add]
    · rw [unsigned, unsigned, if_neg Bool.false_ne_true, zero_add, ← Int.natCast_mul, BitVec.ofInt_natCast]
    · rw [signed, signed, if_pos rfl]
    · rw [unsigned, unsigned, if_pos rfl, ← Int.natCast_mul, BitVec.ofInt_natCast]
  · intro prod floats
    have ht : ty.toNat = 5 ∨ ty.toNat = 6 := ht.imp (fun h => by rw [h]; rfl) fun h => by rw [h]; rfl
    have hprod (j : Nat) : prod j = wideProd k ty.toNat hi vs1 vs2 j := by
      simp only [prod, ha, hb]
      rfl
    obtain ⟨r, fl, hr, hexec⟩ := widenMul_floats h hd (vd := vd) (vs1 := vs1) (vs2 := vs2) (hi := hi) (func := 0) (acc := false) ht
    obtain ⟨r', fl', hr', hexec'⟩ := widenMul_floats h hd (vd := vd) (vs1 := vs1) (vs2 := vs2) (hi := hi) (func := 2) (acc := true) ht
    exact ⟨⟨r, fl, fun j hj => (hr j hj).trans (hprod j).symm, hexec⟩,
      r', fl', fun j hj => (hr' j hj).trans (congrArg (fun p => (faddB (bvLane 32 (k.rv vd) j) p).1) (hprod j).symm), hexec'⟩
  · subst hh
    obtain ⟨r, hr, hexec⟩ := dotInt_ready h hd (vd := vd) (vs1 := vs1) (vs2 := vs2) (ty := ty) (func := 4) (t := 0) (n := 4)
      (by rw [ht]; rfl) (by decide) rfl
    exact ⟨r, hexec, hr⟩
  · subst hh
    obtain ⟨r, hr, hexec⟩ := dotInt_ready h hd (vd := vd) (vs1 := vs1) (vs2 := vs2) (ty := ty) (func := 5) (t := 9) (n := 8)
      (by rw [ht]; rfl) (by decide) rfl
    exact ⟨r, hexec, hr⟩
  · have hint : (!isIntTy ty.toNat) = false := by simp [isIntTy, ht]
    have ht9 : ty.toNat ≤ 9 := by omega
    exact ⟨⟨_, vwI_ready h hd hint rfl, fun j _ => slideD_lane ht9 _ _ j⟩, ⟨_, vwI_ready h hd hint rfl, fun j hj => slideU_lane ht9 _ _ hj⟩,
      ⟨_, vwI_ready h hd hint rfl, fun j hj => perm_lane ht9 _ _ hj⟩⟩

end Sys2Proof.Machine
end

section
/-! SUPPORT. TGET and TPUT of one segment of a vector tile buffer (R151, R189). -/

namespace Sys2Proof.Machine

variable {s : State} {c : Nat} {v rs : Reg} {t : BitVec 4} {imm : BitVec 6} {e : Enc}

/-! ### Bytes of a segment -/

/-- A byte of a number, by shift and by division. -/
theorem shiftRight_byte (x i : Nat) : x >>> (8 * i) = x / 256 ^ i := by
  rw [Nat.shiftRight_eq_div_pow, Nat.pow_mul]

/-- Byte `i` of a number read from a store. -/
theorem Mem.nat_byte (m : Mem) (a : Nat) {n i : Nat} (hi : i < n) : BitVec.ofNat 8 (m.nat a n >>> (8 * i)) = m.get (a + i) := by
  refine BitVec.eq_of_toNat_eq ?_
  rw [BitVec.toNat_ofNat, Mem.nat, leNat_eq_ofLanes, ofLanes_lane, Mem.bytes, List.map_map, List.getD_eq_getElem _ _ (by simpa using hi)]
  simpa using (m.get (a + i)).isLt

theorem tileSeg_byte (tl : Tile) (g : Nat) {i : Nat} (hi : i < 512) :
    BitVec.ofNat 8 ((tileSeg tl g).toNat >>> (8 * i)) = tl.data.get (512 * g + i) := by
  rw [tileSeg, toNat_ofNat_fits (Mem.nat_lt tl.data (512 * g) 512), Mem.nat_byte _ _ hi]

theorem Tile.setSeg_byte (tl : Tile) (g : Nat) (r : BitVec 4096) (a : Nat) : (tl.setSeg g r).data.get a =
    if 512 * g ≤ a ∧ a < 512 * g + 512 then BitVec.ofNat 8 (r.toNat >>> (8 * (a - 512 * g))) else tl.data.get a := by
  rw [shiftRight_byte]
  exact Mem.get_put_leBytes ..

/-! ### Tiles of a core -/

theorem Core.setTile_self (k : Core) {i : Nat} (hi : i < 16) (tl : Tile) : (k.setTile i tl).tile i = tl :=
  vget_vset_self _ _ _ _ hi
theorem Core.setTile_ne (k : Core) {i j : Nat} (hij : j ≠ i) (tl : Tile) : (k.setTile i tl).tile j = k.tile j :=
  vget_vset_ne _ _ _ hij.symm
theorem Core.retire_tile (k : Core) (w : Bool) (i : Nat) : (k.retire w).tile i = k.tile i := by
  rw [Core.tile, Core.retire_tiles, Core.tile]

/-! ### The checks, and the two instructions -/

theorem tgetFault_none (hp : (s.core c).tm.portFree ≤ (s.core c).tm.step) (ht : 12 ≤ t.toNat) : tgetFault s c e t = none := by
  simp only [tgetFault, if_neg hp.not_gt, if_neg ht.not_gt]
theorem tgetFault_shape (hp : (s.core c).tm.portFree ≤ (s.core c).tm.step) (ht : t.toNat < 12) :
    tgetFault s c e t = some (tileShape e 2 0 (s.tshape c t.toNat)) := by
  simp only [tgetFault, if_neg hp.not_gt, if_pos ht]
theorem tgetFault_busy (hp : (s.core c).tm.step < (s.core c).tm.portFree) : tgetFault s c e t = some (illegal e 2) := by
  simp only [tgetFault, if_pos hp]

/-- An instruction of two words of the tile files that only updates its core. -/
theorem issueE_core (h : s.Ready c) (hh : c < 144) (he : e.wide = true) {check : State → Option Trap} (f : Core → Core) (hc : check s = none) :
    issueE c e check (fun s => s.upd c f) s = .next (s.upd c fun k => (f k).retire true) := by
  rw [issueE_ready h hh (fun _ => rfl) check _ hc, done_upd_upd _ _ h.core, he]
/-- An instruction of the tile files whose check fails. -/
theorem issueE_trap (h : s.Ready c) (hh : c < 144) {check : State → Option Trap} (eff : State → State) {x : Trap} (hc : check s = some x) :
    issueE c e check eff s = .next { takeException c x s with pending := s.pending } := by
  rw [issueE, if_neg (by simp [isHub]; omega), issueP_trap h (fun _ => rfl) check eff x hc]
  rfl

/-- A fault of the check is the fault of either instruction. -/
theorem tgetTput_trap (h : s.Ready c) (hh : c < 144) {x : Trap} (hf : ∀ e, tgetFault s c e t = some { x with edata0 := e.data }) :
    ∀ i ∈ [(0, Instr.tget c v t rs imm), (1, .tput c v t rs imm)], exec i.2 s = .next { takeException c
      { x with edata0 := (encTget i.1 v t rs imm).data } s with pending := s.pending } := by
  simp only [List.forall_mem_cons, exec_tget, exec_tput, execTget, execTput]
  exact ⟨issueE_trap h hh _ (hf _), issueE_trap h hh _ (hf _), by simp⟩

/-- Settles O32: a segment and a register byte by byte, and the three outcomes of the check. -/
theorem tileSegments : Obligations.TileSegments := by
  unfold Obligations.TileSegments
  intro s c v t rs imm h hh k g tl bad
  refine ⟨fun hp ht => ⟨⟨tileSeg tl g, fun i hi => tileSeg_byte tl g hi, ?_⟩, ?_⟩, fun hp ht => ?_, fun hp => ?_⟩
  · rw [exec_tget]
    refine (issueE_core h hh rfl _ (tgetFault_none hp ht)).trans ?_
    exact congrArg _ (State.upd_congr c rfl)
  · refine ⟨_, issueE_core h hh rfl _ (tgetFault_none hp ht), ?_⟩
    have htile : ((k.takePort.setTile t.toNat (tl.setSeg g (k.rv v))).retire true).tile t.toNat = tl.setSeg g (k.rv v) := by
      rw [Core.retire_tile, Core.setTile_self _ t.isLt]
    rw [State.core_upd_self c _ h.core]
    refine ⟨by rw [Core.retire_tm]; rfl, fun a => ?_, ?_, fun i hi => ?_, Core.retire_x .., Core.retire_v .., Core.retire_flow .., .upd s c _⟩
    · exact (congrArg (fun tl => tl.data.get a) htile).trans (Tile.setSeg_byte ..)
    · exact (congrArg Tile.shape htile).trans rfl
    · rw [Core.retire_tile, Core.setTile_ne _ hi]
      rfl
  · exact tgetTput_trap h hh fun e => tgetFault_shape hp ht
  · exact tgetTput_trap h hh fun e => tgetFault_busy hp

end Sys2Proof.Machine
end

section
/-! SUPPORT. Rows of a tile: packed into bytes and unpacked, written slot by slot and read back, and what TZERO, TMOV, TLD and TST make of
them (R128, R172 to R175, R188, R194). -/

namespace Sys2Proof.Machine

/-! ### Elements and their bytes (R128) -/

theorem lanesOf_length (w n v : Nat) : (lanesOf w n v).length = n := by simp [lanesOf]
theorem lanesOf_lt {w n v a : Nat} (h : a ∈ lanesOf w n v) : a < 2 ^ w := by
  obtain ⟨i, -, rfl⟩ := List.mem_map.1 h
  exact Nat.mod_lt _ (Nat.two_pow_pos w)
theorem lanesOf_getD {w n v j : Nat} (h : j < n) : (lanesOf w n v).getD j 0 = v / 2 ^ (w * j) % 2 ^ w := by
  simp [lanesOf, h, Nat.shiftRight_eq_div_pow]

theorem lanesOf_ofLanes {w : Nat} {l : List Nat} (h : ∀ a ∈ l, a < 2 ^ w) : lanesOf w l.length (ofLanes w l) = l := by
  refine List.ext_getElem (lanesOf_length ..) fun i h1 h2 => ?_
  simp only [lanesOf, List.getElem_map, List.getElem_range]
  rw [ofLanes_lane, List.getD_eq_getElem _ _ h2, Nat.mod_eq_of_lt (h _ (List.getElem_mem h2))]

theorem ofLanes_lanesOf (w n v : Nat) : ofLanes w (lanesOf w n v) = v % 2 ^ (w * n) := by
  induction n generalizing v with
  | zero => simp [lanesOf, ofLanes, Nat.mod_one]
  | succ n ih =>
    have hcons : lanesOf w (n + 1) v = v % 2 ^ w :: lanesOf w n (v >>> w) := by
      simp [lanesOf, List.range_succ_eq_map, Function.comp_def, Nat.mul_succ, Nat.add_comm (w * _) w, Nat.shiftRight_add]
    rw [hcons, ofLanes, ih, Nat.mod_mod, Nat.shiftRight_eq_div_pow, Nat.mul_succ, Nat.pow_add, Nat.mul_comm (2 ^ (w * n)), Nat.mod_mul]

theorem leNat_inj {a b : List Byte} (hl : a.length = b.length) (h : leNat a = leNat b) : a = b := by
  induction a generalizing b with
  | nil => exact (List.length_eq_zero_iff.1 hl.symm).symm
  | cons x xs ih =>
    cases b with
    | nil => cases hl
    | cons y ys =>
      simp only [leNat] at h
      have hx := x.isLt
      have hy := y.isLt
      rw [BitVec.eq_of_toNat_eq (show x.toNat = y.toNat by omega), ih (Nat.succ.inj hl) (by omega)]

section
variable {f n : Nat}

theorem packRow_length (f : Nat) (l : List Nat) : (packRow f l).length = l.length * fmtBits f / 8 := leBytes_length ..

/-- The bits of elements that fill whole bytes. -/
theorem bytes_of_bits (hd : n * fmtBits f % 8 = 0) : 256 ^ (n * fmtBits f / 8) = 2 ^ (fmtBits f * n) := by
  rw [show (256 : Nat) = 2 ^ 8 from rfl, ← Nat.pow_mul, Nat.mul_div_cancel' (Nat.dvd_of_mod_eq_zero hd), Nat.mul_comm]

theorem unpackRow_packRow {l : List Nat} (hd : l.length * fmtBits f % 8 = 0) (h : ∀ a ∈ l, a < 2 ^ fmtBits f) :
    unpackRow f l.length (packRow f l) = l := by
  rw [unpackRow, packRow, leNat_leBytes, bytes_of_bits hd, Nat.mod_eq_of_lt (ofLanes_lt ..), lanesOf_ofLanes h]

theorem packRow_unpackRow {bs : List Byte} (hd : n * fmtBits f % 8 = 0) (hl : bs.length = n * fmtBits f / 8) :
    packRow f (unpackRow f n bs) = bs := by
  have hlen : (unpackRow f n bs).length = n := lanesOf_length ..
  have hlt : leNat bs < 2 ^ (fmtBits f * n) := by rw [← bytes_of_bits hd, ← hl]; exact leNat_lt bs
  refine leNat_inj (by rw [packRow_length, hlen, hl]) ?_
  rw [packRow, hlen, leNat_leBytes, bytes_of_bits hd, unpackRow, ofLanes_lanesOf, Nat.mod_mod, Nat.mod_eq_of_lt hlt]

end

/-! ### Shapes that a file takes (R175) -/

/-- The file of tile `t` takes the columns of the shape. -/
structure TShape.Fits (sh : TShape) (t : Nat) : Prop where
  most : sh.cols ≤ maxCols (fileOf t) sh.fmt.toNat
  multiple : sh.cols % colMult sh.fmt.toNat = 0

/-- Elements of a format fill whole bytes, or its columns come in groups that do. -/
theorem fmtBits_cases (f : Nat) : fmtBits f % 8 = 0 ∨ f = 9 ∧ fmtBits f = 4 ∨ f = 10 ∧ fmtBits f = 4 ∨ f = 11 ∧ fmtBits f = 1 := by
  unfold fmtBits
  split <;> simp
/-- A row of the most columns that a file takes fits its slot. -/
theorem maxCols_bits (fl : TFile) (f : Nat) : maxCols fl f * fmtBits f ≤ 8 * if fl = .acc then 512 else 256 := by
  unfold maxCols
  split <;> simp [fmtBits]

namespace TShape.Fits
variable {sh : TShape} {t : Nat} (h : sh.Fits t)
include h

/-- A row of such a shape fills whole bytes. -/
theorem bytes : sh.cols * fmtBits sh.fmt.toNat % 8 = 0 := by
  have hmult := h.multiple
  rcases fmtBits_cases sh.fmt.toNat with h8 | ⟨hf, hb⟩ | ⟨hf, hb⟩ | ⟨hf, hb⟩
  · rw [Nat.mul_mod, h8, Nat.mul_zero, Nat.zero_mod]
  all_goals
    rw [hf] at hmult
    rw [hb]
    simp only [colMult] at hmult
    omega
/-- A row of such a shape fits its slot. -/
theorem slot : sh.cols * fmtBits sh.fmt.toNat / 8 ≤ slotBytes t := by
  have hmost := (Nat.mul_le_mul_right (fmtBits sh.fmt.toNat) h.most).trans (maxCols_bits _ _)
  rw [slotBytes]
  omega
/-- The scales of an E2M1 row fit theirs. -/
theorem scales (hf : sh.fmt.toNat = 10) : sh.cols / 32 ≤ 16 := by
  have hmost := h.most
  have hle : maxCols (fileOf t) 10 ≤ 512 := by cases fileOf t <;> decide
  rw [hf] at hmost
  omega
end TShape.Fits

/-! ### Rows written slot by slot (R172, R174) -/

/-- Runs of `n` bytes written at slots of their own all stand. -/
theorem Mem.bytes_slots {slot n : Nat} (hn : n ≤ slot) {l : List (List Byte)} (hl : ∀ b ∈ l, b.length = n) (m : Mem) {r : Nat} {b : List Byte}
    (hr : l[r]? = some b) : (l.zipIdx.foldl (fun m p => m.put (slot * p.2) p.1) m).bytes (slot * r) n = b := by
  induction l using List.reverseRecOn with
  | nil => cases hr
  | append_singleton l a ih =>
    have ha : a.length = n := hl a (by simp)
    rw [List.zipIdx_append, List.foldl_append]
    simp only [List.zipIdx_singleton, List.foldl_cons, List.foldl_nil, Nat.zero_add]
    rcases Nat.lt_trichotomy r l.length with hlt | rfl | hgt
    · rw [Mem.bytes_put_out _ _ _ _ _ (.inl ?_)]
      · exact ih (fun b hb => hl b (List.mem_append_left _ hb)) (by rwa [List.getElem?_append_left hlt] at hr)
      · calc slot * r + n ≤ slot * r + slot := by omega
          _ = slot * (r + 1) := by ring
          _ ≤ slot * l.length := Nat.mul_le_mul_left _ hlt
    · obtain rfl : a = b := by simpa using hr
      have hput := Mem.bytes_put_self (l.zipIdx.foldl (fun m p => m.put (slot * p.2) p.1) m) (slot * l.length) a
      rwa [ha] at hput
    · rw [List.getElem?_eq_none (by simp; omega)] at hr
      cases hr

section
variable (t : Nat) (sh : TShape) (tl : Tile)

/-- The storage of a tile after rows are written. -/
theorem Tile.putRows_data (rows : List TRow) : (tl.putRows t sh rows).data =
    (rows.map fun row => packRow sh.fmt.toNat row.codes).zipIdx.foldl (fun m p => m.put (slotBytes t * p.2) p.1) tl.data := by
  unfold Tile.putRows
  induction rows using List.reverseRecOn with
  | nil => rfl
  | append_singleton rows row ih =>
    rw [List.map_append, List.zipIdx_append, List.zipIdx_append, List.foldl_append, List.foldl_append, ← ih]
    simp [Tile.putRow]
theorem Tile.putRows_scale (rows : List TRow) (hf : sh.fmt.toNat = 10) : (tl.putRows t sh rows).scale =
    (rows.map TRow.scales).zipIdx.foldl (fun m p => m.put (16 * p.2) p.1) tl.scale := by
  unfold Tile.putRows
  induction rows using List.reverseRecOn with
  | nil => rfl
  | append_singleton rows row ih =>
    rw [List.map_append, List.zipIdx_append, List.zipIdx_append, List.foldl_append, List.foldl_append, ← ih]
    simp [Tile.putRow, hf]
end

/-- Rows whose elements have a code in the format, as many as the shape has columns. -/
def TRow.Codes (sh : TShape) (row : TRow) : Prop := row.codes.length = sh.cols ∧ ∀ a ∈ row.codes, a < 2 ^ fmtBits sh.fmt.toNat

section
variable {t r : Nat} {sh : TShape} (tl : Tile) {rows : List TRow} {row : TRow} (hfit : sh.Fits t) (hr : rows[r]? = some row)
include hfit hr

/-- The elements of a row that was written. -/
theorem Tile.putRows_codes (hrows : ∀ row ∈ rows, row.Codes sh) : ((tl.putRows t sh rows).row t sh r).codes = row.codes := by
  obtain ⟨hlen, hlt⟩ := hrows row (List.mem_of_getElem? hr)
  have hbytes := Mem.bytes_slots hfit.slot (l := rows.map fun row => packRow sh.fmt.toNat row.codes) (fun b hb => by
    obtain ⟨row, hmem, rfl⟩ := List.mem_map.1 hb
    rw [packRow_length, (hrows row hmem).1]) tl.data (r := r) (b := packRow sh.fmt.toNat row.codes) (by rw [List.getElem?_map, hr]; rfl)
  show unpackRow sh.fmt.toNat sh.cols ((tl.putRows t sh rows).data.bytes _ _) = row.codes
  rw [Tile.putRows_data, hbytes, ← hlen]
  exact unpackRow_packRow (by rw [hlen]; exact hfit.bytes) hlt

/-- The scales of a row that was written. -/
theorem Tile.putRows_scales (hrows : ∀ row ∈ rows, row.scales.length = if sh.fmt.toNat = 10 then sh.cols / 32 else 0) :
    ((tl.putRows t sh rows).row t sh r).scales = row.scales := by
  have hlen := hrows row (List.mem_of_getElem? hr)
  show (if sh.fmt.toNat = 10 then (tl.putRows t sh rows).scale.bytes (16 * r) (sh.cols / 32) else []) = row.scales
  split
  · next hf =>
    rw [Tile.putRows_scale _ _ _ _ hf]
    refine Mem.bytes_slots (hfit.scales hf) (fun b hb => ?_) tl.scale (by rw [List.getElem?_map, hr]; rfl)
    obtain ⟨row, hmem, rfl⟩ := List.mem_map.1 hb
    rw [hrows row hmem, if_pos hf]
  · next hf =>
    rw [if_neg hf] at hlen
    exact (List.length_eq_zero_iff.1 hlen).symm
end

/-- A row that is read has codes of its format. -/
theorem Tile.row_codes (t : Nat) (tl : Tile) (sh : TShape) (r : Nat) : (tl.row t sh r).Codes sh := ⟨lanesOf_length .., fun _ => lanesOf_lt⟩
theorem Tile.row_scales (t : Nat) (tl : Tile) (sh : TShape) (r : Nat) :
    (tl.row t sh r).scales.length = if sh.fmt.toNat = 10 then sh.cols / 32 else 0 := by
  unfold Tile.row
  dsimp only
  split
  · exact Mem.bytes_length ..
  · rfl
/-- The elements of a row are the bytes of its slot. -/
theorem Tile.packRow_row {t : Nat} {sh : TShape} (hd : sh.cols * fmtBits sh.fmt.toNat % 8 = 0) (tl : Tile) (r : Nat) :
    packRow sh.fmt.toNat (tl.row t sh r).codes = tl.data.bytes (slotBytes t * r) (sh.cols * fmtBits sh.fmt.toNat / 8) :=
  packRow_unpackRow hd (Mem.bytes_length ..)

/-! ### What the four instructions make of rows (R188, R194) -/

/-- A format converted to itself leaves every row. -/
theorem convRows_self (f : Nat) (ovf : Bool) (rnd : Nat → Nat → Rnd) (rows : List TRow) : (convRows f f ovf rnd rows).1 = rows := by
  refine List.ext_getElem (by simp [convRows]) fun i h1 h2 => ?_
  simp [convRows, TRow.convert]

theorem tzeroTile_codes {t r : Nat} {sh : TShape} (hfit : sh.Fits t) (tl : Tile) (hr : r < sh.rows) :
    ((tzeroTile t sh tl).row t sh r).codes = List.replicate sh.cols 0 := by
  refine Tile.putRows_codes tl hfit (List.getElem?_replicate_of_lt hr) fun row hrow => ?_
  obtain ⟨-, rfl⟩ := List.mem_replicate.1 hrow
  refine ⟨List.length_replicate, fun a ha => ?_⟩
  obtain ⟨-, rfl⟩ := List.mem_replicate.1 ha
  exact Nat.two_pow_pos _

theorem tmovTile_row {t u r : Nat} {sh : TShape} (hfit : sh.Fits t) (ovf : Bool) (tl sr : Tile) (hr : r < sh.rows) :
    ((tmovTile t u ovf sh sh tl sr).1).row t sh r = sr.row u sh r := by
  have hrow : (sr.rows u sh)[r]? = some (sr.row u sh r) := by simp [Tile.rows, hr]
  have hmem {row : TRow} (h : row ∈ sr.rows u sh) : ∃ i, row = sr.row u sh i := by
    obtain ⟨i, -, rfl⟩ := List.mem_map.1 h
    exact ⟨i, rfl⟩
  have htile : (tmovTile t u ovf sh sh tl sr).1 = tl.putRows t sh (sr.rows u sh) := congrArg (tl.putRows t sh) (convRows_self ..)
  have hcodes := Tile.putRows_codes tl hfit hrow fun row h => by
    obtain ⟨i, rfl⟩ := hmem h
    exact Tile.row_codes ..
  have hscales := Tile.putRows_scales tl hfit hrow fun row h => by
    obtain ⟨i, rfl⟩ := hmem h
    exact Tile.row_scales ..
  rw [htile]
  generalize (tl.putRows t sh (sr.rows u sh)).row t sh r = row at hcodes hscales
  cases row
  dsimp only at hcodes hscales
  rw [hcodes, hscales]

section
variable {x : TileXfer} {sh : TShape}

/-- The codes of tile row `r` that a load forms of memory bytes. -/
def tldCodes (x : TileXfer) (sh : TShape) (bs : List Byte) (r : Nat) : List Nat :=
  let memRow (i : Nat) : List Nat :=
    unpackRow x.mfmt.toNat (xferCols x sh) ((bs.drop (i * xferRowBytes x sh)).take (xferRowBytes x sh))
  if x.tr then (List.range sh.cols).map fun i => (memRow i).getD r 0 else memRow r

theorem tldRows_eq (hne : x.mfmt ≠ 10) (bs : List Byte) : tldRows x sh bs = (List.range sh.rows).map fun r => ⟨tldCodes x sh bs r, []⟩ := by
  have h10 : x.mfmt.toNat ≠ 10 := fun h => hne (BitVec.eq_of_toNat_eq h)
  refine List.ext_getElem ?_ fun i h1 h2 => ?_
  · cases htr : x.tr <;> simp [tldRows, transpose, xferRows, xferCols, htr]
  · cases htr : x.tr <;> simp [tldRows, tldCodes, transpose, xferRows, h10, htr]

theorem tldCodes_codes (hf : sh.fmt = x.mfmt) (bs : List Byte) (r : Nat) : (TRow.mk (tldCodes x sh bs r) []).Codes sh := by
  have hbits : ∀ i, ∀ a ∈ unpackRow x.mfmt.toNat (xferCols x sh) ((bs.drop (i * xferRowBytes x sh)).take (xferRowBytes x sh)),
      a < 2 ^ fmtBits sh.fmt.toNat := fun i a ha => by rw [hf]; exact lanesOf_lt ha
  unfold TRow.Codes tldCodes
  cases htr : x.tr
  · exact ⟨by simp [unpackRow, lanesOf_length, xferCols, htr], hbits r⟩
  · refine ⟨by simp, fun a ha => ?_⟩
    obtain ⟨i, -, rfl⟩ := List.mem_map.1 ha
    rw [List.getD_eq_getElem?_getD]
    cases hg : (unpackRow x.mfmt.toNat (xferCols x sh) ((bs.drop (i * xferRowBytes x sh)).take (xferRowBytes x sh)))[r]? with
    | none => exact Nat.two_pow_pos _
    | some b => exact hbits i b (List.mem_of_getElem? hg)

variable (hraw : x.raw = false) (hf : sh.fmt = x.mfmt) (hne : x.mfmt ≠ 10)
include hraw hf hne

/-- Element `j` of row `r` of a tile that a plain load has written. -/
theorem tldTile_code (hfit : sh.Fits x.tile.toNat) (bs : List Byte) (tl : Tile) {r j : Nat} (hr : r < sh.rows) (hj : j < sh.cols) :
    ((tldTile x sh bs tl).1.row x.tile.toNat sh r).codes.getD j 0 =
      leNat ((bs.drop ((if x.tr then j else r) * xferRowBytes x sh)).take (xferRowBytes x sh)) /
        2 ^ (fmtBits x.mfmt.toNat * if x.tr then r else j) % 2 ^ fmtBits x.mfmt.toNat := by
  have htile : (tldTile x sh bs tl).1 = tl.putRows x.tile.toNat sh (tldRows x sh bs) := by
    unfold tldTile
    dsimp only
    rw [if_neg (by simp [hraw]), hf]
    exact congrArg (tl.putRows x.tile.toNat sh) (convRows_self ..)
  rw [htile, Tile.putRows_codes tl hfit (row := ⟨tldCodes x sh bs r, []⟩) (by rw [tldRows_eq hne]; simp [hr]) fun row hrow => ?_]
  · unfold tldCodes
    cases htr : x.tr
    · exact lanesOf_getD (by simpa [xferCols, htr] using hj)
    · simp only [if_true, List.getD_eq_getElem?_getD, List.getElem?_map, List.getElem?_range hj, Option.map_some, Option.getD_some]
      rw [← List.getD_eq_getElem?_getD]
      exact lanesOf_getD (by simpa [xferCols, htr] using hr)
  · rw [tldRows_eq hne] at hrow
    obtain ⟨i, -, rfl⟩ := List.mem_map.1 hrow
    exact tldCodes_codes hf bs i

/-- What a plain store writes: the bytes of each row's slot. -/
theorem tstRows_eq (hfit : sh.Fits x.tile.toNat) (htr : x.tr = false) (hsr : x.sr = false) (ctr : Word) (key : Option Word) (q : Nat) (tl : Tile) :
    (tstRows x sh ctr key q tl).1 = (List.range sh.rows).map fun r =>
      tl.data.bytes (slotBytes x.tile.toNat * r) (sh.cols * fmtBits x.mfmt.toNat / 8) := by
  have h10 : x.mfmt.toNat ≠ 10 := fun h => hne (BitVec.eq_of_toNat_eq h)
  have hrow (r : Nat) := Tile.packRow_row (t := x.tile.toNat) hfit.bytes tl r
  rw [hf] at hrow
  unfold tstRows
  simp only [hraw, htr, hsr, h10, if_false, Bool.false_eq_true, Bool.false_and, List.append_nil, hf, convRows_self]
  rw [Tile.rows, List.map_map, List.map_map]
  exact List.map_congr_left fun r _ => hrow r
end

end Sys2Proof.Machine
end

section
/-! SUPPORT. What the tile instructions check, the work that they enter, and TCFG, TMOV and TZERO (R178 to R188, R211). -/

namespace Sys2Proof.Machine

variable {s t : State} {c : Nat} {k : Core} {cc : BitVec 4} {e : Enc}

/-! ### Checks (R78, R79, R183) -/

@[simp] theorem firstOf_none (ts : List (Option Trap)) : firstOf (none :: ts) = firstOf ts := rfl
@[simp] theorem firstOf_nil : firstOf [] = none := rfl

/-- On a free counter only the encoding can be at fault. -/
theorem Core.CcFree.illegalCc (h : k.CcFree cc) (e : Enc) (bad : Bool) : illegalCc e k bad cc = if bad then some (illegal e 0) else none := by
  cases bad <;> simp [Machine.illegalCc, illegalCcRead_none h.allowed h.notHeld, h.shown]
theorem Core.CcFree.ccFull (h : k.CcFree cc) : k.ccFull cc = none := if_neg (Nat.not_le.2 h.below)

theorem firstOf_tileIf (b : Bool) (reason i n : Nat) (ts : List (Option Trap)) :
    firstOf (tileIf s c e b reason i n :: ts) = if b then some (tileShape e reason i (s.tshape c n)) else firstOf ts := by
  cases b <;> rfl
theorem Core.CcFree.firstOf_illegalCc (h : k.CcFree cc) (e : Enc) (bad : Bool) (ts : List (Option Trap)) :
    firstOf (Machine.illegalCc e k bad cc :: ts) = if bad then some (illegal e 0) else firstOf ts := by
  rw [h.illegalCc]
  cases bad <;> rfl

/-! ### A write to a tile (R211) -/

section
variable (k : Core) (n : Nat)
/-- Only the array's tags change. -/
theorem Core.untag_eq : ∃ a, k.untag n = { k with arr := a } := by
  unfold Core.untag
  dsimp only
  split
  · exact ⟨_, rfl⟩
  · exact ⟨_, rfl⟩
theorem Core.untag_x : (k.untag n).x = k.x := by obtain ⟨a, h⟩ := k.untag_eq n; rw [h]
theorem Core.untag_v : (k.untag n).v = k.v := by obtain ⟨a, h⟩ := k.untag_eq n; rw [h]
theorem Core.untag_flow : (k.untag n).flow = k.flow := by obtain ⟨a, h⟩ := k.untag_eq n; rw [h]
theorem Core.untag_tiles : (k.untag n).tiles = k.tiles := by obtain ⟨a, h⟩ := k.untag_eq n; rw [h]
theorem Core.untag_cnt : (k.untag n).cnt = k.cnt := by obtain ⟨a, h⟩ := k.untag_eq n; rw [h]
theorem Core.untag_svalid : (k.untag n).arr.svalid = if k.arr.stag = n then false else k.arr.svalid := by
  unfold Core.untag
  by_cases h : k.arr.stag = n <;> simp [h]
end

/-! ### Counted work that enters (R75, R78, R184, R290) -/

/-- A core that counts one more piece of work keeps besides its tiles, its steps, its Carousel and its status. -/
structure Core.Counted (k k' : Core) (i : Nat) : Prop extends k.Bumped k' i where
  tiles : k'.tiles = k.tiles
  tm : k'.tm = k.tm
  car : k'.car = k.car
  status : k'.tr.status = k.tr.status

theorem pushWork_counted {w : Work} (hc : w.core < 160) (hcc : w.cc < 16) (hw : w.stage = .going) (hu : (s.core w.core).arr.upd = []) :
    (s.core w.core).Counted ((pushWork w s).core w.core) w.cc := by
  obtain ⟨-, -, hbump, -⟩ := pushWork_spec hc hcc hw hu
  have hrest (g : Core → Core) (hg : ∀ k, (g k).tiles = k.tiles ∧ (g k).tm = k.tm ∧ (g k).car = k.car ∧ (g k).tr.status = k.tr.status) (s1 : State)
      (h1 : (s1.upd w.core g).core w.core = g (s.core w.core)) (hs : pushWork w s = s1.upd w.core g) :
      (s.core w.core).Counted ((pushWork w s).core w.core) w.cc := by
    obtain ⟨htiles, htm, hcar, hst⟩ := hg (s.core w.core)
    have hcore := (congrArg (State.core · w.core) hs).trans h1
    exact ⟨hbump, by rw [hcore, htiles], by rw [hcore, htm], by rw [hcore, hcar], by rw [hcore, hst]⟩
  by_cases ht : s.tagsFree w = true
  · have hcore : (({ s with works := s.works ++ [w], nextId := s.nextId + 1 } : State).upd w.core fun k => (k.bump w.cc).count 21 w.tags).core
        w.core = ((s.core w.core).bump w.cc).count 21 w.tags := State.core_upd_self w.core _ hc
    refine hrest (fun k => (k.bump w.cc).count 21 w.tags) (fun k => ?_) { s with works := s.works ++ [w], nextId := s.nextId + 1 } hcore ?_
    · exact ⟨by rw [Core.count_tiles]; rfl, by rw [Core.count_tm]; rfl, by rw [Core.count_car]; rfl, by rw [Core.count_tr_status]; rfl⟩
    · unfold pushWork
      simp only [if_pos hcc, if_pos ht]
      rw [contend_none, ite_self]
      rw [hcore, (Core.bump_count_bumped _ hcc _ _).arr, hu]
  · refine hrest (fun k => k.bump w.cc) (fun _ => ⟨rfl, rfl, rfl, rfl⟩) { s with
      works := s.works ++ [{ w with stage := .untagged }]
      nextId := s.nextId + 1 } (State.core_upd_self w.core _ hc) ?_
    unfold pushWork
    simp only [if_pos hcc, if_neg ht]

/-- Core `c` has issued an instruction of two words, its counters, registers and tiles being as they were. -/
structure Core.Issued (k k' : Core) : Prop where
  cnt : k'.cnt = k.cnt
  flow : k'.flow = k.flow.advance true
  x : k'.x = k.x
  v : k'.v = k.v
  tiles : k'.tiles = k.tiles

/-- The work `w` as it enters: on its way, or waiting for its tags. -/
def State.admitted (s : State) (w : Work) : Work := { w with stage := if s.tagsFree w then .going else .untagged }

theorem State.tagsFree_congr {v w : Work} (hc : v.core = w.core) (ht : v.tags = w.tags) : s.tagsFree v = s.tagsFree w := by
  unfold State.tagsFree Work.need
  rw [hc, ht]

/-- A state in which the core has entered work and issued; `f` may have put off the ends of work under way. -/
theorem State.entered_of_pushed {w0 : Work} {f : Work → Work} {g : Core → Core} (h : s.Ready c) (hcore : w0.core = c) (hcc : w0.cc = cc.toNat)
    (hstage : w0.stage = .going) (hpc : w0.pc = (s.core c).flow.pc) (hf : ∀ v, (f v).untimed = v.untimed)
    (hworks : t.works = (pushWork w0 s).works.map f) (hcores : t.cores = ((pushWork w0 s).upd c g).cores) (hmem : t.mem = (pushWork w0 s).mem)
    (hg : ((pushWork w0 s).core c).Issued (g ((pushWork w0 s).core c))) :
    s.Entered t c true cc (f (s.admitted w0)) ∧ t.core c = g ((pushWork w0 s).core c) := by
  subst hcore
  have hlt : w0.cc < 16 := hcc.trans_lt cc.isLt
  obtain ⟨hpushed, hpmem, -, hother⟩ := pushWork_spec h.core hlt hstage h.update
  have hk := pushWork_counted h.core hlt hstage h.update
  have hself : t.core w0.core = g ((pushWork w0 s).core w0.core) := by
    rw [State.core, hcores]
    exact State.core_upd_self w0.core g h.core
  have hunt {β : Type} (p : Work → β) (hp : ∀ v, p v = p v.untimed) : p (f (s.admitted w0)) = p (s.admitted w0) := by rw [hp, hf, ← hp]
  have hlast : t.works = s.works.map f ++ [f (s.admitted w0)] := by rw [hworks, hpushed, List.map_append]; rfl
  have hwcore := hunt Work.core fun _ => rfl
  refine ⟨⟨?_, by rw [hlast]; simp, hwcore, (hunt Work.cc fun _ => rfl).trans hcc, ?_, (hunt Work.pc fun _ => rfl).trans hpc, ?_,
    ?_, ?_, ?_, ?_, hmem.trans hpmem, fun d hd => ?_⟩, hself⟩
  · have hfun : Work.untimed ∘ f = Work.untimed := funext hf
    simp [hlast, hfun, hf]
  · rw [hunt Work.stage fun _ => rfl, State.tagsFree_congr hwcore (hunt Work.tags fun _ => rfl)]
    rfl
  · rw [hself, Core.outst, hg.cnt, ← hcc]
    exact hk.outst
  · rw [hself, hg.flow, hk.flow]
  · rw [hself, hg.x, hk.x]
  · rw [hself, hg.v, hk.v]
  · rw [hself, hg.tiles, hk.tiles]
  · rw [State.core, hcores]
    exact (State.core_upd_ne g hd.symm).trans (hother d hd)

/-! ### TMOV and TZERO (R184, R187, R188) -/

theorem Core.untag_retire_issued (k : Core) (n : Nat) : k.Issued ((k.untag n).retire true) :=
  ⟨by rw [Core.retire_cnt, Core.untag_cnt], by rw [Core.retire_flow, Core.untag_flow], by rw [Core.retire_x, Core.untag_x],
    by rw [Core.retire_v, Core.untag_v], by rw [Core.retire_tiles, Core.untag_tiles]⟩

/-- Work of the file channel enters once its checks have passed. -/
theorem pushFile_enters (h : s.Ready c) (hh : c < 144) (he : e.wide = true) {check : State → Option Trap} (hc : check s = none) {kind : WorkKind}
    {dst rows : Nat} {eff : State → State} (heff : eff s = pushFile c cc kind dst rows s) :
    ∃ t w, issueE c e check eff s = .next t ∧ s.Entered t c true cc w ∧ w.kind = kind := by
  obtain ⟨time, hpush⟩ : ∃ time, pushFile c cc kind dst rows s =
    (pushWork { newWork s c cc.toNat kind 0 [] [] with
      tags := 0
      time := time } s).upd c fun k => k.untag dst := ⟨_, rfl⟩
  let w0 : Work := { newWork s c cc.toNat kind 0 [] [] with
    tags := 0
    time := time }
  have hrun : issueE c e check eff s = .next _ :=
    (issueE_ready h hh (fun _ => rfl) check eff hc).trans (by rw [heff, hpush, he, State.upd_upd _ _ _ h.core, done])
  refine ⟨_, _, hrun, State.entered_of_pushed (w0 := w0) (f := id) (g := fun k => (k.untag dst).retire true) h rfl rfl rfl rfl (fun _ => rfl)
    (by simp [w0]) rfl rfl (Core.untag_retire_issued _ dst) |>.1, rfl⟩

/-- The checks of TMOV (R183, R188). -/
def tmovFault (s : State) (c : Nat) (dst src : BitVec 4) (cvt ovf : Bool) (cc : BitVec 4) : Option Trap :=
  let e := encTmov dst src cvt ovf false cc
  let k := s.core c
  let d := k.shape dst.toNat
  let r := k.shape src.toNat
  firstOf [
    illegalCc e k (ovf && !cvt) cc,
    tileIf s c e (!d.cfg) 1 0 dst.toNat,
    tileIf s c e (!r.cfg) 1 1 src.toNat,
    tileIf s c e (d.rows != r.rows || d.cols != r.cols) 4 1 src.toNat,
    tileIf s c e (if cvt then !cvtPair r.fmt.toNat d.fmt.toNat else r.fmt != d.fmt) 5 1 src.toNat,
    k.ccFull cc]
/-- The checks of TZERO. -/
def tzeroFault (s : State) (c : Nat) (dst cc : BitVec 4) : Option Trap :=
  let e := encTmov dst 0 false false true cc
  let k := s.core c
  firstOf [illegalCc e k false cc, tileIf s c e (!(k.shape dst.toNat).cfg) 1 0 dst.toNat, k.ccFull cc]

section
variable {dst src : BitVec 4} {cvt ovf : Bool}

/-- On a free counter, the first condition of TMOV that fails gives the fault. -/
theorem tmovFault_eq (h : (s.core c).CcFree cc) {d r : TShape} (hd : (s.core c).shape dst.toNat = d) (hr : (s.core c).shape src.toNat = r) :
    tmovFault s c dst src cvt ovf cc =
    let e := encTmov dst src cvt ovf false cc
    if ovf = true ∧ cvt = false then some (illegal e 0)
    else if d.cfg = false then some (tileShape e 1 0 (s.tshape c dst.toNat))
    else if r.cfg = false then some (tileShape e 1 1 (s.tshape c src.toNat))
    else if d.rows ≠ r.rows ∨ d.cols ≠ r.cols then some (tileShape e 4 1 (s.tshape c src.toNat))
    else if (if cvt then cvtPair r.fmt.toNat d.fmt.toNat = false else r.fmt ≠ d.fmt) then some (tileShape e 5 1 (s.tshape c src.toNat))
    else none := by
  unfold tmovFault
  simp only [hd, hr, h.firstOf_illegalCc, firstOf_tileIf, h.ccFull, firstOf_none, firstOf_nil]
  cases cvt <;> simp
theorem tzeroFault_eq (h : (s.core c).CcFree cc) : tzeroFault s c dst cc =
    if ((s.core c).shape dst.toNat).cfg = false then some (tileShape (encTmov dst 0 false false true cc) 1 0 (s.tshape c dst.toNat)) else none := by
  unfold tzeroFault
  simp [h.firstOf_illegalCc, firstOf_tileIf, h.ccFull]

theorem exec_tmov_enters (h : s.Ready c) (hh : c < 144) (hf : tmovFault s c dst src cvt ovf cc = none) :
    ∃ t w, exec (.tmov c dst src cvt ovf cc) s = .next t ∧ s.Entered t c true cc w ∧
      w.kind = .tmov dst src cvt ovf ((s.core c).shape dst.toNat) ((s.core c).shape src.toNat) := by
  rw [exec_tmov]
  exact pushFile_enters h hh rfl hf rfl
theorem exec_tmov_traps (h : s.Ready c) (hh : c < 144) {x : Trap} (hf : tmovFault s c dst src cvt ovf cc = some x) :
    exec (.tmov c dst src cvt ovf cc) s = .next { takeException c x s with pending := s.pending } := by
  rw [exec_tmov]
  exact issueE_trap h hh _ hf
theorem exec_tzero_enters (h : s.Ready c) (hh : c < 144) (hf : tzeroFault s c dst cc = none) :
    ∃ t w, exec (.tzero c dst cc) s = .next t ∧ s.Entered t c true cc w ∧ w.kind = .tzero dst ((s.core c).shape dst.toNat) := by
  rw [exec_tzero]
  exact pushFile_enters h hh rfl hf rfl
theorem exec_tzero_traps (h : s.Ready c) (hh : c < 144) {x : Trap} (hf : tzeroFault s c dst cc = some x) :
    exec (.tzero c dst cc) s = .next { takeException c x s with pending := s.pending } := by
  rw [exec_tzero]
  exact issueE_trap h hh _ hf
end

/-! ### TCFG (R178, R180, R181, R211) -/

section
variable {tl fmt : BitVec 4} {colsm1 : BitVec 11} {rowsm1 : BitVec 7}

/-- The shape that TCFG names. -/
def tcfgShape (fmt : BitVec 4) (colsm1 : BitVec 11) (rowsm1 : BitVec 7) : TShape := ⟨true, fmt, colsm1.toNat + 1, rowsm1.toNat + 1⟩
/-- The checks of TCFG. -/
def tcfgFault (s : State) (c : Nat) (tl fmt : BitVec 4) (colsm1 : BitVec 11) (rowsm1 : BitVec 7) : Option Trap :=
  let e := encTcfg tl fmt colsm1 rowsm1
  let n := tl.toNat
  let new := tcfgShape fmt colsm1 rowsm1
  let cap := maxCols (fileOf n) fmt.toNat
  if cap = 0 then some (tileShape e 2 0 new.word)
  else if cap < new.cols ∨ new.cols % colMult fmt.toNat ≠ 0 then some (tileShape e 3 0 new.word)
  else if (s.core c).shape n ≠ new ∧ s.inflight c n then
    some { cause := 0x0F, reason := if s.moverOn c n then 1 else 2, index := BitVec.ofNat 16 n,
           edata0 := e.data, edata1 := BitVec.ofNat 64 new.word }
  else none
/-- A core whose tile `n` takes the shape `new`. -/
def Core.reshape (k : Core) (n : Nat) (new : TShape) : Core :=
  if k.shape n = new then k else (k.setTile n { k.tile n with shape := new }).untag n

theorem exec_tcfg_reshapes (h : s.Ready c) (hh : c < 144) (hf : tcfgFault s c tl fmt colsm1 rowsm1 = none) :
    exec (.tcfg c tl fmt colsm1 rowsm1) s =
      .next (s.upd c fun k => (k.reshape tl.toNat (tcfgShape fmt colsm1 rowsm1)).retire true) := by
  rw [exec_tcfg]
  exact issueE_core h hh rfl _ hf
theorem exec_tcfg_traps (h : s.Ready c) (hh : c < 144) {x : Trap} (hf : tcfgFault s c tl fmt colsm1 rowsm1 = some x) :
    exec (.tcfg c tl fmt colsm1 rowsm1) s = .next { takeException c x s with pending := s.pending } := by
  rw [exec_tcfg]
  exact issueE_trap h hh _ hf
end

section
variable (k : Core) {n : Nat} (new : TShape) (hn : n < 16)

theorem Core.reshape_x : (k.reshape n new).x = k.x := by
  unfold Core.reshape
  split
  · rfl
  · exact Core.untag_x _ _
theorem Core.reshape_v : (k.reshape n new).v = k.v := by
  unfold Core.reshape
  split
  · rfl
  · exact Core.untag_v _ _
theorem Core.reshape_flow : (k.reshape n new).flow = k.flow := by
  unfold Core.reshape
  split
  · rfl
  · exact Core.untag_flow _ _
theorem Core.reshape_svalid : (k.reshape n new).arr.svalid = if k.shape n ≠ new ∧ k.arr.stag = n then false else k.arr.svalid := by
  unfold Core.reshape
  by_cases h : k.shape n = new
  · rw [if_pos h, if_neg fun g => g.1 h]
  · rw [if_neg h, Core.untag_svalid]
    simp only [h, ne_eq, not_false_eq_true, true_and]
    rfl
theorem Core.reshape_tile_ne {i : Nat} (hi : i ≠ n) : (k.reshape n new).tile i = k.tile i := by
  unfold Core.reshape
  split
  · rfl
  · rw [Core.tile, Core.untag_tiles]
    exact Core.setTile_ne k hi _
include hn in
/-- The tile takes the shape, and keeps its contents. -/
theorem Core.reshape_tile : (k.reshape n new).tile n = { k.tile n with shape := new } := by
  unfold Core.reshape
  split
  · next h => exact h ▸ rfl
  · rw [Core.tile, Core.untag_tiles]
    exact Core.setTile_self k hn _
end

/-- Settles O30: the checks of the three instructions one by one, the shape that TCFG gives and the work that the others enter. -/
theorem tileShapes : Obligations.TileShapes := by
  unfold Obligations.TileShapes
  refine ⟨fun s c tl fmt colsm1 rowsm1 h hh => ?_, fun s c dst src cc cvt ovf h hh => ?_⟩
  · intro k n new cap fits bad
    have hbad {x y : Trap} (hf : tcfgFault s c tl fmt colsm1 rowsm1 = some y) (hxy : { x with
        edata0 := (encTcfg tl fmt colsm1 rowsm1).data
        edata1 := BitVec.ofNat 64 new.word } = y) : bad x := (exec_tcfg_traps h hh hf).trans (by rw [← hxy])
    have hfits : fits → ¬ cap = 0 ∧ ¬ (cap < new.cols ∨ new.cols % colMult fmt.toNat ≠ 0) := fun ⟨h0, hmost, hmult⟩ => ⟨h0, by omega⟩
    refine ⟨fun hfit hfree => ?_, fun hcap => hbad (if_pos hcap) rfl, fun hcap hnot => hbad ((if_neg hcap).trans (if_pos ?_)) rfl,
      fun hfit hnew hfly => hbad (((if_neg (hfits hfit).1).trans (if_neg (hfits hfit).2)).trans (if_pos ⟨hnew, hfly⟩)) ?_⟩
    · have hrun := exec_tcfg_reshapes h hh (((if_neg (hfits hfit).1).trans (if_neg (hfits hfit).2)).trans (if_neg fun g => ?_))
      · have htile := k.reshape_tile new tl.isLt
        refine ⟨_, hrun, ?_⟩
        rw [State.core_upd_self c _ h.core]
        refine ⟨?_, ?_, ?_, fun i hi => ?_, ?_, ?_, ?_, ?_, .upd s c _⟩
        · rw [Core.shape, Core.retire_tile]
          exact congrArg Tile.shape htile
        · rw [Core.retire_tile]
          exact (congrArg Tile.data htile).trans rfl
        · rw [Core.retire_tile]
          exact (congrArg Tile.scale htile).trans rfl
        · rw [Core.retire_tile]
          exact k.reshape_tile_ne new hi
        · rw [Core.retire_arr]
          exact k.reshape_svalid new
        · rw [Core.retire_x]
          exact k.reshape_x new
        · rw [Core.retire_v]
          exact k.reshape_v new
        · rw [Core.retire_flow]
          exact congrArg (Flow.advance · true) (k.reshape_flow new)
      · rcases hfree with hsame | hidle
        · exact g.1 hsame
        · exact absurd g.2 (by rw [show s.inflight c tl.toNat = false from hidle]; exact Bool.false_ne_true)
    · by_contra hn
      exact hn (or_iff_not_imp_left.2 fun hle hmult => hnot ⟨hcap, Nat.not_lt.1 hle, hmult⟩)
    · simp [n, new, tcfgShape]
  · intro k d r hcc
    have hcheck := tmovFault_eq (d := d) (r := r) (cvt := cvt) (ovf := ovf) hcc rfl rfl
    have hzero : tzeroFault s c dst cc = if d.cfg = false then _ else none := tzeroFault_eq hcc
    refine ⟨fun hd hr hrows hcols hovf hpair hfmt => exec_tmov_enters h hh ?_, fun hd => exec_tzero_enters h hh (by simp [hzero, hd]), ?_⟩
    · have hform : ¬ (ovf = true ∧ cvt = false) := fun g => by simp [hovf g.1] at g
      have hformat : ¬ if cvt = true then cvtPair r.fmt.toNat d.fmt.toNat = false else r.fmt ≠ d.fmt := by
        cases cvt with
        | false => simpa using hfmt rfl
        | true => simpa using hpair rfl
      rw [hcheck]
      simp only [hform, hd, hr, hrows, hcols, if_neg hformat]
      simp
    · intro bad e
      refine ⟨fun hd => exec_tzero_traps h hh (by simp [hzero, hd]), fun ho hv => exec_tmov_traps h hh (hcheck.trans (if_pos ⟨ho, hv⟩)), fun hovf => ?_⟩
      have hform : ¬ (ovf = true ∧ cvt = false) := fun g => by simp [hovf g.1] at g
      refine ⟨fun hd => exec_tmov_traps h hh ?_, fun hd hr => exec_tmov_traps h hh ?_, fun hd hr hsize => exec_tmov_traps h hh ?_,
        fun hd hr hrows hcols hfmt => exec_tmov_traps h hh ?_⟩ <;> rw [hcheck]
      · simp [hform, hd, e]
      · simp [hform, hd, hr, e]
      · simp [hform, hd, hr, if_pos hsize, e]
      · simp [hform, hd, hr, hrows, hcols, if_pos hfmt, e]

end Sys2Proof.Machine
end

section
/-! SUPPORT. TLD and TST as they issue: their fields, shapes and addresses, and the work that they enter (R192 to R197, R201). -/

namespace Sys2Proof.Machine

variable {s : State} {c : Nat} {k : Core} {x : TileXfer} {sh : TShape} {e : Enc} {store : Bool}

/-! ### Fields and shapes (R192, R194) -/

/-- The fields of a transfer are legal. -/
def XferLegal (x : TileXfer) (store : Bool) : Prop :=
  let f := x.mfmt.toNat
  f ∈ [0, 2, 4, 5, 6, 7, 8, 9, 10, 11] ∧ (x.sr = true → store = true ∧ x.cvt = true) ∧ (x.ovf = true → x.cvt = true) ∧
  (x.car = false → x.set = 0) ∧ (x.car = true → x.rs2 = 0 ∧ f ≠ 10) ∧ (f ≠ 10 → x.rs3 = 0) ∧
  (x.raw = true → x.tr = false ∧ x.cvt = false ∧ x.sr = false ∧ x.ovf = false ∧ x.car = false ∧ f = 0 ∧ x.rs2 = 0 ∧ x.rs3 = 0)
/-- The tile's shape and formats agree with a transfer that is not raw, and its memory rows have a form. -/
def XferShaped (x : TileXfer) (sh : TShape) (src tgt : BitVec 4) : Prop :=
  let f := x.mfmt.toNat
  sh.cfg = true ∧ (if x.cvt then cvtPair src.toNat tgt.toNat = true else src = tgt) ∧
  (f = 9 → xferCols x sh % 2 = 0) ∧ (f = 11 → xferCols x sh % 8 = 0) ∧ (f = 10 → xferCols x sh % 32 = 0) ∧ (x.tr = true → f ≠ 10 ∧ f ≠ 11)

theorem xferIllegal_eq_false : xferIllegal x store = false ↔ XferLegal x store := by
  have hmem : x.mfmt.toNat ∈ [0, 2, 4, 5, 6, 7, 8, 9, 10, 11] ↔ x.mfmt.toNat ≠ 1 ∧ x.mfmt.toNat ≠ 3 ∧ x.mfmt.toNat < 12 := by
    simp only [List.mem_cons, List.not_mem_nil, or_false]
    omega
  have hfmt (n : BitVec 4) : x.mfmt = n ↔ x.mfmt.toNat = n.toNat := BitVec.toNat_inj.symm
  have hscale : (¬ x.rs3 = 0#5 → x.mfmt.toNat = 10) ↔ (¬ x.mfmt.toNat = 10 → x.rs3 = 0#5) := not_imp_comm
  unfold xferIllegal XferLegal
  simp [hmem, hfmt, hscale, and_assoc]
theorem xferIllegal_iff : xferIllegal x store = true ↔ ¬ XferLegal x store := by
  rw [← xferIllegal_eq_false, Bool.not_eq_false]

theorem XferShaped.layout {src tgt : BitVec 4} (h : XferShaped x sh src tgt) : noLayout x sh = false := by
  obtain ⟨-, -, h9, h11, h10, htr⟩ := h
  unfold noLayout
  simp only [Bool.or_eq_false_iff, Bool.and_eq_false_iff, beq_eq_false_iff_ne, bne_eq_false_iff_eq]
  refine ⟨⟨⟨?_, ?_⟩, ?_⟩, ?_⟩
  · exact not_or_of_imp h9
  · exact not_or_of_imp h11
  · exact not_or_of_imp h10
  · cases hx : x.tr
    · exact .inl rfl
    · exact .inr (htr hx)

/-! ### Addresses (R194, R196, R197) -/

/-- The address that a Carousel transfer computes for memory row `i`, as a number without bound. -/
def xferSum (k : Core) (x : TileXfer) (sh : TShape) (i : Nat) : Nat :=
  (k.cb x.set).toNat + k.carOff x.set (xferRowBytes x sh) (k.carIdx x.set (k.rx x.rs1) i)
theorem xferRow_car (h : x.car = true) (i : Nat) : xferRow k x sh i = BitVec.ofNat 64 (xferSum k x sh i) := by
  rw [xferRow, if_pos h, Word.plus, xferSum, BitVec.ofNat_add, BitVec.ofNat_toNat, BitVec.setWidth_eq]
theorem xferRow_pitch (h : x.car = false) (i : Nat) : xferRow k x sh i = k.rx x.rs1 + BitVec.ofNat 64 i * k.rx x.rs2 := if_neg (by simp [h])

/-- The addresses of a transfer that is not raw are right. -/
def XferAddressed (k : Core) (x : TileXfer) (sh : TShape) : Prop :=
  let rb := xferRowBytes x sh
  let aligned (v : Word) : Prop := v.toNat % elemBytes x.mfmt.toNat = 0
  if x.car then (∃ m, rb = 2 ^ m) ∧ k.carOk x.set rb = true ∧
    ∀ i, i < xferRows x sh → xferSum k x sh i < 2 ^ 64 ∧ aligned (xferRow k x sh i) ∧ k.inWindow (xferRow k x sh i).toNat rb = true
  else aligned (k.rx x.rs1) ∧ aligned (k.rx x.rs2) ∧ (x.mfmt.toNat = 10 → aligned (k.rx x.rs3))

theorem isPow2_two_pow (m : Nat) : isPow2 (2 ^ m) = true := by simp [isPow2, Nat.log2_two_pow]

theorem xferAddr_none (hraw : x.raw = false) (h : XferAddressed k x sh) : xferAddr k x sh = none := by
  unfold XferAddressed at h
  unfold xferAddr
  simp only [hraw, Bool.false_eq_true, if_false]
  cases hcar : x.car
  · rw [hcar] at h
    obtain ⟨h1, h2, h3⟩ := h
    simp [h1, h2]
    exact fun hf => h3 (congrArg BitVec.toNat hf)
  · rw [hcar] at h
    obtain ⟨⟨m, hm⟩, hok, hrows⟩ := h
    have hnone {p : Word × Nat → Bool} (hp : ∀ i, i < xferRows x sh → p (xferRow k x sh i, i) = false) :
        ((List.range (xferRows x sh)).map fun i => (xferRow k x sh i, i)).find? p = none := by
      rw [List.find?_map]
      exact Option.map_eq_none_iff.2 (List.find?_range_eq_none.2 fun i hi => by simpa using hp i hi)
    have hpow : isPow2 (xferRowBytes x sh) = true := by rw [hm]; exact isPow2_two_pow m
    rw [hnone fun i hi => by simpa using (hrows i hi).2.1, hnone fun i hi => ?_]
    · simp [hpow, hok]
    · obtain ⟨hsum, -, hin⟩ := hrows i hi
      simpa [hin, xferSum] using hsum
theorem xferAddr_base (hraw : x.raw = false) (hcar : x.car = false) (h : (k.rx x.rs1).toNat % elemBytes x.mfmt.toNat ≠ 0) :
    xferAddr k x sh = some (misaligned (k.rx x.rs1) k.flow.pc 0) := by
  simp [xferAddr, hraw, hcar, h]
theorem xferAddr_raw (hraw : x.raw = true) :
    xferAddr k x sh = if (k.rx x.rs1).toNat % 64 ≠ 0 then some (misaligned (k.rx x.rs1) k.flow.pc 0) else none := if_pos hraw

/-! ### The checks in their order (R201) -/

theorem firstOf_last (y : Option Trap) : firstOf [y, none] = y := by cases y <;> rfl

/-- On a free counter, the first check of a transfer that fails gives the fault. -/
theorem xferFault_eq {src tgt : BitVec 4} (hcc : (s.core c).CcFree x.cc) (hsh : (s.core c).shape x.tile.toNat = sh)
    (hsrc : src = if store then sh.fmt else x.mfmt) (htgt : tgt = if store then x.mfmt else sh.fmt) : xferFault c e x store s =
    if xferIllegal x store then some (illegal e 0)
    else if x.raw = false ∧ sh.cfg = false then some (tileShape e 1 0 (s.tshape c x.tile.toNat))
    else if x.raw = false ∧ (if x.cvt then cvtPair src.toNat tgt.toNat = false else src ≠ tgt) then
      some (tileShape e 5 0 (s.tshape c x.tile.toNat))
    else if x.raw = false ∧ noLayout x sh = true then some (tileShape e 6 0 (s.tshape c x.tile.toNat))
    else xferAddr (s.core c) x sh := by
  unfold xferFault
  simp only [hsh, hcc.firstOf_illegalCc, firstOf_tileIf, hcc.ccFull]
  subst hsrc htgt
  cases store <;> cases x.cvt <;> simp [BitVec.toNat_inj, firstOf_last]

section
variable {src tgt : BitVec 4} (hcc : (s.core c).CcFree x.cc) (hsh : (s.core c).shape x.tile.toNat = sh)
  (hsrc : src = if store then sh.fmt else x.mfmt) (htgt : tgt = if store then x.mfmt else sh.fmt)
include hcc hsh

theorem xferFault_illegal (hl : ¬ XferLegal x store) : xferFault c e x store s = some (illegal e 0) := by
  rw [xferFault_eq hcc hsh rfl rfl, if_pos (xferIllegal_iff.2 hl)]
/-- A transfer with legal fields goes on to its shape and its addresses. -/
theorem xferFault_raw (hl : XferLegal x store) (hraw : x.raw = true) : xferFault c e x store s = xferAddr (s.core c) x sh := by
  rw [xferFault_eq hcc hsh rfl rfl, if_neg (mt xferIllegal_iff.1 (not_not_intro hl))]
  simp [hraw]
theorem xferFault_unconfigured (hl : XferLegal x store) (hraw : x.raw = false) (hcfg : sh.cfg = false) :
    xferFault c e x store s = some (tileShape e 1 0 (s.tshape c x.tile.toNat)) := by
  rw [xferFault_eq hcc hsh rfl rfl, if_neg (mt xferIllegal_iff.1 (not_not_intro hl)), if_pos ⟨hraw, hcfg⟩]
include hsrc htgt
theorem xferFault_shaped (hl : XferLegal x store) (h : XferShaped x sh src tgt) : xferFault c e x store s = xferAddr (s.core c) x sh := by
  obtain ⟨hcfg, hfmt, -⟩ := id h
  have hconv : ¬ (if x.cvt then cvtPair src.toNat tgt.toNat = false else src ≠ tgt) := by
    cases hcvt : x.cvt <;> simpa [hcvt] using hfmt
  rw [xferFault_eq hcc hsh hsrc htgt, if_neg (mt xferIllegal_iff.1 (not_not_intro hl)), if_neg (by simp [hcfg]), if_neg fun g => hconv g.2,
    if_neg (by simp [h.layout])]

/-- A transfer whose fields, shape and addresses are right has no fault at issue. -/
theorem xferFault_none (hl : XferLegal x store)
    (hr : if x.raw then ((s.core c).rx x.rs1).toNat % 64 = 0 else XferShaped x sh src tgt ∧ XferAddressed (s.core c) x sh) :
    xferFault c e x store s = none := by
  split_ifs at hr with hraw
  · rw [xferFault_raw hcc hsh hl hraw, xferAddr_raw hraw, if_neg (not_not_intro hr)]
  · rw [xferFault_shaped hcc hsh hsrc htgt hl hr.1, xferAddr_none (Bool.eq_false_iff.2 hraw) hr.2]
end

/-! ### The memory of a transfer (R194, R197) -/

theorem rawBytes_eq (n : Nat) : rawBytes n = if n < 8 then 34816 else if n < 12 then 65536 else 32768 := by
  unfold rawBytes fileOf
  by_cases h8 : n < 8
  · simp [h8]
  · by_cases h12 : n < 12 <;> simp [h8, h12]

theorem xferRuns_eq : xferRuns k x sh = if x.raw then [(k.rx x.rs1, rawBytes x.tile.toNat)] else
    ((List.range (xferRows x sh)).map fun i => (xferRow k x sh i, xferRowBytes x sh)) ++
      if x.mfmt.toNat = 10 then (List.range (xferRows x sh)).map fun i =>
        (k.rx x.rs3 + BitVec.ofNat 64 (i * (xferCols x sh / 32)), xferCols x sh / 32) else [] := by
  unfold xferRuns
  simp only [Word.plus, ← BitVec.toNat_inj (x := x.mfmt)]
  rfl

/-! ### The work that enters (R184, R196, R290) -/

/-- A transfer that begins puts off no more than the ends of work under way. -/
theorem shareChannel_retimes (c i : Nat) (s : State) : ∃ f : Work → Work, (∀ v, (f v).untimed = v.untimed) ∧
    (shareChannel c i s).works = s.works.map f ∧ (shareChannel c i s).cores = s.cores ∧ (shareChannel c i s).mem = s.mem := by
  have hsame : ∃ f : Work → Work, (∀ v, (f v).untimed = v.untimed) ∧ s.works = s.works.map f ∧ s.cores = s.cores ∧ s.mem = s.mem :=
    ⟨id, fun _ => rfl, by rw [List.map_id], rfl, rfl⟩
  unfold shareChannel
  dsimp only
  split
  · exact hsame
  · split
    · exact hsame
    · refine ⟨_, fun v => ?_, rfl, rfl, rfl⟩
      split_ifs <;> rfl

/-- The index register's step of a Carousel transfer. -/
def xferIndex (k : Core) (x : TileXfer) (sh : TShape) : List Pend :=
  if x.car then [⟨k.tm.step + 1, .x k.bank x.rs1 (BitVec.ofNat 64 (k.carIdx x.set (k.rx x.rs1) (xferRows x sh))), none⟩] else []
/-- A core after a transfer has entered: its index lands at distance 1, and a load makes its tile new, a stochastic store moves its counter on. -/
def Core.afterXfer (k : Core) (x : TileXfer) (sh : TShape) (store : Bool) : Core :=
  let k := if x.car then k.landX 1 x.rs1 (BitVec.ofNat 64 (k.carIdx x.set (k.rx x.rs1) (xferRows x sh))) else k
  if store then (if x.sr then { k with arr := { k.arr with srctr := k.arr.srctr + 1 } } else k) else k.untag x.tile.toNat

section
variable (k : Core) (x : TileXfer) (sh : TShape) (store : Bool)

/-- It changes its array and its pending writes only. -/
theorem Core.afterXfer_eq : ∃ a, k.afterXfer x sh store = { (if x.car then
    k.landX 1 x.rs1 (BitVec.ofNat 64 (k.carIdx x.set (k.rx x.rs1) (xferRows x sh))) else k) with arr := a } := by
  unfold Core.afterXfer
  dsimp only
  generalize (if x.car then k.landX 1 x.rs1 (BitVec.ofNat 64 (k.carIdx x.set (k.rx x.rs1) (xferRows x sh))) else k) = k'
  split
  · split
    · exact ⟨_, rfl⟩
    · exact ⟨k'.arr, rfl⟩
  · unfold Core.untag
    dsimp only
    split <;> exact ⟨_, rfl⟩

theorem Core.afterXfer_issued : k.Issued ((k.afterXfer x sh store).retire true) := by
  obtain ⟨a, ha⟩ := k.afterXfer_eq x sh store
  rw [ha]
  cases x.car <;> exact ⟨Core.retire_cnt .., Core.retire_flow .., Core.retire_x .., Core.retire_v .., Core.retire_tiles ..⟩
theorem Core.afterXfer_pend (h : k.tm.pend = []) : ((k.afterXfer x sh store).retire true).tm.pend = xferIndex k x sh := by
  obtain ⟨a, ha⟩ := k.afterXfer_eq x sh store
  rw [ha, Core.retire_tm, xferIndex]
  cases hcar : x.car
  · exact h
  · show insertPend _ k.tm.pend = _
    rw [h]
    rfl
end

/-- The index register's step is that of a core that counts one more piece of work. -/
theorem xferIndex_counted {k k' : Core} {i : Nat} (h : k.Counted k' i) (x : TileXfer) (sh : TShape) : xferIndex k' x sh = xferIndex k x sh := by
  have hrx : k'.rx x.rs1 = k.rx x.rs1 := by rw [Core.rx, Core.bank, h.x, h.status]; rfl
  have hidx (v : Word) (n : Nat) : k'.carIdx x.set v n = k.carIdx x.set v n := by unfold Core.carIdx Core.stride Core.cl; rw [h.car]
  unfold xferIndex
  rw [hrx, hidx, h.tm, Core.bank, h.status]
  rfl

/-- What two pieces of work that differ in their ends at most have in common. -/
theorem Work.eq_of_untimed {β : Type} {v w : Work} (h : v.untimed = w.untimed) (p : Work → β) (hp : ∀ v : Work, p v.untimed = p v) : p v = p w := by
  rw [← hp, h, hp]
theorem State.upd_cores_congr {s t : State} {f : Core → Core} (h : t.cores = s.cores) : (t.upd c f).cores = (s.upd c f).cores := by
  simp only [State.upd, State.setCore, State.core, h]

/-- What a command that is done answers, besides what it leaves of its queue. -/
theorem next_of_done {o : Out} {t : State} (h : o = done s t) : ∃ u, o = .next u ∧ u.works = t.works ∧ u.cores = t.cores ∧ u.mem = t.mem :=
  ⟨_, h, rfl, rfl, rfl⟩

/-- A transfer enters once its checks have passed. -/
theorem pushXfer_enters (h : s.Ready c) (hh : c < 144) (he : e.wide = true) {check : State → Option Trap} (hc : check s = none) {kind : WorkKind}
    {eff : State → State} (heff : eff s = pushXfer c x store kind s) (hsh : (s.core c).shape x.tile.toNat = sh) :
    ∃ t w, issueE c e check eff s = .next t ∧ s.Entered t c true x.cc w ∧ w.kind = kind ∧ w.runs = xferRuns (s.core c) x sh ∧ w.puts = [] ∧
      (t.core c).tm.pend = xferIndex (s.core c) x sh := by
  subst hsh
  let sh := (s.core c).shape x.tile.toNat
  obtain ⟨w0, ⟨hcore, hcc, hstage, hpc, hkind, hruns, hputs⟩, hpush⟩ : ∃ w0 : Work, (w0.core = c ∧ w0.cc = x.cc.toNat ∧ w0.stage = .going ∧
      w0.pc = (s.core c).flow.pc ∧ w0.kind = kind ∧ w0.runs = xferRuns (s.core c) x sh ∧ w0.puts = []) ∧
      pushXfer c x store kind s = (shareChannel c s.nextId (contend c (pushWork w0 s))).upd c fun k => k.afterXfer x sh store := by
    refine ⟨_, ?_, rfl⟩
    split <;> exact ⟨rfl, rfl, rfl, rfl, rfl, rfl, rfl⟩
  subst hcore
  have hlt : w0.cc < 16 := hcc.trans_lt x.cc.isLt
  have hk := pushWork_counted h.core hlt hstage h.update
  obtain ⟨f, hf, hworks, hcores, hmem⟩ := shareChannel_retimes w0.core s.nextId (pushWork w0 s)
  rw [contend_none (by rw [hk.arr]; exact h.update)] at hpush
  obtain ⟨t, hrun, htworks, htcores, htmem⟩ := next_of_done <| (issueE_ready h hh (fun _ => rfl) check eff hc).trans <|
    show _ = done s ((shareChannel w0.core s.nextId (pushWork w0 s)).upd w0.core fun k => (k.afterXfer x sh store).retire true) by
      rw [heff, hpush, he, State.upd_upd _ _ _ h.core]
  have hfkind : (f (s.admitted w0)).kind = w0.kind := Work.eq_of_untimed (hf _) Work.kind fun _ => rfl
  have hfruns : (f (s.admitted w0)).runs = w0.runs := Work.eq_of_untimed (hf _) Work.runs fun _ => rfl
  have hfputs : (f (s.admitted w0)).puts = w0.puts := Work.eq_of_untimed (hf _) Work.puts fun _ => rfl
  obtain ⟨hentered, hself⟩ := State.entered_of_pushed (t := t) (w0 := w0) (f := f) (g := fun k => (k.afterXfer x sh store).retire true) h rfl hcc
    hstage hpc hf (htworks.trans hworks) (htcores.trans (State.upd_cores_congr hcores)) (htmem.trans hmem) (Core.afterXfer_issued ..)
  refine ⟨t, _, hrun, hentered, hfkind.trans hkind, hfruns.trans hruns, hfputs.trans hputs, ?_⟩
  have hpend : ((pushWork w0 s).core w0.core).tm.pend = [] := (congrArg Timing.pend hk.tm).trans h.landed
  rw [hself, Core.afterXfer_pend _ x sh store hpend, xferIndex_counted hk]

theorem exec_tld_enters (h : s.Ready c) (hh : c < 144) (hf : xferFault c (encXfer 4 x) x false s = none)
    (hsh : (s.core c).shape x.tile.toNat = sh) :
    ∃ t w, exec (.tld c x) s = .next t ∧ s.Entered t c true x.cc w ∧ w.kind = .tld x sh ∧ w.runs = xferRuns (s.core c) x sh ∧ w.puts = [] ∧
      (t.core c).tm.pend = xferIndex (s.core c) x sh := by
  subst hsh
  exact pushXfer_enters h hh rfl hf rfl rfl
theorem exec_tst_enters (h : s.Ready c) (hh : c < 144) (hf : xferFault c (encXfer 5 x) x true s = none)
    (hsh : (s.core c).shape x.tile.toNat = sh) :
    ∃ t w, exec (.tst c x) s = .next t ∧ s.Entered t c true x.cc w ∧
      w.kind = .tst x sh (s.core c).arr.srctr (if (s.core c).arr.srSet then some (s.core c).arr.srkey else none) ∧
      w.runs = xferRuns (s.core c) x sh ∧ w.puts = [] ∧ (t.core c).tm.pend = xferIndex (s.core c) x sh := by
  subst hsh
  exact pushXfer_enters h hh rfl hf rfl rfl
theorem exec_tld_traps (h : s.Ready c) (hh : c < 144) {y : Trap} (hf : xferFault c (encXfer 4 x) x false s = some y) :
    exec (.tld c x) s = .next { takeException c y s with pending := s.pending } := by
  rw [exec_tld]
  exact issueE_trap h hh _ hf
theorem exec_tst_traps (h : s.Ready c) (hh : c < 144) {y : Trap} (hf : xferFault c (encXfer 5 x) x true s = some y) :
    exec (.tst c x) s = .next { takeException c y s with pending := s.pending } := by
  rw [exec_tst]
  exact issueE_trap h hh _ hf

end Sys2Proof.Machine
end

section
/-! SUPPORT. What a sound read of memory finds, and what a sound write leaves, beside its bytes, as it was (R345 to R351, R364, R380, R448,
R451). -/

namespace Sys2Proof.Machine

variable {s t u : State} {c : Nat}

/-! ### Steps that keep the first failure -/

/-- Steps that fail where `P` does not hold, keep a failure, and leave the state where they pass: none of them fails just where `P` holds
throughout. -/
theorem foldl_first_failure {α β : Type} {F : State × Option β → α → State × Option β} {P : State → α → Prop}
    (hkeep : ∀ s b a, (F (s, some b) a).2 ≠ none) (hpass : ∀ s a, P s a → F (s, none) a = (s, none))
    (hfail : ∀ s a, ¬ P s a → (F (s, none) a).2 ≠ none) (l : List α) (s : State) :
    ((∀ a ∈ l, P s a) ∧ l.foldl F (s, none) = (s, none)) ∨ (¬ (∀ a ∈ l, P s a) ∧ (l.foldl F (s, none)).2 ≠ none) := by
  have hstays (l : List α) (r : State × Option β) (h : r.2 ≠ none) : (l.foldl F r).2 ≠ none := by
    induction l generalizing r with
    | nil => exact h
    | cons a l ih =>
      obtain ⟨s, _ | b⟩ := r
      · exact absurd rfl h
      · exact ih _ (hkeep s b a)
  induction l with
  | nil => exact .inl ⟨by simp, rfl⟩
  | cons a l ih =>
    rw [List.foldl_cons, List.forall_mem_cons]
    by_cases ha : P s a
    · rw [hpass s a ha]
      exact ih.imp (fun h => ⟨⟨ha, h.1⟩, h.2⟩) fun h => ⟨fun g => h.1 g.2, h.2⟩
    · exact .inr ⟨fun g => ha g.1, hstays l _ (hfail s a ha)⟩

/-! ### Sound reads (R446, R448) -/

/-- Unit `a` does not fail a read: it was read before and did not, or it is neither poisoned nor lost. -/
def State.UnitSound (s : State) (seen : List (Nat × Option Byte)) (a : Nat) : Prop :=
  match seen.find? fun q => q.1 == a with
  | some q => q.2 = none
  | none => (s.isPoisoned a (ecUnit a) || s.lostAt a) = false
theorem State.unitSound_seen {seen : List (Nat × Option Byte)} {a : Nat} {q : Nat × Option Byte} (hq : (seen.find? fun q => q.1 == a) = some q) :
    s.UnitSound seen a ↔ q.2 = none := by
  rw [State.UnitSound, hq]
theorem State.unitSound_unseen {seen : List (Nat × Option Byte)} {a : Nat} (hq : (seen.find? fun q => q.1 == a) = none) :
    s.UnitSound seen a ↔ (s.isPoisoned a (ecUnit a) || s.lostAt a) = false := by
  rw [State.UnitSound, hq]
/-- Every page of a range is mapped for a read, and every unit of it is sound. -/
def State.RangeSound (s : State) (seen : List (Nat × Option Byte)) (part : Nat) (p : Priv) (wr : Bool) (q : Nat × Nat) : Prop :=
  ∃ pa, s.translate part p true wr q.1 = .ok pa ∧ ∀ a ∈ unitsOf pa q.2, s.UnitSound seen a

theorem meetUnit_sound {a : Nat} (h : (s.isPoisoned a (ecUnit a) || s.lostAt a) = false) (c : Nat) (pc : Word) (source : Nat) :
    meetUnit c pc source a .clean s = (s, none) := by
  unfold meetUnit
  rw [h]
  cases lineOf a <;> rfl
theorem meetUnit_unsound {a : Nat} (h : (s.isPoisoned a (ecUnit a) || s.lostAt a) = true) (c : Nat) (pc : Word) (source : Nat) :
    (meetUnit c pc source a .clean s).2 ≠ none := by
  unfold meetUnit
  rw [h]
  cases lineOf a <;> simp

/-- Reads to which the command gives no error: they leave the state as it was, or one of them meets an unsound unit and fails. -/
theorem meetUnits_cases (c : Nat) (pc : Word) (source : Nat) (seen : List (Nat × Option Byte)) (us : List Nat) (s : State) :
    ((∀ a ∈ us, s.UnitSound seen a) ∧ meetUnits c pc source .none seen us s = (s, none)) ∨
    (¬ (∀ a ∈ us, s.UnitSound seen a) ∧ (meetUnits c pc source .none seen us s).2 ≠ none) := by
  refine foldl_first_failure (P := fun s a => s.UnitSound seen a) (fun s b a => ?_) (fun s a h => ?_) (fun s a h => ?_) us s
  · dsimp only
    split <;> simp
  · obtain hq | ⟨q, hq⟩ := (seen.find? fun q => q.1 == a).eq_none_or_eq_some
    · dsimp only
      rw [hq]
      exact congrArg (fun r : State × Option Byte => (r.1, none.or r.2)) (meetUnit_sound ((State.unitSound_unseen hq).1 h) c pc source)
    · dsimp only
      rw [hq]
      simp [(State.unitSound_seen hq).1 h]
  · obtain hq | ⟨q, hq⟩ := (seen.find? fun q => q.1 == a).eq_none_or_eq_some
    · rw [State.unitSound_unseen hq] at h
      have hfail : (meetUnit c pc source a (errAt .none a) s).2 ≠ none := meetUnit_unsound (Bool.not_eq_false _ ▸ h) c pc source
      dsimp only
      rw [hq]
      simpa using hfail
    · rw [State.unitSound_seen hq] at h
      dsimp only
      rw [hq]
      simpa using h

/-- One page of a read to which the command gives no error. -/
def meetPage (c : Nat) (pc : Word) (seen : List (Nat × Option Byte)) (part : Nat) (p : Priv) (wr : Bool) (r : State × Option Byte) (q : Nat × Nat) :
    State × Option Byte :=
  match r.1.translate part p true wr q.1 with
  | .error e => (r.1, r.2.or (some e))
  | .ok pa =>
    let m := meetUnits c pc 1 .none seen (unitsOf pa q.2) r.1
    (m.1, r.2.or m.2)
theorem getVa_eq (c : Nat) (pc : Word) (seen : List (Nat × Option Byte)) (part : Nat) (p : Priv) (wr : Bool) (va n : Nat) (s : State) :
    getVa c pc .none seen part p wr va n s =
      let r := (pagesOf va n).foldl (meetPage c pc seen part p wr) (s, none)
      (r.1, match r.2 with
        | some e => .error e
        | none => s.readVa part p wr va n) := by
  show (match (pagesOf va n).foldl (meetPage c pc seen part p wr) (s, none) with
    | (s', bad) => match bad with
      | some e => (s', .error e)
      | none => (s', s.readVa part p wr va n) : State × Except Byte (List Byte)) = _
  generalize (pagesOf va n).foldl (meetPage c pc seen part p wr) (s, none) = r
  obtain ⟨s', _ | e⟩ := r <;> rfl

theorem getVa_cases (c : Nat) (pc : Word) (seen : List (Nat × Option Byte)) (part : Nat) (p : Priv) (wr : Bool) (va n : Nat) (s : State) :
    ((∀ q ∈ pagesOf va n, s.RangeSound seen part p wr q) ∧ getVa c pc .none seen part p wr va n s = (s, s.readVa part p wr va n)) ∨
    (¬ (∀ q ∈ pagesOf va n, s.RangeSound seen part p wr q) ∧ ∃ e, (getVa c pc .none seen part p wr va n s).2 = .error e) := by
  rw [getVa_eq]
  have hfold := foldl_first_failure (P := fun s q => s.RangeSound seen part p wr q) (F := meetPage c pc seen part p wr)
    (fun s b q => by unfold meetPage; dsimp only; split <;> simp) (fun s q ⟨pa, htr, hun⟩ => ?_) (fun s q h => ?_) (pagesOf va n) s
  · rcases hfold with ⟨hall, heq⟩ | ⟨hnot, hne⟩
    · exact .inl ⟨hall, by rw [heq]⟩
    · obtain ⟨e, he⟩ := Option.ne_none_iff_exists'.1 hne
      exact .inr ⟨hnot, e, by dsimp only; rw [he]⟩
  · rcases meetUnits_cases c pc 1 seen (unitsOf pa q.2) s with ⟨-, h⟩ | ⟨h, -⟩
    · simp [meetPage, htr, h]
    · exact absurd hun h
  · unfold meetPage
    dsimp only
    split
    · simp
    · next pa htr =>
      rcases meetUnits_cases c pc 1 seen (unitsOf pa q.2) s with ⟨hun, -⟩ | ⟨-, hne⟩
      · exact absurd ⟨pa, htr, hun⟩ h
      · simpa using hne

/-! ### States that map memory alike (R345, R351, R364) -/

/-- A page but for what a write marks. -/
def Page.unmarked (q : Page) : Page := { q with
  dirtyA := false
  dirtyB := false }

/-- Two states map every address alike: their pages differ in the marks of writes at most, and the same homes are in service. -/
structure State.SameMap (s t : State) : Prop where
  pages : t.place.pages.map Page.unmarked = s.place.pages.map Page.unmarked
  groups : t.place.groups = s.place.groups
  homeUp : ∀ pa, t.homeUp pa = s.homeUp pa

theorem State.page_unmarked (s : State) (part va : Nat) : (s.page part va).map Page.unmarked =
    (s.place.pages.map Page.unmarked).find? fun q => q.part == part && q.vpage == va / 0x10000 := by
  rw [List.find?_map]
  rfl
theorem State.SameMap.page (h : s.SameMap t) (part va : Nat) : (t.page part va).map Page.unmarked = (s.page part va).map Page.unmarked := by
  rw [State.page_unmarked, State.page_unmarked, h.pages]

theorem State.SameMap.translate (h : s.SameMap t) (part : Nat) (p : Priv) (rd wr : Bool) (va : Nat) :
    t.translate part p rd wr va = s.translate part p rd wr va := by
  have hap : t.aperture part va = s.aperture part va := by unfold State.aperture; rw [h.groups]
  have hpage := h.page part va
  unfold State.translate
  simp only [h.homeUp, hap]
  cases ht : t.page part va with
  | none =>
    rw [ht] at hpage
    rw [Option.map_eq_none_iff.1 hpage.symm]
  | some q =>
    rw [ht] at hpage
    obtain ⟨q', hs, hq⟩ := Option.map_eq_some_iff.1 hpage.symm
    have hhome : q.home = q'.home := (congrArg Page.home hq).symm
    have hallows : q.allows p rd wr = q'.allows p rd wr := (congrArg (fun q : Page => q.allows p rd wr) hq).symm
    simp only [hs, hhome, hallows]
theorem State.SameMap.lostAt (h : s.SameMap t) (pa : Nat) : t.lostAt pa = s.lostAt pa := by
  have hmap (u : State) : u.lostAt pa = (u.place.pages.map Page.unmarked).any fun q => q.lost && decide (q.home ≤ pa ∧ pa < q.home + 0x10000) := by
    rw [List.any_map]
    rfl
  rw [hmap, hmap, h.pages]

/-- What keeps every part's service keeps where homes are in service. -/
theorem State.Steady.homeUp (h : s.Steady t) (pa : Nat) : t.homeUp pa = s.homeUp pa := by
  have hcore (c : Nat) : (t.core c).inSvc = (s.core c).inSvc := by rw [Core.inSvc, (h.core c).pw]; rfl
  have hport (i : Nat) : t.port i = s.port i := by rw [State.port, h.ports]; rfl
  have hhub (i : Nat) : t.hub i = s.hub i := by rw [State.hub, h.hubs]; rfl
  unfold State.homeUp
  simp only [hcore, hport, hhub, h.inStack]

/-- Two states between which a read makes no difference. -/
structure State.SameReads (s t : State) : Prop extends s.SameMap t where
  mem : t.mem = s.mem
  poison : t.poison = s.poison

namespace State.SameReads
variable (h : s.SameReads t)
include h
theorem isPoisoned (a n : Nat) : t.isPoisoned a n = s.isPoisoned a n := by rw [State.isPoisoned, h.poison]; rfl
theorem rangeSound {seen : List (Nat × Option Byte)} {part : Nat} {p : Priv} {wr : Bool} {q : Nat × Nat}
    (hs : s.RangeSound seen part p wr q) : t.RangeSound seen part p wr q := by
  obtain ⟨pa, htr, hun⟩ := hs
  refine ⟨pa, (h.translate ..).trans htr, fun a ha => ?_⟩
  unfold State.UnitSound
  rw [h.isPoisoned, h.lostAt]
  exact hun a ha
theorem readVa (part : Nat) (p : Priv) (wr : Bool) (va n : Nat) : t.readVa part p wr va n = s.readVa part p wr va n := by
  unfold State.readVa State.readPhys
  simp only [h.translate, h.isPoisoned, h.lostAt, h.mem]

theorem getVa {c : Nat} {pc : Word} {seen : List (Nat × Option Byte)} {part : Nat} {p : Priv} {wr : Bool} {va n : Nat} {bs : List Byte}
    (hok : (Machine.getVa c pc .none seen part p wr va n s).2 = .ok bs) : Machine.getVa c pc .none seen part p wr va n s = (s, .ok bs) ∧
    Machine.getVa c pc .none seen part p wr va n t = (t, .ok bs) := by
  rcases getVa_cases c pc seen part p wr va n s with ⟨hall, heq⟩ | ⟨-, e, he⟩
  · rw [heq] at hok ⊢
    rcases getVa_cases c pc seen part p wr va n t with ⟨-, ht⟩ | ⟨hnot, -⟩
    · rw [ht, h.readVa]
      exact ⟨congrArg (Prod.mk s) hok, congrArg (Prod.mk t) hok⟩
    · exact absurd (fun q hq => h.rangeSound (hall q hq)) hnot
  · rw [he] at hok
    cases hok
end State.SameReads

/-- One run of a read to which the command gives no error. -/
def readRun (w : Work) (wr : Bool) (r : State × Except (Word × Byte) (List Byte)) (q : Word × Nat) : State × Except (Word × Byte) (List Byte) :=
  let g := getVa w.core w.pc .none w.seen w.part w.priv wr q.1.toNat q.2 r.1
  (g.1, match r.2, g.2 with
    | .error e, _ => .error e
    | .ok _, .error e => .error (q.1, e)
    | .ok bs, .ok b => .ok (bs ++ b))
theorem readWork_eq (w : Work) (wr : Bool) (s : State) : readWork w .none wr s = w.runs.foldl (readRun w wr) (s, .ok []) := rfl

theorem readRuns_error (w : Work) (wr : Bool) (l : List (Word × Nat)) (r : State × Except (Word × Byte) (List Byte)) {e : Word × Byte}
    (h : r.2 = .error e) : (l.foldl (readRun w wr) r).2 = .error e := by
  induction l generalizing r with
  | nil => exact h
  | cons q l ih => exact ih _ (by rw [readRun, h])

/-- Work whose reads pass finds the same bytes in either state, and leaves it as it was. -/
theorem State.SameReads.readWork (h : s.SameReads t) {w : Work} {wr : Bool} {bs : List Byte} (hok : (readWork w .none wr s).2 = .ok bs) :
    Machine.readWork w .none wr t = (t, .ok bs) := by
  rw [readWork_eq] at hok ⊢
  generalize ([] : List Byte) = acc at hok ⊢
  generalize w.runs = l at hok ⊢
  induction l generalizing acc with
  | nil => exact congrArg (Prod.mk t) hok
  | cons q l ih =>
    rw [List.foldl_cons] at hok ⊢
    cases hg : (Machine.getVa w.core w.pc .none w.seen w.part w.priv wr q.1.toNat q.2 s).2 with
    | error e =>
      rw [readRuns_error w wr l _ (e := (q.1, e)) (by rw [readRun, hg])] at hok
      cases hok
    | ok b =>
      obtain ⟨hs, ht⟩ := h.getVa hg
      rw [show readRun w wr (s, .ok acc) q = (s, .ok (acc ++ b)) by rw [readRun, hs]] at hok
      rw [show readRun w wr (t, .ok acc) q = (t, .ok (acc ++ b)) by rw [readRun, ht]]
      exact ih _ hok

/-! ### What a sound write leaves (R364, R380, R448, R451) -/

/-- Core `c` wrote memory: the part's service, its own registers and its work, and where addresses lead are as they were; no unit was
poisoned. -/
structure State.Wrote (s t : State) (c : Nat) : Prop where
  steady : s.Steady t
  own : t.core c = s.core c
  pages : t.place.pages.map Page.unmarked = s.place.pages.map Page.unmarked
  poison : ∀ a ∈ t.poison, a ∈ s.poison
  works : t.works = s.works
  saved : t.savedCore c = s.savedCore c

namespace State.Wrote
theorem refl (s : State) (c : Nat) : s.Wrote s c := ⟨.refl s, rfl, rfl, fun _ h => h, rfl, rfl⟩
theorem trans (h : s.Wrote t c) (g : t.Wrote u c) : s.Wrote u c :=
  ⟨h.steady.trans g.steady, g.own.trans h.own, g.pages.trans h.pages, fun a ha => h.poison a (g.poison a ha), g.works.trans h.works,
    g.saved.trans h.saved⟩
theorem sameMap (h : s.Wrote t c) : s.SameMap t := ⟨h.pages, h.steady.groups, h.steady.homeUp⟩
/-- A sound unit stays sound. -/
theorem unitSound (h : s.Wrote t c) {a : Nat} (hs : (s.isPoisoned a (ecUnit a) || s.lostAt a) = false) :
    (t.isPoisoned a (ecUnit a) || t.lostAt a) = false := by
  rw [Bool.or_eq_false_iff] at hs ⊢
  refine ⟨?_, (h.sameMap.lostAt a).trans hs.2⟩
  have hp := hs.1
  rw [State.isPoisoned, List.any_eq_false] at hp ⊢
  exact fun q hq => hp q (h.poison q hq)
end State.Wrote

theorem timeFires_rest (pa n : Nat) (ms : List (Nat × Nat × Nat)) (s : State) :
    ∃ f, s.timeFires pa n ms = { s with host := { s.host with fires := f } } := by
  unfold State.timeFires
  induction ms generalizing s with
  | nil => exact ⟨s.host.fires, rfl⟩
  | cons m ms ih =>
    rw [List.foldl_cons]
    obtain ⟨f, hf⟩ := ih (if isHub m.1 && decide (m.2.2 < pa + n ∧ pa < m.2.2 + 8) then
      { s with host := { s.host with fires := assocSet s.host.fires m.2.2 s.time } } else s)
    rw [hf]
    split <;> exact ⟨f, rfl⟩
theorem fireAll_rest (ms : List (Nat × Nat × Nat)) (s : State) : ∃ cs ar, s.fireAll ms = { s with
    cores := cs
    armed := ar } := by
  unfold State.fireAll
  induction ms generalizing s with
  | nil => exact ⟨s.cores, s.armed, rfl⟩
  | cons m ms ih =>
    rw [List.foldl_cons]
    obtain ⟨cs, ar, h⟩ := ih (({ s with armed := s.armed.erase m } : State).upd m.1 fun k => k.fire m.2.1)
    exact ⟨cs, ar, h⟩
/-- What monitors that fire leave: they change cores, what is armed and when supervisor cores' monitors fired. -/
theorem fireOn_rest (s : State) (pa n who : Nat) : ∃ cs ar f, s.fireOn pa n who = { s with
    cores := cs
    armed := ar
    host := { s.host with fires := f } } := by
  have hfired (ms : List (Nat × Nat × Nat)) : ∃ cs ar f, (s.timeFires pa n ms).fireAll ms = { s with
      cores := cs
      armed := ar
      host := { s.host with fires := f } } := by
    obtain ⟨f, hf⟩ := timeFires_rest pa n ms s
    obtain ⟨cs, ar, h⟩ := fireAll_rest ms (s.timeFires pa n ms)
    exact ⟨cs, ar, f, by rw [h, hf]⟩
  unfold State.fireOn
  split
  · exact ⟨s.cores, s.armed, s.host.fires, rfl⟩
  · exact hfired _

theorem writePhys_wrote (s : State) (pa : Nat) (bs : List Byte) (c : Nat) : s.Wrote (s.writePhys pa bs c) c := by
  obtain ⟨cs, ar, f, h⟩ := fireOn_rest (({ s with mem := s.mem.put pa bs } : State).markDirty pa bs.length) pa bs.length c
  refine ⟨steady_writePhys s pa bs c, fireOn_core pa bs.length, ?_, ?_, ?_, ?_⟩ <;> rw [State.writePhys, h]
  · dsimp only [State.markDirty]
    rw [List.map_map]
    refine List.map_congr_left fun q _ => ?_
    dsimp only [Function.comp_apply]
    split <;> rfl
  · exact fun _ h => h
  · rfl
  · rfl
theorem clearPoison_wrote (s : State) (a c : Nat) : s.Wrote (s.clearPoison a) c :=
  ⟨steady_clearPoison s a, rfl, rfl, fun _ h => List.mem_of_mem_filter h, rfl, rfl⟩
theorem dropWriteback_rest (s : State) (a : Nat) : ∃ p, dropWriteback a s = { s with pkg := p } := by
  unfold dropWriteback
  split
  · split
    · exact ⟨_, rfl⟩
    · exact ⟨s.pkg, rfl⟩
  · exact ⟨s.pkg, rfl⟩
theorem dropWriteback_wrote (s : State) (a c : Nat) : s.Wrote (dropWriteback a s) c := by
  obtain ⟨p, h⟩ := dropWriteback_rest s a
  refine ⟨steady_dropWriteback a s, ?_, ?_, ?_, ?_, ?_⟩ <;> rw [h]
  · rfl
  · exact fun _ hq => hq
  · rfl
theorem dropWriteback_mem (s : State) (a : Nat) : (dropWriteback a s).mem = s.mem := by
  obtain ⟨p, h⟩ := dropWriteback_rest s a
  rw [h]

/-- Writes one after another, each of them sound after those before it: `g` gives the bytes and their place. -/
theorem foldl_wrote {α β : Type} {F : State × Option β → α → State × Option β} (g : α → Nat × List Byte) (l : List α) (s : State)
    (h : ∀ p ∈ l, ∀ s1, s.Wrote s1 c → ∃ s2, F (s1, none) p = (s2, none) ∧ s1.Wrote s2 c ∧
      ∀ y, s2.mem.get y = (s1.mem.put (g p).1 (g p).2).get y) :
    ∃ t, l.foldl F (s, none) = (t, none) ∧ s.Wrote t c ∧ ∀ y, t.mem.get y = ((l.map g).foldl (fun m r => m.put r.1 r.2) s.mem).get y := by
  induction l generalizing s with
  | nil => exact ⟨s, rfl, .refl s c, fun _ => rfl⟩
  | cons p l ih =>
    obtain ⟨s2, hF, hw, hmem⟩ := h p List.mem_cons_self s (.refl s c)
    obtain ⟨t, ht, hwt, hmt⟩ := ih s2 fun q hq s1 h1 => h q (List.mem_cons_of_mem p hq) s1 (hw.trans h1)
    refine ⟨t, by rw [List.foldl_cons, hF, ht], hw.trans hwt, fun y => ?_⟩
    rw [hmt, List.map_cons, List.foldl_cons]
    exact Mem.get_puts_congr _ hmem y

/-! ### Units of a run (R448) -/

theorem Mem.get_put_nil (m : Mem) (a y : Nat) : (m.put a []).get y = m.get y := by
  rw [Mem.get_put, List.length_nil, if_neg (by omega)]
/-- The pieces of a run hold its bytes. -/
theorem Mem.get_cutUnits {v : Nat} (hv : 0 < v) (fuel a : Nat) (bs : List Byte) (hf : bs.length < fuel) (m : Mem) (y : Nat) :
    ((cutUnits v fuel a bs).foldl (fun m r => m.put r.1 r.2) m).get y = (m.put a bs).get y := by
  induction fuel generalizing a bs m with
  | zero => omega
  | succ fuel ih =>
    have hn : 0 < v - a % v := by have := Nat.mod_lt a hv; omega
    unfold cutUnits
    split
    · next he =>
      rw [List.isEmpty_iff.1 he, List.foldl_nil, Mem.get_put_nil]
    · next he =>
      have hpos : 0 < bs.length := List.length_pos_iff.2 fun h => he (by rw [h]; rfl)
      rw [List.foldl_cons, ih _ _ (by rw [List.length_drop]; omega)]
      have happ := Mem.get_put_append m a (bs.take (v - a % v)) (bs.drop (v - a % v)) y
      rw [List.take_append_drop] at happ
      rw [happ]
      by_cases hle : v - a % v ≤ bs.length
      · rw [List.length_take, Nat.min_eq_left hle]
      · rw [List.drop_eq_nil_of_le (by omega), Mem.get_put_nil, Mem.get_put_nil]
theorem cutUnits_nonempty {v : Nat} (hv : 0 < v) (fuel a : Nat) (bs : List Byte) {p : Nat × List Byte} (h : p ∈ cutUnits v fuel a bs) :
    0 < p.2.length := by
  induction fuel generalizing a bs with
  | zero => cases h
  | succ fuel ih =>
    unfold cutUnits at h
    split at h
    · cases h
    · next he =>
      rcases List.mem_cons.1 h with rfl | h
      · have hpos : 0 < bs.length := List.length_pos_iff.2 fun h => he (by rw [h]; rfl)
        have hn := Nat.mod_lt a hv
        rw [List.length_take]
        omega
      · exact ih _ _ h
/-- The unit of each piece is one that the run touches. -/
theorem cutUnits_unit {pa fuel : Nat} {bs : List Byte} (hu : ecUnit pa ≠ 0) {p : Nat × List Byte} (h : p ∈ cutUnits (ecUnit pa) fuel pa bs) :
    p.1 / ecUnit pa * ecUnit pa ∈ unitsOf pa bs.length := by
  obtain ⟨hlo, hhi⟩ := cutUnits_within _ _ _ _ h
  have hpos := cutUnits_nonempty (Nat.pos_of_ne_zero hu) _ _ _ h
  have hle : pa / ecUnit pa ≤ p.1 / ecUnit pa := Nat.div_le_div_right hlo
  have hge : p.1 / ecUnit pa ≤ (pa + bs.length - 1) / ecUnit pa := Nat.div_le_div_right (by omega)
  unfold unitsOf
  rw [if_neg (by omega)]
  exact List.mem_map.2 ⟨p.1 / ecUnit pa - pa / ecUnit pa, List.mem_range.2 (by omega), by rw [Nat.add_sub_cancel' hle]⟩

/-! ### Sound writes (R448, R451) -/

/-- One piece of a write to which the command gives no error, in a unit of `v` bytes. -/
def putPiece (c : Nat) (pc : Word) (v : Nat) (r : State × Option Byte) (p : Nat × List Byte) : State × Option Byte :=
  let base := p.1 / v * v
  if p.2.length = v && !r.1.lostAt base then (dropWriteback base ((r.1.writePhys p.1 p.2 c).clearPoison p.1), r.2)
  else
    let m := meetUnits c pc 2 .none [] [base] r.1
    match m.2 with
    | none => (dropWriteback base (m.1.writePhys p.1 p.2 c), r.2)
    | some e => (m.1, r.2.or (some e))
theorem putUnits_eq (c : Nat) (pc : Word) (pa : Nat) (bs : List Byte) (s : State) : putUnits c pc .none [] pa bs s =
    if ecUnit pa = 0 then (s.writePhys pa bs c, none)
    else (cutUnits (ecUnit pa) (bs.length + 1) pa bs).foldl (putPiece c pc (ecUnit pa)) (s, none) := by
  unfold putUnits
  dsimp only
  split
  · rfl
  · refine congrArg (fun F => List.foldl F (s, none) _) (funext fun r => funext fun p => ?_)
    unfold putPiece
    dsimp only
    split
    · rfl
    · generalize meetUnits c pc 2 .none [] [p.1 / ecUnit pa * ecUnit pa] r.1 = m
      obtain ⟨s', _ | e⟩ := m <;> rfl

theorem putPiece_sound {v : Nat} {p : Nat × List Byte}
    (h : (s.isPoisoned (p.1 / v * v) (ecUnit (p.1 / v * v)) || s.lostAt (p.1 / v * v)) = false) (c : Nat) (pc : Word) :
    ∃ t, putPiece c pc v (s, none) p = (t, none) ∧ s.Wrote t c ∧ t.mem = s.mem.put p.1 p.2 := by
  have hput := writePhys_wrote s p.1 p.2 c
  unfold putPiece
  dsimp only
  split
  · exact ⟨_, rfl, (hput.trans (clearPoison_wrote _ _ c)).trans (dropWriteback_wrote _ _ c), by
      rw [dropWriteback_mem, clearPoison_mem, writePhys_mem]⟩
  · rcases meetUnits_cases c pc 2 [] [p.1 / v * v] s with ⟨-, hm⟩ | ⟨hnot, -⟩
    · rw [hm]
      exact ⟨_, rfl, hput.trans (dropWriteback_wrote _ _ c), by rw [dropWriteback_mem, writePhys_mem]⟩
    · exact absurd (fun a ha => by rw [List.mem_singleton.1 ha]; exact h) hnot

/-- A write of sound units takes effect whole. -/
theorem putUnits_sound {pa : Nat} {bs : List Byte} (h : ∀ a ∈ unitsOf pa bs.length, (s.isPoisoned a (ecUnit a) || s.lostAt a) = false) (c : Nat)
    (pc : Word) : ∃ t, putUnits c pc .none [] pa bs s = (t, none) ∧ s.Wrote t c ∧ ∀ y, t.mem.get y = (s.mem.put pa bs).get y := by
  rw [putUnits_eq]
  split
  · exact ⟨_, rfl, writePhys_wrote s pa bs c, fun y => by rw [writePhys_mem]⟩
  · next hu =>
    obtain ⟨t, ht, hw, hmem⟩ := foldl_wrote (c := c) (F := putPiece c pc (ecUnit pa)) id (cutUnits (ecUnit pa) (bs.length + 1) pa bs) s
      fun p hp s1 h1 => by
        obtain ⟨s2, h2, hw2, hm2⟩ := putPiece_sound (h1.unitSound (h _ (cutUnits_unit hu hp))) c pc
        exact ⟨s2, h2, hw2, fun y => by rw [hm2]; rfl⟩
    refine ⟨t, ht, hw, fun y => (hmem y).trans ?_⟩
    rw [List.map_id]
    exact Mem.get_cutUnits (Nat.pos_of_ne_zero hu) _ _ _ (Nat.lt_succ_self _) _ _

/-- A run inside one page is one piece. -/
theorem pagesOf_one {a n : Nat} (hn : 0 < n) (h : a % 0x10000 + n ≤ 0x10000) : pagesOf a n = [(a, n)] := by
  have hmin : min n (0x10000 - a % 0x10000) = n := Nat.min_eq_left (by omega)
  unfold pagesOf
  rw [cutPages, if_neg (by omega)]
  simp only [hmin, Nat.sub_self]
  rw [cutPages.eq_def]
  split <;> simp

/-- A write inside one page, whose units are sound, takes effect whole. -/
theorem putVa_sound {va pa part : Nat} {p : Priv} {bs : List Byte} (hn : 0 < bs.length) (hpage : va % 0x10000 + bs.length ≤ 0x10000)
    (htr : s.translate part p false true va = .ok pa)
    (h : ∀ a ∈ unitsOf pa bs.length, (s.isPoisoned a (ecUnit a) || s.lostAt a) = false) (c : Nat) (pc : Word) :
    ∃ t, putVa c pc .none [] part p va bs s = (t, none) ∧ s.Wrote t c ∧ ∀ y, t.mem.get y = (s.mem.put pa bs).get y := by
  obtain ⟨t, ht, hw, hmem⟩ := putUnits_sound h c pc
  refine ⟨t, ?_, hw, hmem⟩
  unfold putVa
  rw [pagesOf_one hn hpage]
  simp [htr, ht]

/-- The writes of work to pages that are mapped, each inside one page and sound, take effect in their order. -/
theorem writeWork_sound {w : Work} {pa : Word → Nat} {puts : List (Word × List Byte)} (hseen : w.seen = [])
    (h : ∀ q ∈ puts, 0 < q.2.length ∧ q.1.toNat % 0x10000 + q.2.length ≤ 0x10000 ∧
      s.translate w.part w.priv false true q.1.toNat = .ok (pa q.1) ∧ s.Readable (pa q.1) q.2.length) :
    ∃ t, writeWork w .none puts s = (t, none) ∧ s.Wrote t w.core ∧
      ∀ y, t.mem.get y = ((puts.map fun q => (pa q.1, q.2)).foldl (fun m r => m.put r.1 r.2) s.mem).get y := by
  unfold writeWork
  refine foldl_wrote (c := w.core) (fun q : Word × List Byte => (pa q.1, q.2)) puts s fun q hq s1 h1 => ?_
  obtain ⟨hn, hpage, htr, -, hun⟩ := h q hq
  obtain ⟨t, ht, hw, hmem⟩ := putVa_sound (s := s1) (pa := pa q.1) hn hpage ((h1.sameMap.translate ..).trans htr)
    (fun a ha => h1.unitSound (by simpa using hun a ha)) w.core w.pc
  refine ⟨t, ?_, hw, hmem⟩
  simp [hseen, ht]

end Sys2Proof.Machine
end

section
/-! SUPPORT. The end of the mover's only work: TZERO, TMOV, TLD and TST complete or fail (R177, R184, R188, R194). -/

namespace Sys2Proof.Machine

variable {s t u : State} {c : Nat} {w : Work} {bs : List Byte}

/-! ### Work of the core's own mover (R184, R185) -/

/-- `w` is the only work, the mover's, and its core can end it: nothing else is due there, and no write hold stands in its way. -/
structure State.MoverReady (s : State) (w : Work) : Prop where
  quiet : s.Quiet w.core
  wait : (s.core w.core).wait = none
  only : s.OnlyWork w
  cc : w.cc < 16
  tags : w.tags = 0
  own : s.preempted w.core w.group = false
  mover : w.isMover = true
  free : s.heldWork w = []

/-- The kinds of mover work. -/
theorem Work.mover_cases (h : w.isMover = true) : (∃ x sh, w.kind = .tld x sh) ∨ (∃ x sh ctr key, w.kind = .tst x sh ctr key) ∨
    (∃ d r cvt ovf dsh ssh, w.kind = .tmov d r cvt ovf dsh ssh) ∨ ∃ d dsh, w.kind = .tzero d dsh := by
  unfold Work.isMover Work.isXfer WorkKind.isFile at h
  cases hk : w.kind <;> simp [hk] at h ⊢

theorem Work.mover_isFar (h : w.isMover = true) (ht : w.tags = 0) : w.isFar = false := by
  unfold Work.isFar
  rcases Work.mover_cases h with ⟨x, sh, hk⟩ | ⟨x, sh, ctr, key, hk⟩ | ⟨d, r, cvt, ovf, dsh, ssh, hk⟩ | ⟨d, dsh, hk⟩ <;> simp [hk, ht]

/-- Work that writes no memory meets no hold. -/
theorem State.heldWork_of_not_write (hw : w.isWrite = false) (hk : ∀ b rd n m, w.kind ≠ .semTake b rd n m) : s.heldWork w = [] := by
  unfold State.heldWork
  split
  · next h => exact absurd h (hk _ _ _ _)
  · simp [hw]

theorem Work.isMover_of_file (h : w.kind.isFile = true) : w.isMover = true := by simp [Work.isMover, h]
theorem State.heldWork_of_file (h : w.kind.isFile = true) : s.heldWork w = [] := by
  rcases Work.mover_cases (Work.isMover_of_file h) with ⟨x, sh, hk⟩ | ⟨x, sh, ctr, key, hk⟩ | ⟨d, r, cvt, ovf, dsh, ssh, hk⟩ | ⟨d, dsh, hk⟩
  · simp [hk, WorkKind.isFile] at h
  · simp [hk, WorkKind.isFile] at h
  · exact State.heldWork_of_not_write (by simp [Work.isWrite, hk]) (by simp [hk])
  · exact State.heldWork_of_not_write (by simp [Work.isWrite, hk]) (by simp [hk])

/-! ### The command (R184) -/

/-- The address that a failure of mover work is recorded with (log entry 14). -/
def Work.moverAddr (w : Work) : Word := if w.kind.isFile then BitVec.ofNat 64 w.moverTile else w.addr
/-- Whether mover work writes its tile from memory: where it fails, some rows stand. -/
def Work.isLoad (w : Work) : Bool := match w.kind with | .tld _ _ => true | _ => false
theorem Work.isLoad_eq_false (hk : ∀ x sh, w.kind ≠ .tld x sh) : w.isLoad = false := by
  unfold Work.isLoad
  split
  · next h => exact absurd h (hk _ _)
  · rfl
/-- Mover work with its data moved. -/
def runMover (w : Work) (s : State) : State := if w.kind.isFile then s.setWork { w with stage := .applied [] } else applyWork w .none s
/-- Mover work as it ends, its tile words read as `err` says. -/
def moverMet (w : Work) (err : WordErr) (s : State) : State :=
  match err with
  | .clean => runMover w s
  | .fixed bit => runMover w (noteTileCE w.core w.moverTile bit s)
  | .bad =>
    if w.isLoad then s.setWork (w.fail w.moverAddr 0x54) else
    let t := runMover w (s.upd w.core fun k => { k with ff := 0 })
    let t := match t.work w.id with | some w => completeWork w t | none => t
    ({ s with fresh := s.fresh + 2 ^ 21 }.updOwner w.core w.group fun k =>
      k.orFF ((t.owner w.core w.group).ff &&& (Config.freeByte s.fresh).setWidth 6)).setWork (w.fail w.moverAddr 0x54)
/-- Mover work that has ended. -/
def moverEnded (w : Work) (err : WordErr) (s : State) : State :=
  match (moverMet w err s).work w.id with
  | some v => completeWork v (moverMet w err s)
  | none => moverMet w err s

theorem State.OnlyWork.work (h : s.OnlyWork w) : s.work w.id = some w := by simp [State.work, h.only]

theorem execTileMoverComplete_eq (hw : s.work w.id = some w)
    (hrun : (!w.isMover || s.behind w || s.noPlace w || !(s.core w.core).pw.ring || !(s.core w.core).inSvc) = false) (err : WordErr) :
    ∃ n, execTileMoverComplete w.id err s =
      let s1 := arrive w.core (stepsPass w.core (fun n k => k.idleStall n (s.causeNow w.core)) n s.draw)
      done s (endWait w.core (admitMover w.core w (s1.stalledMover w.core) (moverEnded w err s1))) := by
  refine ⟨w.time + (if s.fieldDelay w = 0 then 0 else Config.freeSteps s.fresh % (s.fieldDelay w + 1)) - (s.core w.core).tm.step, ?_⟩
  unfold execTileMoverComplete
  rw [hw]
  dsimp only
  rw [if_neg (by simp [hrun])]
  generalize arrive w.core (stepsPass w.core (fun n k => k.idleStall n (s.causeNow w.core))
    (w.time + (if s.fieldDelay w = 0 then 0 else Config.freeSteps s.fresh % (s.fieldDelay w + 1)) - (s.core w.core).tm.step) s.draw) = s1
  cases err <;> rfl

/-- The mover ends its work after the steps that it still takes. -/
theorem exec_tileMoverComplete_ready (h : s.MoverReady w) (err : WordErr) : ∃ n waited, exec (.tileMoverComplete w.id err) s =
    done s (endWait w.core (admitMover w.core w waited (moverEnded w err (s.draw.upd w.core fun k => k.idle n)))) := by
  have hring : (s.core w.core).pw.ring = true ∧ (s.core w.core).inSvc = true := by
    have hb := h.quiet.beats
    unfold Core.beats at hb
    simpa [and_comm] using hb
  have hbehind : s.behind w = false := by simp [State.behind, h.only.only, h.free, Work.mover_isFar h.mover h.tags]
  have hplace : s.noPlace w = false := by simp [State.noPlace, h.only.only]
  have hc : w.core < 160 := by have := h.quiet.core; omega
  obtain ⟨n, hexec⟩ := execTileMoverComplete_eq h.only.work (by simp [h.mover, hbehind, hplace, hring]) err
  have hsteps : stepsPass w.core (fun n k => k.idleStall n (s.causeNow w.core)) n s.draw = s.draw.upd w.core fun k => k.idle n := by
    rw [stepsPass_nil (s := s.draw) _ _ h.quiet.landed, show s.causeNow w.core = 0 by simp [State.causeNow, h.wait]]
    rfl
  have hcore : (s.draw.upd w.core fun k => k.idle n).core w.core = (s.core w.core).idle n := State.core_upd_self _ _ hc
  have harrive : arrive w.core (s.draw.upd w.core fun k => k.idle n) = s.draw.upd w.core fun k => k.idle n := by
    refine arrive_settled ?_ ?_ ?_ ?_ <;> rw [hcore]
    · simpa using h.quiet.landed
    · simpa using h.quiet.array
    · simpa using h.quiet.update
    · simpa using h.quiet.borrow
  rw [hsteps, harrive] at hexec
  exact ⟨n, _, (exec_tileMoverComplete ..).trans hexec⟩

/-! ### What happens before the data moves (R34, R177) -/

/-- A core as its mover's work finds it: only steps have passed, events been counted. -/
structure Core.Passed (k k' : Core) : Prop where
  x : k'.x = k.x
  v : k'.v = k.v
  tiles : k'.tiles = k.tiles
  cnt : k'.cnt = k.cnt
  wait : k'.wait = k.wait
  idn : k'.idn = k.idn

/-- From `s` to `t` core `c` did no more than pass steps, and `n` entries were logged. -/
structure State.Reached (s t : State) (c n : Nat) : Prop where
  reads : s.SameReads t
  own : (s.core c).Passed (t.core c)
  others : ∀ d, d ≠ c → t.core d = s.core d
  works : t.works = s.works
  saved : t.savedCore c = s.savedCore c
  log : t.log.next = s.log.next + n

theorem Core.steady_idle (k : Core) (n : Nat) : k.Steady (k.idle n) := by
  have hstep : k.Steady { k with tm := { k.tm with step := k.tm.step + n } } := .of_tr rfl rfl rfl rfl rfl
  unfold Core.idle Core.boosted
  split
  · exact (hstep.trans (Core.steady_count _ 1 n)).trans (Core.steady_count _ 27 n)
  · exact hstep.trans (Core.steady_count _ 1 n)

theorem State.Reached.idle (hc : c < 160) (n : Nat) : s.Reached (s.draw.upd c fun k => k.idle n) c 0 where
  reads := ⟨⟨rfl, rfl, ((steady_draw s).trans (.upd s.draw c fun k => k.steady_idle n)).homeUp⟩, rfl, rfl⟩
  own := by
    rw [State.core_upd_self c _ hc]
    exact ⟨Core.idle_x _ n, Core.idle_v _ n, Core.idle_tiles _ n, Core.idle_cnt _ n, Core.idle_wait _ n, Core.idle_idn _ n⟩
  others d hd := State.core_upd_ne _ hd.symm
  works := rfl
  saved := rfl
  log := rfl

theorem noteTileCE_eq (c x bit : Nat) (t : State) :
    ∃ l : LogState, noteTileCE c x bit t = { (t.upd c fun k => k.count 23 1) with log := l } ∧ l.next = t.log.next + 1 := ⟨_, rfl, rfl⟩

theorem State.Reached.noteTileCE (h : s.Reached t c 0) (hc : c < 160) (x bit : Nat) : s.Reached (noteTileCE c x bit t) c 1 := by
  have hup (pa : Nat) := ((steady_noteTileCE c x bit t).homeUp pa).trans (h.reads.homeUp pa)
  obtain ⟨l, heq, hnext⟩ := noteTileCE_eq c x bit t
  rw [heq] at hup ⊢
  have hcore : (t.upd c fun k => k.count 23 1).core c = (t.core c).count 23 1 := State.core_upd_self c _ hc
  refine ⟨⟨⟨h.reads.pages, h.reads.groups, hup⟩, h.reads.mem, h.reads.poison⟩, ?_, fun d hd => ?_, h.works, h.saved, ?_⟩
  · obtain ⟨hx, hv, htiles, hcnt, hwait, hidn⟩ := h.own
    show (s.core c).Passed ((t.upd c fun k => k.count 23 1).core c)
    rw [hcore]
    exact ⟨(Core.count_x ..).trans hx, (Core.count_v ..).trans hv, (Core.count_tiles ..).trans htiles, (Core.count_cnt ..).trans hcnt,
      (Core.count_wait ..).trans hwait, (Core.count_idn ..).trans hidn⟩
  · show (t.upd c fun k => k.count 23 1).core d = _
    rw [State.core_upd_ne _ hd.symm, h.others d hd]
  · exact hnext.trans (congrArg (· + 1) h.log)

theorem State.preempted_congr (hidn : (t.core c).idn = (s.core c).idn) (hsaved : t.savedCore c = s.savedCore c) (g : Nat) :
    t.preempted c g = s.preempted c g := by
  unfold State.preempted
  rw [hsaved, hidn]
theorem State.Reached.preempted {n : Nat} (h : s.Reached t c n) (g : Nat) : t.preempted c g = s.preempted c g :=
  State.preempted_congr h.own.idn h.saved g

/-- How many entries a word's error adds to the log. -/
def errEntries (err : WordErr) : Nat :=
  match err with
  | .fixed _ => 1
  | _ => 0

/-- Unless a tile word is lost, the work's data moves, an error being no more than logged. -/
theorem moverMet_sound {err : WordErr} (hc : w.core < 160) (herr : err ≠ .bad) (h : s.Reached t w.core 0) :
    ∃ u, s.Reached u w.core (errEntries err) ∧ moverMet w err t = runMover w u := by
  cases err with
  | clean => exact ⟨t, h, rfl⟩
  | fixed bit => exact ⟨_, h.noteTileCE hc _ bit, rfl⟩
  | bad => exact absurd rfl herr

/-! ### The end of the only work (R82) -/

section
variable (k : Core) (cc : Nat) (err : Option FailRec)
/-- Only the counter, its error bit and its record change. -/
theorem Core.lower_eq : ∃ e r, k.lower cc err = { k with cnt := { k.cnt with
    cc := vset k.cnt.cc cc (k.outst cc - 1)
    ccerr := e
    recs := r } } := by
  unfold Core.lower
  dsimp only
  split
  · exact ⟨_, _, rfl⟩
  · split
    · exact ⟨_, _, rfl⟩
    · exact ⟨_, _, rfl⟩
@[simp] theorem Core.lower_x : (k.lower cc err).x = k.x := by obtain ⟨e, r, h⟩ := k.lower_eq cc err; rw [h]
@[simp] theorem Core.lower_v : (k.lower cc err).v = k.v := by obtain ⟨e, r, h⟩ := k.lower_eq cc err; rw [h]
@[simp] theorem Core.lower_tiles : (k.lower cc err).tiles = k.tiles := by obtain ⟨e, r, h⟩ := k.lower_eq cc err; rw [h]
@[simp] theorem Core.lower_wait : (k.lower cc err).wait = k.wait := by obtain ⟨e, r, h⟩ := k.lower_eq cc err; rw [h]
theorem Core.lower_cc : (k.lower cc err).cnt.cc = vset k.cnt.cc cc (k.outst cc - 1) := by obtain ⟨e, r, h⟩ := k.lower_eq cc err; rw [h]
end
theorem Core.lower_outst (k : Core) {cc : Nat} (hcc : cc < 16) (err : Option FailRec) : (k.lower cc err).outst cc = k.outst cc - 1 := by
  rw [Core.outst, Core.lower_cc]
  exact vget_vset_self _ _ _ _ hcc

/-- What a failure leaves of the counter's error bit and record (R82). -/
theorem Core.lower_failed (k : Core) {cc : Nat} (hcc : cc < 16) (r : FailRec) : (k.lower cc (some r)).cnt.ccerr.getLsbD cc = true ∧
    (k.cnt.ccerr.getLsbD cc = false → vget (k.lower cc (some r)).cnt.recs cc .zero = r) := by
  unfold Core.lower bitOf
  dsimp only
  split
  · next hbit => exact ⟨hbit, fun hclear => absurd hbit (by simp [BitVec.testBit_toNat, hclear])⟩
  · refine ⟨?_, fun _ => vget_vset_self _ _ _ _ hcc⟩
    rw [BitVec.getLsbD_or, BitVec.getLsbD_ofNat, Nat.testBit_two_pow_self]
    simp [hcc]

section
variable {v : Work} (hc : v.core < 160) (hcc : v.cc < 16) (hown : u.preempted v.core v.group = false)

include hcc hown in
/-- The only work ends: its counter falls, and no release stands behind it. -/
theorem finishWork_only (err : Option FailRec) :
    finishWork v err { u with works := [v] } = ({ u with works := [] } : State).upd v.core fun k => k.lower v.cc err := by
  have hdrop : ({ u with works := [v] } : State).dropWork v.id = { u with works := [] } := by simp [State.dropWork]
  have hlower : lowerCc v.core v.group v.cc err { u with works := [] } =
      ({ u with works := [] } : State).upd v.core fun k => k.lower v.cc err := by
    unfold lowerCc State.updOwner
    rw [show ({ u with works := [] } : State).preempted v.core v.group = false from hown]
    simp
  unfold finishWork
  rw [if_pos hcc, hdrop, hlower]
  cases err with
  | none => rfl
  | some r => exact ite_self _

include hc hcc hown in
/-- Work whose data has moved completes: `D` is what it delivers to its own core. -/
theorem completeWork_applied {D : Core → Core} (hv : v.stage = .applied bs) (hfar : v.isFar = false)
    (hdel : ∀ t : State, t.preempted v.core v.group = false → deliver v bs t = t.upd v.core D)
    (hD : (D (u.core v.core)).idn = (u.core v.core).idn) :
    completeWork v { u with works := [v] } = ({ u with works := [] } : State).upd v.core fun k => (D k).lower v.cc none := by
  have hstill : (u.upd v.core D).preempted v.core v.group = false :=
    (State.preempted_congr ((congrArg Core.idn (State.core_upd_self _ _ hc)).trans hD) rfl _).trans hown
  have hfinish : finishWork v none (({ u with works := [v] } : State).upd v.core D) = _ := finishWork_only (u := u.upd v.core D) hcc hstill none
  unfold completeWork
  rw [hv, hfar]
  dsimp only
  rw [hdel { u with works := [v] } hown, State.upd_same _ (fun k => if false = true then _ else k) rfl, hfinish]
  exact State.upd_upd (s := { u with works := [] }) v.core D (fun k => k.lower v.cc none) hc

include hcc hown in
/-- Work that has failed, and writes no tile, completes. -/
theorem completeWork_failed {r : FailRec} (hv : v.stage = .failed r) (hk : ∀ x sh, v.kind ≠ .tld x sh) :
    completeWork v { u with works := [v] } = ({ u with works := [] } : State).upd v.core fun k => k.lower v.cc (some r) := by
  unfold completeWork
  rw [hv]
  dsimp only
  split
  · next x sh h => exact absurd h (hk x sh)
  · exact finishWork_only hcc hown _

/-- The only work of the mover, once it is applied or has failed, completes. -/
theorem moverEnded_of_met {err : WordErr} (hu : u.works = [w]) (hid : v.id = w.id) (hmet : moverMet w err t = u.setWork v) :
    moverEnded w err t = completeWork v { u with works := [v] } := by
  have hset : u.setWork v = { u with works := [v] } := by
    unfold State.setWork
    rw [hu]
    simp [hid]
  unfold moverEnded
  rw [hmet, hset]
  simp [State.work, hid]
end

/-- Nothing stands behind the only work. -/
theorem admitMover_none (hu : u.works = []) (w : Work) (waited : List Nat) : admitMover c w waited u = u := by
  unfold admitMover
  induction waited with
  | nil => rfl
  | cons i l ih =>
    rw [List.foldl_cons, show u.work i = none by simp [State.work, hu]]
    exact ih

/-- Where the work's end leaves a state in `P` with no work, but for `F` of its core, so does the command. -/
theorem exec_tileMoverComplete_ends (h : s.MoverReady w) (err : WordErr) {F : Core → Core} {P : State → Prop}
    (hwait : ∀ u, P u → (F (u.core w.core)).wait = none)
    (hend : ∀ u, s.Reached u w.core 0 → ∃ v, P v ∧ moverEnded w err u = ({ v with works := [] } : State).upd w.core F) :
    ∃ v t, P v ∧ exec (.tileMoverComplete w.id err) s = .next t ∧ t.works = [] ∧ t.core w.core = F (v.core w.core) ∧
      (∀ d, d ≠ w.core → t.core d = v.core d) ∧ t.mem = v.mem ∧ t.log = v.log := by
  have hc : w.core < 160 := by have := h.quiet.core; omega
  obtain ⟨n, waited, hexec⟩ := exec_tileMoverComplete_ready h err
  obtain ⟨v, hv, heq⟩ := hend _ (State.Reached.idle hc n)
  have hcore : (({ v with works := [] } : State).upd w.core F).core w.core = F (v.core w.core) := State.core_upd_self _ _ hc
  rw [heq, admitMover_none rfl, endWait_none (by rw [hcore]; exact hwait v hv)] at hexec
  refine ⟨v, _, hv, hexec, rfl, hcore, fun d hd => ?_, rfl, rfl⟩
  show (({ v with works := [] } : State).upd w.core F).core d = v.core d
  exact State.core_upd_ne _ hd.symm

end Sys2Proof.Machine
end

section
/-! SUPPORT. What each kind of the mover's work leaves: the tile that it writes, the bytes of a store, and nothing where it fails
(R177, R184, R188, R194). -/

namespace Sys2Proof.Machine

variable {s t u : State} {c : Nat} {w : Work} {bs : List Byte}

/-! ### Work that writes a tile (R184, R188, R194) -/

/-- A core from `k` on that took the tile `tl`, and flags. -/
structure Core.Took (k k' : Core) (dst : Nat) (tl : Tile) : Prop where
  x : k'.x = k.x
  v : k'.v = k.v
  cnt : k'.cnt = k.cnt
  wait : k'.wait = k.wait
  idn : k'.idn = k.idn
  tile : k'.tile dst = tl
  rest : ∀ i, i ≠ dst → k'.tile i = k.tile i

theorem Core.Passed.took {k k' : Core} (h : k.Passed k') {dst : Nat} (hdst : dst < 16) (tl : Tile) : k.Took (k'.setTile dst tl) dst tl :=
  ⟨h.x, h.v, h.cnt, h.wait, h.idn, k'.setTile_self hdst tl, fun i hi => (k'.setTile_ne hi tl).trans (by rw [Core.tile, h.tiles]; rfl)⟩
theorem Core.Passed.tile {k k' : Core} (h : k.Passed k') (i : Nat) : k'.tile i = k.tile i := by rw [Core.tile, h.tiles]; rfl
theorem Core.Took.orFF {k k' : Core} {dst : Nat} {tl : Tile} (h : k.Took k' dst tl) (f : FF) : k.Took (k'.orFF f) dst tl :=
  ⟨h.x, h.v, h.cnt, h.wait, h.idn, h.tile, h.rest⟩

/-- What is over once the mover's only work has ended: no work is left, and the counter has fallen. -/
def State.MoverDone (s t : State) (w : Work) : Prop :=
  t.works = [] ∧ (t.core w.core).outst w.cc = (s.core w.core).outst w.cc - 1 ∧ (t.core w.core).x = (s.core w.core).x ∧
    (t.core w.core).v = (s.core w.core).v

theorem State.MoverDone.of_lower {k : Core} {err : Option FailRec} (hcc : w.cc < 16) (hworks : t.works = [])
    (hcore : t.core w.core = k.lower w.cc err) (hcnt : k.cnt = (s.core w.core).cnt) (hx : k.x = (s.core w.core).x)
    (hv : k.v = (s.core w.core).v) : s.MoverDone t w := by
  refine ⟨hworks, ?_, ?_, ?_⟩ <;> rw [hcore]
  · rw [Core.lower_outst _ hcc, Core.outst, hcnt]
    rfl
  · rw [Core.lower_x, hx]
  · rw [Core.lower_v, hv]

/-- The work ends, its words read as `err` says, with `tl` in tile `dst`. -/
def State.MoverWrites (s : State) (w : Work) (err : WordErr) (dst : Nat) (tl : Tile) : Prop :=
  ∃ t, exec (.tileMoverComplete w.id err) s = .next t ∧ s.MoverDone t w ∧ (t.core w.core).tile dst = tl ∧
    (∀ i, i ≠ dst → (t.core w.core).tile i = (s.core w.core).tile i) ∧ t.log.next = s.log.next + errEntries err ∧ s.Beside t w.core

section
variable (h : s.MoverReady w) {err : WordErr} (herr : err ≠ .bad)
include h herr

/-- Where the data that moves is `bs`, and `D` is what it makes of the core, the work ends so. -/
theorem mover_writes {D : Core → Core} {dst : Nat} {tl : Tile}
    (hrun : ∀ u n, s.Reached u w.core n → runMover w u = u.setWork { w with stage := .applied bs })
    (hdel : ∀ t : State, t.preempted w.core w.group = false → deliver { w with stage := .applied bs } bs t = t.upd w.core D)
    (hD : ∀ k, (s.core w.core).Passed k → (s.core w.core).Took (D k) dst tl) : s.MoverWrites w err dst tl := by
  have hc : w.core < 160 := by have := h.quiet.core; omega
  obtain ⟨u, t, hu, hexec, hworks, hcore, hothers, hmem, hlog⟩ := exec_tileMoverComplete_ends h err
    (F := fun k => (D k).lower w.cc none) (P := fun u => s.Reached u w.core (errEntries err))
    (fun u hu => (Core.lower_wait ..).trans ((hD _ hu.own).wait.trans h.wait)) fun u hu => by
      obtain ⟨v, hv, hmet⟩ := moverMet_sound hc herr hu
      have hown : v.preempted w.core w.group = false := (hv.preempted _).trans h.own
      refine ⟨v, hv, (moverEnded_of_met (v := { w with stage := .applied bs }) (hv.works.trans h.only.only) rfl (hmet.trans (hrun v _ hv))).trans ?_⟩
      exact completeWork_applied (v := { w with stage := .applied bs }) hc h.cc hown rfl (Work.mover_isFar h.mover h.tags) hdel
        ((hD _ hv.own).idn.trans hv.own.idn.symm)
  obtain ⟨hx, hv, hcnt, -, -, htile, hrest⟩ := hD _ hu.own
  have htiles (i : Nat) : (t.core w.core).tile i = (D (u.core w.core)).tile i := by
    rw [hcore, Core.tile, Core.lower_tiles]
    rfl
  exact ⟨t, hexec, .of_lower h.cc hworks hcore hcnt hx hv, (htiles dst).trans htile, fun i hi => (htiles i).trans (hrest i hi),
    (congrArg LogState.next hlog).trans hu.log, hmem.trans hu.reads.mem, fun d hd => (hothers d hd).trans (hu.others d hd)⟩

theorem tzero_writes {dst : BitVec 4} {sh : TShape} (hk : w.kind = .tzero dst sh) :
    s.MoverWrites w err dst.toNat (tzeroTile dst.toNat sh ((s.core w.core).tile dst.toNat)) := by
  refine mover_writes (bs := []) h herr (D := fun k => k.setTile dst.toNat (tzeroTile dst.toNat sh (k.tile dst.toNat))) (fun u n hu => ?_)
    (fun t ht => ?_) fun k hp => ?_
  · rw [runMover, hk]
    rfl
  · simp [deliver, hk, State.updOwner, ht]
  · rw [← hp.tile]
    exact hp.took dst.isLt _

theorem tmov_writes {dst src : BitVec 4} {cvt ovf : Bool} {dsh ssh : TShape} (hk : w.kind = .tmov dst src cvt ovf dsh ssh) :
    s.MoverWrites w err dst.toNat
      (tmovTile dst.toNat src.toNat ovf dsh ssh ((s.core w.core).tile dst.toNat) ((s.core w.core).tile src.toNat)).1 := by
  let m (k : Core) := tmovTile dst.toNat src.toNat ovf dsh ssh (k.tile dst.toNat) (k.tile src.toNat)
  refine mover_writes (bs := []) h herr (D := fun k => (k.setTile dst.toNat (m k).1).orFF (m k).2) (fun u n hu => ?_) (fun t ht => ?_)
    fun k hp => ?_
  · rw [runMover, hk]
    rfl
  · simp [deliver, hk, State.updOwner, ht, m]
  · rw [← hp.tile, ← hp.tile]
    exact (hp.took dst.isLt _).orFF _

theorem tld_writes {x : TileXfer} {sh : TShape} (hk : w.kind = .tld x sh) (hread : (readWork w .none false s).2 = .ok bs) :
    s.MoverWrites w err x.tile.toNat (tldTile x sh bs ((s.core w.core).tile x.tile.toNat)).1 := by
  let m (k : Core) := tldTile x sh bs (k.tile x.tile.toNat)
  refine mover_writes (bs := bs) h herr (D := fun k => (k.setTile x.tile.toNat (m k).1).orFF (m k).2) (fun u n hu => ?_) (fun t ht => ?_)
    fun k hp => ?_
  · have hsample : sampleWork w u = u := by simp [sampleWork, Work.mover_isFar h.mover h.tags]
    have hfile : w.kind.isFile = false := by rw [hk]; rfl
    rw [runMover, hfile, if_neg Bool.false_ne_true, applyWork, hsample, hu.reads.readWork hread, hk]
  · simp [deliver, hk, State.updOwner, ht, m]
  · rw [← hp.tile]
    exact (hp.took x.tile.isLt _).orFF _
end

/-! ### Work that meets a word that cannot be corrected (R177, R82; log entry 14) -/

theorem moverMet_bad (hk : ∀ x sh, w.kind ≠ .tld x sh) (u : State) : ∃ f : FF, moverMet w .bad u =
    (({ u with fresh := u.fresh + 2 ^ 21 } : State).updOwner w.core w.group fun k => k.orFF f).setWork (w.fail w.moverAddr 0x54) := by
  unfold moverMet
  dsimp only
  rw [Work.isLoad_eq_false hk, if_neg Bool.false_ne_true]
  exact ⟨_, rfl⟩

/-- Work other than a load fails, with the error and the record in its counter and nothing written. -/
theorem mover_fails (h : s.MoverReady w) (hk : ∀ x sh, w.kind ≠ .tld x sh) :
    ∃ t, exec (.tileMoverComplete w.id .bad) s = .next t ∧ s.MoverDone t w ∧ t.mem = s.mem ∧
      (t.core w.core).tiles = (s.core w.core).tiles ∧ (t.core w.core).cnt.ccerr.getLsbD w.cc = true ∧
      ((s.core w.core).cnt.ccerr.getLsbD w.cc = false → vget (t.core w.core).cnt.recs w.cc .zero = ⟨w.pc, w.moverAddr, 0x54⟩) := by
  have hc : w.core < 160 := by have := h.quiet.core; omega
  obtain ⟨v, t, ⟨hpassed, hvmem⟩, hexec, hworks, hcore, -, hmem, -⟩ := exec_tileMoverComplete_ends h .bad
    (F := fun k => k.lower w.cc (some ⟨w.pc, w.moverAddr, 0x54⟩)) (P := fun v => (s.core w.core).Passed (v.core w.core) ∧ v.mem = s.mem)
    (fun v hv => (Core.lower_wait ..).trans (hv.1.wait.trans h.wait)) fun u hu => by
      obtain ⟨f, hmet⟩ := moverMet_bad hk u
      let v : State := ({ u with fresh := u.fresh + 2 ^ 21 } : State).upd w.core fun k => k.orFF f
      have hown : u.preempted w.core w.group = false := (hu.preempted _).trans h.own
      have hupd : ({ u with fresh := u.fresh + 2 ^ 21 } : State).updOwner w.core w.group (fun k => k.orFF f) = v := by
        unfold State.updOwner
        rw [show ({ u with fresh := u.fresh + 2 ^ 21 } : State).preempted w.core w.group = false from hown]
        rfl
      have hvcore : v.core w.core = (u.core w.core).orFF f := State.core_upd_self _ _ hc
      have hvown : v.preempted w.core w.group = false := (State.preempted_congr (s := u) (t := v) (by rw [hvcore]; rfl) rfl _).trans hown
      rw [hupd] at hmet
      obtain ⟨hx, hv, htiles, hcnt, hwait, hidn⟩ := hu.own
      refine ⟨v, ⟨by rw [hvcore]; exact ⟨hx, hv, htiles, hcnt, hwait, hidn⟩, hu.reads.mem⟩,
        (moverEnded_of_met (u := v) (v := w.fail w.moverAddr 0x54) (hu.works.trans h.only.only) rfl hmet).trans ?_⟩
      exact completeWork_failed (v := w.fail w.moverAddr 0x54) h.cc hvown rfl hk
  obtain ⟨hx, hv, htiles, hcnt, -, -⟩ := hpassed
  have hfailed := Core.lower_failed (v.core w.core) h.cc ⟨w.pc, w.moverAddr, 0x54⟩
  rw [← hcore, hcnt] at hfailed
  obtain ⟨herr, hrec⟩ := hfailed
  exact ⟨t, hexec, .of_lower h.cc hworks hcore hcnt hx hv, hmem.trans hvmem, by rw [hcore, Core.lower_tiles, htiles], herr, hrec⟩

end Sys2Proof.Machine
end

section
/-! SUPPORT. A TST that ends writes its rows to the pages that its addresses map to (R188, R194 to R197). -/

namespace Sys2Proof.Machine

variable {s t u : State} {c : Nat} {w : Work}

/-! ### Bytes of rows -/

theorem Mem.leBytes_nat (m : Mem) (a n : Nat) : leBytes n (m.nat a n) = m.bytes a n := by
  have hlen : (m.bytes a n).length = n := Mem.bytes_length ..
  refine leNat_inj ((leBytes_length ..).trans hlen.symm) ?_
  have hlt := leNat_lt (m.bytes a n)
  rw [hlen] at hlt
  rw [leNat_leBytes, Mem.nat, Nat.mod_eq_of_lt hlt]

/-- Rows of `n` bytes of `d`, each from its slot, written in order at `pa`. -/
def Mem.putRows (m d : Mem) (rows n slot : Nat) (pa : Nat → Nat) : Mem :=
  ((List.range rows).map fun r => (pa r, d.bytes (slot * r) n)).foldl (fun m r => m.put r.1 r.2) m
/-- A byte is of the last row that covers it. -/
theorem Mem.get_putRows (m d : Mem) (rows n slot : Nat) (pa : Nat → Nat) (y : Nat) : (m.putRows d rows n slot pa).get y =
      ((List.range rows).reverse.find? fun r => decide (pa r ≤ y ∧ y < pa r + n)).elim (m.get y) fun r => d.get (slot * r + (y - pa r)) := by
  have hget := Mem.get_elements m rows n pa (fun r => d.nat (slot * r) n) y
  simp only [Mem.leBytes_nat] at hget
  rw [Mem.putRows, hget]
  cases hf : (List.range rows).reverse.find? fun r => decide (pa r ≤ y ∧ y < pa r + n) with
  | none => rfl
  | some r =>
    have hr := List.find?_some hf
    rw [decide_eq_true_iff] at hr
    have hbyte := Mem.nat_byte d (slot * r) (n := n) (i := y - pa r) (by omega)
    rwa [shiftRight_byte] at hbyte

/-! ### The writes of a store -/

/-- Where a store finds the page of an address (R345). -/
def State.storePa (s : State) (w : Work) (a : Word) : Nat := (s.translate w.part w.priv false true a.toNat).toOption.getD 0

theorem State.storePa_eq {a : Word} {p : Nat} (h : s.translate w.part w.priv false true a.toNat = .ok p) : s.storePa w a = p := by
  rw [State.storePa, h]
  rfl
/-- The places of rows whose addresses are mapped. -/
theorem State.storePa_rows {rows : Nat} (hruns : w.runs.length = rows) (b : Nat → List Byte) {pa : Nat → Nat}
    (hpa : ∀ (r : Nat) (q : Word × Nat), w.runs[r]? = some q → s.translate w.part w.priv false true q.1.toNat = .ok (pa r)) :
    (w.runs.mapIdx fun r q => (q.1, b r)).map (fun q => (s.storePa w q.1, q.2)) = (List.range rows).map fun r => (pa r, b r) := by
  refine List.ext_getElem (by simp [hruns]) fun i h1 h2 => ?_
  have hi : i < w.runs.length := by simpa using h1
  simp [State.storePa_eq (hpa i _ (List.getElem?_eq_getElem hi))]

/-- A row as a store writes it is the pair of its address and its bytes. -/
theorem zipWith_rows {runs : List (Word × Nat)} {f : Nat → List Byte} {rows : Nat} (hlen : runs.length = rows) :
    List.zipWith (fun (q : Word × Nat) b => (q.1, b)) runs ((List.range rows).map f) = runs.mapIdx fun r q => (q.1, f r) := by
  refine List.ext_getElem (by simp [hlen]) fun i h1 h2 => ?_
  simp

theorem State.SameReads.readable (h : s.SameReads t) {pa n : Nat} (hr : s.Readable pa n) : t.Readable pa n := by
  refine ⟨?_, fun a ha => ?_⟩
  · rw [h.isPoisoned, h.lostAt]
    exact hr.bytes
  · rw [h.isPoisoned, h.lostAt]
    exact hr.units a ha

/-- Flags that a core ORs in make no difference to a read. -/
theorem sameReads_orFF (h : s.SameReads u) (c : Nat) (f : FF) (n : Nat) :
    s.SameReads (({ u with fresh := n } : State).upd c fun k => k.orFF f) := by
  have hfresh : u.Steady { u with fresh := n } := .of_fields rfl rfl rfl rfl rfl rfl
  have hup := hfresh.trans (.upd { u with fresh := n } c fun k => k.steady_orFF f)
  exact ⟨⟨h.pages, h.groups, fun pa => (hup.homeUp pa).trans (h.homeUp pa)⟩, h.mem, h.poison⟩

section
variable {x : TileXfer} {sh : TShape} {ctr : Word} {key : Option Word} (hk : w.kind = .tst x sh ctr key)
include hk

/-- A store whose writes pass. -/
theorem runMover_tst (hown : u.preempted w.core w.group = false) (hfar : w.isFar = false) : ∃ f : FF, ∀ v,
    writeWork w .none (u.tstPuts w).1 (({ u with fresh := u.fresh + 2 ^ 20 } : State).upd w.core fun k => k.orFF f) = (v, none) →
      runMover w u = v.setWork { w with stage := .applied [] } := by
  have hsample : sampleWork w u = u := by simp [sampleWork, hfar]
  have hfile : w.kind.isFile = false := by rw [hk]; rfl
  have howner (f : Core → Core) : ({ u with fresh := u.fresh + 2 ^ 20 } : State).updOwner w.core w.group f =
      ({ u with fresh := u.fresh + 2 ^ 20 } : State).upd w.core f := by
    unfold State.updOwner
    rw [show ({ u with fresh := u.fresh + 2 ^ 20 } : State).preempted w.core w.group = false from hown]
    rfl
  refine ⟨(u.tstPuts w).2, fun v hv => ?_⟩
  rw [runMover, hfile, if_neg Bool.false_ne_true, applyWork, hsample, hk]
  simp only [HomeErrs.none, howner]
  rw [show (⟨[], .clean⟩ : HomeErrs) = .none from rfl, hv]

/-- The rows that a plain store writes, each at the address of its run. -/
theorem tstPuts_eq (hown : u.preempted w.core w.group = false) (hraw : x.raw = false) (hf : sh.fmt = x.mfmt) (hne : x.mfmt ≠ 10)
    (hfit : sh.Fits x.tile.toNat) (htr : x.tr = false) (hsr : x.sr = false) (hruns : w.runs.length = sh.rows) :
    (u.tstPuts w).1 = w.runs.mapIdx fun r q =>
      (q.1, ((u.core w.core).tile x.tile.toNat).data.bytes (slotBytes x.tile.toNat * r) (sh.cols * fmtBits x.mfmt.toNat / 8)) := by
  have howner : u.owner w.core w.group = u.core w.core := by simp [State.owner, hown]
  unfold State.tstPuts
  rw [hk, howner]
  dsimp only
  rw [tstRows_eq hraw hf hne hfit htr hsr]
  exact zipWith_rows hruns

/-- A plain store by rows ends with its rows in memory, a later one over an earlier. -/
theorem tst_writes (h : s.MoverReady w) (hraw : x.raw = false) (hf : sh.fmt = x.mfmt) (hne : x.mfmt ≠ 10)
    (hfit : sh.Fits x.tile.toNat) (htr : x.tr = false) (hsr : x.sr = false) (hseen : w.seen = []) (hruns : w.runs.length = sh.rows)
    {n : Nat} (hn : sh.cols * fmtBits x.mfmt.toNat / 8 = n) (hpos : 0 < n) {pa : Nat → Nat}
    (hpa : ∀ (r : Nat) (q : Word × Nat), w.runs[r]? = some q → q.1.toNat % 0x10000 + n ≤ 0x10000 ∧
      s.translate w.part w.priv false true q.1.toNat = .ok (pa r) ∧ s.Readable (pa r) n) :
    ∃ t, exec (.tileMoverComplete w.id .clean) s = .next t ∧ s.MoverDone t w ∧ (t.core w.core).tiles = (s.core w.core).tiles ∧
      ∀ y, t.mem.get y = ((List.range sh.rows).reverse.find? fun r => decide (pa r ≤ y ∧ y < pa r + n)).elim (s.mem.get y)
        fun r => ((s.core w.core).tile x.tile.toNat).data.get (slotBytes x.tile.toNat * r + (y - pa r)) := by
  have hc : w.core < 160 := by have := h.quiet.core; omega
  have hfar : w.isFar = false := Work.mover_isFar h.mover h.tags
  obtain ⟨v, t, ⟨hpassed, hvmem⟩, hexec, hworks, hcore, -, hmem, -⟩ := exec_tileMoverComplete_ends h .clean
    (F := fun k => k.lower w.cc none) (P := fun v => (s.core w.core).Passed (v.core w.core) ∧ ∀ y, v.mem.get y =
      (s.mem.putRows ((s.core w.core).tile x.tile.toNat).data sh.rows n (slotBytes x.tile.toNat) pa).get y)
    (fun v hv => (Core.lower_wait ..).trans (hv.1.wait.trans h.wait)) fun u hu => by
      have hown : u.preempted w.core w.group = false := (hu.preempted _).trans h.own
      obtain ⟨f, hrun⟩ := runMover_tst hk hown hfar
      let u' : State := ({ u with fresh := u.fresh + 2 ^ 20 } : State).upd w.core fun k => k.orFF f
      have hreads : s.SameReads u' := sameReads_orFF hu.reads w.core f _
      have hputs := tstPuts_eq hk hown hraw hf hne hfit htr hsr hruns
      rw [hu.own.tile, hn] at hputs
      obtain ⟨v, hwrite, hwrote, hvmem⟩ := writeWork_sound (s := u') (w := w) (pa := s.storePa w) (puts := (u.tstPuts w).1) hseen
        fun q hq => by
          rw [hputs] at hq
          obtain ⟨r, hr, rfl⟩ := List.mem_mapIdx.1 hq
          obtain ⟨hpage, htr, hread⟩ := hpa r _ (List.getElem?_eq_getElem hr)
          rw [Mem.bytes_length, State.storePa_eq htr]
          exact ⟨hpos, hpage, (hreads.translate ..).trans htr, hreads.readable hread⟩
      have hvown : v.core w.core = (u.core w.core).orFF f := hwrote.own.trans (State.core_upd_self _ _ hc)
      have hvpre : v.preempted w.core w.group = false :=
        (State.preempted_congr (s := u) (by rw [hvown]; rfl) hwrote.saved _).trans hown
      obtain ⟨hx, hv, htiles, hcnt, hwait, hidn⟩ := hu.own
      refine ⟨v, ⟨by rw [hvown]; exact ⟨hx, hv, htiles, hcnt, hwait, hidn⟩, fun y => ?_⟩, ?_⟩
      · rw [hvmem, hputs, State.storePa_rows hruns _ fun r q hq => (hpa r q hq).2.1, hreads.mem, Mem.putRows]
      · refine (moverEnded_of_met (err := .clean) (v := { w with stage := .applied [] }) ((hwrote.works.trans hu.works).trans h.only.only) rfl
          (hrun v hwrite)).trans ?_
        refine completeWork_applied (v := { w with stage := .applied [] }) (D := id) hc h.cc hvpre rfl hfar (fun t _ => ?_) rfl
        simp [deliver, hk, State.upd_same]
  obtain ⟨hx, hv, htiles, hcnt, -, -⟩ := hpassed
  refine ⟨t, hexec, .of_lower h.cc hworks hcore hcnt hx hv, by rw [hcore, Core.lower_tiles, htiles], fun y => ?_⟩
  rw [hmem, hvmem]
  exact Mem.get_putRows ..
end

end Sys2Proof.Machine
end

section
/-! The settling theorem of the tile transfers: the mover's ends, and the issue of TLD and TST. -/

namespace Sys2Proof.Machine

/-- Settles O31: the mover's end by the state that its work finds, what it delivers and where it writes; a transfer by its checks and the
work that it pushes. -/
theorem tileTransfers : Obligations.TileTransfers := by
  unfold Obligations.TileTransfers
  refine ⟨?_, ?_⟩
  · intro s w hq hwait honly hcc htags hown k done ends fits plain
    have ready (hm : w.isMover = true) (hfree : s.heldWork w = []) : s.MoverReady w := ⟨hq, hwait, honly, hcc, htags, hown, hm, hfree⟩
    have file (hfile : w.kind.isFile = true) : s.MoverReady w := ready (Work.isMover_of_file hfile) (State.heldWork_of_file hfile)
    have written {dst : Nat} {tl : Tile} {P : Tile → Prop} (hw : ∀ err, err ≠ .bad → s.MoverWrites w err dst tl) (hP : P tl) : ends dst P :=
      fun err herr => by
        obtain ⟨t, hexec, hdone, htile, hrest, hlog, hbeside⟩ := hw err herr
        exact ⟨t, hexec, hdone, by rw [htile]; exact hP, hrest, by cases err <;> exact hlog, hbeside⟩
    clear_value ends
    have load {x : TileXfer} {sh : TShape} {bs : List Byte} (hk : w.kind = .tld x sh) (hread : (readWork w .none false s).2 = .ok bs)
        {P : Tile → Prop} (hP : P (tldTile x sh bs (k.tile x.tile.toNat)).1) : ends x.tile.toNat P :=
      written (fun _ herr => tld_writes (ready (by simp [Work.isMover, Work.isXfer, hk, htags])
        (State.heldWork_of_not_write (by simp [Work.isWrite, hk]) (by simp [hk]))) herr hk hread) hP
    refine ⟨fun dst sh hk hfit => ?_, fun dst src sh hk hfit => ?_, fun dst src ovf dsh ssh hk => ?_, fun x sh bs hk hread => ⟨?_, ?_⟩,
      fun x sh ctr key pa hk hplain htr hsr hfree hseen hruns => ?_, fun a ha => ?_⟩
    · refine written (fun _ herr => tzero_writes (file (by rw [hk]; rfl)) herr hk) ?_
      exact fun r hr => tzeroTile_codes ⟨hfit.1, hfit.2⟩ _ hr
    · refine written (fun _ herr => tmov_writes (file (by rw [hk]; rfl)) herr hk) ?_
      exact fun r hr => tmovTile_row ⟨hfit.1, hfit.2⟩ _ _ _ hr
    · refine written (fun _ herr => tmov_writes (file (by rw [hk]; rfl)) herr hk) ?_
      rfl
    · refine load hk hread ?_
      rfl
    · rintro bits cols ⟨hraw, hf, hne, hmost, hmult⟩ -
      refine load hk hread ?_
      exact fun r j hr hj => tldTile_code hraw hf hne ⟨hmost, hmult⟩ bs _ hr hj
    · intro n hpa hpos
      obtain ⟨hraw, hf, hne, hmost, hmult⟩ := hplain
      obtain ⟨t, hexec, hdone, htiles, hmem⟩ := tst_writes hk (ready (by simp [Work.isMover, Work.isXfer, hk, htags]) hfree) hraw hf hne
        ⟨hmost, hmult⟩ htr hsr hseen hruns rfl hpos fun r q hq => (hpa r q hq).2
      refine ⟨t, hexec, hdone, htiles, fun y => (hmem y).trans ?_⟩
      cases (List.range sh.rows).reverse.find? fun r => decide (pa r ≤ y ∧ y < pa r + n) <;> rfl
    · have fails (hm : s.MoverReady w) (hk : ∀ x sh, w.kind ≠ .tld x sh) (haddr : w.moverAddr = a) := haddr ▸ mover_fails hm hk
      rcases ha with ⟨dst, src, cvt, ovf, dsh, ssh, hk, rfl⟩ | ⟨dst, dsh, hk, rfl⟩ | ⟨x, sh, ctr, key, hk, hfree, rfl⟩
      · exact fails (file (by rw [hk]; rfl)) (by simp [hk]) (by simp [Work.moverAddr, Work.moverTile, WorkKind.isFile, hk])
      · exact fails (file (by rw [hk]; rfl)) (by simp [hk]) (by simp [Work.moverAddr, Work.moverTile, WorkKind.isFile, hk])
      · exact fails (ready (by simp [Work.isMover, Work.isXfer, hk, htags]) hfree) (by simp [hk]) (by simp [Work.moverAddr, WorkKind.isFile, hk])
  · intro s c x h hh k sh f mr mc rb sum aligned row fields shaped addressed right block runs enters bad hcc
    have hrow (i : Nat) : xferRow k x sh i = row i := by
      cases hcar : x.car
      · rw [xferRow_pitch hcar]
        exact (if_neg (by simp [hcar])).symm
      · rw [xferRow_car hcar]
        exact (if_pos hcar).symm
    have hruns : xferRuns k x sh = runs := by
      rw [xferRuns_eq, rawBytes_eq]
      simp only [hrow]
      rfl
    have haddr (ha : addressed) : XferAddressed k x sh := by
      unfold XferAddressed
      simp only [hrow]
      exact ha
    have hright {src tgt : BitVec 4} (hr : right src tgt) :
        if x.raw then (k.rx x.rs1).toNat % 64 = 0 else XferShaped x sh src tgt ∧ XferAddressed k x sh := by
      have hr' : if x.raw then (k.rx x.rs1).toNat % 64 = 0 else shaped src tgt ∧ addressed := hr
      split_ifs at hr' ⊢ with hraw
      · exact hr'
      · exact ⟨hr'.1, haddr hr'.2⟩
    have faults {n : Nat} {i : Instr} {store : Bool} {src tgt : BitVec 4} (hsrc : src = if store then sh.fmt else x.mfmt)
        (htgt : tgt = if store then x.mfmt else sh.fmt) (htrap : ∀ y, xferFault c (encXfer n x) x store s = some y → bad i y) :
        (¬ fields store → bad i { cause := 1, edata0 := (encXfer n x).data }) ∧
        (x.raw = true → fields store → (k.rx x.rs1).toNat % 64 ≠ 0 → bad i { cause := 2, edata0 := k.rx x.rs1, edata1 := k.flow.pc }) ∧
        (x.raw = false → x.car = false → fields store → shaped src tgt → ¬ aligned (k.rx x.rs1) →
          bad i { cause := 2, edata0 := k.rx x.rs1, edata1 := k.flow.pc }) ∧
        (x.raw = false → fields store → sh.cfg = false → bad i (tileShape (encXfer n x) 1 0 (s.tshape c x.tile.toNat))) := by
      refine ⟨fun hl => htrap _ (xferFault_illegal hcc rfl hl), fun hraw hl ha => htrap _ ?_, fun hraw hcar hl hs ha => htrap _ ?_,
        fun hraw hl hcfg => htrap _ (xferFault_unconfigured hcc rfl hl hraw hcfg)⟩
      · exact (xferFault_raw hcc rfl hl hraw).trans ((xferAddr_raw hraw).trans (if_pos ha))
      · exact (xferFault_shaped hcc rfl hsrc htgt hl hs).trans (xferAddr_base hraw hcar ha)
    refine ⟨fun hl hr => ?_, fun hl hr => ?_, ?_⟩
    · obtain ⟨t, w, hexec, hent, hkind, hw, hputs, hpend⟩ := exec_tld_enters h hh (xferFault_none hcc rfl rfl rfl hl (hright hr)) rfl
      exact ⟨t, w, hexec, hent, hkind, hw.trans hruns, hputs, hpend⟩
    · obtain ⟨t, w, hexec, hent, hkind, hw, hputs, hpend⟩ := exec_tst_enters h hh (xferFault_none hcc rfl rfl rfl hl (hright hr)) rfl
      exact ⟨t, w, hexec, hent, hkind, hw.trans hruns, hputs, hpend⟩
    · simp only [List.forall_mem_cons]
      exact ⟨faults rfl rfl fun _ => exec_tld_traps h hh, faults rfl rfl fun _ => exec_tst_traps h hh, by simp⟩

end Sys2Proof.Machine
end
